-- ==== Sys2Proof/Word.lean ====
section
/-! DEFINITION. The word types of the machine and the plainest arithmetic on them. -/

namespace Sys2Proof

/-- A 64-bit register value (R211, R286). -/
abbrev Word := BitVec 64

/-- The unit of memory (R127). -/
abbrev Byte := BitVec 8

end Sys2Proof
end

