-- ==== Sys2Proof/Machine/Float.lean ====
section
/-! DEFINITION. Number formats and exact arithmetic (R220 to R229, R234): an operand is read as
a NaN, an infinity or an exact dyadic number; an operation is exact; `roundFP` is the one
rounding. Flags are a 7-bit set in FPFLG's order (R225). -/

namespace Sys2Proof.Machine

/-- A set of flags: bit 0 NV, 1 DZ, 2 OF, 3 UF, 4 NX, 5 SAT, 6 PD (R225). -/
abbrev Flags := BitVec 7

def flNV : Flags := 1
def flDZ : Flags := 2
def flOF : Flags := 4
def flUF : Flags := 8
def flNX : Flags := 16
def flSAT : Flags := 32
def flPD : Flags := 64

/-- Rounding modes (R225). -/
inductive RoundMode | rne | rtz | rdn | rup | rmm
  deriving DecidableEq, Repr

/-- The mode of a code of FPCTL.RM; codes 5 to 7 are never stored. -/
def RoundMode.ofCode (n : Nat) : RoundMode :=
  if n = 1 then .rtz else if n = 2 then .rdn else if n = 3 then .rup else if n = 4 then .rmm else .rne

/-- A binary floating-point format (R221). `ieee = false` is E4M3: no infinity, one NaN. -/
structure FpFormat where
  ebits : Nat
  fbits : Nat
  bias : Nat
  ieee : Bool
  deriving DecidableEq, Repr

def fmtD : FpFormat := ⟨11, 52, 1023, true⟩
def fmtS : FpFormat := ⟨8, 23, 127, true⟩
def fmtH : FpFormat := ⟨5, 10, 15, true⟩
def fmtBF : FpFormat := ⟨8, 7, 127, true⟩
def fmtE4 : FpFormat := ⟨4, 3, 7, false⟩
def fmtE5 : FpFormat := ⟨5, 2, 15, true⟩

/-- The floating-point format of a code 0 to 5 (R220). -/
def fmtOfCode (c : Nat) : FpFormat :=
  if c = 0 then fmtD else if c = 1 then fmtS else if c = 2 then fmtH
  else if c = 3 then fmtBF else if c = 4 then fmtE4 else fmtE5

/-- Width in bits. -/
def FpFormat.width (f : FpFormat) : Nat := f.ebits + f.fbits + 1

/-- An operand: a NaN with its sign, kind and payload of `pw` bits; an infinity; or the exact
number (-1)^neg * m * 2^e. -/
inductive FVal
  | nan (neg quiet : Bool) (payload pw : Nat)
  | inf (neg : Bool)
  | fin (neg : Bool) (m : Nat) (e : Int)
  deriving DecidableEq, Repr

/-- The value of an encoding (R221). -/
def FpFormat.decode (f : FpFormat) (x : Nat) : FVal :=
  let neg := decide (x / 2 ^ (f.ebits + f.fbits) % 2 = 1)
  let ex := x / 2 ^ f.fbits % 2 ^ f.ebits
  let fr := x % 2 ^ f.fbits
  if f.ieee ∧ ex = 2 ^ f.ebits - 1 then
    if fr = 0 then .inf neg
    else .nan neg (decide (2 ^ (f.fbits - 1) ≤ fr)) (fr % 2 ^ (f.fbits - 1)) (f.fbits - 1)
  else if !f.ieee ∧ ex = 2 ^ f.ebits - 1 ∧ fr = 2 ^ f.fbits - 1 then .nan neg true (2 ^ (f.fbits - 1) - 1) (f.fbits - 1)
  else if ex = 0 then .fin neg fr (1 - (f.bias : Int) - f.fbits)
  else .fin neg (2 ^ f.fbits + fr) ((ex : Int) - f.bias - f.fbits)

/-- The sign bit in place. -/
def FpFormat.signBit (f : FpFormat) (neg : Bool) : Nat := if neg then 2 ^ (f.ebits + f.fbits) else 0

/-- The canonical NaN (R221). DEDUCED (log 51). -/
def FpFormat.canonicalNan (f : FpFormat) : Nat :=
  if f.ieee then (2 ^ f.ebits - 1) * 2 ^ f.fbits + 2 ^ (f.fbits - 1) else 2 ^ (f.ebits + f.fbits) - 1

/-- The encoding of an infinity; E4M3 has none and is never asked. -/
def FpFormat.infinity (f : FpFormat) (neg : Bool) : Nat := f.signBit neg + (2 ^ f.ebits - 1) * 2 ^ f.fbits

/-- The encoding of the largest finite number (R221). -/
def FpFormat.maxFinite (f : FpFormat) (neg : Bool) : Nat :=
  f.signBit neg + (if f.ieee then (2 ^ f.ebits - 1) * 2 ^ f.fbits - 1 else 2 ^ (f.ebits + f.fbits) - 2)

/-- A quiet NaN with the sign and the most significant payload bits that fit (R222). A kept
payload of zero after narrowing gives the canonical NaN. -/
def FpFormat.quietNan (f : FpFormat) (neg : Bool) (payload pw : Nat) : Nat :=
  if !f.ieee then f.canonicalNan
  else
    let pw' := f.fbits - 1
    if pw ≤ pw' then f.signBit neg + f.canonicalNan + payload * 2 ^ (pw' - pw)
    else
      let kept := payload / 2 ^ (pw - pw')
      if kept = 0 then f.canonicalNan else f.signBit neg + f.canonicalNan + kept

/-- Whether a discarded part rounds the magnitude up: `half` compares it with one half (-1, 0,
1), `any` says it is not zero. -/
def roundsUp (rm : RoundMode) (neg odd : Bool) (half : Int) (any : Bool) : Bool :=
  match rm with
  | .rne => decide (half > 0) || (decide (half = 0) && odd)
  | .rtz => false
  | .rdn => neg && any
  | .rup => !neg && any
  | .rmm => decide (half ≥ 0) && any

/-- The integer nearest m * 2^(-sh) (magnitude), with `sticky` for a nonzero part below `m`; and
whether it is inexact. -/
def roundMag (rm : RoundMode) (neg : Bool) (m sh : Nat) (sticky : Bool) : Nat × Bool :=
  let q := m / 2 ^ sh
  let r := m % 2 ^ sh
  let any := decide (r ≠ 0) || sticky
  let half : Int :=
    if sh = 0 then -1
    else if 2 * r < 2 ^ sh then -1
    else if 2 * r = 2 ^ sh ∧ !sticky then 0 else 1
  (if roundsUp rm neg (decide (q % 2 = 1)) half any then q + 1 else q, any)

/-- Number of significant bits. -/
def bitLen (m : Nat) : Nat := if m = 0 then 0 else Nat.log2 m + 1

/-- The encoding of the nonzero number m * 2^e (`sticky`: a little more) in an IEEE format,
with overflow and underflow (R225, R228). `m` has at least `fbits + 3` bits when `sticky`. -/
def FpFormat.roundFinite (f : FpFormat) (rm : RoundMode) (neg : Bool) (m : Nat) (e : Int) (sticky : Bool) :
    Nat × Flags :=
  let top : Int := e + (bitLen m : Int) - 1
  let emin : Int := 1 - (f.bias : Int)
  let lsb : Int := max top emin - f.fbits
  let (k, nx) := if lsb ≤ e then (m * 2 ^ (e - lsb).toNat, sticky) else roundMag rm neg m (lsb - e).toNat sticky
  -- tiny after rounding, with the exponent unbounded
  let tiny :=
    if top ≥ emin then false
    else
      let l2 : Int := top - f.fbits
      let k2 := if l2 ≤ e then m * 2 ^ (e - l2).toNat else (roundMag rm neg m (l2 - e).toNat sticky).1
      decide (k2 < 2 ^ (f.fbits + 1)) || decide (top + 1 < emin)
  let fl : Flags := (if nx then flNX else 0) ||| (if tiny && nx then flUF else 0)
  -- the exponent field that gives bit `fbits` of k its weight
  let expo : Int := lsb + f.fbits + f.bias
  let enc : Nat := if k < 2 ^ f.fbits then k else k + ((expo - 1) * 2 ^ f.fbits).toNat
  let limit : Nat := if f.ieee then (2 ^ f.ebits - 1) * 2 ^ f.fbits else 2 ^ (f.ebits + f.fbits) - 1
  if enc < limit then (f.signBit neg + enc, fl)
  else if !f.ieee then (f.maxFinite neg, flSAT ||| flNX)
  else
    let toInf := match rm with
      | .rne => true | .rmm => true | .rtz => false | .rdn => neg | .rup => !neg
    (if toInf then f.infinity neg else f.maxFinite neg, flOF ||| flNX)

/-- RoundFP of an exact value (R234): a number, an infinity or a NaN operand. A signalling NaN
raises NV (R222); E4M3 saturates infinities (R228). -/
def FpFormat.roundFP (f : FpFormat) (rm : RoundMode) (v : FVal) : Nat × Flags :=
  match v with
  | .nan neg q p pw => (f.quietNan neg p pw, if q then 0 else flNV)
  | .inf neg => if f.ieee then (f.infinity neg, 0) else (f.maxFinite neg, flSAT)
  | .fin neg m e => if m = 0 then (f.signBit neg, 0) else f.roundFinite rm neg m e false

/-- R228: a narrowing conversion, with FPCTL.SATN for E5M2. -/
def FpFormat.narrow (f : FpFormat) (rm : RoundMode) (satn : Bool) (v : FVal) : Nat × Flags :=
  let (x, fl) := f.roundFP rm v
  if f = fmtE5 ∧ satn ∧ fl &&& flOF ≠ 0 then
    (f.maxFinite (match v with | .fin neg _ _ => neg | .inf neg => neg | .nan neg _ _ _ => neg), flSAT ||| flNX)
  else (x, fl)

/-- Sign, NaN and kind tests. -/
def FVal.isNan : FVal → Bool
  | .nan _ _ _ _ => true | _ => false
def FVal.isSNan : FVal → Bool
  | .nan _ q _ _ => !q | _ => false
def FVal.isInf : FVal → Bool
  | .inf _ => true | _ => false
def FVal.isZero : FVal → Bool
  | .fin _ m _ => decide (m = 0) | _ => false
def FVal.neg? : FVal → Bool
  | .nan n _ _ _ => n | .inf n => n | .fin n _ _ => n
def FVal.negate : FVal → FVal
  | .nan n q p w => .nan n q p w | .inf n => .inf (!n) | .fin n m e => .fin (!n) m e

/-- The NaN result of an operation with a NaN operand (R222): the first NaN, quieted. -/
def FpFormat.nanResult (f : FpFormat) (ops : List FVal) : Nat × Flags :=
  let fl : Flags := if ops.any FVal.isSNan then flNV else 0
  match ops.find? FVal.isNan with
  | some (.nan n _ p w) => (f.quietNan n p w, fl)
  | _ => (f.canonicalNan, fl)

/-- Signed mantissa. -/
def signedM (neg : Bool) (m : Nat) : Int := if neg then -(m : Int) else m

/-- The exact sum of two dyadic numbers as a signed mantissa and an exponent. -/
def dyAdd (a : Int) (ea : Int) (b : Int) (eb : Int) : Int × Int :=
  if ea ≤ eb then (a + b * 2 ^ (eb - ea).toNat, ea) else (a * 2 ^ (ea - eb).toNat + b, eb)

/-- An exact sum rounded; an exact zero takes the sign of equal-signed zeros, else +0, or -0
under RDN (R222). -/
def FpFormat.roundSum (f : FpFormat) (rm : RoundMode) (bothNeg : Bool) (m : Int) (e : Int) : Nat × Flags :=
  if m = 0 then (f.signBit (bothNeg || false), 0)
  else f.roundFP rm (.fin (decide (m < 0)) m.natAbs e)

/-- Sum of two values, each finite or infinite; a NaN list is handled before. -/
def FpFormat.sum (f : FpFormat) (rm : RoundMode) (a b : FVal) : Nat × Flags :=
  match a, b with
  | .inf na, .inf nb => if na = nb then (f.infinity na, 0) else (f.canonicalNan, flNV)
  | .inf na, _ => (f.infinity na, 0)
  | _, .inf nb => (f.infinity nb, 0)
  | .fin na ma ea, .fin nb mb eb =>
    let (m, e) := dyAdd (signedM na ma) ea (signedM nb mb) eb
    let zneg := if ma = 0 ∧ mb = 0 then (if na = nb then na else decide (rm = .rdn)) else decide (rm = .rdn)
    f.roundSum rm zneg m e
  | _, _ => (f.canonicalNan, 0)

/-- a + b (R297). -/
def FpFormat.add (f : FpFormat) (rm : RoundMode) (x y : Nat) : Nat × Flags :=
  let a := f.decode x; let b := f.decode y
  if a.isNan || b.isNan then f.nanResult [a, b] else f.sum rm a b

/-- a - b (R297). -/
def FpFormat.sub (f : FpFormat) (rm : RoundMode) (x y : Nat) : Nat × Flags :=
  let a := f.decode x; let b := f.decode y
  if a.isNan || b.isNan then f.nanResult [a, b] else f.sum rm a b.negate

/-- The exact product of two values that are not NaN; `none` for infinity times zero. -/
def FVal.mul : FVal → FVal → Option FVal
  | .fin na ma ea, .fin nb mb eb => some (.fin (na != nb) (ma * mb) (ea + eb))
  | a, b => if a.isZero || b.isZero then none else some (.inf (a.neg? != b.neg?))

/-- a x b (R297). -/
def FpFormat.mul (f : FpFormat) (rm : RoundMode) (x y : Nat) : Nat × Flags :=
  let a := f.decode x; let b := f.decode y
  if a.isNan || b.isNan then f.nanResult [a, b]
  else match a.mul b with
    | none => (f.canonicalNan, flNV)
    | some p => f.roundFP rm p

/-- a / b (R297). -/
def FpFormat.div (f : FpFormat) (rm : RoundMode) (x y : Nat) : Nat × Flags :=
  let a := f.decode x; let b := f.decode y
  if a.isNan || b.isNan then f.nanResult [a, b]
  else
    let neg := a.neg? != b.neg?
    match a, b with
    | .inf _, .inf _ => (f.canonicalNan, flNV)
    | .inf _, _ => (f.infinity neg, 0)
    | _, .inf _ => (f.signBit neg, 0)
    | .fin _ ma ea, .fin _ mb eb =>
      if mb = 0 then (if ma = 0 then (f.canonicalNan, flNV) else (f.infinity neg, flDZ))
      else if ma = 0 then (f.signBit neg, 0)
      else
        let sh := f.fbits + 4 + bitLen mb
        let n := ma * 2 ^ sh
        f.roundFinite rm neg (n / mb) (ea - eb - sh) (decide (n % mb ≠ 0))
    | _, _ => (f.canonicalNan, 0)

/-- Integer square root by bits, most significant first. -/
def isqrtAux (n : Nat) : Nat → Nat → Nat
  | 0, r => r
  | k + 1, r => if (r + 2 ^ k) * (r + 2 ^ k) ≤ n then isqrtAux n k (r + 2 ^ k) else isqrtAux n k r

/-- floor(sqrt n). -/
def isqrt (n : Nat) : Nat := isqrtAux n (bitLen n / 2 + 1) 0

/-- sqrt a (R297): sqrt(-0) = -0, a negative number gives NV. -/
def FpFormat.sqrt (f : FpFormat) (rm : RoundMode) (x : Nat) : Nat × Flags :=
  let a := f.decode x
  match a with
  | .nan _ _ _ _ => f.nanResult [a]
  | .inf neg => if neg then (f.canonicalNan, flNV) else (f.infinity false, 0)
  | .fin neg m e =>
    if m = 0 then (f.signBit neg, 0)
    else if neg then (f.canonicalNan, flNV)
    else
      let odd := decide (e % 2 ≠ 0)
      let m1 := if odd then m * 2 else m
      let e1 := if odd then e - 1 else e
      let sh := 2 * (f.fbits + 4)
      let n := m1 * 2 ^ sh
      let r := isqrt n
      f.roundFinite rm false r (e1 / 2 - (f.fbits + 4 : Nat)) (decide (r * r ≠ n))

/-- A product plus an addend, once rounded (R299): `np` negates the product and `nc` the addend. -/
def FpFormat.fmaWith (f : FpFormat) (rm : RoundMode) (np nc : Bool) (a b c : FVal) : Nat × Flags :=
  let prod? := if a.isNan || b.isNan then some (FVal.fin false 0 0) else a.mul b
  match prod? with
  | none =>
    -- infinity times zero: NV, and the first NaN or the canonical NaN
    let (r, _) := f.nanResult [a, b, c]
    (r, flNV)
  | some p =>
    if a.isNan || b.isNan || c.isNan then f.nanResult [a, b, c]
    else f.sum rm (if np then p.negate else p) (if nc then c.negate else c)

/-- The fused forms in one format. -/
def FpFormat.fma (f : FpFormat) (rm : RoundMode) (np nc : Bool) (x y z : Nat) : Nat × Flags :=
  f.fmaWith rm np nc (f.decode x) (f.decode y) (f.decode z)

/-- Comparison of two numbers that are not NaN: -1, 0 or 1. -/
def FVal.cmp (a b : FVal) : Int :=
  match a, b with
  | .inf na, .inf nb => if na = nb then 0 else if na then -1 else 1
  | .inf na, _ => if na then -1 else 1
  | _, .inf nb => if nb then 1 else -1
  | .fin na ma ea, .fin nb mb eb =>
    let (d, _) := dyAdd (signedM na ma) ea (-(signedM nb mb)) eb
    if d < 0 then -1 else if d > 0 then 1 else 0
  | _, _ => 0

/-- minimumNumber and maximumNumber (R297): -0 is below +0. -/
def FpFormat.minMax (f : FpFormat) (wantMax : Bool) (x y : Nat) : Nat × Flags :=
  let a := f.decode x; let b := f.decode y
  let fl : Flags := if a.isSNan || b.isSNan then flNV else 0
  if a.isNan && b.isNan then f.nanResult [a, b]
  else if a.isNan then (y % 2 ^ f.width, fl)
  else if b.isNan then (x % 2 ^ f.width, fl)
  else
    let c := a.cmp b
    let aLess := decide (c < 0) || (decide (c = 0) && a.neg? && !b.neg?)
    ((if aLess != wantMax then x else y) % 2 ^ f.width, fl)

/-- The relation of a to b, one-hot (R300); `sig` is the signalling form. -/
def FpFormat.relation (f : FpFormat) (sig : Bool) (x y : Nat) : Nat × Flags :=
  let a := f.decode x; let b := f.decode y
  if a.isNan || b.isNan then (8, if sig || a.isSNan || b.isSNan then flNV else 0)
  else
    let c := a.cmp b
    (if c < 0 then 1 else if c = 0 then 2 else 4, 0)

/-- The class code of a (R300). -/
def FpFormat.classify (f : FpFormat) (x : Nat) : Nat :=
  let a := f.decode x
  let c := match a with
    | .nan _ q _ _ => if q then 4 else 5
    | .inf _ => 3
    | .fin _ m _ => if m = 0 then 0 else if m < 2 ^ f.fbits then 1 else 2
  c + (if a.neg? then 8 else 0)

/-- Sign operations on the encoding (R297): copySign, negate, abs, xor of signs. -/
def FpFormat.withSign (f : FpFormat) (x : Nat) (neg : Bool) : Nat :=
  f.signBit neg + x % 2 ^ (f.ebits + f.fbits)
def FpFormat.signOf (f : FpFormat) (x : Nat) : Bool := decide (x / 2 ^ (f.ebits + f.fbits) % 2 = 1)

/-- RoundInt of an exact number under a mode (R234), with inexactness. -/
def roundIntOf (rm : RoundMode) (neg : Bool) (m : Nat) (e : Int) : Int × Bool :=
  let (k, nx) := if 0 ≤ e then (m * 2 ^ e.toNat, false) else roundMag rm neg m (-e).toNat false
  (signedM neg k, nx)

/-- Conversion to an integer range (R228): out of range, infinities and NaN raise NV. -/
def toIntRange (rm : RoundMode) (lo hi : Int) (v : FVal) : Int × Flags :=
  match v with
  | .nan _ _ _ _ => (0, flNV)
  | .inf neg => (if neg then lo else hi, flNV)
  | .fin neg m e =>
    let (k, nx) := roundIntOf rm neg m e
    if k < lo then (lo, flNV) else if hi < k then (hi, flNV) else (k, if nx then flNX else 0)

/-- An integer as an exact value. -/
def fvalOfInt (k : Int) : FVal := .fin (decide (k < 0)) k.natAbs 0

/-! ### Comb blocks (R224, R229) -/

/-- floor(log2 |x|) of a nonzero number m * 2^e. -/
def expOf (m : Nat) (e : Int) : Int := (bitLen m : Int) - 1 + e

/-- A comb block: shared exponent, eight sub-exponents, 32 signs and magnitudes. -/
structure CombBlock where
  e : Nat
  q : List Nat
  s : List Bool
  mag : List Nat
  deriving DecidableEq, Repr

/-- Exponent of a value of a list that is known finite. -/
def fvExp : FVal → Option Int
  | .fin _ m e => if m = 0 then none else some (expOf m e)
  | _ => none

/-- The largest exponent of a list of values; `none` when all are zero. -/
def maxExp (xs : List FVal) : Option Int :=
  xs.foldl (fun acc x => match acc, fvExp x with
    | some a, some b => some (max a b) | none, b => b | a, none => a) none

/-- Magnitudes of one quad under shared exponent `ee` and sub-exponent `q` (R229). -/
def quadMags (rm : RoundMode) (mw ee q : Nat) (xs : List FVal) : List Nat :=
  xs.map fun x => match x with
    | .fin n m e => (roundIntOf rm n m (e + (mw : Int) - 1 - ee + 127 + q)).1.natAbs
    | _ => 0

/-- One quad: its sub-exponent, lowered while a magnitude carries, and its magnitudes. -/
def quadOf (rm : RoundMode) (mw ee : Nat) (xs : List FVal) : Nat × List Nat :=
  let q0 : Nat := match maxExp xs with
    | none => 0
    | some x => (max 0 (min 3 ((ee : Int) - 127 - x))).toNat
  let go := fun (q : Nat) => quadMags rm mw ee q xs
  (List.range 4).foldl (fun (st : Nat × List Nat) _ =>
    if st.2.any (fun v => decide (2 ^ mw ≤ v)) && decide (0 < st.1) then (st.1 - 1, go (st.1 - 1)) else st) (q0, go q0)

/-- The eight quads of a block. -/
def quadsOf (rm : RoundMode) (mw ee : Nat) (xs : List FVal) : List (Nat × List Nat) :=
  (List.range 8).map fun j => quadOf rm mw ee ((xs.drop (4 * j)).take 4)

/-- The exact value of a block element (R224). -/
def combValue (mw e q : Nat) (neg : Bool) (mag : Nat) : FVal :=
  .fin neg mag ((e : Int) - 127 - q - ((mw : Int) - 1))

/-- Conversion of 32 values to a comb block (R229). -/
def toCB (rm : RoundMode) (mw : Nat) (xs : List FVal) : CombBlock × Flags :=
  let sg := xs.map FVal.neg?
  if xs.any (fun x => x.isNan || x.isInf) then
    (⟨0xFF, List.replicate 8 0, sg, List.replicate 32 0⟩, flNV)
  else match maxExp xs with
    | none => (⟨0, List.replicate 8 0, sg, List.replicate 32 0⟩, 0)
    | some x =>
      let e0 := (max 0 (min 254 (x + 127))).toNat
      let qs0 := quadsOf rm mw e0 xs
      let carry := qs0.any fun p => p.2.any fun v => decide (2 ^ mw ≤ v)
      let ee := if carry && decide (e0 ≠ 254) then e0 + 1 else e0
      let qs := if ee = e0 then qs0 else quadsOf rm mw ee xs
      let mags := qs.flatMap (·.2)
      let sat := mags.any fun v => decide (2 ^ mw ≤ v)
      let mags' := mags.map fun v => Nat.min v (2 ^ mw - 1)
      let qq := qs.map (·.1)
      let nx := (List.range 32).any fun i =>
        decide ((combValue mw ee (qq.getD (i / 4) 0) (sg.getD i false) (mags'.getD i 0)).cmp (xs.getD i (.fin false 0 0)) ≠ 0)
      (⟨ee, qq, sg, mags'⟩, (if sat then flSAT else 0) ||| (if nx then flNX else 0))

end Sys2Proof.Machine
end

