-- ==== Sys2Proof/Syntax.lean ====
section
/-! DEFINITION. The syntax of the machine: one constructor of `Instr` per row of the
opcode table. The first 324 rows are Formurel words (spec 10, R256 to R263); their fields
stand in the order of the table and carry the manual's meaning of each field. `hintNop`
and `illegalInstruction` are the two outcomes of R265 that no single word names. The other
rows are events of the part's own machinery (spec 95): a constructor's arguments name the
occurrence (which slot, cell, comb, frame, port or packet). -/

namespace Sys2Proof

/-- A 5-bit register field (R258). -/
abbrev Reg := BitVec 5

/-- Access widths of scalar loads, stores and ordered accesses (R262, R359). -/
inductive Width | b | h | w | d
  deriving DecidableEq, Repr

/-- Element width codes (R218). -/
inductive EW | e8 | e16 | e32 | e64
  deriving DecidableEq, Repr

/-- The scalar floating-point formats of `fmt2` (R296). -/
inductive Fmt | d | s
  deriving DecidableEq, Repr

/-- Rounding-mode fields (R225); `dyn` is code 7, FPCTL.RM. -/
inductive Rm | rne | rtz | rdn | rup | rmm | dyn
  deriving DecidableEq, Repr

/-- Scopes (R261). -/
inductive Scope | cell | comb | frame | module | system
  deriving DecidableEq, Repr

/-- Annotations of atomics (R261). -/
inductive Ann | relaxed | acquire | release | acqRel
  deriving DecidableEq, Repr

/-- One constructor per row of the opcode table. In the words, `s` is the switch marker (R256). -/
inductive Instr
  | add (s : Bool) (d a b : Reg)
  | sub (s : Bool) (d a b : Reg)
  | add32 (s : Bool) (d a b : Reg)
  | sub32 (s : Bool) (d a b : Reg)
  | and (s : Bool) (d a b : Reg)
  | or (s : Bool) (d a b : Reg)
  | xor (s : Bool) (d a b : Reg)
  | andn (s : Bool) (d a b : Reg)
  | sll (s : Bool) (d a b : Reg)
  | srl (s : Bool) (d a b : Reg)
  | sra (s : Bool) (d a b : Reg)
  | ror (s : Bool) (d a b : Reg)
  | min (s : Bool) (d a b : Reg)
  | max (s : Bool) (d a b : Reg)
  | minu (s : Bool) (d a b : Reg)
  | maxu (s : Bool) (d a b : Reg)
  | clz (s : Bool) (d a : Reg)
  | ctz (s : Bool) (d a : Reg)
  | popc (s : Bool) (d a : Reg)
  | byterev (s : Bool) (d a : Reg)
  | slt (s : Bool) (d a b : Reg)
  | sltu (s : Bool) (d a b : Reg)
  | seq (s : Bool) (d a b : Reg)
  | sne (s : Bool) (d a b : Reg)
  | cmovnz (s : Bool) (d a b : Reg)
  | cmovz (s : Bool) (d a b : Reg)
  | mul (s : Bool) (d a b : Reg)
  | mulhs (s : Bool) (d a b : Reg)
  | mulhu (s : Bool) (d a b : Reg)
  | mulhus (s : Bool) (d a b : Reg)
  | mul32 (s : Bool) (d a b : Reg)
  | muladd (s : Bool) (d a b : Reg)
  | mulsub (s : Bool) (d a b : Reg)
  | div (s : Bool) (d a b : Reg)
  | divu (s : Bool) (d a b : Reg)
  | rem (s : Bool) (d a b : Reg)
  | remu (s : Bool) (d a b : Reg)
  | addi (s : Bool) (d a : Reg) (i : BitVec 15)
  | andi (s : Bool) (d a : Reg) (i : BitVec 15)
  | ori (s : Bool) (d a : Reg) (i : BitVec 15)
  | xori (s : Bool) (d a : Reg) (i : BitVec 15)
  | slli (s : Bool) (d a : Reg) (n : BitVec 6)
  | srli (s : Bool) (d a : Reg) (n : BitVec 6)
  | srai (s : Bool) (d a : Reg) (n : BitVec 6)
  | rori (s : Bool) (d a : Reg) (n : BitVec 6)
  | slti (s : Bool) (d a : Reg) (i : BitVec 14)
  | sltiu (s : Bool) (d a : Reg) (i : BitVec 14)
  | lui (s : Bool) (d : Reg) (i : BitVec 20)
  | addpc (s : Bool) (d : Reg) (i : BitVec 20)
  | bfx (s : Bool) (d a : Reg) (p w : BitVec 6)
  | bfxu (s : Bool) (d a : Reg) (p w : BitVec 6)
  | bfi (s : Bool) (d a : Reg) (p w : BitVec 6)
  | beq (s : Bool) (a b : Reg) (o : BitVec 15)
  | bne (s : Bool) (a b : Reg) (o : BitVec 15)
  | blt (s : Bool) (a b : Reg) (o : BitVec 15)
  | bge (s : Bool) (a b : Reg) (o : BitVec 15)
  | bltu (s : Bool) (a b : Reg) (o : BitVec 15)
  | bgeu (s : Bool) (a b : Reg) (o : BitVec 15)
  | jal (s : Bool) (o : BitVec 25)
  | jalr (s : Bool) (d a : Reg) (i : BitVec 15)
  | subbr (s : Bool) (a b : Reg) (o : BitVec 15)
  | loop (s : Bool) (n : BitVec 5) (p : BitVec 4)
  | fadd (s : Bool) (d a b : Reg) (f : Fmt) (r : Rm)
  | fsub (s : Bool) (d a b : Reg) (f : Fmt) (r : Rm)
  | fmul (s : Bool) (d a b : Reg) (f : Fmt) (r : Rm)
  | fdiv (s : Bool) (d a b : Reg) (f : Fmt) (r : Rm)
  | fsqrt (s : Bool) (d a : Reg) (f : Fmt) (r : Rm)
  | fmin (s : Bool) (d a b : Reg) (f : Fmt)
  | fmax (s : Bool) (d a b : Reg) (f : Fmt)
  | fcpsgn (s : Bool) (d a b : Reg) (f : Fmt)
  | fneg (s : Bool) (d a : Reg) (f : Fmt)
  | fabs (s : Bool) (d a : Reg) (f : Fmt)
  | fxsgn (s : Bool) (d a b : Reg) (f : Fmt)
  | fmaddD (s : Bool) (d a b c : Reg) (r : Rm)
  | fmsubD (s : Bool) (d a b c : Reg) (r : Rm)
  | fnmaddD (s : Bool) (d a b c : Reg) (r : Rm)
  | fnmsubD (s : Bool) (d a b c : Reg) (r : Rm)
  | fmaddS (s : Bool) (d a b c : Reg) (r : Rm)
  | fmsubS (s : Bool) (d a b c : Reg) (r : Rm)
  | fnmaddS (s : Bool) (d a b c : Reg) (r : Rm)
  | fnmsubS (s : Bool) (d a b c : Reg) (r : Rm)
  | fcmpq (s : Bool) (d a b : Reg) (f : Fmt)
  | fcmps (s : Bool) (d a b : Reg) (f : Fmt)
  | fclass (s : Bool) (d a : Reg) (f : Fmt)
  | fcvt (s : Bool) (d a : Reg) (f : Fmt) (r : Rm)
  | fcvti (s : Bool) (d a : Reg) (f : Fmt) (r : Rm)
  | fcvtiu (s : Bool) (d a : Reg) (f : Fmt) (r : Rm)
  | icvtf (s : Bool) (d a : Reg) (f : Fmt) (r : Rm)
  | iucvtf (s : Bool) (d a : Reg) (f : Fmt) (r : Rm)
  | fcvtn (s : Bool) (d a : Reg) (g : BitVec 5) (f : Fmt) (r : Rm)
  | fcvtw (s : Bool) (d a : Reg) (g : BitVec 5) (f : Fmt)
  | crd (s : Bool) (d : Reg) (c : BitVec 12)
  | cwr (s : Bool) (a : Reg) (c : BitVec 12)
  | cset (s : Bool) (d a : Reg) (c : BitVec 12)
  | cclr (s : Bool) (d a : Reg) (c : BitVec 12)
  | trap (s : Bool) (a : Reg)
  | tret (s : Bool)
  | idle (s : Bool)
  | tfence (s : Bool) (b a : Reg)
  | ifence (s : Bool)
  | csave (s : Bool) (b a : Reg)
  | crestore (s : Bool) (b a : Reg)
  | gstop (s : Bool) (d a : Reg)
  | gresume (s : Bool) (d a : Reg)
  | bkpt (s : Bool)
  | ld (s : Bool) (d a : Reg) (w : Width) (i : BitVec 12)
  | ldu (s : Bool) (d a : Reg) (w : Width) (i : BitVec 12)
  | st (s : Bool) (b a : Reg) (w : Width) (i : BitVec 12)
  | lda (s : Bool) (d a : Reg) (c : Scope) (w : Width)
  | stl (s : Bool) (a b : Reg) (c : Scope) (w : Width)
  | amoadd (s : Bool) (d a b : Reg) (w : Bool) (n : Ann) (c : Scope)
  | amoswap (s : Bool) (d a b : Reg) (w : Bool) (n : Ann) (c : Scope)
  | amocas (s : Bool) (d a b : Reg) (w : Bool) (n : Ann) (c : Scope)
  | amoand (s : Bool) (d a b : Reg) (n : Ann) (c : Scope)
  | amoor (s : Bool) (d a b : Reg) (n : Ann) (c : Scope)
  | amoxor (s : Bool) (d a b : Reg) (n : Ann) (c : Scope)
  | amomin (s : Bool) (d a b : Reg) (n : Ann) (c : Scope)
  | amomax (s : Bool) (d a b : Reg) (n : Ann) (c : Scope)
  | amominu (s : Bool) (d a b : Reg) (n : Ann) (c : Scope)
  | amomaxu (s : Bool) (d a b : Reg) (n : Ann) (c : Scope)
  | amofaddS (s : Bool) (d a b : Reg) (n : Ann) (c : Scope)
  | amofaddD (s : Bool) (d a b : Reg) (n : Ann) (c : Scope)
  | famoadd (s : Bool) (d a b : Reg) (w : Bool) (n : Ann) (c : Scope)
  | famoswap (s : Bool) (d a b : Reg) (w : Bool) (n : Ann) (c : Scope)
  | famocas (s : Bool) (d a b : Reg) (w : Bool) (n : Ann) (c : Scope)
  | famoand (s : Bool) (d a b : Reg) (n : Ann) (c : Scope)
  | famoor (s : Bool) (d a b : Reg) (n : Ann) (c : Scope)
  | famoxor (s : Bool) (d a b : Reg) (n : Ann) (c : Scope)
  | famomin (s : Bool) (d a b : Reg) (n : Ann) (c : Scope)
  | famomax (s : Bool) (d a b : Reg) (n : Ann) (c : Scope)
  | famominu (s : Bool) (d a b : Reg) (n : Ann) (c : Scope)
  | famomaxu (s : Bool) (d a b : Reg) (n : Ann) (c : Scope)
  | famofaddS (s : Bool) (d a b : Reg) (n : Ann) (c : Scope)
  | famofaddD (s : Bool) (d a b : Reg) (n : Ann) (c : Scope)
  | fencel (s : Bool) (p : BitVec 5) (c : Scope)
  | fencea (s : Bool) (p : BitVec 5) (c : Scope)
  | fence (s : Bool) (p : BitVec 5) (c : Scope)
  | xfence (s : Bool) (p q : BitVec 5) (c : Scope)
  | ldp (s : Bool) (d a : Reg) (i : BitVec 12)
  | vsetli (s : Bool) (d : Reg) (e : EW) (i : BitVec 10)
  | fenceall (s : Bool)
  | hpfL1 (s : Bool) (a : Reg) (i : BitVec 12)
  | hpfS (s : Bool) (a : Reg) (i : BitVec 12)
  | hpfSx (s : Bool) (a : Reg) (i : BitVec 12)
  | hintNop (s : Bool) (body : BitVec 31)
  | setvl (s : Bool) (d a : Reg) (e : EW)
  | vspill (s : Bool) (a b : Reg)
  | vfill (s : Bool) (a : Reg)
  | ringcfg (s : Bool) (d a : Reg)
  | mand (s : Bool) (d a b : Reg)
  | mor (s : Bool) (d a b : Reg)
  | mxor (s : Bool) (d a b : Reg)
  | mandn (s : Bool) (d a b : Reg)
  | mnot (s : Bool) (d a : Reg)
  | mset (s : Bool) (d : Reg)
  | mpopc (s : Bool) (d a : Reg)
  | mfirst (s : Bool) (d a : Reg)
  | vadd (s : Bool) (d a b k : Reg)
  | vsub (s : Bool) (d a b k : Reg)
  | vmul (s : Bool) (d a b k : Reg)
  | vmulh (s : Bool) (d a b k : Reg)
  | vmulhu (s : Bool) (d a b k : Reg)
  | vand (s : Bool) (d a b k : Reg)
  | vor (s : Bool) (d a b k : Reg)
  | vxor (s : Bool) (d a b k : Reg)
  | vsll (s : Bool) (d a b k : Reg)
  | vsrl (s : Bool) (d a b k : Reg)
  | vsra (s : Bool) (d a b k : Reg)
  | vmin (s : Bool) (d a b k : Reg)
  | vmax (s : Bool) (d a b k : Reg)
  | vminu (s : Bool) (d a b k : Reg)
  | vmaxu (s : Bool) (d a b k : Reg)
  | vsadd (s : Bool) (d a b k : Reg) (x : Bool)
  | vsaddu (s : Bool) (d a b k : Reg) (x : Bool)
  | vssub (s : Bool) (d a b k : Reg) (x : Bool)
  | vssubu (s : Bool) (d a b k : Reg) (x : Bool)
  | vabs (s : Bool) (d a k : Reg)
  | vsplat (s : Bool) (d a k : Reg)
  | viota (s : Bool) (d k : Reg)
  | vmv (s : Bool) (d a k : Reg)
  | vsext (s : Bool) (d a k : Reg)
  | vzext (s : Bool) (d a k : Reg)
  | vfadd (s : Bool) (d a b k : Reg) (x : Bool)
  | vfsub (s : Bool) (d a b k : Reg) (x : Bool)
  | vfmul (s : Bool) (d a b k : Reg) (x : Bool)
  | vfdiv (s : Bool) (d a b k : Reg) (x : Bool)
  | vfsqrt (s : Bool) (d a k : Reg) (x : Bool)
  | vfmin (s : Bool) (d a b k : Reg) (x : Bool)
  | vfmax (s : Bool) (d a b k : Reg) (x : Bool)
  | vfcpsgn (s : Bool) (d a b k : Reg)
  | vfneg (s : Bool) (d a k : Reg)
  | vfabs (s : Bool) (d a k : Reg)
  | vfxsgn (s : Bool) (d a b k : Reg)
  | vbadd (s : Bool) (d a b k : Reg) (x : Bool)
  | vbsub (s : Bool) (d a b k : Reg) (x : Bool)
  | vbmul (s : Bool) (d a b k : Reg) (x : Bool)
  | vfclass (s : Bool) (d a k : Reg)
  | vfcvtw (s : Bool) (d a : Reg) (g : BitVec 5) (k : Reg) (x : Bool)
  | vfcvtn (s : Bool) (d a : Reg) (g : BitVec 5) (k : Reg) (x : Bool)
  | vfcvti (s : Bool) (d a k : Reg) (x : Bool)
  | vicvtf (s : Bool) (d a k : Reg) (x : Bool)
  | vfcvtiu (s : Bool) (d a k : Reg) (x : Bool)
  | viucvtf (s : Bool) (d a k : Reg) (x : Bool)
  | vfmadd (s : Bool) (d a b k : Reg) (x : Bool)
  | vfmsub (s : Bool) (d a b k : Reg) (x : Bool)
  | vfnmadd (s : Bool) (d a b k : Reg) (x : Bool)
  | vfnmsub (s : Bool) (d a b k : Reg) (x : Bool)
  | vbfmadd (s : Bool) (d a b k : Reg) (x : Bool)
  | vfwma (s : Bool) (d a b k : Reg) (x : Bool)
  | vbfwma (s : Bool) (d a b k : Reg) (x : Bool)
  | vfdot2 (s : Bool) (d a b k : Reg) (x : Bool)
  | vbfdot2 (s : Bool) (d a b k : Reg) (x : Bool)
  | vdot4 (s : Bool) (d a b k : Reg)
  | vdot4u (s : Bool) (d a b k : Reg)
  | vmacc (s : Bool) (d a b k : Reg)
  | vcmpeq (s : Bool) (d a b k : Reg)
  | vcmpne (s : Bool) (d a b k : Reg)
  | vcmplt (s : Bool) (d a b k : Reg)
  | vcmple (s : Bool) (d a b k : Reg)
  | vcmpltu (s : Bool) (d a b k : Reg)
  | vcmpleu (s : Bool) (d a b k : Reg)
  | vfcmpeq (s : Bool) (d a b k : Reg) (x : Bool)
  | vfcmplt (s : Bool) (d a b k : Reg) (x : Bool)
  | vfcmple (s : Bool) (d a b k : Reg) (x : Bool)
  | vwhile (s : Bool) (d a b k : Reg)
  | vslideup (s : Bool) (d a b k : Reg)
  | vslidedn (s : Bool) (d a b k : Reg)
  | vgather (s : Bool) (d a b k : Reg)
  | vcompress (s : Bool) (d a k : Reg)
  | vext (s : Bool) (d a b : Reg)
  | vins (s : Bool) (d a b : Reg)
  | vrev (s : Bool) (d a k : Reg)
  | vredsum (s : Bool) (d a b k : Reg)
  | vredmin (s : Bool) (d a b k : Reg)
  | vredmax (s : Bool) (d a b k : Reg)
  | vredminu (s : Bool) (d a b k : Reg)
  | vredmaxu (s : Bool) (d a b k : Reg)
  | vfredsum (s : Bool) (d a b k : Reg)
  | vfredmin (s : Bool) (d a b k : Reg)
  | vfredmax (s : Bool) (d a b k : Reg)
  | vld (s : Bool) (d a k : Reg)
  | vldOffset (s : Bool) (d a b k : Reg)
  | vlds (s : Bool) (d a b k : Reg)
  | vldx (s : Bool) (d a b k : Reg)
  | vldff (s : Bool) (d a k : Reg)
  | vld2d (s : Bool) (d a k : Reg)
  | vst (s : Bool) (d a k : Reg)
  | vstOffset (s : Bool) (d a b k : Reg)
  | vsts (s : Bool) (d a b k : Reg)
  | vstx (s : Bool) (d a b k : Reg)
  | vst2d (s : Bool) (d a k : Reg)
  | vamoadd (s : Bool) (d a b k : Reg)
  | vamoswap (s : Bool) (d a b k : Reg)
  | vamomin (s : Bool) (d a b k : Reg)
  | vamomax (s : Bool) (d a b k : Reg)
  | vamominu (s : Bool) (d a b k : Reg)
  | vamomaxu (s : Bool) (d a b k : Reg)
  | vamoand (s : Bool) (d a b k : Reg)
  | vamoor (s : Bool) (d a b k : Reg)
  | vamoxor (s : Bool) (d a b k : Reg)
  | vamofadd (s : Bool) (d a b k : Reg)
  | vorient2 (s : Bool) (d a k : Reg) (x : Bool)
  | vorient3 (s : Bool) (d a k : Reg) (x : Bool)
  | vincirc (s : Bool) (d a k : Reg) (x : Bool)
  | vinsph (s : Bool) (d a k : Reg) (x : Bool)
  | vsegx (s : Bool) (d a k : Reg) (x : Bool)
  | vorient2t (s : Bool) (d a k : Reg) (x : Bool)
  | vorient3t (s : Bool) (d a k : Reg) (x : Bool)
  | vincirct (s : Bool) (d a k : Reg) (x : Bool)
  | vinspht (s : Bool) (d a k : Reg) (x : Bool)
  | escalationSettle (slot : Nat)
  | tcfg (s : Bool) (t : BitVec 3) (x : Reg)
  | acfg (s : Bool) (t : BitVec 3) (x : Reg)
  | tzero (s : Bool) (t : BitVec 3)
  | azero (s : Bool) (t : BitVec 3)
  | tgetr (s : Bool) (t : BitVec 3) (x : Reg) (r : BitVec 6)
  | tsetr (s : Bool) (t : BitVec 3) (x : Reg) (r : BitVec 6)
  | agetr (s : Bool) (t : BitVec 3) (x : Reg) (r : BitVec 6)
  | asetr (s : Bool) (t : BitVec 3) (x : Reg) (r : BitVec 6)
  | ttrans (s : Bool) (t a : BitVec 3)
  | acvt (s : Bool) (t a : BitVec 3)
  | tmmaD (s : Bool) (t a b : BitVec 3)
  | tmmaHf (s : Bool) (t a b : BitVec 3)
  | tmmaBf (s : Bool) (t a b : BitVec 3)
  | tmmaE4e4 (s : Bool) (t a b : BitVec 3) (x : Reg)
  | tmmaE4e5 (s : Bool) (t a b : BitVec 3) (x : Reg)
  | tmmaE5e4 (s : Bool) (t a b : BitVec 3) (x : Reg)
  | tmmaE5e5 (s : Bool) (t a b : BitVec 3) (x : Reg)
  | tmmaI8 (s : Bool) (t a b : BitVec 3)
  | tmmaC8 (s : Bool) (t a b : BitVec 3) (x : Reg)
  | tmmaC6 (s : Bool) (t a b : BitVec 3) (x : Reg)
  | tmmaC4 (s : Bool) (t a b : BitVec 3) (x : Reg)
  | tld (s : Bool) (t : BitVec 3) (x : Reg)
  | tst (s : Bool) (t : BitVec 3) (x : Reg)
  | ald (s : Bool) (t : BitVec 3) (x : Reg)
  | ast (s : Bool) (t : BitVec 3) (x : Reg)
  | tileInstructionStart (slot : Nat)
  | matrixArbiterSelect (cell : Nat)
  | spat (s : Bool) (p : BitVec 5) (a : Reg)
  | scmd (s : Bool) (a : Reg)
  | sseal (s : Bool) (d : Reg)
  | swaitb (s : Bool) (d : Reg) (n : BitVec 5)
  | sclose (s : Bool) (p : BitVec 5)
  | sstat (s : Bool) (d a : Reg)
  | scancel (s : Bool)
  | streamDispatch (cell port : Nat)
  | streamCommandComplete (cell port : Nat)
  | binit (s : Bool) (a b : Reg)
  | barrive (s : Bool) (d a : Reg)
  | bwait (s : Bool) (a b : Reg)
  | bsync (s : Bool) (a : Reg)
  | mwait (s : Bool) (d a : Reg) (n : BitVec 6)
  | msend (s : Bool) (a b : Reg)
  | mrd (s : Bool) (d : Reg) (n : BitVec 2)
  | mwr (s : Bool) (a : Reg) (n : BitVec 2)
  | yield (s : Bool) (a : Reg)
  | garrive (s : Bool) (d a : Reg)
  | gwaitb (s : Bool) (a b : Reg)
  | gbar (s : Bool) (a : Reg)
  | gbarj (s : Bool) (a : Reg)
  | gmcast (s : Bool) (a b : Reg)
  | ginfo (s : Bool) (d : Reg) (n : BitVec 6)
  | tkinit (s : Bool) (d a b : Reg)
  | tkdec (s : Bool) (a : Reg)
  | tkpop (s : Bool) (d a : Reg)
  | tkstat (s : Bool) (d a : Reg)
  | taskEnqueue (frame : Nat)
  | taskAging (frame : Nat)
  | tuctlWrite (frame : Nat) (v : Word)
  | launch (s : Bool) (a : Reg)
  | relay (s : Bool) (a b : Reg)
  | trigger (s : Bool)
  | retire (s : Bool)
  | successorStart (slot : Nat)
  | gangPlacement (unit : Nat)
  | memberStart (slot : Nat)
  | preemption (unit : Nat)
  | victimStopTimeout (gang : Nat)
  | gangComplete (gang : Nat)
  | triggerListLaunch (gang : Nat)
  | resultWritten (slot : Nat)
  | vectorCreditRound (cell cluster : Nat)
  | vectorStep (slot : Nat)
  | ringStall (slot : Nat)
  | lanectlWrite (cell : Nat)
  | pageWalk (comb : Nat)
  | migrationTimeout (comb : Nat)
  | pageRelease (asid page : Nat)
  | tfenceBroadcast (slot : Nat)
  | tfenceAck (comb slot : Nat)
  | entryAgeDrain (cell : Nat)
  | epochAdvance (cell : Nat)
  | l1Fill (cell : Nat)
  | icacheFill (cell line : Nat)
  | poolScrub (cell row : Nat)
  | arbitrate (comb port : Nat)
  | recoveryTimeout (comb port : Nat)
  | linkReplay (comb port : Nat)
  | openRoute (cell port : Nat)
  | dataFlit (cell port : Nat)
  | closeRoute (cell port : Nat)
  | truncRoute (cell port : Nat)
  | mcast (cell : Nat)
  | barrierArrival (gang id comb : Nat)
  | barrierCompletion (gang id comb : Nat)
  | deposit (n : Nat)
  | localRead (comb line : Nat)
  | localWrite (comb line : Nat)
  | gets (n : Nat)
  | getm (n : Nat)
  | upg (n : Nat)
  | ncrd (n : Nat)
  | ncwr (n : Nat)
  | faop (n : Nat)
  | fwds (n : Nat)
  | fwdm (n : Nat)
  | inv (n : Nat)
  | rcl (n : Nat)
  | datas (n : Nat)
  | datae (n : Nat)
  | datam (n : Nat)
  | datamg (n : Nat)
  | go (n : Nat)
  | iack (n : Nat)
  | facks (n : Nat)
  | facko (n : Nat)
  | facki (n : Nat)
  | fackn (n : Nat)
  | cmp (n : Nat)
  | wback (n : Nat)
  | ncrsp (n : Nat)
  | rcld (n : Nat)
  | wbd (n : Nat)
  | hiveLinkFailure (port : Nat)
  | rowRemap (block : Nat)
  | remapFlashWrite (block : Nat)
  | foragerRead (block : Nat)
  | foragerLag (block : Nat)
  | interrupt (slot : Nat)
  | hpost (frame : Nat) (vf : Bool) (v : Word)
  | hmsg (frame : Nat) (v : Word)
  | hostWrite (off : Nat) (v : Word)
  | hostRead (off : Nat)
  | hintr (v : Word)
  | swint (comb : Nat) (v : Word)
  | hiveLinkTraining (port node peer : Nat)
  | signatureVerify (ok : Bool)
  | bootWatchdog
  | bootctlOk
  | moduleReset
  | coldPowerCycle
  | resetThreadStart (cell : Nat)
  | wgctl (v : Word)
  | wagglePacket (comb dir : Nat)
  | waggleReply (comb : Nat)
  | waggleTimeout
  | bbctl (v : Word)
  | bootBroadcastPacket
  | sparemap (comb : Nat) (v : Word)
  | alarm (src : Nat)
  | freeze
  | attestation (nonce : BitVec 256)
  | pwrlim (watts : Nat)
  | islandClockStep (island : Nat) (up : Bool)
  | burmealLoad (addr : Nat)
  | registerWrite (off : Nat) (v : Word)
  | illegalInstruction (w : BitVec 32)
  | yieldEnd (slot : Nat)
  | tmmaComplete (cell : Nat)
  | laneFailure (port : Nat)
  | flashUpdate
  deriving DecidableEq, Repr

end Sys2Proof
end

