-- ==== Sys2Proof/WellFormed.lean ====
section
/-! DEFINITION. Well-formed instructions: the limits of operand fields that R260, R265 and
the entries of the instruction chapters make the illegal-instruction trap. An event row is
no instruction word and is not well formed. -/

namespace Sys2Proof

/-- R260: the mask field with its X bit. -/
def maskFieldOk (k : Reg) (x : Bool) : Bool :=
  if x then decide (1 ≤ k.toNat ∧ k.toNat ≤ 23) else decide (k.toNat ≤ 23 ∨ k.toNat = 31)

/-- R258: a mask register number. -/
def maskRegOk (m : Reg) : Bool := decide (m.toNat ≤ 23)

/-- R264: the address field of majors 0x0A and 0x0B; bits [3:0] are zero in the register mode. -/
def addrFieldOk (i : BitVec 12) : Bool := !i.getLsbD 11 || decide (i.extractLsb' 0 4 = 0)

/-- R391: a predicate's group of `g` registers from `a` ends at v31 and does not hold `d`. -/
def groupOk (a d : Reg) (g : Nat) : Bool :=
  decide (a.toNat + g ≤ 32 ∧ (d.toNat < a.toNat ∨ a.toNat + g ≤ d.toNat))

/-- R267, R269: a word of majors 0x3C to 0x3E that is not an HPF. -/
def hintBodyOk (body : BitVec 31) : Bool :=
  let major := body.extractLsb' 25 6
  decide (major = 0x3D ∨ major = 0x3E) ||
    (decide (major = 0x3C) && !(decide (body.extractLsb' 20 5 = 0) && decide ((body.extractLsb' 12 3).toNat ≤ 2)))

/-- The limits that an instruction's own entry gives its fields. DEDUCED (log 7). -/
def Instr.wellFormed : Instr → Bool
  | .add _ _ _ _ => true
  | .sub _ _ _ _ => true
  | .add32 _ _ _ _ => true
  | .sub32 _ _ _ _ => true
  | .and _ _ _ _ => true
  | .or _ _ _ _ => true
  | .xor _ _ _ _ => true
  | .andn _ _ _ _ => true
  | .sll _ _ _ _ => true
  | .srl _ _ _ _ => true
  | .sra _ _ _ _ => true
  | .ror _ _ _ _ => true
  | .min _ _ _ _ => true
  | .max _ _ _ _ => true
  | .minu _ _ _ _ => true
  | .maxu _ _ _ _ => true
  | .clz _ _ _ => true
  | .ctz _ _ _ => true
  | .popc _ _ _ => true
  | .byterev _ _ _ => true
  | .slt _ _ _ _ => true
  | .sltu _ _ _ _ => true
  | .seq _ _ _ _ => true
  | .sne _ _ _ _ => true
  | .cmovnz _ _ _ _ => true
  | .cmovz _ _ _ _ => true
  | .mul _ _ _ _ => true
  | .mulhs _ _ _ _ => true
  | .mulhu _ _ _ _ => true
  | .mulhus _ _ _ _ => true
  | .mul32 _ _ _ _ => true
  | .muladd _ _ _ _ => true
  | .mulsub _ _ _ _ => true
  | .div _ _ _ _ => true
  | .divu _ _ _ _ => true
  | .rem _ _ _ _ => true
  | .remu _ _ _ _ => true
  | .addi _ _ _ _ => true
  | .andi _ _ _ _ => true
  | .ori _ _ _ _ => true
  | .xori _ _ _ _ => true
  | .slli _ _ _ _ => true
  | .srli _ _ _ _ => true
  | .srai _ _ _ _ => true
  | .rori _ _ _ _ => true
  | .slti _ _ _ _ => true
  | .sltiu _ _ _ _ => true
  | .lui _ _ _ => true
  | .addpc _ _ _ => true
  | .bfx _ _ _ p w => decide (p.toNat + w.toNat + 1 ≤ 64)
  | .bfxu _ _ _ p w => decide (p.toNat + w.toNat + 1 ≤ 64)
  | .bfi _ _ _ p w => decide (p.toNat + w.toNat + 1 ≤ 64)
  | .beq _ _ _ _ => true
  | .bne _ _ _ _ => true
  | .blt _ _ _ _ => true
  | .bge _ _ _ _ => true
  | .bltu _ _ _ _ => true
  | .bgeu _ _ _ _ => true
  | .jal _ _ => true
  | .jalr _ _ _ _ => true
  | .subbr _ a _ _ => decide (a ≠ 31)
  | .loop _ _ _ => true
  | .fadd _ _ _ _ _ _ => true
  | .fsub _ _ _ _ _ _ => true
  | .fmul _ _ _ _ _ _ => true
  | .fdiv _ _ _ _ _ _ => true
  | .fsqrt _ _ _ _ _ => true
  | .fmin _ _ _ _ _ => true
  | .fmax _ _ _ _ _ => true
  | .fcpsgn _ _ _ _ _ => true
  | .fneg _ _ _ _ => true
  | .fabs _ _ _ _ => true
  | .fxsgn _ _ _ _ _ => true
  | .fmaddD _ _ _ _ _ _ => true
  | .fmsubD _ _ _ _ _ _ => true
  | .fnmaddD _ _ _ _ _ _ => true
  | .fnmsubD _ _ _ _ _ _ => true
  | .fmaddS _ _ _ _ _ _ => true
  | .fmsubS _ _ _ _ _ _ => true
  | .fnmaddS _ _ _ _ _ _ => true
  | .fnmsubS _ _ _ _ _ _ => true
  | .fcmpq _ _ _ _ _ => true
  | .fcmps _ _ _ _ _ => true
  | .fclass _ _ _ _ => true
  | .fcvt _ _ _ _ _ => true
  | .fcvti _ _ _ _ _ => true
  | .fcvtiu _ _ _ _ _ => true
  | .icvtf _ _ _ _ _ => true
  | .iucvtf _ _ _ _ _ => true
  | .fcvtn _ _ _ g _ _ => decide (2 ≤ g.toNat ∧ g.toNat ≤ 5)
  | .fcvtw _ _ _ g _ => decide (2 ≤ g.toNat ∧ g.toNat ≤ 5)
  | .crd _ _ _ => true
  | .cwr _ _ _ => true
  | .cset _ _ _ _ => true
  | .cclr _ _ _ _ => true
  | .trap _ _ => true
  | .tret _ => true
  | .idle _ => true
  | .tfence _ _ _ => true
  | .ifence _ => true
  | .csave _ _ _ => true
  | .crestore _ _ _ => true
  | .gstop _ _ _ => true
  | .gresume _ _ _ => true
  | .bkpt _ => true
  | .ld _ _ _ _ i => addrFieldOk i
  | .ldu _ d _ w i => addrFieldOk i && decide (w ≠ .d)
  | .st _ _ _ _ i => addrFieldOk i
  | .lda _ _ _ _ _ => true
  | .stl _ _ _ _ _ => true
  | .amoadd _ _ _ _ _ _ _ => true
  | .amoswap _ _ _ _ _ _ _ => true
  | .amocas _ _ _ _ _ _ _ => true
  | .amoand _ _ _ _ _ _ => true
  | .amoor _ _ _ _ _ _ => true
  | .amoxor _ _ _ _ _ _ => true
  | .amomin _ _ _ _ _ _ => true
  | .amomax _ _ _ _ _ _ => true
  | .amominu _ _ _ _ _ _ => true
  | .amomaxu _ _ _ _ _ _ => true
  | .amofaddS _ _ _ _ _ _ => true
  | .amofaddD _ _ _ _ _ _ => true
  | .famoadd _ _ _ _ _ _ _ => true
  | .famoswap _ _ _ _ _ _ _ => true
  | .famocas _ _ _ _ _ _ _ => true
  | .famoand _ _ _ _ _ _ => true
  | .famoor _ _ _ _ _ _ => true
  | .famoxor _ _ _ _ _ _ => true
  | .famomin _ _ _ _ _ _ => true
  | .famomax _ _ _ _ _ _ => true
  | .famominu _ _ _ _ _ _ => true
  | .famomaxu _ _ _ _ _ _ => true
  | .famofaddS _ _ _ _ _ _ => true
  | .famofaddD _ _ _ _ _ _ => true
  | .fencel _ p _ => decide (p ≠ 0)
  | .fencea _ p _ => decide (p ≠ 0)
  | .fence _ p _ => decide (p ≠ 0)
  | .xfence _ p q _ => decide (p ≠ 0) && decide (q ≠ 0)
  | .ldp _ d _ _ => decide (d.toNat % 2 = 0 ∧ d.toNat ≤ 28)
  | .vsetli _ _ _ _ => true
  | .fenceall _ => true
  | .hpfL1 _ _ _ => true
  | .hpfS _ _ _ => true
  | .hpfSx _ _ _ => true
  | .hintNop _ body => hintBodyOk body
  | .setvl _ _ _ _ => true
  | .vspill _ _ _ => true
  | .vfill _ _ => true
  | .ringcfg _ _ _ => true
  | .mand _ d a b => maskRegOk d && maskRegOk a && maskRegOk b
  | .mor _ d a b => maskRegOk d && maskRegOk a && maskRegOk b
  | .mxor _ d a b => maskRegOk d && maskRegOk a && maskRegOk b
  | .mandn _ d a b => maskRegOk d && maskRegOk a && maskRegOk b
  | .mnot _ d a => maskRegOk d && maskRegOk a
  | .mset _ d => maskRegOk d
  | .mpopc _ _ a => maskRegOk a
  | .mfirst _ _ a => maskRegOk a
  | .vadd _ _ _ _ k => maskFieldOk k false
  | .vsub _ _ _ _ k => maskFieldOk k false
  | .vmul _ _ _ _ k => maskFieldOk k false
  | .vmulh _ _ _ _ k => maskFieldOk k false
  | .vmulhu _ _ _ _ k => maskFieldOk k false
  | .vand _ _ _ _ k => maskFieldOk k false
  | .vor _ _ _ _ k => maskFieldOk k false
  | .vxor _ _ _ _ k => maskFieldOk k false
  | .vsll _ _ _ _ k => maskFieldOk k false
  | .vsrl _ _ _ _ k => maskFieldOk k false
  | .vsra _ _ _ _ k => maskFieldOk k false
  | .vmin _ _ _ _ k => maskFieldOk k false
  | .vmax _ _ _ _ k => maskFieldOk k false
  | .vminu _ _ _ _ k => maskFieldOk k false
  | .vmaxu _ _ _ _ k => maskFieldOk k false
  | .vsadd _ _ _ _ k x => maskFieldOk k x
  | .vsaddu _ _ _ _ k x => maskFieldOk k x
  | .vssub _ _ _ _ k x => maskFieldOk k x
  | .vssubu _ _ _ _ k x => maskFieldOk k x
  | .vabs _ _ _ k => maskFieldOk k false
  | .vsplat _ _ _ k => maskFieldOk k false
  | .viota _ _ k => maskFieldOk k false
  | .vmv _ _ _ k => maskFieldOk k false
  | .vsext _ _ _ k => maskFieldOk k false
  | .vzext _ _ _ k => maskFieldOk k false
  | .vfadd _ _ _ _ k x => maskFieldOk k x
  | .vfsub _ _ _ _ k x => maskFieldOk k x
  | .vfmul _ _ _ _ k x => maskFieldOk k x
  | .vfdiv _ _ _ _ k x => maskFieldOk k x
  | .vfsqrt _ _ _ k x => maskFieldOk k x
  | .vfmin _ _ _ _ k x => maskFieldOk k x
  | .vfmax _ _ _ _ k x => maskFieldOk k x
  | .vfcpsgn _ _ _ _ k => maskFieldOk k false
  | .vfneg _ _ _ k => maskFieldOk k false
  | .vfabs _ _ _ k => maskFieldOk k false
  | .vfxsgn _ _ _ _ k => maskFieldOk k false
  | .vbadd _ _ _ _ k x => maskFieldOk k x
  | .vbsub _ _ _ _ k x => maskFieldOk k x
  | .vbmul _ _ _ _ k x => maskFieldOk k x
  | .vfclass _ _ _ k => maskFieldOk k false
  | .vfcvtw _ _ _ g k x => maskFieldOk k x && decide (1 ≤ g.toNat ∧ g.toNat ≤ 5)
  | .vfcvtn _ _ _ g k x => maskFieldOk k x && decide (1 ≤ g.toNat ∧ g.toNat ≤ 5)
  | .vfcvti _ _ _ k x => maskFieldOk k x
  | .vicvtf _ _ _ k x => maskFieldOk k x
  | .vfcvtiu _ _ _ k x => maskFieldOk k x
  | .viucvtf _ _ _ k x => maskFieldOk k x
  | .vfmadd _ _ _ _ k x => maskFieldOk k x
  | .vfmsub _ _ _ _ k x => maskFieldOk k x
  | .vfnmadd _ _ _ _ k x => maskFieldOk k x
  | .vfnmsub _ _ _ _ k x => maskFieldOk k x
  | .vbfmadd _ _ _ _ k x => maskFieldOk k x
  | .vfwma _ d _ _ k x => maskFieldOk k x && decide (d.toNat % 2 = 0)
  | .vbfwma _ d _ _ k x => maskFieldOk k x && decide (d.toNat % 2 = 0)
  | .vfdot2 _ _ _ _ k x => maskFieldOk k x
  | .vbfdot2 _ _ _ _ k x => maskFieldOk k x
  | .vdot4 _ _ _ _ k => maskFieldOk k false
  | .vdot4u _ _ _ _ k => maskFieldOk k false
  | .vmacc _ _ _ _ k => maskFieldOk k false
  | .vcmpeq _ d _ _ k => maskFieldOk k false && maskRegOk d
  | .vcmpne _ d _ _ k => maskFieldOk k false && maskRegOk d
  | .vcmplt _ d _ _ k => maskFieldOk k false && maskRegOk d
  | .vcmple _ d _ _ k => maskFieldOk k false && maskRegOk d
  | .vcmpltu _ d _ _ k => maskFieldOk k false && maskRegOk d
  | .vcmpleu _ d _ _ k => maskFieldOk k false && maskRegOk d
  | .vfcmpeq _ d _ _ k x => maskFieldOk k x && maskRegOk d && (!x || decide (d ≠ k))
  | .vfcmplt _ d _ _ k x => maskFieldOk k x && maskRegOk d && (!x || decide (d ≠ k))
  | .vfcmple _ d _ _ k x => maskFieldOk k x && maskRegOk d && (!x || decide (d ≠ k))
  | .vwhile _ d _ _ k => maskFieldOk k false && maskRegOk d
  | .vslideup _ d a _ k => maskFieldOk k false && decide (d ≠ a)
  | .vslidedn _ d a _ k => maskFieldOk k false && decide (d ≠ a)
  | .vgather _ d a b k => maskFieldOk k false && decide (d ≠ a) && decide (d ≠ b)
  | .vcompress _ d a k => maskFieldOk k false && decide (d ≠ a)
  | .vext _ _ _ _ => true
  | .vins _ _ _ _ => true
  | .vrev _ d a k => maskFieldOk k false && decide (d ≠ a)
  | .vredsum _ _ _ _ k => maskFieldOk k false
  | .vredmin _ _ _ _ k => maskFieldOk k false
  | .vredmax _ _ _ _ k => maskFieldOk k false
  | .vredminu _ _ _ _ k => maskFieldOk k false
  | .vredmaxu _ _ _ _ k => maskFieldOk k false
  | .vfredsum _ _ _ _ k => maskFieldOk k false
  | .vfredmin _ _ _ _ k => maskFieldOk k false
  | .vfredmax _ _ _ _ k => maskFieldOk k false
  | .vld _ _ _ k => maskFieldOk k false
  | .vldOffset _ _ _ _ k => maskFieldOk k false
  | .vlds _ _ _ _ k => maskFieldOk k false
  | .vldx _ _ _ _ k => maskFieldOk k false
  | .vldff _ _ _ k => maskFieldOk k false
  | .vld2d _ _ _ k => maskFieldOk k false
  | .vst _ _ _ k => maskFieldOk k false
  | .vstOffset _ _ _ _ k => maskFieldOk k false
  | .vsts _ _ _ _ k => maskFieldOk k false
  | .vstx _ _ _ _ k => maskFieldOk k false
  | .vst2d _ _ _ k => maskFieldOk k false
  | .vamoadd _ _ _ _ k => maskFieldOk k false
  | .vamoswap _ _ _ _ k => maskFieldOk k false
  | .vamomin _ _ _ _ k => maskFieldOk k false
  | .vamomax _ _ _ _ k => maskFieldOk k false
  | .vamominu _ _ _ _ k => maskFieldOk k false
  | .vamomaxu _ _ _ _ k => maskFieldOk k false
  | .vamoand _ _ _ _ k => maskFieldOk k false
  | .vamoor _ _ _ _ k => maskFieldOk k false
  | .vamoxor _ _ _ _ k => maskFieldOk k false
  | .vamofadd _ _ _ _ k => maskFieldOk k false
  | .vorient2 _ d a k x => maskFieldOk k x && groupOk a d 6
  | .vorient3 _ d a k x => maskFieldOk k x && groupOk a d 12
  | .vincirc _ d a k x => maskFieldOk k x && groupOk a d 8
  | .vinsph _ d a k x => maskFieldOk k x && groupOk a d 15
  | .vsegx _ d a k x => maskFieldOk k x && groupOk a d 8
  | .vorient2t _ d a k x => maskFieldOk k x && groupOk a d 9
  | .vorient3t _ d a k x => maskFieldOk k x && groupOk a d 16
  | .vincirct _ d a k x => maskFieldOk k x && groupOk a d 12
  | .vinspht _ d a k x => maskFieldOk k x && groupOk a d 20
  | .escalationSettle _ => false
  | .tcfg _ _ _ => true
  | .acfg _ _ _ => true
  | .tzero _ _ => true
  | .azero _ _ => true
  | .tgetr _ _ _ _ => true
  | .tsetr _ _ _ _ => true
  | .agetr _ _ _ _ => true
  | .asetr _ _ _ _ => true
  | .ttrans _ _ _ => true
  | .acvt _ _ _ => true
  | .tmmaD _ _ _ _ => true
  | .tmmaHf _ _ _ _ => true
  | .tmmaBf _ _ _ _ => true
  | .tmmaE4e4 _ _ _ _ _ => true
  | .tmmaE4e5 _ _ _ _ _ => true
  | .tmmaE5e4 _ _ _ _ _ => true
  | .tmmaE5e5 _ _ _ _ _ => true
  | .tmmaI8 _ _ _ _ => true
  | .tmmaC8 _ _ _ _ _ => true
  | .tmmaC6 _ _ _ _ _ => true
  | .tmmaC4 _ _ _ _ _ => true
  | .tld _ _ _ => true
  | .tst _ _ _ => true
  | .ald _ _ _ => true
  | .ast _ _ _ => true
  | .tileInstructionStart _ => false
  | .matrixArbiterSelect _ => false
  | .spat _ p _ => decide (p.toNat < 16)
  | .scmd _ _ => true
  | .sseal _ _ => true
  | .swaitb _ _ n => decide (n.toNat ≤ 16)
  | .sclose _ p => decide (p.toNat < 4)
  | .sstat _ _ _ => true
  | .scancel _ => true
  | .streamDispatch _ _ => false
  | .streamCommandComplete _ _ => false
  | .binit _ _ _ => true
  | .barrive _ _ _ => true
  | .bwait _ _ _ => true
  | .bsync _ _ => true
  | .mwait _ _ _ _ => true
  | .msend _ _ _ => true
  | .mrd _ _ _ => true
  | .mwr _ _ _ => true
  | .yield _ _ => true
  | .garrive _ _ _ => true
  | .gwaitb _ _ _ => true
  | .gbar _ _ => true
  | .gbarj _ _ => true
  | .gmcast _ _ _ => true
  | .ginfo _ _ n => decide (n.toNat ≤ 9)
  | .tkinit _ _ _ _ => true
  | .tkdec _ _ => true
  | .tkpop _ _ _ => true
  | .tkstat _ _ _ => true
  | .taskEnqueue _ => false
  | .taskAging _ => false
  | .tuctlWrite _ _ => false
  | .launch _ _ => true
  | .relay _ _ _ => true
  | .trigger _ => true
  | .retire _ => true
  | .successorStart _ => false
  | .gangPlacement _ => false
  | .memberStart _ => false
  | .preemption _ => false
  | .victimStopTimeout _ => false
  | .gangComplete _ => false
  | .triggerListLaunch _ => false
  | .resultWritten _ => false
  | .vectorCreditRound _ _ => false
  | .vectorStep _ => false
  | .ringStall _ => false
  | .lanectlWrite _ => false
  | .pageWalk _ => false
  | .migrationTimeout _ => false
  | .pageRelease _ _ => false
  | .tfenceBroadcast _ => false
  | .tfenceAck _ _ => false
  | .entryAgeDrain _ => false
  | .epochAdvance _ => false
  | .l1Fill _ => false
  | .icacheFill _ _ => false
  | .poolScrub _ _ => false
  | .arbitrate _ _ => false
  | .recoveryTimeout _ _ => false
  | .linkReplay _ _ => false
  | .openRoute _ _ => false
  | .dataFlit _ _ => false
  | .closeRoute _ _ => false
  | .truncRoute _ _ => false
  | .mcast _ => false
  | .barrierArrival _ _ _ => false
  | .barrierCompletion _ _ _ => false
  | .deposit _ => false
  | .localRead _ _ => false
  | .localWrite _ _ => false
  | .gets _ => false
  | .getm _ => false
  | .upg _ => false
  | .ncrd _ => false
  | .ncwr _ => false
  | .faop _ => false
  | .fwds _ => false
  | .fwdm _ => false
  | .inv _ => false
  | .rcl _ => false
  | .datas _ => false
  | .datae _ => false
  | .datam _ => false
  | .datamg _ => false
  | .go _ => false
  | .iack _ => false
  | .facks _ => false
  | .facko _ => false
  | .facki _ => false
  | .fackn _ => false
  | .cmp _ => false
  | .wback _ => false
  | .ncrsp _ => false
  | .rcld _ => false
  | .wbd _ => false
  | .hiveLinkFailure _ => false
  | .rowRemap _ => false
  | .remapFlashWrite _ => false
  | .foragerRead _ => false
  | .foragerLag _ => false
  | .interrupt _ => false
  | .hpost _ _ _ => false
  | .hmsg _ _ => false
  | .hostWrite _ _ => false
  | .hostRead _ => false
  | .hintr _ => false
  | .swint _ _ => false
  | .hiveLinkTraining _ _ _ => false
  | .signatureVerify _ => false
  | .bootWatchdog => false
  | .bootctlOk => false
  | .moduleReset => false
  | .coldPowerCycle => false
  | .resetThreadStart _ => false
  | .wgctl _ => false
  | .wagglePacket _ _ => false
  | .waggleReply _ => false
  | .waggleTimeout => false
  | .bbctl _ => false
  | .bootBroadcastPacket => false
  | .sparemap _ _ => false
  | .alarm _ => false
  | .freeze => false
  | .attestation _ => false
  | .pwrlim _ => false
  | .islandClockStep _ _ => false
  | .burmealLoad _ => false
  | .registerWrite _ _ => false
  | .illegalInstruction _ => false
  | .yieldEnd _ => false
  | .tmmaComplete _ => false
  | .laneFailure _ => false
  | .flashUpdate => false

end Sys2Proof
end

