-- ==== Sys2Proof/Decode.lean ====
section
/-! DEFINITION. Decoding of fetched words (R256, R257, R262 to R268), total on every word
and rejecting by name; and after it the encoder, written from the same layouts. `noncomputable` marks the
definitions that build an instruction whose constructor stands beyond the compiler's limit on
constructor tags: the kernel evaluates them like any other. -/

namespace Sys2Proof

/-- Why a word is not an instruction: the first of checks 1 to 5 of R265 that applies. -/
inductive Reject | illegalMajor | unassignedMinor | reservedField | reservedCode
  deriving DecidableEq, Repr

/-- Two-bit width codes (R357, R359). -/
def Width.code : Width → BitVec 2
  | .b => 0 | .h => 1 | .w => 2 | .d => 3

/-- The width of a two-bit code. -/
def Width.ofCode (c : BitVec 2) : Width :=
  if c = 0 then .b else if c = 1 then .h else if c = 2 then .w else .d

/-- EW codes (R218). -/
def EW.code : EW → BitVec 2
  | .e8 => 0 | .e16 => 1 | .e32 => 2 | .e64 => 3

/-- The element width of a code. -/
def EW.ofCode (c : BitVec 2) : EW :=
  if c = 0 then .e8 else if c = 1 then .e16 else if c = 2 then .e32 else .e64

/-- Annotation codes (R261). -/
def Ann.code : Ann → BitVec 2
  | .relaxed => 0 | .acquire => 1 | .release => 2 | .acqRel => 3

/-- The annotation of a code. -/
def Ann.ofCode (c : BitVec 2) : Ann :=
  if c = 0 then .relaxed else if c = 1 then .acquire else if c = 2 then .release else .acqRel

/-- `fmt2` codes (R296). -/
def Fmt.code : Fmt → BitVec 2
  | .d => 0 | .s => 1

/-- The format of an `fmt2` code; 2 and 3 are reserved. -/
def Fmt.ofCode (c : BitVec 2) : Option Fmt :=
  if c = 0 then some .d else if c = 1 then some .s else none

/-- Rounding-mode codes (R225). -/
def Rm.code : Rm → BitVec 3
  | .rne => 0 | .rtz => 1 | .rdn => 2 | .rup => 3 | .rmm => 4 | .dyn => 7

/-- The rounding mode of a code; 5 and 6 are not modes. -/
def Rm.ofCode (c : BitVec 3) : Option Rm :=
  if c = 0 then some .rne else if c = 1 then some .rtz else if c = 2 then some .rdn
  else if c = 3 then some .rup else if c = 4 then some .rmm
  else if c = 7 then some .dyn else none

/-- Scope codes (R261). -/
def Scope.code : Scope → BitVec 3
  | .cell => 1 | .comb => 2 | .frame => 3 | .module => 4 | .system => 5

/-- The scope of a code; 0, 6 and 7 are reserved. -/
def Scope.ofCode (c : BitVec 3) : Option Scope :=
  if c = 1 then some .cell else if c = 2 then some .comb else if c = 3 then some .frame
  else if c = 4 then some .module else if c = 5 then some .system else none

/-- Major 0x3C: the defined hint HPF (R269), or a hint that does nothing (R267). -/
def decodeHint (w : BitVec 32) : Instr :=
  if w.extractLsb' 20 5 = 0 ∧ w.extractLsb' 12 3 = 0 then
    .hpfL1 (w.getLsbD 31) (w.extractLsb' 15 5) (w.extractLsb' 0 12)
  else if w.extractLsb' 20 5 = 0 ∧ w.extractLsb' 12 3 = 1 then
    .hpfS (w.getLsbD 31) (w.extractLsb' 15 5) (w.extractLsb' 0 12)
  else if w.extractLsb' 20 5 = 0 ∧ w.extractLsb' 12 3 = 2 then
    .hpfSx (w.getLsbD 31) (w.extractLsb' 15 5) (w.extractLsb' 0 12)
  else .hintNop (w.getLsbD 31) (w.extractLsb' 0 31)

/-- Major 0x01 (R262). -/
def decodeAlu (w : BitVec 32) : Except Reject Instr :=
  match (w.extractLsb' 0 10).toNat with
  | 0 =>
    .ok (.add (w.getLsbD 31) (w.extractLsb' 20 5) (w.extractLsb' 15 5) (w.extractLsb' 10 5))
  | 1 =>
    .ok (.sub (w.getLsbD 31) (w.extractLsb' 20 5) (w.extractLsb' 15 5) (w.extractLsb' 10 5))
  | 2 =>
    .ok (.add32 (w.getLsbD 31) (w.extractLsb' 20 5) (w.extractLsb' 15 5) (w.extractLsb' 10 5))
  | 3 =>
    .ok (.sub32 (w.getLsbD 31) (w.extractLsb' 20 5) (w.extractLsb' 15 5) (w.extractLsb' 10 5))
  | 4 =>
    .ok (.and (w.getLsbD 31) (w.extractLsb' 20 5) (w.extractLsb' 15 5) (w.extractLsb' 10 5))
  | 5 =>
    .ok (.or (w.getLsbD 31) (w.extractLsb' 20 5) (w.extractLsb' 15 5) (w.extractLsb' 10 5))
  | 6 =>
    .ok (.xor (w.getLsbD 31) (w.extractLsb' 20 5) (w.extractLsb' 15 5) (w.extractLsb' 10 5))
  | 7 =>
    .ok (.andn (w.getLsbD 31) (w.extractLsb' 20 5) (w.extractLsb' 15 5) (w.extractLsb' 10 5))
  | 8 =>
    .ok (.sll (w.getLsbD 31) (w.extractLsb' 20 5) (w.extractLsb' 15 5) (w.extractLsb' 10 5))
  | 9 =>
    .ok (.srl (w.getLsbD 31) (w.extractLsb' 20 5) (w.extractLsb' 15 5) (w.extractLsb' 10 5))
  | 10 =>
    .ok (.sra (w.getLsbD 31) (w.extractLsb' 20 5) (w.extractLsb' 15 5) (w.extractLsb' 10 5))
  | 11 =>
    .ok (.ror (w.getLsbD 31) (w.extractLsb' 20 5) (w.extractLsb' 15 5) (w.extractLsb' 10 5))
  | 12 =>
    .ok (.min (w.getLsbD 31) (w.extractLsb' 20 5) (w.extractLsb' 15 5) (w.extractLsb' 10 5))
  | 13 =>
    .ok (.max (w.getLsbD 31) (w.extractLsb' 20 5) (w.extractLsb' 15 5) (w.extractLsb' 10 5))
  | 14 =>
    .ok (.minu (w.getLsbD 31) (w.extractLsb' 20 5) (w.extractLsb' 15 5) (w.extractLsb' 10 5))
  | 15 =>
    .ok (.maxu (w.getLsbD 31) (w.extractLsb' 20 5) (w.extractLsb' 15 5) (w.extractLsb' 10 5))
  | 16 =>
    if w &&& 0x00007C00#32 = 0x00000000#32 then
      .ok (.clz (w.getLsbD 31) (w.extractLsb' 20 5) (w.extractLsb' 15 5))
    else .error .reservedField
  | 17 =>
    if w &&& 0x00007C00#32 = 0x00000000#32 then
      .ok (.ctz (w.getLsbD 31) (w.extractLsb' 20 5) (w.extractLsb' 15 5))
    else .error .reservedField
  | 18 =>
    if w &&& 0x00007C00#32 = 0x00000000#32 then
      .ok (.popc (w.getLsbD 31) (w.extractLsb' 20 5) (w.extractLsb' 15 5))
    else .error .reservedField
  | 19 =>
    if w &&& 0x00007C00#32 = 0x00000000#32 then
      .ok (.byterev (w.getLsbD 31) (w.extractLsb' 20 5) (w.extractLsb' 15 5))
    else .error .reservedField
  | 24 =>
    .ok (.slt (w.getLsbD 31) (w.extractLsb' 20 5) (w.extractLsb' 15 5) (w.extractLsb' 10 5))
  | 25 =>
    .ok (.sltu (w.getLsbD 31) (w.extractLsb' 20 5) (w.extractLsb' 15 5) (w.extractLsb' 10 5))
  | 26 =>
    .ok (.seq (w.getLsbD 31) (w.extractLsb' 20 5) (w.extractLsb' 15 5) (w.extractLsb' 10 5))
  | 27 =>
    .ok (.sne (w.getLsbD 31) (w.extractLsb' 20 5) (w.extractLsb' 15 5) (w.extractLsb' 10 5))
  | 28 =>
    .ok (.cmovnz (w.getLsbD 31) (w.extractLsb' 20 5) (w.extractLsb' 15 5) (w.extractLsb' 10 5))
  | 29 =>
    .ok (.cmovz (w.getLsbD 31) (w.extractLsb' 20 5) (w.extractLsb' 15 5) (w.extractLsb' 10 5))
  | 64 =>
    .ok (.mul (w.getLsbD 31) (w.extractLsb' 20 5) (w.extractLsb' 15 5) (w.extractLsb' 10 5))
  | 65 =>
    .ok (.mulhs (w.getLsbD 31) (w.extractLsb' 20 5) (w.extractLsb' 15 5) (w.extractLsb' 10 5))
  | 66 =>
    .ok (.mulhu (w.getLsbD 31) (w.extractLsb' 20 5) (w.extractLsb' 15 5) (w.extractLsb' 10 5))
  | 67 =>
    .ok (.mulhus (w.getLsbD 31) (w.extractLsb' 20 5) (w.extractLsb' 15 5) (w.extractLsb' 10 5))
  | 68 =>
    .ok (.mul32 (w.getLsbD 31) (w.extractLsb' 20 5) (w.extractLsb' 15 5) (w.extractLsb' 10 5))
  | 69 =>
    .ok (.muladd (w.getLsbD 31) (w.extractLsb' 20 5) (w.extractLsb' 15 5) (w.extractLsb' 10 5))
  | 70 =>
    .ok (.mulsub (w.getLsbD 31) (w.extractLsb' 20 5) (w.extractLsb' 15 5) (w.extractLsb' 10 5))
  | 72 =>
    .ok (.div (w.getLsbD 31) (w.extractLsb' 20 5) (w.extractLsb' 15 5) (w.extractLsb' 10 5))
  | 73 =>
    .ok (.divu (w.getLsbD 31) (w.extractLsb' 20 5) (w.extractLsb' 15 5) (w.extractLsb' 10 5))
  | 74 =>
    .ok (.rem (w.getLsbD 31) (w.extractLsb' 20 5) (w.extractLsb' 15 5) (w.extractLsb' 10 5))
  | 75 =>
    .ok (.remu (w.getLsbD 31) (w.extractLsb' 20 5) (w.extractLsb' 15 5) (w.extractLsb' 10 5))
  | _ => .error .unassignedMinor

/-- Major 0x06 (R262). -/
def decodeShiftImm (w : BitVec 32) : Except Reject Instr :=
  match (w.extractLsb' 12 3).toNat with
  | 0 =>
    if w &&& 0x00000FC0#32 = 0x00000000#32 then
      .ok (.slli (w.getLsbD 31) (w.extractLsb' 20 5) (w.extractLsb' 15 5) (w.extractLsb' 0 6))
    else .error .reservedField
  | 1 =>
    if w &&& 0x00000FC0#32 = 0x00000000#32 then
      .ok (.srli (w.getLsbD 31) (w.extractLsb' 20 5) (w.extractLsb' 15 5) (w.extractLsb' 0 6))
    else .error .reservedField
  | 2 =>
    if w &&& 0x00000FC0#32 = 0x00000000#32 then
      .ok (.srai (w.getLsbD 31) (w.extractLsb' 20 5) (w.extractLsb' 15 5) (w.extractLsb' 0 6))
    else .error .reservedField
  | 3 =>
    if w &&& 0x00000FC0#32 = 0x00000000#32 then
      .ok (.rori (w.getLsbD 31) (w.extractLsb' 20 5) (w.extractLsb' 15 5) (w.extractLsb' 0 6))
    else .error .reservedField
  | _ => .error .unassignedMinor

/-- Major 0x07 (R262). -/
def decodeSltImm (w : BitVec 32) : Except Reject Instr :=
  match (w.extractLsb' 14 1).toNat with
  | 0 =>
    .ok (.slti (w.getLsbD 31) (w.extractLsb' 20 5) (w.extractLsb' 15 5) (w.extractLsb' 0 14))
  | 1 =>
    .ok (.sltiu (w.getLsbD 31) (w.extractLsb' 20 5) (w.extractLsb' 15 5) (w.extractLsb' 0 14))
  | _ => .error .unassignedMinor

/-- Major 0x0A (R262). -/
def decodeLoad (w : BitVec 32) : Except Reject Instr :=
  match (w.extractLsb' 12 3).toNat with
  | 0 =>
    .ok (.ld (w.getLsbD 31) (w.extractLsb' 20 5) (w.extractLsb' 15 5) (Width.ofCode (w.extractLsb' 12 2)) (w.extractLsb' 0 12))
  | 1 =>
    .ok (.ld (w.getLsbD 31) (w.extractLsb' 20 5) (w.extractLsb' 15 5) (Width.ofCode (w.extractLsb' 12 2)) (w.extractLsb' 0 12))
  | 2 =>
    .ok (.ld (w.getLsbD 31) (w.extractLsb' 20 5) (w.extractLsb' 15 5) (Width.ofCode (w.extractLsb' 12 2)) (w.extractLsb' 0 12))
  | 3 =>
    .ok (.ld (w.getLsbD 31) (w.extractLsb' 20 5) (w.extractLsb' 15 5) (Width.ofCode (w.extractLsb' 12 2)) (w.extractLsb' 0 12))
  | 4 =>
    .ok (.ldu (w.getLsbD 31) (w.extractLsb' 20 5) (w.extractLsb' 15 5) (Width.ofCode (w.extractLsb' 12 2)) (w.extractLsb' 0 12))
  | 5 =>
    .ok (.ldu (w.getLsbD 31) (w.extractLsb' 20 5) (w.extractLsb' 15 5) (Width.ofCode (w.extractLsb' 12 2)) (w.extractLsb' 0 12))
  | 6 =>
    .ok (.ldu (w.getLsbD 31) (w.extractLsb' 20 5) (w.extractLsb' 15 5) (Width.ofCode (w.extractLsb' 12 2)) (w.extractLsb' 0 12))
  | 7 =>
    .ok (.ldu (w.getLsbD 31) (w.extractLsb' 20 5) (w.extractLsb' 15 5) (Width.ofCode (w.extractLsb' 12 2)) (w.extractLsb' 0 12))
  | _ => .error .unassignedMinor

/-- Major 0x0B (R262). -/
def decodeStore (w : BitVec 32) : Except Reject Instr :=
  match (w.extractLsb' 12 3).toNat with
  | 0 =>
    .ok (.st (w.getLsbD 31) (w.extractLsb' 20 5) (w.extractLsb' 15 5) (Width.ofCode (w.extractLsb' 12 2)) (w.extractLsb' 0 12))
  | 1 =>
    .ok (.st (w.getLsbD 31) (w.extractLsb' 20 5) (w.extractLsb' 15 5) (Width.ofCode (w.extractLsb' 12 2)) (w.extractLsb' 0 12))
  | 2 =>
    .ok (.st (w.getLsbD 31) (w.extractLsb' 20 5) (w.extractLsb' 15 5) (Width.ofCode (w.extractLsb' 12 2)) (w.extractLsb' 0 12))
  | 3 =>
    .ok (.st (w.getLsbD 31) (w.extractLsb' 20 5) (w.extractLsb' 15 5) (Width.ofCode (w.extractLsb' 12 2)) (w.extractLsb' 0 12))
  | _ => .error .unassignedMinor

/-- Major 0x0C (R262). -/
def decodeOrdered (w : BitVec 32) : Except Reject Instr :=
  match (w.extractLsb' 8 2).toNat with
  | 0 =>
    if w &&& 0x00007C07#32 = 0x00000000#32 then
      match Scope.ofCode (w.extractLsb' 5 3) with
        | some c => .ok (.lda (w.getLsbD 31) (w.extractLsb' 20 5) (w.extractLsb' 15 5) c (Width.ofCode (w.extractLsb' 3 2)))
        | _ => .error .reservedCode
    else .error .reservedField
  | 1 =>
    if w &&& 0x01F00007#32 = 0x00000000#32 then
      match Scope.ofCode (w.extractLsb' 5 3) with
        | some c => .ok (.stl (w.getLsbD 31) (w.extractLsb' 15 5) (w.extractLsb' 10 5) c (Width.ofCode (w.extractLsb' 3 2)))
        | _ => .error .reservedCode
    else .error .reservedField
  | _ => .error .unassignedMinor

/-- Major 0x0D (R262). -/
def decodeAtomic (w : BitVec 32) : Except Reject Instr :=
  match (w.extractLsb' 5 5).toNat with
  | 0 =>
    match Scope.ofCode (w.extractLsb' 0 3) with
      | some c => .ok (.amoadd (w.getLsbD 31) (w.extractLsb' 20 5) (w.extractLsb' 15 5) (w.extractLsb' 10 5) (w.getLsbD 6) (Ann.ofCode (w.extractLsb' 3 2)) c)
      | _ => .error .reservedCode
  | 1 =>
    match Scope.ofCode (w.extractLsb' 0 3) with
      | some c => .ok (.famoadd (w.getLsbD 31) (w.extractLsb' 20 5) (w.extractLsb' 15 5) (w.extractLsb' 10 5) (w.getLsbD 6) (Ann.ofCode (w.extractLsb' 3 2)) c)
      | _ => .error .reservedCode
  | 2 =>
    match Scope.ofCode (w.extractLsb' 0 3) with
      | some c => .ok (.amoadd (w.getLsbD 31) (w.extractLsb' 20 5) (w.extractLsb' 15 5) (w.extractLsb' 10 5) (w.getLsbD 6) (Ann.ofCode (w.extractLsb' 3 2)) c)
      | _ => .error .reservedCode
  | 3 =>
    match Scope.ofCode (w.extractLsb' 0 3) with
      | some c => .ok (.famoadd (w.getLsbD 31) (w.extractLsb' 20 5) (w.extractLsb' 15 5) (w.extractLsb' 10 5) (w.getLsbD 6) (Ann.ofCode (w.extractLsb' 3 2)) c)
      | _ => .error .reservedCode
  | 4 =>
    match Scope.ofCode (w.extractLsb' 0 3) with
      | some c => .ok (.amoswap (w.getLsbD 31) (w.extractLsb' 20 5) (w.extractLsb' 15 5) (w.extractLsb' 10 5) (w.getLsbD 6) (Ann.ofCode (w.extractLsb' 3 2)) c)
      | _ => .error .reservedCode
  | 5 =>
    match Scope.ofCode (w.extractLsb' 0 3) with
      | some c => .ok (.famoswap (w.getLsbD 31) (w.extractLsb' 20 5) (w.extractLsb' 15 5) (w.extractLsb' 10 5) (w.getLsbD 6) (Ann.ofCode (w.extractLsb' 3 2)) c)
      | _ => .error .reservedCode
  | 6 =>
    match Scope.ofCode (w.extractLsb' 0 3) with
      | some c => .ok (.amoswap (w.getLsbD 31) (w.extractLsb' 20 5) (w.extractLsb' 15 5) (w.extractLsb' 10 5) (w.getLsbD 6) (Ann.ofCode (w.extractLsb' 3 2)) c)
      | _ => .error .reservedCode
  | 7 =>
    match Scope.ofCode (w.extractLsb' 0 3) with
      | some c => .ok (.famoswap (w.getLsbD 31) (w.extractLsb' 20 5) (w.extractLsb' 15 5) (w.extractLsb' 10 5) (w.getLsbD 6) (Ann.ofCode (w.extractLsb' 3 2)) c)
      | _ => .error .reservedCode
  | 8 =>
    match Scope.ofCode (w.extractLsb' 0 3) with
      | some c => .ok (.amocas (w.getLsbD 31) (w.extractLsb' 20 5) (w.extractLsb' 15 5) (w.extractLsb' 10 5) (w.getLsbD 6) (Ann.ofCode (w.extractLsb' 3 2)) c)
      | _ => .error .reservedCode
  | 9 =>
    match Scope.ofCode (w.extractLsb' 0 3) with
      | some c => .ok (.famocas (w.getLsbD 31) (w.extractLsb' 20 5) (w.extractLsb' 15 5) (w.extractLsb' 10 5) (w.getLsbD 6) (Ann.ofCode (w.extractLsb' 3 2)) c)
      | _ => .error .reservedCode
  | 10 =>
    match Scope.ofCode (w.extractLsb' 0 3) with
      | some c => .ok (.amocas (w.getLsbD 31) (w.extractLsb' 20 5) (w.extractLsb' 15 5) (w.extractLsb' 10 5) (w.getLsbD 6) (Ann.ofCode (w.extractLsb' 3 2)) c)
      | _ => .error .reservedCode
  | 11 =>
    match Scope.ofCode (w.extractLsb' 0 3) with
      | some c => .ok (.famocas (w.getLsbD 31) (w.extractLsb' 20 5) (w.extractLsb' 15 5) (w.extractLsb' 10 5) (w.getLsbD 6) (Ann.ofCode (w.extractLsb' 3 2)) c)
      | _ => .error .reservedCode
  | 12 =>
    match Scope.ofCode (w.extractLsb' 0 3) with
      | some c => .ok (.amoand (w.getLsbD 31) (w.extractLsb' 20 5) (w.extractLsb' 15 5) (w.extractLsb' 10 5) (Ann.ofCode (w.extractLsb' 3 2)) c)
      | _ => .error .reservedCode
  | 13 =>
    match Scope.ofCode (w.extractLsb' 0 3) with
      | some c => .ok (.famoand (w.getLsbD 31) (w.extractLsb' 20 5) (w.extractLsb' 15 5) (w.extractLsb' 10 5) (Ann.ofCode (w.extractLsb' 3 2)) c)
      | _ => .error .reservedCode
  | 14 =>
    match Scope.ofCode (w.extractLsb' 0 3) with
      | some c => .ok (.amoor (w.getLsbD 31) (w.extractLsb' 20 5) (w.extractLsb' 15 5) (w.extractLsb' 10 5) (Ann.ofCode (w.extractLsb' 3 2)) c)
      | _ => .error .reservedCode
  | 15 =>
    match Scope.ofCode (w.extractLsb' 0 3) with
      | some c => .ok (.famoor (w.getLsbD 31) (w.extractLsb' 20 5) (w.extractLsb' 15 5) (w.extractLsb' 10 5) (Ann.ofCode (w.extractLsb' 3 2)) c)
      | _ => .error .reservedCode
  | 16 =>
    match Scope.ofCode (w.extractLsb' 0 3) with
      | some c => .ok (.amoxor (w.getLsbD 31) (w.extractLsb' 20 5) (w.extractLsb' 15 5) (w.extractLsb' 10 5) (Ann.ofCode (w.extractLsb' 3 2)) c)
      | _ => .error .reservedCode
  | 17 =>
    match Scope.ofCode (w.extractLsb' 0 3) with
      | some c => .ok (.famoxor (w.getLsbD 31) (w.extractLsb' 20 5) (w.extractLsb' 15 5) (w.extractLsb' 10 5) (Ann.ofCode (w.extractLsb' 3 2)) c)
      | _ => .error .reservedCode
  | 18 =>
    match Scope.ofCode (w.extractLsb' 0 3) with
      | some c => .ok (.amomin (w.getLsbD 31) (w.extractLsb' 20 5) (w.extractLsb' 15 5) (w.extractLsb' 10 5) (Ann.ofCode (w.extractLsb' 3 2)) c)
      | _ => .error .reservedCode
  | 19 =>
    match Scope.ofCode (w.extractLsb' 0 3) with
      | some c => .ok (.famomin (w.getLsbD 31) (w.extractLsb' 20 5) (w.extractLsb' 15 5) (w.extractLsb' 10 5) (Ann.ofCode (w.extractLsb' 3 2)) c)
      | _ => .error .reservedCode
  | 20 =>
    match Scope.ofCode (w.extractLsb' 0 3) with
      | some c => .ok (.amomax (w.getLsbD 31) (w.extractLsb' 20 5) (w.extractLsb' 15 5) (w.extractLsb' 10 5) (Ann.ofCode (w.extractLsb' 3 2)) c)
      | _ => .error .reservedCode
  | 21 =>
    match Scope.ofCode (w.extractLsb' 0 3) with
      | some c => .ok (.famomax (w.getLsbD 31) (w.extractLsb' 20 5) (w.extractLsb' 15 5) (w.extractLsb' 10 5) (Ann.ofCode (w.extractLsb' 3 2)) c)
      | _ => .error .reservedCode
  | 22 =>
    match Scope.ofCode (w.extractLsb' 0 3) with
      | some c => .ok (.amominu (w.getLsbD 31) (w.extractLsb' 20 5) (w.extractLsb' 15 5) (w.extractLsb' 10 5) (Ann.ofCode (w.extractLsb' 3 2)) c)
      | _ => .error .reservedCode
  | 23 =>
    match Scope.ofCode (w.extractLsb' 0 3) with
      | some c => .ok (.famominu (w.getLsbD 31) (w.extractLsb' 20 5) (w.extractLsb' 15 5) (w.extractLsb' 10 5) (Ann.ofCode (w.extractLsb' 3 2)) c)
      | _ => .error .reservedCode
  | 24 =>
    match Scope.ofCode (w.extractLsb' 0 3) with
      | some c => .ok (.amomaxu (w.getLsbD 31) (w.extractLsb' 20 5) (w.extractLsb' 15 5) (w.extractLsb' 10 5) (Ann.ofCode (w.extractLsb' 3 2)) c)
      | _ => .error .reservedCode
  | 25 =>
    match Scope.ofCode (w.extractLsb' 0 3) with
      | some c => .ok (.famomaxu (w.getLsbD 31) (w.extractLsb' 20 5) (w.extractLsb' 15 5) (w.extractLsb' 10 5) (Ann.ofCode (w.extractLsb' 3 2)) c)
      | _ => .error .reservedCode
  | 26 =>
    match Scope.ofCode (w.extractLsb' 0 3) with
      | some c => .ok (.amofaddS (w.getLsbD 31) (w.extractLsb' 20 5) (w.extractLsb' 15 5) (w.extractLsb' 10 5) (Ann.ofCode (w.extractLsb' 3 2)) c)
      | _ => .error .reservedCode
  | 27 =>
    match Scope.ofCode (w.extractLsb' 0 3) with
      | some c => .ok (.famofaddS (w.getLsbD 31) (w.extractLsb' 20 5) (w.extractLsb' 15 5) (w.extractLsb' 10 5) (Ann.ofCode (w.extractLsb' 3 2)) c)
      | _ => .error .reservedCode
  | 28 =>
    match Scope.ofCode (w.extractLsb' 0 3) with
      | some c => .ok (.amofaddD (w.getLsbD 31) (w.extractLsb' 20 5) (w.extractLsb' 15 5) (w.extractLsb' 10 5) (Ann.ofCode (w.extractLsb' 3 2)) c)
      | _ => .error .reservedCode
  | 29 =>
    match Scope.ofCode (w.extractLsb' 0 3) with
      | some c => .ok (.famofaddD (w.getLsbD 31) (w.extractLsb' 20 5) (w.extractLsb' 15 5) (w.extractLsb' 10 5) (Ann.ofCode (w.extractLsb' 3 2)) c)
      | _ => .error .reservedCode
  | _ => .error .unassignedMinor

/-- Major 0x0E (R262). -/
def decodeFence (w : BitVec 32) : Except Reject Instr :=
  match (w.extractLsb' 8 2 ++ w.extractLsb' 3 2).toNat with
  | 1 =>
    if w &&& 0x01F07CE0#32 = 0x00000000#32 then
      match Scope.ofCode (w.extractLsb' 0 3) with
        | some c => .ok (.fencel (w.getLsbD 31) (w.extractLsb' 15 5) c)
        | _ => .error .reservedCode
    else .error .reservedField
  | 2 =>
    if w &&& 0x01F07CE0#32 = 0x00000000#32 then
      match Scope.ofCode (w.extractLsb' 0 3) with
        | some c => .ok (.fencea (w.getLsbD 31) (w.extractLsb' 15 5) c)
        | _ => .error .reservedCode
    else .error .reservedField
  | 3 =>
    if w &&& 0x01F07CE0#32 = 0x00000000#32 then
      match Scope.ofCode (w.extractLsb' 0 3) with
        | some c => .ok (.fence (w.getLsbD 31) (w.extractLsb' 15 5) c)
        | _ => .error .reservedCode
    else .error .reservedField
  | 4 =>
    if w &&& 0x01F000E0#32 = 0x00000000#32 then
      match Scope.ofCode (w.extractLsb' 0 3) with
        | some c => .ok (.xfence (w.getLsbD 31) (w.extractLsb' 15 5) (w.extractLsb' 10 5) c)
        | _ => .error .reservedCode
    else .error .reservedField
  | _ => .error .unassignedMinor

/-- Major 0x0F (R262). -/
def decodeBitfield (w : BitVec 32) : Except Reject Instr :=
  match (w.extractLsb' 8 2).toNat with
  | 0 =>
    if w &&& 0x00000002#32 = 0x00000000#32 then
      .ok (.bfx (w.getLsbD 31) (w.extractLsb' 20 5) (w.extractLsb' 15 5) (w.extractLsb' 0 1 ++ w.extractLsb' 10 5) (w.extractLsb' 2 6))
    else .error .reservedField
  | 1 =>
    if w &&& 0x00000002#32 = 0x00000000#32 then
      .ok (.bfxu (w.getLsbD 31) (w.extractLsb' 20 5) (w.extractLsb' 15 5) (w.extractLsb' 0 1 ++ w.extractLsb' 10 5) (w.extractLsb' 2 6))
    else .error .reservedField
  | 2 =>
    if w &&& 0x00000002#32 = 0x00000000#32 then
      .ok (.bfi (w.getLsbD 31) (w.extractLsb' 20 5) (w.extractLsb' 15 5) (w.extractLsb' 0 1 ++ w.extractLsb' 10 5) (w.extractLsb' 2 6))
    else .error .reservedField
  | _ => .error .unassignedMinor

/-- Major 0x1A (R262). -/
def decodeFpArith (w : BitVec 32) : Except Reject Instr :=
  match (w.extractLsb' 5 5).toNat with
  | 0 =>
    match Fmt.ofCode (w.extractLsb' 3 2), Rm.ofCode (w.extractLsb' 0 3) with
      | some f, some r => .ok (.fadd (w.getLsbD 31) (w.extractLsb' 20 5) (w.extractLsb' 15 5) (w.extractLsb' 10 5) f r)
      | _, _ => .error .reservedCode
  | 1 =>
    match Fmt.ofCode (w.extractLsb' 3 2), Rm.ofCode (w.extractLsb' 0 3) with
      | some f, some r => .ok (.fsub (w.getLsbD 31) (w.extractLsb' 20 5) (w.extractLsb' 15 5) (w.extractLsb' 10 5) f r)
      | _, _ => .error .reservedCode
  | 2 =>
    match Fmt.ofCode (w.extractLsb' 3 2), Rm.ofCode (w.extractLsb' 0 3) with
      | some f, some r => .ok (.fmul (w.getLsbD 31) (w.extractLsb' 20 5) (w.extractLsb' 15 5) (w.extractLsb' 10 5) f r)
      | _, _ => .error .reservedCode
  | 3 =>
    match Fmt.ofCode (w.extractLsb' 3 2), Rm.ofCode (w.extractLsb' 0 3) with
      | some f, some r => .ok (.fdiv (w.getLsbD 31) (w.extractLsb' 20 5) (w.extractLsb' 15 5) (w.extractLsb' 10 5) f r)
      | _, _ => .error .reservedCode
  | 4 =>
    if w &&& 0x00007C00#32 = 0x00000000#32 then
      match Fmt.ofCode (w.extractLsb' 3 2), Rm.ofCode (w.extractLsb' 0 3) with
        | some f, some r => .ok (.fsqrt (w.getLsbD 31) (w.extractLsb' 20 5) (w.extractLsb' 15 5) f r)
        | _, _ => .error .reservedCode
    else .error .reservedField
  | 5 =>
    if w &&& 0x00000007#32 = 0x00000000#32 then
      match Fmt.ofCode (w.extractLsb' 3 2) with
        | some f => .ok (.fmin (w.getLsbD 31) (w.extractLsb' 20 5) (w.extractLsb' 15 5) (w.extractLsb' 10 5) f)
        | _ => .error .reservedCode
    else .error .reservedField
  | 6 =>
    if w &&& 0x00000007#32 = 0x00000000#32 then
      match Fmt.ofCode (w.extractLsb' 3 2) with
        | some f => .ok (.fmax (w.getLsbD 31) (w.extractLsb' 20 5) (w.extractLsb' 15 5) (w.extractLsb' 10 5) f)
        | _ => .error .reservedCode
    else .error .reservedField
  | 7 =>
    if w &&& 0x00000007#32 = 0x00000000#32 then
      match Fmt.ofCode (w.extractLsb' 3 2) with
        | some f => .ok (.fcpsgn (w.getLsbD 31) (w.extractLsb' 20 5) (w.extractLsb' 15 5) (w.extractLsb' 10 5) f)
        | _ => .error .reservedCode
    else .error .reservedField
  | 8 =>
    if w &&& 0x00007C07#32 = 0x00000000#32 then
      match Fmt.ofCode (w.extractLsb' 3 2) with
        | some f => .ok (.fneg (w.getLsbD 31) (w.extractLsb' 20 5) (w.extractLsb' 15 5) f)
        | _ => .error .reservedCode
    else .error .reservedField
  | 9 =>
    if w &&& 0x00007C07#32 = 0x00000000#32 then
      match Fmt.ofCode (w.extractLsb' 3 2) with
        | some f => .ok (.fabs (w.getLsbD 31) (w.extractLsb' 20 5) (w.extractLsb' 15 5) f)
        | _ => .error .reservedCode
    else .error .reservedField
  | 10 =>
    if w &&& 0x00000007#32 = 0x00000000#32 then
      match Fmt.ofCode (w.extractLsb' 3 2) with
        | some f => .ok (.fxsgn (w.getLsbD 31) (w.extractLsb' 20 5) (w.extractLsb' 15 5) (w.extractLsb' 10 5) f)
        | _ => .error .reservedCode
    else .error .reservedField
  | _ => .error .unassignedMinor

/-- Major 0x1B (R262). -/
def decodeFmaD (w : BitVec 32) : Except Reject Instr :=
  match (w.extractLsb' 3 2).toNat with
  | 0 =>
    match Rm.ofCode (w.extractLsb' 0 3) with
      | some r => .ok (.fmaddD (w.getLsbD 31) (w.extractLsb' 20 5) (w.extractLsb' 15 5) (w.extractLsb' 10 5) (w.extractLsb' 5 5) r)
      | _ => .error .reservedCode
  | 1 =>
    match Rm.ofCode (w.extractLsb' 0 3) with
      | some r => .ok (.fmsubD (w.getLsbD 31) (w.extractLsb' 20 5) (w.extractLsb' 15 5) (w.extractLsb' 10 5) (w.extractLsb' 5 5) r)
      | _ => .error .reservedCode
  | 2 =>
    match Rm.ofCode (w.extractLsb' 0 3) with
      | some r => .ok (.fnmaddD (w.getLsbD 31) (w.extractLsb' 20 5) (w.extractLsb' 15 5) (w.extractLsb' 10 5) (w.extractLsb' 5 5) r)
      | _ => .error .reservedCode
  | 3 =>
    match Rm.ofCode (w.extractLsb' 0 3) with
      | some r => .ok (.fnmsubD (w.getLsbD 31) (w.extractLsb' 20 5) (w.extractLsb' 15 5) (w.extractLsb' 10 5) (w.extractLsb' 5 5) r)
      | _ => .error .reservedCode
  | _ => .error .unassignedMinor

/-- Major 0x1C (R262). -/
def decodeFmaS (w : BitVec 32) : Except Reject Instr :=
  match (w.extractLsb' 3 2).toNat with
  | 0 =>
    match Rm.ofCode (w.extractLsb' 0 3) with
      | some r => .ok (.fmaddS (w.getLsbD 31) (w.extractLsb' 20 5) (w.extractLsb' 15 5) (w.extractLsb' 10 5) (w.extractLsb' 5 5) r)
      | _ => .error .reservedCode
  | 1 =>
    match Rm.ofCode (w.extractLsb' 0 3) with
      | some r => .ok (.fmsubS (w.getLsbD 31) (w.extractLsb' 20 5) (w.extractLsb' 15 5) (w.extractLsb' 10 5) (w.extractLsb' 5 5) r)
      | _ => .error .reservedCode
  | 2 =>
    match Rm.ofCode (w.extractLsb' 0 3) with
      | some r => .ok (.fnmaddS (w.getLsbD 31) (w.extractLsb' 20 5) (w.extractLsb' 15 5) (w.extractLsb' 10 5) (w.extractLsb' 5 5) r)
      | _ => .error .reservedCode
  | 3 =>
    match Rm.ofCode (w.extractLsb' 0 3) with
      | some r => .ok (.fnmsubS (w.getLsbD 31) (w.extractLsb' 20 5) (w.extractLsb' 15 5) (w.extractLsb' 10 5) (w.extractLsb' 5 5) r)
      | _ => .error .reservedCode
  | _ => .error .unassignedMinor

/-- Major 0x1D (R262). -/
def decodeFpConvert (w : BitVec 32) : Except Reject Instr :=
  match (w.extractLsb' 5 5).toNat with
  | 0 =>
    if w &&& 0x00000007#32 = 0x00000000#32 then
      match Fmt.ofCode (w.extractLsb' 3 2) with
        | some f => .ok (.fcmpq (w.getLsbD 31) (w.extractLsb' 20 5) (w.extractLsb' 15 5) (w.extractLsb' 10 5) f)
        | _ => .error .reservedCode
    else .error .reservedField
  | 1 =>
    if w &&& 0x00000007#32 = 0x00000000#32 then
      match Fmt.ofCode (w.extractLsb' 3 2) with
        | some f => .ok (.fcmps (w.getLsbD 31) (w.extractLsb' 20 5) (w.extractLsb' 15 5) (w.extractLsb' 10 5) f)
        | _ => .error .reservedCode
    else .error .reservedField
  | 3 =>
    if w &&& 0x00007C07#32 = 0x00000000#32 then
      match Fmt.ofCode (w.extractLsb' 3 2) with
        | some f => .ok (.fclass (w.getLsbD 31) (w.extractLsb' 20 5) (w.extractLsb' 15 5) f)
        | _ => .error .reservedCode
    else .error .reservedField
  | 4 =>
    if w &&& 0x00007C00#32 = 0x00000000#32 then
      match Fmt.ofCode (w.extractLsb' 3 2), Rm.ofCode (w.extractLsb' 0 3) with
        | some f, some r => .ok (.fcvt (w.getLsbD 31) (w.extractLsb' 20 5) (w.extractLsb' 15 5) f r)
        | _, _ => .error .reservedCode
    else .error .reservedField
  | 5 =>
    if w &&& 0x00007C00#32 = 0x00000000#32 then
      match Fmt.ofCode (w.extractLsb' 3 2), Rm.ofCode (w.extractLsb' 0 3) with
        | some f, some r => .ok (.fcvti (w.getLsbD 31) (w.extractLsb' 20 5) (w.extractLsb' 15 5) f r)
        | _, _ => .error .reservedCode
    else .error .reservedField
  | 6 =>
    if w &&& 0x00007C00#32 = 0x00000000#32 then
      match Fmt.ofCode (w.extractLsb' 3 2), Rm.ofCode (w.extractLsb' 0 3) with
        | some f, some r => .ok (.fcvtiu (w.getLsbD 31) (w.extractLsb' 20 5) (w.extractLsb' 15 5) f r)
        | _, _ => .error .reservedCode
    else .error .reservedField
  | 7 =>
    if w &&& 0x00007C00#32 = 0x00000000#32 then
      match Fmt.ofCode (w.extractLsb' 3 2), Rm.ofCode (w.extractLsb' 0 3) with
        | some f, some r => .ok (.icvtf (w.getLsbD 31) (w.extractLsb' 20 5) (w.extractLsb' 15 5) f r)
        | _, _ => .error .reservedCode
    else .error .reservedField
  | 8 =>
    if w &&& 0x00007C00#32 = 0x00000000#32 then
      match Fmt.ofCode (w.extractLsb' 3 2), Rm.ofCode (w.extractLsb' 0 3) with
        | some f, some r => .ok (.iucvtf (w.getLsbD 31) (w.extractLsb' 20 5) (w.extractLsb' 15 5) f r)
        | _, _ => .error .reservedCode
    else .error .reservedField
  | 9 =>
    match Fmt.ofCode (w.extractLsb' 3 2), Rm.ofCode (w.extractLsb' 0 3) with
      | some f, some r => .ok (.fcvtn (w.getLsbD 31) (w.extractLsb' 20 5) (w.extractLsb' 15 5) (w.extractLsb' 10 5) f r)
      | _, _ => .error .reservedCode
  | 10 =>
    if w &&& 0x00000007#32 = 0x00000000#32 then
      match Fmt.ofCode (w.extractLsb' 3 2) with
        | some f => .ok (.fcvtw (w.getLsbD 31) (w.extractLsb' 20 5) (w.extractLsb' 15 5) (w.extractLsb' 10 5) f)
        | _ => .error .reservedCode
    else .error .reservedField
  | _ => .error .unassignedMinor

/-- Major 0x20 (R262). -/
def decodeVInt (w : BitVec 32) : Except Reject Instr :=
  match (w.extractLsb' 0 4).toNat with
  | 0 =>
    if w &&& 0x00000010#32 = 0x00000000#32 then
      .ok (.vadd (w.getLsbD 31) (w.extractLsb' 20 5) (w.extractLsb' 15 5) (w.extractLsb' 10 5) (w.extractLsb' 5 5))
    else .error .reservedField
  | 1 =>
    if w &&& 0x00000010#32 = 0x00000000#32 then
      .ok (.vsub (w.getLsbD 31) (w.extractLsb' 20 5) (w.extractLsb' 15 5) (w.extractLsb' 10 5) (w.extractLsb' 5 5))
    else .error .reservedField
  | 2 =>
    if w &&& 0x00000010#32 = 0x00000000#32 then
      .ok (.vmul (w.getLsbD 31) (w.extractLsb' 20 5) (w.extractLsb' 15 5) (w.extractLsb' 10 5) (w.extractLsb' 5 5))
    else .error .reservedField
  | 3 =>
    if w &&& 0x00000010#32 = 0x00000000#32 then
      .ok (.vmulh (w.getLsbD 31) (w.extractLsb' 20 5) (w.extractLsb' 15 5) (w.extractLsb' 10 5) (w.extractLsb' 5 5))
    else .error .reservedField
  | 4 =>
    if w &&& 0x00000010#32 = 0x00000000#32 then
      .ok (.vmulhu (w.getLsbD 31) (w.extractLsb' 20 5) (w.extractLsb' 15 5) (w.extractLsb' 10 5) (w.extractLsb' 5 5))
    else .error .reservedField
  | 5 =>
    if w &&& 0x00000010#32 = 0x00000000#32 then
      .ok (.vand (w.getLsbD 31) (w.extractLsb' 20 5) (w.extractLsb' 15 5) (w.extractLsb' 10 5) (w.extractLsb' 5 5))
    else .error .reservedField
  | 6 =>
    if w &&& 0x00000010#32 = 0x00000000#32 then
      .ok (.vor (w.getLsbD 31) (w.extractLsb' 20 5) (w.extractLsb' 15 5) (w.extractLsb' 10 5) (w.extractLsb' 5 5))
    else .error .reservedField
  | 7 =>
    if w &&& 0x00000010#32 = 0x00000000#32 then
      .ok (.vxor (w.getLsbD 31) (w.extractLsb' 20 5) (w.extractLsb' 15 5) (w.extractLsb' 10 5) (w.extractLsb' 5 5))
    else .error .reservedField
  | 8 =>
    if w &&& 0x00000010#32 = 0x00000000#32 then
      .ok (.vsll (w.getLsbD 31) (w.extractLsb' 20 5) (w.extractLsb' 15 5) (w.extractLsb' 10 5) (w.extractLsb' 5 5))
    else .error .reservedField
  | 9 =>
    if w &&& 0x00000010#32 = 0x00000000#32 then
      .ok (.vsrl (w.getLsbD 31) (w.extractLsb' 20 5) (w.extractLsb' 15 5) (w.extractLsb' 10 5) (w.extractLsb' 5 5))
    else .error .reservedField
  | 10 =>
    if w &&& 0x00000010#32 = 0x00000000#32 then
      .ok (.vsra (w.getLsbD 31) (w.extractLsb' 20 5) (w.extractLsb' 15 5) (w.extractLsb' 10 5) (w.extractLsb' 5 5))
    else .error .reservedField
  | 11 =>
    if w &&& 0x00000010#32 = 0x00000000#32 then
      .ok (.vmin (w.getLsbD 31) (w.extractLsb' 20 5) (w.extractLsb' 15 5) (w.extractLsb' 10 5) (w.extractLsb' 5 5))
    else .error .reservedField
  | 12 =>
    if w &&& 0x00000010#32 = 0x00000000#32 then
      .ok (.vmax (w.getLsbD 31) (w.extractLsb' 20 5) (w.extractLsb' 15 5) (w.extractLsb' 10 5) (w.extractLsb' 5 5))
    else .error .reservedField
  | 13 =>
    if w &&& 0x00000010#32 = 0x00000000#32 then
      .ok (.vminu (w.getLsbD 31) (w.extractLsb' 20 5) (w.extractLsb' 15 5) (w.extractLsb' 10 5) (w.extractLsb' 5 5))
    else .error .reservedField
  | 14 =>
    if w &&& 0x00000010#32 = 0x00000000#32 then
      .ok (.vmaxu (w.getLsbD 31) (w.extractLsb' 20 5) (w.extractLsb' 15 5) (w.extractLsb' 10 5) (w.extractLsb' 5 5))
    else .error .reservedField
  | _ => .error .unassignedMinor

/-- Major 0x21 (R262). -/
def decodeVIntMisc (w : BitVec 32) : Except Reject Instr :=
  match (w.extractLsb' 0 4).toNat with
  | 0 =>
    .ok (.vsadd (w.getLsbD 31) (w.extractLsb' 20 5) (w.extractLsb' 15 5) (w.extractLsb' 10 5) (w.extractLsb' 5 5) (w.getLsbD 4))
  | 1 =>
    .ok (.vsaddu (w.getLsbD 31) (w.extractLsb' 20 5) (w.extractLsb' 15 5) (w.extractLsb' 10 5) (w.extractLsb' 5 5) (w.getLsbD 4))
  | 2 =>
    .ok (.vssub (w.getLsbD 31) (w.extractLsb' 20 5) (w.extractLsb' 15 5) (w.extractLsb' 10 5) (w.extractLsb' 5 5) (w.getLsbD 4))
  | 3 =>
    .ok (.vssubu (w.getLsbD 31) (w.extractLsb' 20 5) (w.extractLsb' 15 5) (w.extractLsb' 10 5) (w.extractLsb' 5 5) (w.getLsbD 4))
  | 4 =>
    if w &&& 0x00007C10#32 = 0x00000000#32 then
      .ok (.vabs (w.getLsbD 31) (w.extractLsb' 20 5) (w.extractLsb' 15 5) (w.extractLsb' 5 5))
    else .error .reservedField
  | 5 =>
    if w &&& 0x00007C10#32 = 0x00000000#32 then
      .ok (.vsplat (w.getLsbD 31) (w.extractLsb' 20 5) (w.extractLsb' 15 5) (w.extractLsb' 5 5))
    else .error .reservedField
  | 6 =>
    if w &&& 0x000FFC10#32 = 0x00000000#32 then
      .ok (.viota (w.getLsbD 31) (w.extractLsb' 20 5) (w.extractLsb' 5 5))
    else .error .reservedField
  | 7 =>
    if w &&& 0x00007C10#32 = 0x00000000#32 then
      .ok (.vmv (w.getLsbD 31) (w.extractLsb' 20 5) (w.extractLsb' 15 5) (w.extractLsb' 5 5))
    else .error .reservedField
  | 8 =>
    if w &&& 0x00007C10#32 = 0x00000000#32 then
      .ok (.vsext (w.getLsbD 31) (w.extractLsb' 20 5) (w.extractLsb' 15 5) (w.extractLsb' 5 5))
    else .error .reservedField
  | 9 =>
    if w &&& 0x00007C10#32 = 0x00000000#32 then
      .ok (.vzext (w.getLsbD 31) (w.extractLsb' 20 5) (w.extractLsb' 15 5) (w.extractLsb' 5 5))
    else .error .reservedField
  | _ => .error .unassignedMinor

/-- Major 0x22 (R262). -/
def decodeVFp (w : BitVec 32) : Except Reject Instr :=
  match (w.extractLsb' 0 4).toNat with
  | 0 =>
    .ok (.vfadd (w.getLsbD 31) (w.extractLsb' 20 5) (w.extractLsb' 15 5) (w.extractLsb' 10 5) (w.extractLsb' 5 5) (w.getLsbD 4))
  | 1 =>
    .ok (.vfsub (w.getLsbD 31) (w.extractLsb' 20 5) (w.extractLsb' 15 5) (w.extractLsb' 10 5) (w.extractLsb' 5 5) (w.getLsbD 4))
  | 2 =>
    .ok (.vfmul (w.getLsbD 31) (w.extractLsb' 20 5) (w.extractLsb' 15 5) (w.extractLsb' 10 5) (w.extractLsb' 5 5) (w.getLsbD 4))
  | 3 =>
    .ok (.vfdiv (w.getLsbD 31) (w.extractLsb' 20 5) (w.extractLsb' 15 5) (w.extractLsb' 10 5) (w.extractLsb' 5 5) (w.getLsbD 4))
  | 4 =>
    if w &&& 0x00007C00#32 = 0x00000000#32 then
      .ok (.vfsqrt (w.getLsbD 31) (w.extractLsb' 20 5) (w.extractLsb' 15 5) (w.extractLsb' 5 5) (w.getLsbD 4))
    else .error .reservedField
  | 5 =>
    .ok (.vfmin (w.getLsbD 31) (w.extractLsb' 20 5) (w.extractLsb' 15 5) (w.extractLsb' 10 5) (w.extractLsb' 5 5) (w.getLsbD 4))
  | 6 =>
    .ok (.vfmax (w.getLsbD 31) (w.extractLsb' 20 5) (w.extractLsb' 15 5) (w.extractLsb' 10 5) (w.extractLsb' 5 5) (w.getLsbD 4))
  | 7 =>
    if w &&& 0x00000010#32 = 0x00000000#32 then
      .ok (.vfcpsgn (w.getLsbD 31) (w.extractLsb' 20 5) (w.extractLsb' 15 5) (w.extractLsb' 10 5) (w.extractLsb' 5 5))
    else .error .reservedField
  | 8 =>
    if w &&& 0x00007C10#32 = 0x00000000#32 then
      .ok (.vfneg (w.getLsbD 31) (w.extractLsb' 20 5) (w.extractLsb' 15 5) (w.extractLsb' 5 5))
    else .error .reservedField
  | 9 =>
    if w &&& 0x00007C10#32 = 0x00000000#32 then
      .ok (.vfabs (w.getLsbD 31) (w.extractLsb' 20 5) (w.extractLsb' 15 5) (w.extractLsb' 5 5))
    else .error .reservedField
  | 10 =>
    if w &&& 0x00000010#32 = 0x00000000#32 then
      .ok (.vfxsgn (w.getLsbD 31) (w.extractLsb' 20 5) (w.extractLsb' 15 5) (w.extractLsb' 10 5) (w.extractLsb' 5 5))
    else .error .reservedField
  | _ => .error .unassignedMinor

/-- Major 0x23 (R262). -/
noncomputable def decodeVConvert (w : BitVec 32) : Except Reject Instr :=
  match (w.extractLsb' 0 4).toNat with
  | 0 =>
    .ok (.vbadd (w.getLsbD 31) (w.extractLsb' 20 5) (w.extractLsb' 15 5) (w.extractLsb' 10 5) (w.extractLsb' 5 5) (w.getLsbD 4))
  | 1 =>
    .ok (.vbsub (w.getLsbD 31) (w.extractLsb' 20 5) (w.extractLsb' 15 5) (w.extractLsb' 10 5) (w.extractLsb' 5 5) (w.getLsbD 4))
  | 2 =>
    .ok (.vbmul (w.getLsbD 31) (w.extractLsb' 20 5) (w.extractLsb' 15 5) (w.extractLsb' 10 5) (w.extractLsb' 5 5) (w.getLsbD 4))
  | 3 =>
    if w &&& 0x00007C10#32 = 0x00000000#32 then
      .ok (.vfclass (w.getLsbD 31) (w.extractLsb' 20 5) (w.extractLsb' 15 5) (w.extractLsb' 5 5))
    else .error .reservedField
  | 4 =>
    .ok (.vfcvtw (w.getLsbD 31) (w.extractLsb' 20 5) (w.extractLsb' 15 5) (w.extractLsb' 10 5) (w.extractLsb' 5 5) (w.getLsbD 4))
  | 5 =>
    .ok (.vfcvtn (w.getLsbD 31) (w.extractLsb' 20 5) (w.extractLsb' 15 5) (w.extractLsb' 10 5) (w.extractLsb' 5 5) (w.getLsbD 4))
  | 6 =>
    if w &&& 0x00007C00#32 = 0x00000000#32 then
      .ok (.vfcvti (w.getLsbD 31) (w.extractLsb' 20 5) (w.extractLsb' 15 5) (w.extractLsb' 5 5) (w.getLsbD 4))
    else .error .reservedField
  | 7 =>
    if w &&& 0x00007C00#32 = 0x00000000#32 then
      .ok (.vicvtf (w.getLsbD 31) (w.extractLsb' 20 5) (w.extractLsb' 15 5) (w.extractLsb' 5 5) (w.getLsbD 4))
    else .error .reservedField
  | 8 =>
    if w &&& 0x00007C00#32 = 0x00000000#32 then
      .ok (.vfcvtiu (w.getLsbD 31) (w.extractLsb' 20 5) (w.extractLsb' 15 5) (w.extractLsb' 5 5) (w.getLsbD 4))
    else .error .reservedField
  | 9 =>
    if w &&& 0x00007C00#32 = 0x00000000#32 then
      .ok (.viucvtf (w.getLsbD 31) (w.extractLsb' 20 5) (w.extractLsb' 15 5) (w.extractLsb' 5 5) (w.getLsbD 4))
    else .error .reservedField
  | _ => .error .unassignedMinor

/-- Major 0x24 (R262). -/
noncomputable def decodeVFma (w : BitVec 32) : Except Reject Instr :=
  match (w.extractLsb' 0 4).toNat with
  | 0 =>
    .ok (.vfmadd (w.getLsbD 31) (w.extractLsb' 20 5) (w.extractLsb' 15 5) (w.extractLsb' 10 5) (w.extractLsb' 5 5) (w.getLsbD 4))
  | 1 =>
    .ok (.vfmsub (w.getLsbD 31) (w.extractLsb' 20 5) (w.extractLsb' 15 5) (w.extractLsb' 10 5) (w.extractLsb' 5 5) (w.getLsbD 4))
  | 2 =>
    .ok (.vfnmadd (w.getLsbD 31) (w.extractLsb' 20 5) (w.extractLsb' 15 5) (w.extractLsb' 10 5) (w.extractLsb' 5 5) (w.getLsbD 4))
  | 3 =>
    .ok (.vfnmsub (w.getLsbD 31) (w.extractLsb' 20 5) (w.extractLsb' 15 5) (w.extractLsb' 10 5) (w.extractLsb' 5 5) (w.getLsbD 4))
  | 4 =>
    .ok (.vbfmadd (w.getLsbD 31) (w.extractLsb' 20 5) (w.extractLsb' 15 5) (w.extractLsb' 10 5) (w.extractLsb' 5 5) (w.getLsbD 4))
  | 5 =>
    .ok (.vfwma (w.getLsbD 31) (w.extractLsb' 20 5) (w.extractLsb' 15 5) (w.extractLsb' 10 5) (w.extractLsb' 5 5) (w.getLsbD 4))
  | 6 =>
    .ok (.vbfwma (w.getLsbD 31) (w.extractLsb' 20 5) (w.extractLsb' 15 5) (w.extractLsb' 10 5) (w.extractLsb' 5 5) (w.getLsbD 4))
  | 7 =>
    .ok (.vfdot2 (w.getLsbD 31) (w.extractLsb' 20 5) (w.extractLsb' 15 5) (w.extractLsb' 10 5) (w.extractLsb' 5 5) (w.getLsbD 4))
  | 8 =>
    .ok (.vbfdot2 (w.getLsbD 31) (w.extractLsb' 20 5) (w.extractLsb' 15 5) (w.extractLsb' 10 5) (w.extractLsb' 5 5) (w.getLsbD 4))
  | 9 =>
    if w &&& 0x00000010#32 = 0x00000000#32 then
      .ok (.vdot4 (w.getLsbD 31) (w.extractLsb' 20 5) (w.extractLsb' 15 5) (w.extractLsb' 10 5) (w.extractLsb' 5 5))
    else .error .reservedField
  | 10 =>
    if w &&& 0x00000010#32 = 0x00000000#32 then
      .ok (.vdot4u (w.getLsbD 31) (w.extractLsb' 20 5) (w.extractLsb' 15 5) (w.extractLsb' 10 5) (w.extractLsb' 5 5))
    else .error .reservedField
  | 11 =>
    if w &&& 0x00000010#32 = 0x00000000#32 then
      .ok (.vmacc (w.getLsbD 31) (w.extractLsb' 20 5) (w.extractLsb' 15 5) (w.extractLsb' 10 5) (w.extractLsb' 5 5))
    else .error .reservedField
  | _ => .error .unassignedMinor

/-- Major 0x25 (R262). -/
noncomputable def decodeVCompare (w : BitVec 32) : Except Reject Instr :=
  match (w.extractLsb' 0 4).toNat with
  | 0 =>
    if w &&& 0x00000010#32 = 0x00000000#32 then
      .ok (.vcmpeq (w.getLsbD 31) (w.extractLsb' 20 5) (w.extractLsb' 15 5) (w.extractLsb' 10 5) (w.extractLsb' 5 5))
    else .error .reservedField
  | 1 =>
    if w &&& 0x00000010#32 = 0x00000000#32 then
      .ok (.vcmpne (w.getLsbD 31) (w.extractLsb' 20 5) (w.extractLsb' 15 5) (w.extractLsb' 10 5) (w.extractLsb' 5 5))
    else .error .reservedField
  | 2 =>
    if w &&& 0x00000010#32 = 0x00000000#32 then
      .ok (.vcmplt (w.getLsbD 31) (w.extractLsb' 20 5) (w.extractLsb' 15 5) (w.extractLsb' 10 5) (w.extractLsb' 5 5))
    else .error .reservedField
  | 3 =>
    if w &&& 0x00000010#32 = 0x00000000#32 then
      .ok (.vcmple (w.getLsbD 31) (w.extractLsb' 20 5) (w.extractLsb' 15 5) (w.extractLsb' 10 5) (w.extractLsb' 5 5))
    else .error .reservedField
  | 4 =>
    if w &&& 0x00000010#32 = 0x00000000#32 then
      .ok (.vcmpltu (w.getLsbD 31) (w.extractLsb' 20 5) (w.extractLsb' 15 5) (w.extractLsb' 10 5) (w.extractLsb' 5 5))
    else .error .reservedField
  | 5 =>
    if w &&& 0x00000010#32 = 0x00000000#32 then
      .ok (.vcmpleu (w.getLsbD 31) (w.extractLsb' 20 5) (w.extractLsb' 15 5) (w.extractLsb' 10 5) (w.extractLsb' 5 5))
    else .error .reservedField
  | 6 =>
    .ok (.vfcmpeq (w.getLsbD 31) (w.extractLsb' 20 5) (w.extractLsb' 15 5) (w.extractLsb' 10 5) (w.extractLsb' 5 5) (w.getLsbD 4))
  | 7 =>
    .ok (.vfcmplt (w.getLsbD 31) (w.extractLsb' 20 5) (w.extractLsb' 15 5) (w.extractLsb' 10 5) (w.extractLsb' 5 5) (w.getLsbD 4))
  | 8 =>
    .ok (.vfcmple (w.getLsbD 31) (w.extractLsb' 20 5) (w.extractLsb' 15 5) (w.extractLsb' 10 5) (w.extractLsb' 5 5) (w.getLsbD 4))
  | 9 =>
    if w &&& 0x00000010#32 = 0x00000000#32 then
      .ok (.vwhile (w.getLsbD 31) (w.extractLsb' 20 5) (w.extractLsb' 15 5) (w.extractLsb' 10 5) (w.extractLsb' 5 5))
    else .error .reservedField
  | _ => .error .unassignedMinor

/-- Major 0x26 (R262). -/
noncomputable def decodeVPermute (w : BitVec 32) : Except Reject Instr :=
  match (w.extractLsb' 0 4).toNat with
  | 0 =>
    if w &&& 0x00000010#32 = 0x00000000#32 then
      .ok (.vslideup (w.getLsbD 31) (w.extractLsb' 20 5) (w.extractLsb' 15 5) (w.extractLsb' 10 5) (w.extractLsb' 5 5))
    else .error .reservedField
  | 1 =>
    if w &&& 0x00000010#32 = 0x00000000#32 then
      .ok (.vslidedn (w.getLsbD 31) (w.extractLsb' 20 5) (w.extractLsb' 15 5) (w.extractLsb' 10 5) (w.extractLsb' 5 5))
    else .error .reservedField
  | 2 =>
    if w &&& 0x00000010#32 = 0x00000000#32 then
      .ok (.vgather (w.getLsbD 31) (w.extractLsb' 20 5) (w.extractLsb' 15 5) (w.extractLsb' 10 5) (w.extractLsb' 5 5))
    else .error .reservedField
  | 3 =>
    if w &&& 0x00007C10#32 = 0x00000000#32 then
      .ok (.vcompress (w.getLsbD 31) (w.extractLsb' 20 5) (w.extractLsb' 15 5) (w.extractLsb' 5 5))
    else .error .reservedField
  | 4 =>
    if w &&& 0x000003F0#32 = 0x000003E0#32 then
      .ok (.vext (w.getLsbD 31) (w.extractLsb' 20 5) (w.extractLsb' 15 5) (w.extractLsb' 10 5))
    else .error .reservedField
  | 5 =>
    if w &&& 0x000003F0#32 = 0x000003E0#32 then
      .ok (.vins (w.getLsbD 31) (w.extractLsb' 20 5) (w.extractLsb' 15 5) (w.extractLsb' 10 5))
    else .error .reservedField
  | 6 =>
    if w &&& 0x00007C10#32 = 0x00000000#32 then
      .ok (.vrev (w.getLsbD 31) (w.extractLsb' 20 5) (w.extractLsb' 15 5) (w.extractLsb' 5 5))
    else .error .reservedField
  | _ => .error .unassignedMinor

/-- Major 0x27 (R262). -/
noncomputable def decodeVReduce (w : BitVec 32) : Except Reject Instr :=
  match (w.extractLsb' 0 4).toNat with
  | 0 =>
    if w &&& 0x00000010#32 = 0x00000000#32 then
      .ok (.vredsum (w.getLsbD 31) (w.extractLsb' 20 5) (w.extractLsb' 15 5) (w.extractLsb' 10 5) (w.extractLsb' 5 5))
    else .error .reservedField
  | 1 =>
    if w &&& 0x00000010#32 = 0x00000000#32 then
      .ok (.vredmin (w.getLsbD 31) (w.extractLsb' 20 5) (w.extractLsb' 15 5) (w.extractLsb' 10 5) (w.extractLsb' 5 5))
    else .error .reservedField
  | 2 =>
    if w &&& 0x00000010#32 = 0x00000000#32 then
      .ok (.vredmax (w.getLsbD 31) (w.extractLsb' 20 5) (w.extractLsb' 15 5) (w.extractLsb' 10 5) (w.extractLsb' 5 5))
    else .error .reservedField
  | 3 =>
    if w &&& 0x00000010#32 = 0x00000000#32 then
      .ok (.vredminu (w.getLsbD 31) (w.extractLsb' 20 5) (w.extractLsb' 15 5) (w.extractLsb' 10 5) (w.extractLsb' 5 5))
    else .error .reservedField
  | 4 =>
    if w &&& 0x00000010#32 = 0x00000000#32 then
      .ok (.vredmaxu (w.getLsbD 31) (w.extractLsb' 20 5) (w.extractLsb' 15 5) (w.extractLsb' 10 5) (w.extractLsb' 5 5))
    else .error .reservedField
  | 5 =>
    if w &&& 0x00000010#32 = 0x00000000#32 then
      .ok (.vfredsum (w.getLsbD 31) (w.extractLsb' 20 5) (w.extractLsb' 15 5) (w.extractLsb' 10 5) (w.extractLsb' 5 5))
    else .error .reservedField
  | 6 =>
    if w &&& 0x00000010#32 = 0x00000000#32 then
      .ok (.vfredmin (w.getLsbD 31) (w.extractLsb' 20 5) (w.extractLsb' 15 5) (w.extractLsb' 10 5) (w.extractLsb' 5 5))
    else .error .reservedField
  | 7 =>
    if w &&& 0x00000010#32 = 0x00000000#32 then
      .ok (.vfredmax (w.getLsbD 31) (w.extractLsb' 20 5) (w.extractLsb' 15 5) (w.extractLsb' 10 5) (w.extractLsb' 5 5))
    else .error .reservedField
  | _ => .error .unassignedMinor

/-- Major 0x28 (R262). -/
def decodeMaskOp (w : BitVec 32) : Except Reject Instr :=
  match (w.extractLsb' 0 10).toNat with
  | 0 =>
    .ok (.mand (w.getLsbD 31) (w.extractLsb' 20 5) (w.extractLsb' 15 5) (w.extractLsb' 10 5))
  | 1 =>
    .ok (.mor (w.getLsbD 31) (w.extractLsb' 20 5) (w.extractLsb' 15 5) (w.extractLsb' 10 5))
  | 2 =>
    .ok (.mxor (w.getLsbD 31) (w.extractLsb' 20 5) (w.extractLsb' 15 5) (w.extractLsb' 10 5))
  | 3 =>
    .ok (.mandn (w.getLsbD 31) (w.extractLsb' 20 5) (w.extractLsb' 15 5) (w.extractLsb' 10 5))
  | 4 =>
    if w &&& 0x00007C00#32 = 0x00000000#32 then
      .ok (.mnot (w.getLsbD 31) (w.extractLsb' 20 5) (w.extractLsb' 15 5))
    else .error .reservedField
  | 5 =>
    if w &&& 0x000FFC00#32 = 0x00000000#32 then
      .ok (.mset (w.getLsbD 31) (w.extractLsb' 20 5))
    else .error .reservedField
  | 6 =>
    if w &&& 0x00007C00#32 = 0x00000000#32 then
      .ok (.mpopc (w.getLsbD 31) (w.extractLsb' 20 5) (w.extractLsb' 15 5))
    else .error .reservedField
  | 7 =>
    if w &&& 0x00007C00#32 = 0x00000000#32 then
      .ok (.mfirst (w.getLsbD 31) (w.extractLsb' 20 5) (w.extractLsb' 15 5))
    else .error .reservedField
  | _ => .error .unassignedMinor

/-- Major 0x29 (R262). -/
noncomputable def decodeVLoad (w : BitVec 32) : Except Reject Instr :=
  match (w.extractLsb' 0 4).toNat with
  | 0 =>
    if w &&& 0x00007C10#32 = 0x00000000#32 then
      .ok (.vld (w.getLsbD 31) (w.extractLsb' 20 5) (w.extractLsb' 15 5) (w.extractLsb' 5 5))
    else .error .reservedField
  | 1 =>
    if w &&& 0x00000010#32 = 0x00000000#32 then
      .ok (.vldOffset (w.getLsbD 31) (w.extractLsb' 20 5) (w.extractLsb' 15 5) (w.extractLsb' 10 5) (w.extractLsb' 5 5))
    else .error .reservedField
  | 2 =>
    if w &&& 0x00000010#32 = 0x00000000#32 then
      .ok (.vlds (w.getLsbD 31) (w.extractLsb' 20 5) (w.extractLsb' 15 5) (w.extractLsb' 10 5) (w.extractLsb' 5 5))
    else .error .reservedField
  | 3 =>
    if w &&& 0x00000010#32 = 0x00000000#32 then
      .ok (.vldx (w.getLsbD 31) (w.extractLsb' 20 5) (w.extractLsb' 15 5) (w.extractLsb' 10 5) (w.extractLsb' 5 5))
    else .error .reservedField
  | 4 =>
    if w &&& 0x00007C10#32 = 0x00000000#32 then
      .ok (.vldff (w.getLsbD 31) (w.extractLsb' 20 5) (w.extractLsb' 15 5) (w.extractLsb' 5 5))
    else .error .reservedField
  | 5 =>
    if w &&& 0x00007C10#32 = 0x00000000#32 then
      .ok (.vld2d (w.getLsbD 31) (w.extractLsb' 20 5) (w.extractLsb' 15 5) (w.extractLsb' 5 5))
    else .error .reservedField
  | _ => .error .unassignedMinor

/-- Major 0x2A (R262). -/
noncomputable def decodeVStore (w : BitVec 32) : Except Reject Instr :=
  match (w.extractLsb' 0 4).toNat with
  | 0 =>
    if w &&& 0x00007C10#32 = 0x00000000#32 then
      .ok (.vst (w.getLsbD 31) (w.extractLsb' 20 5) (w.extractLsb' 15 5) (w.extractLsb' 5 5))
    else .error .reservedField
  | 1 =>
    if w &&& 0x00000010#32 = 0x00000000#32 then
      .ok (.vstOffset (w.getLsbD 31) (w.extractLsb' 20 5) (w.extractLsb' 15 5) (w.extractLsb' 10 5) (w.extractLsb' 5 5))
    else .error .reservedField
  | 2 =>
    if w &&& 0x00000010#32 = 0x00000000#32 then
      .ok (.vsts (w.getLsbD 31) (w.extractLsb' 20 5) (w.extractLsb' 15 5) (w.extractLsb' 10 5) (w.extractLsb' 5 5))
    else .error .reservedField
  | 3 =>
    if w &&& 0x00000010#32 = 0x00000000#32 then
      .ok (.vstx (w.getLsbD 31) (w.extractLsb' 20 5) (w.extractLsb' 15 5) (w.extractLsb' 10 5) (w.extractLsb' 5 5))
    else .error .reservedField
  | 5 =>
    if w &&& 0x00007C10#32 = 0x00000000#32 then
      .ok (.vst2d (w.getLsbD 31) (w.extractLsb' 20 5) (w.extractLsb' 15 5) (w.extractLsb' 5 5))
    else .error .reservedField
  | _ => .error .unassignedMinor

/-- Major 0x2B (R262). -/
noncomputable def decodeLaneAtomic (w : BitVec 32) : Except Reject Instr :=
  match (w.extractLsb' 0 4).toNat with
  | 0 =>
    if w &&& 0x00000010#32 = 0x00000000#32 then
      .ok (.vamoadd (w.getLsbD 31) (w.extractLsb' 20 5) (w.extractLsb' 15 5) (w.extractLsb' 10 5) (w.extractLsb' 5 5))
    else .error .reservedField
  | 1 =>
    if w &&& 0x00000010#32 = 0x00000000#32 then
      .ok (.vamoswap (w.getLsbD 31) (w.extractLsb' 20 5) (w.extractLsb' 15 5) (w.extractLsb' 10 5) (w.extractLsb' 5 5))
    else .error .reservedField
  | 2 =>
    if w &&& 0x00000010#32 = 0x00000000#32 then
      .ok (.vamomin (w.getLsbD 31) (w.extractLsb' 20 5) (w.extractLsb' 15 5) (w.extractLsb' 10 5) (w.extractLsb' 5 5))
    else .error .reservedField
  | 3 =>
    if w &&& 0x00000010#32 = 0x00000000#32 then
      .ok (.vamomax (w.getLsbD 31) (w.extractLsb' 20 5) (w.extractLsb' 15 5) (w.extractLsb' 10 5) (w.extractLsb' 5 5))
    else .error .reservedField
  | 4 =>
    if w &&& 0x00000010#32 = 0x00000000#32 then
      .ok (.vamominu (w.getLsbD 31) (w.extractLsb' 20 5) (w.extractLsb' 15 5) (w.extractLsb' 10 5) (w.extractLsb' 5 5))
    else .error .reservedField
  | 5 =>
    if w &&& 0x00000010#32 = 0x00000000#32 then
      .ok (.vamomaxu (w.getLsbD 31) (w.extractLsb' 20 5) (w.extractLsb' 15 5) (w.extractLsb' 10 5) (w.extractLsb' 5 5))
    else .error .reservedField
  | 6 =>
    if w &&& 0x00000010#32 = 0x00000000#32 then
      .ok (.vamoand (w.getLsbD 31) (w.extractLsb' 20 5) (w.extractLsb' 15 5) (w.extractLsb' 10 5) (w.extractLsb' 5 5))
    else .error .reservedField
  | 7 =>
    if w &&& 0x00000010#32 = 0x00000000#32 then
      .ok (.vamoor (w.getLsbD 31) (w.extractLsb' 20 5) (w.extractLsb' 15 5) (w.extractLsb' 10 5) (w.extractLsb' 5 5))
    else .error .reservedField
  | 8 =>
    if w &&& 0x00000010#32 = 0x00000000#32 then
      .ok (.vamoxor (w.getLsbD 31) (w.extractLsb' 20 5) (w.extractLsb' 15 5) (w.extractLsb' 10 5) (w.extractLsb' 5 5))
    else .error .reservedField
  | 9 =>
    if w &&& 0x00000010#32 = 0x00000000#32 then
      .ok (.vamofadd (w.getLsbD 31) (w.extractLsb' 20 5) (w.extractLsb' 15 5) (w.extractLsb' 10 5) (w.extractLsb' 5 5))
    else .error .reservedField
  | _ => .error .unassignedMinor

/-- Major 0x2C (R262). -/
def decodeVConfig (w : BitVec 32) : Except Reject Instr :=
  match (w.extractLsb' 0 10).toNat with
  | 0 =>
    if w &&& 0x00007C00#32 = 0x00000000#32 then
      .ok (.setvl (w.getLsbD 31) (w.extractLsb' 20 5) (w.extractLsb' 15 5) (EW.ofCode (w.extractLsb' 0 2)))
    else .error .reservedField
  | 1 =>
    if w &&& 0x00007C00#32 = 0x00000000#32 then
      .ok (.setvl (w.getLsbD 31) (w.extractLsb' 20 5) (w.extractLsb' 15 5) (EW.ofCode (w.extractLsb' 0 2)))
    else .error .reservedField
  | 2 =>
    if w &&& 0x00007C00#32 = 0x00000000#32 then
      .ok (.setvl (w.getLsbD 31) (w.extractLsb' 20 5) (w.extractLsb' 15 5) (EW.ofCode (w.extractLsb' 0 2)))
    else .error .reservedField
  | 3 =>
    if w &&& 0x00007C00#32 = 0x00000000#32 then
      .ok (.setvl (w.getLsbD 31) (w.extractLsb' 20 5) (w.extractLsb' 15 5) (EW.ofCode (w.extractLsb' 0 2)))
    else .error .reservedField
  | 16 =>
    if w &&& 0x01F00000#32 = 0x00000000#32 then
      .ok (.vspill (w.getLsbD 31) (w.extractLsb' 15 5) (w.extractLsb' 10 5))
    else .error .reservedField
  | 17 =>
    if w &&& 0x01F07C00#32 = 0x00000000#32 then
      .ok (.vfill (w.getLsbD 31) (w.extractLsb' 15 5))
    else .error .reservedField
  | 32 =>
    if w &&& 0x00007C00#32 = 0x00000000#32 then
      .ok (.ringcfg (w.getLsbD 31) (w.extractLsb' 20 5) (w.extractLsb' 15 5))
    else .error .reservedField
  | _ => .error .unassignedMinor

/-- Major 0x2D (R262). -/
noncomputable def decodeGeom (w : BitVec 32) : Except Reject Instr :=
  match (w.extractLsb' 0 4).toNat with
  | 0 =>
    if w &&& 0x00007C00#32 = 0x00000000#32 then
      .ok (.vorient2 (w.getLsbD 31) (w.extractLsb' 20 5) (w.extractLsb' 15 5) (w.extractLsb' 5 5) (w.getLsbD 4))
    else .error .reservedField
  | 1 =>
    if w &&& 0x00007C00#32 = 0x00000000#32 then
      .ok (.vorient3 (w.getLsbD 31) (w.extractLsb' 20 5) (w.extractLsb' 15 5) (w.extractLsb' 5 5) (w.getLsbD 4))
    else .error .reservedField
  | 2 =>
    if w &&& 0x00007C00#32 = 0x00000000#32 then
      .ok (.vincirc (w.getLsbD 31) (w.extractLsb' 20 5) (w.extractLsb' 15 5) (w.extractLsb' 5 5) (w.getLsbD 4))
    else .error .reservedField
  | 3 =>
    if w &&& 0x00007C00#32 = 0x00000000#32 then
      .ok (.vinsph (w.getLsbD 31) (w.extractLsb' 20 5) (w.extractLsb' 15 5) (w.extractLsb' 5 5) (w.getLsbD 4))
    else .error .reservedField
  | 4 =>
    if w &&& 0x00007C00#32 = 0x00000000#32 then
      .ok (.vsegx (w.getLsbD 31) (w.extractLsb' 20 5) (w.extractLsb' 15 5) (w.extractLsb' 5 5) (w.getLsbD 4))
    else .error .reservedField
  | 8 =>
    if w &&& 0x00007C00#32 = 0x00000000#32 then
      .ok (.vorient2t (w.getLsbD 31) (w.extractLsb' 20 5) (w.extractLsb' 15 5) (w.extractLsb' 5 5) (w.getLsbD 4))
    else .error .reservedField
  | 9 =>
    if w &&& 0x00007C00#32 = 0x00000000#32 then
      .ok (.vorient3t (w.getLsbD 31) (w.extractLsb' 20 5) (w.extractLsb' 15 5) (w.extractLsb' 5 5) (w.getLsbD 4))
    else .error .reservedField
  | 10 =>
    if w &&& 0x00007C00#32 = 0x00000000#32 then
      .ok (.vincirct (w.getLsbD 31) (w.extractLsb' 20 5) (w.extractLsb' 15 5) (w.extractLsb' 5 5) (w.getLsbD 4))
    else .error .reservedField
  | 11 =>
    if w &&& 0x00007C00#32 = 0x00000000#32 then
      .ok (.vinspht (w.getLsbD 31) (w.extractLsb' 20 5) (w.extractLsb' 15 5) (w.extractLsb' 5 5) (w.getLsbD 4))
    else .error .reservedField
  | _ => .error .unassignedMinor

/-- Major 0x30 (R262). -/
noncomputable def decodeTileControl (w : BitVec 32) : Except Reject Instr :=
  match (w.extractLsb' 6 5).toNat with
  | 0 =>
    if w &&& 0x003F003F#32 = 0x00000000#32 then
      .ok (.tcfg (w.getLsbD 31) (w.extractLsb' 22 3) (w.extractLsb' 11 5))
    else .error .reservedField
  | 1 =>
    if w &&& 0x003F003F#32 = 0x00000000#32 then
      .ok (.acfg (w.getLsbD 31) (w.extractLsb' 22 3) (w.extractLsb' 11 5))
    else .error .reservedField
  | 2 =>
    if w &&& 0x003FF83F#32 = 0x00000000#32 then
      .ok (.tzero (w.getLsbD 31) (w.extractLsb' 22 3))
    else .error .reservedField
  | 3 =>
    if w &&& 0x003FF83F#32 = 0x00000000#32 then
      .ok (.azero (w.getLsbD 31) (w.extractLsb' 22 3))
    else .error .reservedField
  | 4 =>
    if w &&& 0x003F0000#32 = 0x00000000#32 then
      .ok (.tgetr (w.getLsbD 31) (w.extractLsb' 22 3) (w.extractLsb' 11 5) (w.extractLsb' 0 6))
    else .error .reservedField
  | 5 =>
    if w &&& 0x003F0000#32 = 0x00000000#32 then
      .ok (.tsetr (w.getLsbD 31) (w.extractLsb' 22 3) (w.extractLsb' 11 5) (w.extractLsb' 0 6))
    else .error .reservedField
  | 6 =>
    if w &&& 0x003F0000#32 = 0x00000000#32 then
      .ok (.agetr (w.getLsbD 31) (w.extractLsb' 22 3) (w.extractLsb' 11 5) (w.extractLsb' 0 6))
    else .error .reservedField
  | 7 =>
    if w &&& 0x003F0000#32 = 0x00000000#32 then
      .ok (.asetr (w.getLsbD 31) (w.extractLsb' 22 3) (w.extractLsb' 11 5) (w.extractLsb' 0 6))
    else .error .reservedField
  | 8 =>
    if w &&& 0x0007F83F#32 = 0x00000000#32 then
      .ok (.ttrans (w.getLsbD 31) (w.extractLsb' 22 3) (w.extractLsb' 19 3))
    else .error .reservedField
  | 9 =>
    if w &&& 0x0007F83F#32 = 0x00000000#32 then
      .ok (.acvt (w.getLsbD 31) (w.extractLsb' 22 3) (w.extractLsb' 19 3))
    else .error .reservedField
  | _ => .error .unassignedMinor

/-- Major 0x31 (R262). -/
noncomputable def decodeTmma (w : BitVec 32) : Except Reject Instr :=
  match (w.extractLsb' 0 11).toNat with
  | 0 =>
    if w &&& 0x0000F800#32 = 0x00000000#32 then
      .ok (.tmmaD (w.getLsbD 31) (w.extractLsb' 22 3) (w.extractLsb' 19 3) (w.extractLsb' 16 3))
    else .error .reservedField
  | 1 =>
    if w &&& 0x0000F800#32 = 0x00000000#32 then
      .ok (.tmmaHf (w.getLsbD 31) (w.extractLsb' 22 3) (w.extractLsb' 19 3) (w.extractLsb' 16 3))
    else .error .reservedField
  | 2 =>
    if w &&& 0x0000F800#32 = 0x00000000#32 then
      .ok (.tmmaBf (w.getLsbD 31) (w.extractLsb' 22 3) (w.extractLsb' 19 3) (w.extractLsb' 16 3))
    else .error .reservedField
  | 3 =>
    .ok (.tmmaE4e4 (w.getLsbD 31) (w.extractLsb' 22 3) (w.extractLsb' 19 3) (w.extractLsb' 16 3) (w.extractLsb' 11 5))
  | 4 =>
    .ok (.tmmaE4e5 (w.getLsbD 31) (w.extractLsb' 22 3) (w.extractLsb' 19 3) (w.extractLsb' 16 3) (w.extractLsb' 11 5))
  | 5 =>
    .ok (.tmmaE5e4 (w.getLsbD 31) (w.extractLsb' 22 3) (w.extractLsb' 19 3) (w.extractLsb' 16 3) (w.extractLsb' 11 5))
  | 6 =>
    .ok (.tmmaE5e5 (w.getLsbD 31) (w.extractLsb' 22 3) (w.extractLsb' 19 3) (w.extractLsb' 16 3) (w.extractLsb' 11 5))
  | 7 =>
    if w &&& 0x0000F800#32 = 0x00000000#32 then
      .ok (.tmmaI8 (w.getLsbD 31) (w.extractLsb' 22 3) (w.extractLsb' 19 3) (w.extractLsb' 16 3))
    else .error .reservedField
  | 8 =>
    .ok (.tmmaC8 (w.getLsbD 31) (w.extractLsb' 22 3) (w.extractLsb' 19 3) (w.extractLsb' 16 3) (w.extractLsb' 11 5))
  | 9 =>
    .ok (.tmmaC6 (w.getLsbD 31) (w.extractLsb' 22 3) (w.extractLsb' 19 3) (w.extractLsb' 16 3) (w.extractLsb' 11 5))
  | 10 =>
    .ok (.tmmaC4 (w.getLsbD 31) (w.extractLsb' 22 3) (w.extractLsb' 19 3) (w.extractLsb' 16 3) (w.extractLsb' 11 5))
  | _ => .error .unassignedMinor

/-- Major 0x32 (R262). -/
noncomputable def decodeTileMem (w : BitVec 32) : Except Reject Instr :=
  match (w.extractLsb' 0 11).toNat with
  | 0 =>
    if w &&& 0x003F0000#32 = 0x00000000#32 then
      .ok (.tld (w.getLsbD 31) (w.extractLsb' 22 3) (w.extractLsb' 11 5))
    else .error .reservedField
  | 1 =>
    if w &&& 0x003F0000#32 = 0x00000000#32 then
      .ok (.tst (w.getLsbD 31) (w.extractLsb' 22 3) (w.extractLsb' 11 5))
    else .error .reservedField
  | 2 =>
    if w &&& 0x003F0000#32 = 0x00000000#32 then
      .ok (.ald (w.getLsbD 31) (w.extractLsb' 22 3) (w.extractLsb' 11 5))
    else .error .reservedField
  | 3 =>
    if w &&& 0x003F0000#32 = 0x00000000#32 then
      .ok (.ast (w.getLsbD 31) (w.extractLsb' 22 3) (w.extractLsb' 11 5))
    else .error .reservedField
  | _ => .error .unassignedMinor

/-- Major 0x33 (R262). -/
noncomputable def decodeStream (w : BitVec 32) : Except Reject Instr :=
  match (w.extractLsb' 0 10).toNat with
  | 0 =>
    if w &&& 0x00007C00#32 = 0x00000000#32 then
      .ok (.spat (w.getLsbD 31) (w.extractLsb' 20 5) (w.extractLsb' 15 5))
    else .error .reservedField
  | 1 =>
    if w &&& 0x01F07C00#32 = 0x00000000#32 then
      .ok (.scmd (w.getLsbD 31) (w.extractLsb' 15 5))
    else .error .reservedField
  | 2 =>
    if w &&& 0x000FFC00#32 = 0x00000000#32 then
      .ok (.sseal (w.getLsbD 31) (w.extractLsb' 20 5))
    else .error .reservedField
  | 3 =>
    if w &&& 0x000F8000#32 = 0x00000000#32 then
      .ok (.swaitb (w.getLsbD 31) (w.extractLsb' 20 5) (w.extractLsb' 10 5))
    else .error .reservedField
  | 4 =>
    if w &&& 0x01FF8000#32 = 0x00000000#32 then
      .ok (.sclose (w.getLsbD 31) (w.extractLsb' 10 5))
    else .error .reservedField
  | 5 =>
    if w &&& 0x00007C00#32 = 0x00000000#32 then
      .ok (.sstat (w.getLsbD 31) (w.extractLsb' 20 5) (w.extractLsb' 15 5))
    else .error .reservedField
  | 6 =>
    if w &&& 0x01FFFC00#32 = 0x00000000#32 then
      .ok (.scancel (w.getLsbD 31))
    else .error .reservedField
  | _ => .error .unassignedMinor

/-- Major 0x34 (R262). -/
noncomputable def decodeSync (w : BitVec 32) : Except Reject Instr :=
  match (w.extractLsb' 6 4).toNat with
  | 0 =>
    if w &&& 0x01F0003F#32 = 0x00000000#32 then
      .ok (.binit (w.getLsbD 31) (w.extractLsb' 15 5) (w.extractLsb' 10 5))
    else .error .reservedField
  | 1 =>
    if w &&& 0x00007C3F#32 = 0x00000000#32 then
      .ok (.barrive (w.getLsbD 31) (w.extractLsb' 20 5) (w.extractLsb' 15 5))
    else .error .reservedField
  | 2 =>
    if w &&& 0x01F0003F#32 = 0x00000000#32 then
      .ok (.bwait (w.getLsbD 31) (w.extractLsb' 15 5) (w.extractLsb' 10 5))
    else .error .reservedField
  | 3 =>
    if w &&& 0x01F07C3F#32 = 0x00000000#32 then
      .ok (.bsync (w.getLsbD 31) (w.extractLsb' 15 5))
    else .error .reservedField
  | 4 =>
    if w &&& 0x00007C00#32 = 0x00000000#32 then
      .ok (.mwait (w.getLsbD 31) (w.extractLsb' 20 5) (w.extractLsb' 15 5) (w.extractLsb' 0 6))
    else .error .reservedField
  | 5 =>
    if w &&& 0x01F0003F#32 = 0x00000000#32 then
      .ok (.msend (w.getLsbD 31) (w.extractLsb' 15 5) (w.extractLsb' 10 5))
    else .error .reservedField
  | 6 =>
    if w &&& 0x000FFC3C#32 = 0x00000000#32 then
      .ok (.mrd (w.getLsbD 31) (w.extractLsb' 20 5) (w.extractLsb' 0 2))
    else .error .reservedField
  | 7 =>
    if w &&& 0x01F07C3C#32 = 0x00000000#32 then
      .ok (.mwr (w.getLsbD 31) (w.extractLsb' 15 5) (w.extractLsb' 0 2))
    else .error .reservedField
  | 8 =>
    if w &&& 0x01F07C3F#32 = 0x00000000#32 then
      .ok (.yield (w.getLsbD 31) (w.extractLsb' 15 5))
    else .error .reservedField
  | _ => .error .unassignedMinor

/-- Major 0x35 (R262). -/
noncomputable def decodeGang (w : BitVec 32) : Except Reject Instr :=
  match (w.extractLsb' 6 4).toNat with
  | 0 =>
    if w &&& 0x00007C3F#32 = 0x00000000#32 then
      .ok (.garrive (w.getLsbD 31) (w.extractLsb' 20 5) (w.extractLsb' 15 5))
    else .error .reservedField
  | 1 =>
    if w &&& 0x01F0003F#32 = 0x00000000#32 then
      .ok (.gwaitb (w.getLsbD 31) (w.extractLsb' 15 5) (w.extractLsb' 10 5))
    else .error .reservedField
  | 2 =>
    if w &&& 0x01F07C3F#32 = 0x00000000#32 then .ok (.gbar (w.getLsbD 31) (w.extractLsb' 15 5))
    else if w &&& 0x01F07C3F#32 = 0x00000001#32 then .ok (.gbarj (w.getLsbD 31) (w.extractLsb' 15 5))
    else .error .unassignedMinor
  | 3 =>
    if w &&& 0x01F0003F#32 = 0x00000000#32 then
      .ok (.gmcast (w.getLsbD 31) (w.extractLsb' 15 5) (w.extractLsb' 10 5))
    else .error .reservedField
  | 4 =>
    if w &&& 0x000FFC00#32 = 0x00000000#32 then
      .ok (.ginfo (w.getLsbD 31) (w.extractLsb' 20 5) (w.extractLsb' 0 6))
    else .error .reservedField
  | _ => .error .unassignedMinor

/-- Major 0x36 (R262). -/
noncomputable def decodeTask (w : BitVec 32) : Except Reject Instr :=
  match (w.extractLsb' 0 10).toNat with
  | 0 =>
    .ok (.tkinit (w.getLsbD 31) (w.extractLsb' 20 5) (w.extractLsb' 15 5) (w.extractLsb' 10 5))
  | 1 =>
    if w &&& 0x01F07C00#32 = 0x00000000#32 then
      .ok (.tkdec (w.getLsbD 31) (w.extractLsb' 15 5))
    else .error .reservedField
  | 2 =>
    if w &&& 0x00007C00#32 = 0x00000000#32 then
      .ok (.tkpop (w.getLsbD 31) (w.extractLsb' 20 5) (w.extractLsb' 15 5))
    else .error .reservedField
  | 3 =>
    if w &&& 0x00007C00#32 = 0x00000000#32 then
      .ok (.tkstat (w.getLsbD 31) (w.extractLsb' 20 5) (w.extractLsb' 15 5))
    else .error .reservedField
  | _ => .error .unassignedMinor

/-- Major 0x37 (R262). -/
noncomputable def decodeKernel (w : BitVec 32) : Except Reject Instr :=
  match (w.extractLsb' 0 10).toNat with
  | 0 =>
    if w &&& 0x01F07C00#32 = 0x00000000#32 then
      .ok (.launch (w.getLsbD 31) (w.extractLsb' 15 5))
    else .error .reservedField
  | 1 =>
    if w &&& 0x01F00000#32 = 0x00000000#32 then
      .ok (.relay (w.getLsbD 31) (w.extractLsb' 15 5) (w.extractLsb' 10 5))
    else .error .reservedField
  | 2 =>
    if w &&& 0x01FFFC00#32 = 0x00000000#32 then
      .ok (.trigger (w.getLsbD 31))
    else .error .reservedField
  | 3 =>
    if w &&& 0x01FFFC00#32 = 0x00000000#32 then
      .ok (.retire (w.getLsbD 31))
    else .error .reservedField
  | _ => .error .unassignedMinor

/-- Major 0x38 (R262). -/
def decodeSystem (w : BitVec 32) : Except Reject Instr :=
  match (w.extractLsb' 0 3).toNat with
  | 0 =>
    if w &&& 0x000F8000#32 = 0x00000000#32 then
      .ok (.crd (w.getLsbD 31) (w.extractLsb' 20 5) (w.extractLsb' 3 12))
    else .error .reservedField
  | 1 =>
    if w &&& 0x01F00000#32 = 0x00000000#32 then
      .ok (.cwr (w.getLsbD 31) (w.extractLsb' 15 5) (w.extractLsb' 3 12))
    else .error .reservedField
  | 2 =>
    .ok (.cset (w.getLsbD 31) (w.extractLsb' 20 5) (w.extractLsb' 15 5) (w.extractLsb' 3 12))
  | 3 =>
    .ok (.cclr (w.getLsbD 31) (w.extractLsb' 20 5) (w.extractLsb' 15 5) (w.extractLsb' 3 12))
  | 7 =>
    match (w.extractLsb' 3 12).toNat with
    | 0 =>
      if w &&& 0x01F00000#32 = 0x00000000#32 then
        .ok (.trap (w.getLsbD 31) (w.extractLsb' 15 5))
      else .error .reservedField
    | 1 =>
      if w &&& 0x01FF8000#32 = 0x00000000#32 then
        .ok (.tret (w.getLsbD 31))
      else .error .reservedField
    | 2 =>
      if w &&& 0x01FF8000#32 = 0x00000000#32 then
        .ok (.idle (w.getLsbD 31))
      else .error .reservedField
    | 3 =>
      .ok (.tfence (w.getLsbD 31) (w.extractLsb' 20 5) (w.extractLsb' 15 5))
    | 4 =>
      if w &&& 0x01FF8000#32 = 0x00000000#32 then
        .ok (.ifence (w.getLsbD 31))
      else .error .reservedField
    | 5 =>
      .ok (.csave (w.getLsbD 31) (w.extractLsb' 20 5) (w.extractLsb' 15 5))
    | 6 =>
      .ok (.crestore (w.getLsbD 31) (w.extractLsb' 20 5) (w.extractLsb' 15 5))
    | 7 =>
      .ok (.gstop (w.getLsbD 31) (w.extractLsb' 20 5) (w.extractLsb' 15 5))
    | 8 =>
      .ok (.gresume (w.getLsbD 31) (w.extractLsb' 20 5) (w.extractLsb' 15 5))
    | 9 =>
      if w &&& 0x01FF8000#32 = 0x00000000#32 then
        .ok (.bkpt (w.getLsbD 31))
      else .error .reservedField
    | _ => .error .unassignedMinor
  | _ => .error .unassignedMinor

/-- Major 0x39 (R262). -/
def decodeDeprecated (w : BitVec 32) : Except Reject Instr :=
  match (w.extractLsb' 12 3).toNat with
  | 0 =>
    .ok (.ldp (w.getLsbD 31) (w.extractLsb' 20 5) (w.extractLsb' 15 5) (w.extractLsb' 0 12))
  | 1 =>
    if w &&& 0x000F8000#32 = 0x00000000#32 then
      .ok (.vsetli (w.getLsbD 31) (w.extractLsb' 20 5) (EW.ofCode (w.extractLsb' 10 2)) (w.extractLsb' 0 10))
    else .error .reservedField
  | 2 =>
    if w &&& 0x01FF8FFF#32 = 0x00000000#32 then
      .ok (.fenceall (w.getLsbD 31))
    else .error .reservedField
  | _ => .error .unassignedMinor

/-- Checks 1 to 4 of R265, by the major opcode in bits [30:25]. -/
noncomputable def decodeFields (w : BitVec 32) : Except Reject Instr :=
  match (w.extractLsb' 25 6).toNat with
  | 0x01 => decodeAlu w
  | 0x02 => .ok (.addi (w.getLsbD 31) (w.extractLsb' 20 5) (w.extractLsb' 15 5) (w.extractLsb' 0 15))
  | 0x03 => .ok (.andi (w.getLsbD 31) (w.extractLsb' 20 5) (w.extractLsb' 15 5) (w.extractLsb' 0 15))
  | 0x04 => .ok (.ori (w.getLsbD 31) (w.extractLsb' 20 5) (w.extractLsb' 15 5) (w.extractLsb' 0 15))
  | 0x05 => .ok (.xori (w.getLsbD 31) (w.extractLsb' 20 5) (w.extractLsb' 15 5) (w.extractLsb' 0 15))
  | 0x06 => decodeShiftImm w
  | 0x07 => decodeSltImm w
  | 0x08 => .ok (.lui (w.getLsbD 31) (w.extractLsb' 20 5) (w.extractLsb' 0 20))
  | 0x09 => .ok (.addpc (w.getLsbD 31) (w.extractLsb' 20 5) (w.extractLsb' 0 20))
  | 0x0A => decodeLoad w
  | 0x0B => decodeStore w
  | 0x0C => decodeOrdered w
  | 0x0D => decodeAtomic w
  | 0x0E => decodeFence w
  | 0x0F => decodeBitfield w
  | 0x10 => .ok (.beq (w.getLsbD 31) (w.extractLsb' 20 5) (w.extractLsb' 15 5) (w.extractLsb' 0 15))
  | 0x11 => .ok (.bne (w.getLsbD 31) (w.extractLsb' 20 5) (w.extractLsb' 15 5) (w.extractLsb' 0 15))
  | 0x12 => .ok (.blt (w.getLsbD 31) (w.extractLsb' 20 5) (w.extractLsb' 15 5) (w.extractLsb' 0 15))
  | 0x13 => .ok (.bge (w.getLsbD 31) (w.extractLsb' 20 5) (w.extractLsb' 15 5) (w.extractLsb' 0 15))
  | 0x14 => .ok (.bltu (w.getLsbD 31) (w.extractLsb' 20 5) (w.extractLsb' 15 5) (w.extractLsb' 0 15))
  | 0x15 => .ok (.bgeu (w.getLsbD 31) (w.extractLsb' 20 5) (w.extractLsb' 15 5) (w.extractLsb' 0 15))
  | 0x16 => .ok (.jal (w.getLsbD 31) (w.extractLsb' 0 25))
  | 0x17 => .ok (.jalr (w.getLsbD 31) (w.extractLsb' 20 5) (w.extractLsb' 15 5) (w.extractLsb' 0 15))
  | 0x18 => .ok (.subbr (w.getLsbD 31) (w.extractLsb' 20 5) (w.extractLsb' 15 5) (w.extractLsb' 0 15))
  | 0x19 => if w &&& 0x01FF83F0#32 = 0x00000000#32 then
      .ok (.loop (w.getLsbD 31) (w.extractLsb' 10 5) (w.extractLsb' 0 4))
    else .error .reservedField
  | 0x1A => decodeFpArith w
  | 0x1B => decodeFmaD w
  | 0x1C => decodeFmaS w
  | 0x1D => decodeFpConvert w
  | 0x20 => decodeVInt w
  | 0x21 => decodeVIntMisc w
  | 0x22 => decodeVFp w
  | 0x23 => decodeVConvert w
  | 0x24 => decodeVFma w
  | 0x25 => decodeVCompare w
  | 0x26 => decodeVPermute w
  | 0x27 => decodeVReduce w
  | 0x28 => decodeMaskOp w
  | 0x29 => decodeVLoad w
  | 0x2A => decodeVStore w
  | 0x2B => decodeLaneAtomic w
  | 0x2C => decodeVConfig w
  | 0x2D => decodeGeom w
  | 0x30 => decodeTileControl w
  | 0x31 => decodeTmma w
  | 0x32 => decodeTileMem w
  | 0x33 => decodeStream w
  | 0x34 => decodeSync w
  | 0x35 => decodeGang w
  | 0x36 => decodeTask w
  | 0x37 => decodeKernel w
  | 0x38 => decodeSystem w
  | 0x39 => decodeDeprecated w
  | 0x3C => .ok (decodeHint w)
  | 0x3D => .ok (.hintNop (w.getLsbD 31) (w.extractLsb' 0 31))
  | 0x3E => .ok (.hintNop (w.getLsbD 31) (w.extractLsb' 0 31))
  | _ => .error .illegalMajor

/-- The decoder (R265): the fields of the word, then the reserved codes and the limits that
the entries give their fields. DESIGN CHOICE (log 10). -/
noncomputable def decode (w : BitVec 32) : Except Reject Instr :=
  match decodeFields w with
  | .ok i => if i.wellFormed then .ok i else .error .reservedCode
  | .error r => .error r

/-- The encoder: the word of an instruction, laid out as R257 and the entries give it. An
event row has no word; it is given the all-zero word, which is illegal (R265). -/
def encode : Instr → BitVec 32
  | .add s d a b => BitVec.ofBool s ++ 0x1#6 ++ d ++ a ++ b ++ 0x0#10
  | .sub s d a b => BitVec.ofBool s ++ 0x1#6 ++ d ++ a ++ b ++ 0x1#10
  | .add32 s d a b => BitVec.ofBool s ++ 0x1#6 ++ d ++ a ++ b ++ 0x2#10
  | .sub32 s d a b => BitVec.ofBool s ++ 0x1#6 ++ d ++ a ++ b ++ 0x3#10
  | .and s d a b => BitVec.ofBool s ++ 0x1#6 ++ d ++ a ++ b ++ 0x4#10
  | .or s d a b => BitVec.ofBool s ++ 0x1#6 ++ d ++ a ++ b ++ 0x5#10
  | .xor s d a b => BitVec.ofBool s ++ 0x1#6 ++ d ++ a ++ b ++ 0x6#10
  | .andn s d a b => BitVec.ofBool s ++ 0x1#6 ++ d ++ a ++ b ++ 0x7#10
  | .sll s d a b => BitVec.ofBool s ++ 0x1#6 ++ d ++ a ++ b ++ 0x8#10
  | .srl s d a b => BitVec.ofBool s ++ 0x1#6 ++ d ++ a ++ b ++ 0x9#10
  | .sra s d a b => BitVec.ofBool s ++ 0x1#6 ++ d ++ a ++ b ++ 0xA#10
  | .ror s d a b => BitVec.ofBool s ++ 0x1#6 ++ d ++ a ++ b ++ 0xB#10
  | .min s d a b => BitVec.ofBool s ++ 0x1#6 ++ d ++ a ++ b ++ 0xC#10
  | .max s d a b => BitVec.ofBool s ++ 0x1#6 ++ d ++ a ++ b ++ 0xD#10
  | .minu s d a b => BitVec.ofBool s ++ 0x1#6 ++ d ++ a ++ b ++ 0xE#10
  | .maxu s d a b => BitVec.ofBool s ++ 0x1#6 ++ d ++ a ++ b ++ 0xF#10
  | .clz s d a => BitVec.ofBool s ++ 0x1#6 ++ d ++ a ++ 0x10#15
  | .ctz s d a => BitVec.ofBool s ++ 0x1#6 ++ d ++ a ++ 0x11#15
  | .popc s d a => BitVec.ofBool s ++ 0x1#6 ++ d ++ a ++ 0x12#15
  | .byterev s d a => BitVec.ofBool s ++ 0x1#6 ++ d ++ a ++ 0x13#15
  | .slt s d a b => BitVec.ofBool s ++ 0x1#6 ++ d ++ a ++ b ++ 0x18#10
  | .sltu s d a b => BitVec.ofBool s ++ 0x1#6 ++ d ++ a ++ b ++ 0x19#10
  | .seq s d a b => BitVec.ofBool s ++ 0x1#6 ++ d ++ a ++ b ++ 0x1A#10
  | .sne s d a b => BitVec.ofBool s ++ 0x1#6 ++ d ++ a ++ b ++ 0x1B#10
  | .cmovnz s d a b => BitVec.ofBool s ++ 0x1#6 ++ d ++ a ++ b ++ 0x1C#10
  | .cmovz s d a b => BitVec.ofBool s ++ 0x1#6 ++ d ++ a ++ b ++ 0x1D#10
  | .mul s d a b => BitVec.ofBool s ++ 0x1#6 ++ d ++ a ++ b ++ 0x40#10
  | .mulhs s d a b => BitVec.ofBool s ++ 0x1#6 ++ d ++ a ++ b ++ 0x41#10
  | .mulhu s d a b => BitVec.ofBool s ++ 0x1#6 ++ d ++ a ++ b ++ 0x42#10
  | .mulhus s d a b => BitVec.ofBool s ++ 0x1#6 ++ d ++ a ++ b ++ 0x43#10
  | .mul32 s d a b => BitVec.ofBool s ++ 0x1#6 ++ d ++ a ++ b ++ 0x44#10
  | .muladd s d a b => BitVec.ofBool s ++ 0x1#6 ++ d ++ a ++ b ++ 0x45#10
  | .mulsub s d a b => BitVec.ofBool s ++ 0x1#6 ++ d ++ a ++ b ++ 0x46#10
  | .div s d a b => BitVec.ofBool s ++ 0x1#6 ++ d ++ a ++ b ++ 0x48#10
  | .divu s d a b => BitVec.ofBool s ++ 0x1#6 ++ d ++ a ++ b ++ 0x49#10
  | .rem s d a b => BitVec.ofBool s ++ 0x1#6 ++ d ++ a ++ b ++ 0x4A#10
  | .remu s d a b => BitVec.ofBool s ++ 0x1#6 ++ d ++ a ++ b ++ 0x4B#10
  | .addi s d a i => BitVec.ofBool s ++ 0x2#6 ++ d ++ a ++ i
  | .andi s d a i => BitVec.ofBool s ++ 0x3#6 ++ d ++ a ++ i
  | .ori s d a i => BitVec.ofBool s ++ 0x4#6 ++ d ++ a ++ i
  | .xori s d a i => BitVec.ofBool s ++ 0x5#6 ++ d ++ a ++ i
  | .slli s d a n => BitVec.ofBool s ++ 0x6#6 ++ d ++ a ++ 0x0#9 ++ n
  | .srli s d a n => BitVec.ofBool s ++ 0x6#6 ++ d ++ a ++ 0x40#9 ++ n
  | .srai s d a n => BitVec.ofBool s ++ 0x6#6 ++ d ++ a ++ 0x80#9 ++ n
  | .rori s d a n => BitVec.ofBool s ++ 0x6#6 ++ d ++ a ++ 0xC0#9 ++ n
  | .slti s d a i => BitVec.ofBool s ++ 0x7#6 ++ d ++ a ++ 0x0#1 ++ i
  | .sltiu s d a i => BitVec.ofBool s ++ 0x7#6 ++ d ++ a ++ 0x1#1 ++ i
  | .lui s d i => BitVec.ofBool s ++ 0x8#6 ++ d ++ i
  | .addpc s d i => BitVec.ofBool s ++ 0x9#6 ++ d ++ i
  | .bfx s d a p w => BitVec.ofBool s ++ 0xF#6 ++ d ++ a ++ p.extractLsb' 0 5 ++ 0x0#2 ++ w ++ 0x0#1 ++ p.extractLsb' 5 1
  | .bfxu s d a p w => BitVec.ofBool s ++ 0xF#6 ++ d ++ a ++ p.extractLsb' 0 5 ++ 0x1#2 ++ w ++ 0x0#1 ++ p.extractLsb' 5 1
  | .bfi s d a p w => BitVec.ofBool s ++ 0xF#6 ++ d ++ a ++ p.extractLsb' 0 5 ++ 0x2#2 ++ w ++ 0x0#1 ++ p.extractLsb' 5 1
  | .beq s a b o => BitVec.ofBool s ++ 0x10#6 ++ a ++ b ++ o
  | .bne s a b o => BitVec.ofBool s ++ 0x11#6 ++ a ++ b ++ o
  | .blt s a b o => BitVec.ofBool s ++ 0x12#6 ++ a ++ b ++ o
  | .bge s a b o => BitVec.ofBool s ++ 0x13#6 ++ a ++ b ++ o
  | .bltu s a b o => BitVec.ofBool s ++ 0x14#6 ++ a ++ b ++ o
  | .bgeu s a b o => BitVec.ofBool s ++ 0x15#6 ++ a ++ b ++ o
  | .jal s o => BitVec.ofBool s ++ 0x16#6 ++ o
  | .jalr s d a i => BitVec.ofBool s ++ 0x17#6 ++ d ++ a ++ i
  | .subbr s a b o => BitVec.ofBool s ++ 0x18#6 ++ a ++ b ++ o
  | .loop s n p => BitVec.ofBool s ++ 0x19#6 ++ 0x0#10 ++ n ++ 0x0#6 ++ p
  | .fadd s d a b f r => BitVec.ofBool s ++ 0x1A#6 ++ d ++ a ++ b ++ 0x0#5 ++ f.code ++ r.code
  | .fsub s d a b f r => BitVec.ofBool s ++ 0x1A#6 ++ d ++ a ++ b ++ 0x1#5 ++ f.code ++ r.code
  | .fmul s d a b f r => BitVec.ofBool s ++ 0x1A#6 ++ d ++ a ++ b ++ 0x2#5 ++ f.code ++ r.code
  | .fdiv s d a b f r => BitVec.ofBool s ++ 0x1A#6 ++ d ++ a ++ b ++ 0x3#5 ++ f.code ++ r.code
  | .fsqrt s d a f r => BitVec.ofBool s ++ 0x1A#6 ++ d ++ a ++ 0x4#10 ++ f.code ++ r.code
  | .fmin s d a b f => BitVec.ofBool s ++ 0x1A#6 ++ d ++ a ++ b ++ 0x5#5 ++ f.code ++ 0x0#3
  | .fmax s d a b f => BitVec.ofBool s ++ 0x1A#6 ++ d ++ a ++ b ++ 0x6#5 ++ f.code ++ 0x0#3
  | .fcpsgn s d a b f => BitVec.ofBool s ++ 0x1A#6 ++ d ++ a ++ b ++ 0x7#5 ++ f.code ++ 0x0#3
  | .fneg s d a f => BitVec.ofBool s ++ 0x1A#6 ++ d ++ a ++ 0x8#10 ++ f.code ++ 0x0#3
  | .fabs s d a f => BitVec.ofBool s ++ 0x1A#6 ++ d ++ a ++ 0x9#10 ++ f.code ++ 0x0#3
  | .fxsgn s d a b f => BitVec.ofBool s ++ 0x1A#6 ++ d ++ a ++ b ++ 0xA#5 ++ f.code ++ 0x0#3
  | .fmaddD s d a b c r => BitVec.ofBool s ++ 0x1B#6 ++ d ++ a ++ b ++ c ++ 0x0#2 ++ r.code
  | .fmsubD s d a b c r => BitVec.ofBool s ++ 0x1B#6 ++ d ++ a ++ b ++ c ++ 0x1#2 ++ r.code
  | .fnmaddD s d a b c r => BitVec.ofBool s ++ 0x1B#6 ++ d ++ a ++ b ++ c ++ 0x2#2 ++ r.code
  | .fnmsubD s d a b c r => BitVec.ofBool s ++ 0x1B#6 ++ d ++ a ++ b ++ c ++ 0x3#2 ++ r.code
  | .fmaddS s d a b c r => BitVec.ofBool s ++ 0x1C#6 ++ d ++ a ++ b ++ c ++ 0x0#2 ++ r.code
  | .fmsubS s d a b c r => BitVec.ofBool s ++ 0x1C#6 ++ d ++ a ++ b ++ c ++ 0x1#2 ++ r.code
  | .fnmaddS s d a b c r => BitVec.ofBool s ++ 0x1C#6 ++ d ++ a ++ b ++ c ++ 0x2#2 ++ r.code
  | .fnmsubS s d a b c r => BitVec.ofBool s ++ 0x1C#6 ++ d ++ a ++ b ++ c ++ 0x3#2 ++ r.code
  | .fcmpq s d a b f => BitVec.ofBool s ++ 0x1D#6 ++ d ++ a ++ b ++ 0x0#5 ++ f.code ++ 0x0#3
  | .fcmps s d a b f => BitVec.ofBool s ++ 0x1D#6 ++ d ++ a ++ b ++ 0x1#5 ++ f.code ++ 0x0#3
  | .fclass s d a f => BitVec.ofBool s ++ 0x1D#6 ++ d ++ a ++ 0x3#10 ++ f.code ++ 0x0#3
  | .fcvt s d a f r => BitVec.ofBool s ++ 0x1D#6 ++ d ++ a ++ 0x4#10 ++ f.code ++ r.code
  | .fcvti s d a f r => BitVec.ofBool s ++ 0x1D#6 ++ d ++ a ++ 0x5#10 ++ f.code ++ r.code
  | .fcvtiu s d a f r => BitVec.ofBool s ++ 0x1D#6 ++ d ++ a ++ 0x6#10 ++ f.code ++ r.code
  | .icvtf s d a f r => BitVec.ofBool s ++ 0x1D#6 ++ d ++ a ++ 0x7#10 ++ f.code ++ r.code
  | .iucvtf s d a f r => BitVec.ofBool s ++ 0x1D#6 ++ d ++ a ++ 0x8#10 ++ f.code ++ r.code
  | .fcvtn s d a g f r => BitVec.ofBool s ++ 0x1D#6 ++ d ++ a ++ g ++ 0x9#5 ++ f.code ++ r.code
  | .fcvtw s d a g f => BitVec.ofBool s ++ 0x1D#6 ++ d ++ a ++ g ++ 0xA#5 ++ f.code ++ 0x0#3
  | .crd s d c => BitVec.ofBool s ++ 0x38#6 ++ d ++ 0x0#5 ++ c ++ 0x0#3
  | .cwr s a c => BitVec.ofBool s ++ 0x38#6 ++ 0x0#5 ++ a ++ c ++ 0x1#3
  | .cset s d a c => BitVec.ofBool s ++ 0x38#6 ++ d ++ a ++ c ++ 0x2#3
  | .cclr s d a c => BitVec.ofBool s ++ 0x38#6 ++ d ++ a ++ c ++ 0x3#3
  | .trap s a => BitVec.ofBool s ++ 0x38#6 ++ 0x0#5 ++ a ++ 0x7#15
  | .tret s => BitVec.ofBool s ++ 0x38#6 ++ 0xF#25
  | .idle s => BitVec.ofBool s ++ 0x38#6 ++ 0x17#25
  | .tfence s b a => BitVec.ofBool s ++ 0x38#6 ++ b ++ a ++ 0x1F#15
  | .ifence s => BitVec.ofBool s ++ 0x38#6 ++ 0x27#25
  | .csave s b a => BitVec.ofBool s ++ 0x38#6 ++ b ++ a ++ 0x2F#15
  | .crestore s b a => BitVec.ofBool s ++ 0x38#6 ++ b ++ a ++ 0x37#15
  | .gstop s d a => BitVec.ofBool s ++ 0x38#6 ++ d ++ a ++ 0x3F#15
  | .gresume s d a => BitVec.ofBool s ++ 0x38#6 ++ d ++ a ++ 0x47#15
  | .bkpt s => BitVec.ofBool s ++ 0x38#6 ++ 0x4F#25
  | .ld s d a w i => BitVec.ofBool s ++ 0xA#6 ++ d ++ a ++ 0x0#1 ++ w.code ++ i
  | .ldu s d a w i => BitVec.ofBool s ++ 0xA#6 ++ d ++ a ++ 0x1#1 ++ w.code ++ i
  | .st s b a w i => BitVec.ofBool s ++ 0xB#6 ++ b ++ a ++ 0x0#1 ++ w.code ++ i
  | .lda s d a c w => BitVec.ofBool s ++ 0xC#6 ++ d ++ a ++ 0x0#7 ++ c.code ++ w.code ++ 0x0#3
  | .stl s a b c w => BitVec.ofBool s ++ 0xC#6 ++ 0x0#5 ++ a ++ b ++ 0x1#2 ++ c.code ++ w.code ++ 0x0#3
  | .amoadd s d a b w n c => BitVec.ofBool s ++ 0xD#6 ++ d ++ a ++ b ++ 0x0#3 ++ BitVec.ofBool w ++ 0x0#1 ++ n.code ++ c.code
  | .amoswap s d a b w n c => BitVec.ofBool s ++ 0xD#6 ++ d ++ a ++ b ++ 0x1#3 ++ BitVec.ofBool w ++ 0x0#1 ++ n.code ++ c.code
  | .amocas s d a b w n c => BitVec.ofBool s ++ 0xD#6 ++ d ++ a ++ b ++ 0x2#3 ++ BitVec.ofBool w ++ 0x0#1 ++ n.code ++ c.code
  | .amoand s d a b n c => BitVec.ofBool s ++ 0xD#6 ++ d ++ a ++ b ++ 0xC#5 ++ n.code ++ c.code
  | .amoor s d a b n c => BitVec.ofBool s ++ 0xD#6 ++ d ++ a ++ b ++ 0xE#5 ++ n.code ++ c.code
  | .amoxor s d a b n c => BitVec.ofBool s ++ 0xD#6 ++ d ++ a ++ b ++ 0x10#5 ++ n.code ++ c.code
  | .amomin s d a b n c => BitVec.ofBool s ++ 0xD#6 ++ d ++ a ++ b ++ 0x12#5 ++ n.code ++ c.code
  | .amomax s d a b n c => BitVec.ofBool s ++ 0xD#6 ++ d ++ a ++ b ++ 0x14#5 ++ n.code ++ c.code
  | .amominu s d a b n c => BitVec.ofBool s ++ 0xD#6 ++ d ++ a ++ b ++ 0x16#5 ++ n.code ++ c.code
  | .amomaxu s d a b n c => BitVec.ofBool s ++ 0xD#6 ++ d ++ a ++ b ++ 0x18#5 ++ n.code ++ c.code
  | .amofaddS s d a b n c => BitVec.ofBool s ++ 0xD#6 ++ d ++ a ++ b ++ 0x1A#5 ++ n.code ++ c.code
  | .amofaddD s d a b n c => BitVec.ofBool s ++ 0xD#6 ++ d ++ a ++ b ++ 0x1C#5 ++ n.code ++ c.code
  | .famoadd s d a b w n c => BitVec.ofBool s ++ 0xD#6 ++ d ++ a ++ b ++ 0x0#3 ++ BitVec.ofBool w ++ 0x1#1 ++ n.code ++ c.code
  | .famoswap s d a b w n c => BitVec.ofBool s ++ 0xD#6 ++ d ++ a ++ b ++ 0x1#3 ++ BitVec.ofBool w ++ 0x1#1 ++ n.code ++ c.code
  | .famocas s d a b w n c => BitVec.ofBool s ++ 0xD#6 ++ d ++ a ++ b ++ 0x2#3 ++ BitVec.ofBool w ++ 0x1#1 ++ n.code ++ c.code
  | .famoand s d a b n c => BitVec.ofBool s ++ 0xD#6 ++ d ++ a ++ b ++ 0xD#5 ++ n.code ++ c.code
  | .famoor s d a b n c => BitVec.ofBool s ++ 0xD#6 ++ d ++ a ++ b ++ 0xF#5 ++ n.code ++ c.code
  | .famoxor s d a b n c => BitVec.ofBool s ++ 0xD#6 ++ d ++ a ++ b ++ 0x11#5 ++ n.code ++ c.code
  | .famomin s d a b n c => BitVec.ofBool s ++ 0xD#6 ++ d ++ a ++ b ++ 0x13#5 ++ n.code ++ c.code
  | .famomax s d a b n c => BitVec.ofBool s ++ 0xD#6 ++ d ++ a ++ b ++ 0x15#5 ++ n.code ++ c.code
  | .famominu s d a b n c => BitVec.ofBool s ++ 0xD#6 ++ d ++ a ++ b ++ 0x17#5 ++ n.code ++ c.code
  | .famomaxu s d a b n c => BitVec.ofBool s ++ 0xD#6 ++ d ++ a ++ b ++ 0x19#5 ++ n.code ++ c.code
  | .famofaddS s d a b n c => BitVec.ofBool s ++ 0xD#6 ++ d ++ a ++ b ++ 0x1B#5 ++ n.code ++ c.code
  | .famofaddD s d a b n c => BitVec.ofBool s ++ 0xD#6 ++ d ++ a ++ b ++ 0x1D#5 ++ n.code ++ c.code
  | .fencel s p c => BitVec.ofBool s ++ 0xE#6 ++ 0x0#5 ++ p ++ 0x1#12 ++ c.code
  | .fencea s p c => BitVec.ofBool s ++ 0xE#6 ++ 0x0#5 ++ p ++ 0x2#12 ++ c.code
  | .fence s p c => BitVec.ofBool s ++ 0xE#6 ++ 0x0#5 ++ p ++ 0x3#12 ++ c.code
  | .xfence s p q c => BitVec.ofBool s ++ 0xE#6 ++ 0x0#5 ++ p ++ q ++ 0x20#7 ++ c.code
  | .ldp s d a i => BitVec.ofBool s ++ 0x39#6 ++ d ++ a ++ 0x0#3 ++ i
  | .vsetli s d e i => BitVec.ofBool s ++ 0x39#6 ++ d ++ 0x1#8 ++ e.code ++ i
  | .fenceall s => BitVec.ofBool s ++ 0x39#6 ++ 0x2000#25
  | .hpfL1 s a i => BitVec.ofBool s ++ 0x3C#6 ++ 0x0#5 ++ a ++ 0x0#3 ++ i
  | .hpfS s a i => BitVec.ofBool s ++ 0x3C#6 ++ 0x0#5 ++ a ++ 0x1#3 ++ i
  | .hpfSx s a i => BitVec.ofBool s ++ 0x3C#6 ++ 0x0#5 ++ a ++ 0x2#3 ++ i
  | .hintNop s body => BitVec.ofBool s ++ body
  | .setvl s d a e => BitVec.ofBool s ++ 0x2C#6 ++ d ++ a ++ 0x0#13 ++ e.code
  | .vspill s a b => BitVec.ofBool s ++ 0x2C#6 ++ 0x0#5 ++ a ++ b ++ 0x10#10
  | .vfill s a => BitVec.ofBool s ++ 0x2C#6 ++ 0x0#5 ++ a ++ 0x11#15
  | .ringcfg s d a => BitVec.ofBool s ++ 0x2C#6 ++ d ++ a ++ 0x20#15
  | .mand s d a b => BitVec.ofBool s ++ 0x28#6 ++ d ++ a ++ b ++ 0x0#10
  | .mor s d a b => BitVec.ofBool s ++ 0x28#6 ++ d ++ a ++ b ++ 0x1#10
  | .mxor s d a b => BitVec.ofBool s ++ 0x28#6 ++ d ++ a ++ b ++ 0x2#10
  | .mandn s d a b => BitVec.ofBool s ++ 0x28#6 ++ d ++ a ++ b ++ 0x3#10
  | .mnot s d a => BitVec.ofBool s ++ 0x28#6 ++ d ++ a ++ 0x4#15
  | .mset s d => BitVec.ofBool s ++ 0x28#6 ++ d ++ 0x5#20
  | .mpopc s d a => BitVec.ofBool s ++ 0x28#6 ++ d ++ a ++ 0x6#15
  | .mfirst s d a => BitVec.ofBool s ++ 0x28#6 ++ d ++ a ++ 0x7#15
  | .vadd s d a b k => BitVec.ofBool s ++ 0x20#6 ++ d ++ a ++ b ++ k ++ 0x0#5
  | .vsub s d a b k => BitVec.ofBool s ++ 0x20#6 ++ d ++ a ++ b ++ k ++ 0x1#5
  | .vmul s d a b k => BitVec.ofBool s ++ 0x20#6 ++ d ++ a ++ b ++ k ++ 0x2#5
  | .vmulh s d a b k => BitVec.ofBool s ++ 0x20#6 ++ d ++ a ++ b ++ k ++ 0x3#5
  | .vmulhu s d a b k => BitVec.ofBool s ++ 0x20#6 ++ d ++ a ++ b ++ k ++ 0x4#5
  | .vand s d a b k => BitVec.ofBool s ++ 0x20#6 ++ d ++ a ++ b ++ k ++ 0x5#5
  | .vor s d a b k => BitVec.ofBool s ++ 0x20#6 ++ d ++ a ++ b ++ k ++ 0x6#5
  | .vxor s d a b k => BitVec.ofBool s ++ 0x20#6 ++ d ++ a ++ b ++ k ++ 0x7#5
  | .vsll s d a b k => BitVec.ofBool s ++ 0x20#6 ++ d ++ a ++ b ++ k ++ 0x8#5
  | .vsrl s d a b k => BitVec.ofBool s ++ 0x20#6 ++ d ++ a ++ b ++ k ++ 0x9#5
  | .vsra s d a b k => BitVec.ofBool s ++ 0x20#6 ++ d ++ a ++ b ++ k ++ 0xA#5
  | .vmin s d a b k => BitVec.ofBool s ++ 0x20#6 ++ d ++ a ++ b ++ k ++ 0xB#5
  | .vmax s d a b k => BitVec.ofBool s ++ 0x20#6 ++ d ++ a ++ b ++ k ++ 0xC#5
  | .vminu s d a b k => BitVec.ofBool s ++ 0x20#6 ++ d ++ a ++ b ++ k ++ 0xD#5
  | .vmaxu s d a b k => BitVec.ofBool s ++ 0x20#6 ++ d ++ a ++ b ++ k ++ 0xE#5
  | .vsadd s d a b k x => BitVec.ofBool s ++ 0x21#6 ++ d ++ a ++ b ++ k ++ BitVec.ofBool x ++ 0x0#4
  | .vsaddu s d a b k x => BitVec.ofBool s ++ 0x21#6 ++ d ++ a ++ b ++ k ++ BitVec.ofBool x ++ 0x1#4
  | .vssub s d a b k x => BitVec.ofBool s ++ 0x21#6 ++ d ++ a ++ b ++ k ++ BitVec.ofBool x ++ 0x2#4
  | .vssubu s d a b k x => BitVec.ofBool s ++ 0x21#6 ++ d ++ a ++ b ++ k ++ BitVec.ofBool x ++ 0x3#4
  | .vabs s d a k => BitVec.ofBool s ++ 0x21#6 ++ d ++ a ++ 0x0#5 ++ k ++ 0x4#5
  | .vsplat s d a k => BitVec.ofBool s ++ 0x21#6 ++ d ++ a ++ 0x0#5 ++ k ++ 0x5#5
  | .viota s d k => BitVec.ofBool s ++ 0x21#6 ++ d ++ 0x0#10 ++ k ++ 0x6#5
  | .vmv s d a k => BitVec.ofBool s ++ 0x21#6 ++ d ++ a ++ 0x0#5 ++ k ++ 0x7#5
  | .vsext s d a k => BitVec.ofBool s ++ 0x21#6 ++ d ++ a ++ 0x0#5 ++ k ++ 0x8#5
  | .vzext s d a k => BitVec.ofBool s ++ 0x21#6 ++ d ++ a ++ 0x0#5 ++ k ++ 0x9#5
  | .vfadd s d a b k x => BitVec.ofBool s ++ 0x22#6 ++ d ++ a ++ b ++ k ++ BitVec.ofBool x ++ 0x0#4
  | .vfsub s d a b k x => BitVec.ofBool s ++ 0x22#6 ++ d ++ a ++ b ++ k ++ BitVec.ofBool x ++ 0x1#4
  | .vfmul s d a b k x => BitVec.ofBool s ++ 0x22#6 ++ d ++ a ++ b ++ k ++ BitVec.ofBool x ++ 0x2#4
  | .vfdiv s d a b k x => BitVec.ofBool s ++ 0x22#6 ++ d ++ a ++ b ++ k ++ BitVec.ofBool x ++ 0x3#4
  | .vfsqrt s d a k x => BitVec.ofBool s ++ 0x22#6 ++ d ++ a ++ 0x0#5 ++ k ++ BitVec.ofBool x ++ 0x4#4
  | .vfmin s d a b k x => BitVec.ofBool s ++ 0x22#6 ++ d ++ a ++ b ++ k ++ BitVec.ofBool x ++ 0x5#4
  | .vfmax s d a b k x => BitVec.ofBool s ++ 0x22#6 ++ d ++ a ++ b ++ k ++ BitVec.ofBool x ++ 0x6#4
  | .vfcpsgn s d a b k => BitVec.ofBool s ++ 0x22#6 ++ d ++ a ++ b ++ k ++ 0x7#5
  | .vfneg s d a k => BitVec.ofBool s ++ 0x22#6 ++ d ++ a ++ 0x0#5 ++ k ++ 0x8#5
  | .vfabs s d a k => BitVec.ofBool s ++ 0x22#6 ++ d ++ a ++ 0x0#5 ++ k ++ 0x9#5
  | .vfxsgn s d a b k => BitVec.ofBool s ++ 0x22#6 ++ d ++ a ++ b ++ k ++ 0xA#5
  | .vbadd s d a b k x => BitVec.ofBool s ++ 0x23#6 ++ d ++ a ++ b ++ k ++ BitVec.ofBool x ++ 0x0#4
  | .vbsub s d a b k x => BitVec.ofBool s ++ 0x23#6 ++ d ++ a ++ b ++ k ++ BitVec.ofBool x ++ 0x1#4
  | .vbmul s d a b k x => BitVec.ofBool s ++ 0x23#6 ++ d ++ a ++ b ++ k ++ BitVec.ofBool x ++ 0x2#4
  | .vfclass s d a k => BitVec.ofBool s ++ 0x23#6 ++ d ++ a ++ 0x0#5 ++ k ++ 0x3#5
  | .vfcvtw s d a g k x => BitVec.ofBool s ++ 0x23#6 ++ d ++ a ++ g ++ k ++ BitVec.ofBool x ++ 0x4#4
  | .vfcvtn s d a g k x => BitVec.ofBool s ++ 0x23#6 ++ d ++ a ++ g ++ k ++ BitVec.ofBool x ++ 0x5#4
  | .vfcvti s d a k x => BitVec.ofBool s ++ 0x23#6 ++ d ++ a ++ 0x0#5 ++ k ++ BitVec.ofBool x ++ 0x6#4
  | .vicvtf s d a k x => BitVec.ofBool s ++ 0x23#6 ++ d ++ a ++ 0x0#5 ++ k ++ BitVec.ofBool x ++ 0x7#4
  | .vfcvtiu s d a k x => BitVec.ofBool s ++ 0x23#6 ++ d ++ a ++ 0x0#5 ++ k ++ BitVec.ofBool x ++ 0x8#4
  | .viucvtf s d a k x => BitVec.ofBool s ++ 0x23#6 ++ d ++ a ++ 0x0#5 ++ k ++ BitVec.ofBool x ++ 0x9#4
  | .vfmadd s d a b k x => BitVec.ofBool s ++ 0x24#6 ++ d ++ a ++ b ++ k ++ BitVec.ofBool x ++ 0x0#4
  | .vfmsub s d a b k x => BitVec.ofBool s ++ 0x24#6 ++ d ++ a ++ b ++ k ++ BitVec.ofBool x ++ 0x1#4
  | .vfnmadd s d a b k x => BitVec.ofBool s ++ 0x24#6 ++ d ++ a ++ b ++ k ++ BitVec.ofBool x ++ 0x2#4
  | .vfnmsub s d a b k x => BitVec.ofBool s ++ 0x24#6 ++ d ++ a ++ b ++ k ++ BitVec.ofBool x ++ 0x3#4
  | .vbfmadd s d a b k x => BitVec.ofBool s ++ 0x24#6 ++ d ++ a ++ b ++ k ++ BitVec.ofBool x ++ 0x4#4
  | .vfwma s d a b k x => BitVec.ofBool s ++ 0x24#6 ++ d ++ a ++ b ++ k ++ BitVec.ofBool x ++ 0x5#4
  | .vbfwma s d a b k x => BitVec.ofBool s ++ 0x24#6 ++ d ++ a ++ b ++ k ++ BitVec.ofBool x ++ 0x6#4
  | .vfdot2 s d a b k x => BitVec.ofBool s ++ 0x24#6 ++ d ++ a ++ b ++ k ++ BitVec.ofBool x ++ 0x7#4
  | .vbfdot2 s d a b k x => BitVec.ofBool s ++ 0x24#6 ++ d ++ a ++ b ++ k ++ BitVec.ofBool x ++ 0x8#4
  | .vdot4 s d a b k => BitVec.ofBool s ++ 0x24#6 ++ d ++ a ++ b ++ k ++ 0x9#5
  | .vdot4u s d a b k => BitVec.ofBool s ++ 0x24#6 ++ d ++ a ++ b ++ k ++ 0xA#5
  | .vmacc s d a b k => BitVec.ofBool s ++ 0x24#6 ++ d ++ a ++ b ++ k ++ 0xB#5
  | .vcmpeq s d a b k => BitVec.ofBool s ++ 0x25#6 ++ d ++ a ++ b ++ k ++ 0x0#5
  | .vcmpne s d a b k => BitVec.ofBool s ++ 0x25#6 ++ d ++ a ++ b ++ k ++ 0x1#5
  | .vcmplt s d a b k => BitVec.ofBool s ++ 0x25#6 ++ d ++ a ++ b ++ k ++ 0x2#5
  | .vcmple s d a b k => BitVec.ofBool s ++ 0x25#6 ++ d ++ a ++ b ++ k ++ 0x3#5
  | .vcmpltu s d a b k => BitVec.ofBool s ++ 0x25#6 ++ d ++ a ++ b ++ k ++ 0x4#5
  | .vcmpleu s d a b k => BitVec.ofBool s ++ 0x25#6 ++ d ++ a ++ b ++ k ++ 0x5#5
  | .vfcmpeq s d a b k x => BitVec.ofBool s ++ 0x25#6 ++ d ++ a ++ b ++ k ++ BitVec.ofBool x ++ 0x6#4
  | .vfcmplt s d a b k x => BitVec.ofBool s ++ 0x25#6 ++ d ++ a ++ b ++ k ++ BitVec.ofBool x ++ 0x7#4
  | .vfcmple s d a b k x => BitVec.ofBool s ++ 0x25#6 ++ d ++ a ++ b ++ k ++ BitVec.ofBool x ++ 0x8#4
  | .vwhile s d a b k => BitVec.ofBool s ++ 0x25#6 ++ d ++ a ++ b ++ k ++ 0x9#5
  | .vslideup s d a b k => BitVec.ofBool s ++ 0x26#6 ++ d ++ a ++ b ++ k ++ 0x0#5
  | .vslidedn s d a b k => BitVec.ofBool s ++ 0x26#6 ++ d ++ a ++ b ++ k ++ 0x1#5
  | .vgather s d a b k => BitVec.ofBool s ++ 0x26#6 ++ d ++ a ++ b ++ k ++ 0x2#5
  | .vcompress s d a k => BitVec.ofBool s ++ 0x26#6 ++ d ++ a ++ 0x0#5 ++ k ++ 0x3#5
  | .vext s d a b => BitVec.ofBool s ++ 0x26#6 ++ d ++ a ++ b ++ 0x3E4#10
  | .vins s d a b => BitVec.ofBool s ++ 0x26#6 ++ d ++ a ++ b ++ 0x3E5#10
  | .vrev s d a k => BitVec.ofBool s ++ 0x26#6 ++ d ++ a ++ 0x0#5 ++ k ++ 0x6#5
  | .vredsum s d a b k => BitVec.ofBool s ++ 0x27#6 ++ d ++ a ++ b ++ k ++ 0x0#5
  | .vredmin s d a b k => BitVec.ofBool s ++ 0x27#6 ++ d ++ a ++ b ++ k ++ 0x1#5
  | .vredmax s d a b k => BitVec.ofBool s ++ 0x27#6 ++ d ++ a ++ b ++ k ++ 0x2#5
  | .vredminu s d a b k => BitVec.ofBool s ++ 0x27#6 ++ d ++ a ++ b ++ k ++ 0x3#5
  | .vredmaxu s d a b k => BitVec.ofBool s ++ 0x27#6 ++ d ++ a ++ b ++ k ++ 0x4#5
  | .vfredsum s d a b k => BitVec.ofBool s ++ 0x27#6 ++ d ++ a ++ b ++ k ++ 0x5#5
  | .vfredmin s d a b k => BitVec.ofBool s ++ 0x27#6 ++ d ++ a ++ b ++ k ++ 0x6#5
  | .vfredmax s d a b k => BitVec.ofBool s ++ 0x27#6 ++ d ++ a ++ b ++ k ++ 0x7#5
  | .vld s d a k => BitVec.ofBool s ++ 0x29#6 ++ d ++ a ++ 0x0#5 ++ k ++ 0x0#5
  | .vldOffset s d a b k => BitVec.ofBool s ++ 0x29#6 ++ d ++ a ++ b ++ k ++ 0x1#5
  | .vlds s d a b k => BitVec.ofBool s ++ 0x29#6 ++ d ++ a ++ b ++ k ++ 0x2#5
  | .vldx s d a b k => BitVec.ofBool s ++ 0x29#6 ++ d ++ a ++ b ++ k ++ 0x3#5
  | .vldff s d a k => BitVec.ofBool s ++ 0x29#6 ++ d ++ a ++ 0x0#5 ++ k ++ 0x4#5
  | .vld2d s d a k => BitVec.ofBool s ++ 0x29#6 ++ d ++ a ++ 0x0#5 ++ k ++ 0x5#5
  | .vst s d a k => BitVec.ofBool s ++ 0x2A#6 ++ d ++ a ++ 0x0#5 ++ k ++ 0x0#5
  | .vstOffset s d a b k => BitVec.ofBool s ++ 0x2A#6 ++ d ++ a ++ b ++ k ++ 0x1#5
  | .vsts s d a b k => BitVec.ofBool s ++ 0x2A#6 ++ d ++ a ++ b ++ k ++ 0x2#5
  | .vstx s d a b k => BitVec.ofBool s ++ 0x2A#6 ++ d ++ a ++ b ++ k ++ 0x3#5
  | .vst2d s d a k => BitVec.ofBool s ++ 0x2A#6 ++ d ++ a ++ 0x0#5 ++ k ++ 0x5#5
  | .vamoadd s d a b k => BitVec.ofBool s ++ 0x2B#6 ++ d ++ a ++ b ++ k ++ 0x0#5
  | .vamoswap s d a b k => BitVec.ofBool s ++ 0x2B#6 ++ d ++ a ++ b ++ k ++ 0x1#5
  | .vamomin s d a b k => BitVec.ofBool s ++ 0x2B#6 ++ d ++ a ++ b ++ k ++ 0x2#5
  | .vamomax s d a b k => BitVec.ofBool s ++ 0x2B#6 ++ d ++ a ++ b ++ k ++ 0x3#5
  | .vamominu s d a b k => BitVec.ofBool s ++ 0x2B#6 ++ d ++ a ++ b ++ k ++ 0x4#5
  | .vamomaxu s d a b k => BitVec.ofBool s ++ 0x2B#6 ++ d ++ a ++ b ++ k ++ 0x5#5
  | .vamoand s d a b k => BitVec.ofBool s ++ 0x2B#6 ++ d ++ a ++ b ++ k ++ 0x6#5
  | .vamoor s d a b k => BitVec.ofBool s ++ 0x2B#6 ++ d ++ a ++ b ++ k ++ 0x7#5
  | .vamoxor s d a b k => BitVec.ofBool s ++ 0x2B#6 ++ d ++ a ++ b ++ k ++ 0x8#5
  | .vamofadd s d a b k => BitVec.ofBool s ++ 0x2B#6 ++ d ++ a ++ b ++ k ++ 0x9#5
  | .vorient2 s d a k x => BitVec.ofBool s ++ 0x2D#6 ++ d ++ a ++ 0x0#5 ++ k ++ BitVec.ofBool x ++ 0x0#4
  | .vorient3 s d a k x => BitVec.ofBool s ++ 0x2D#6 ++ d ++ a ++ 0x0#5 ++ k ++ BitVec.ofBool x ++ 0x1#4
  | .vincirc s d a k x => BitVec.ofBool s ++ 0x2D#6 ++ d ++ a ++ 0x0#5 ++ k ++ BitVec.ofBool x ++ 0x2#4
  | .vinsph s d a k x => BitVec.ofBool s ++ 0x2D#6 ++ d ++ a ++ 0x0#5 ++ k ++ BitVec.ofBool x ++ 0x3#4
  | .vsegx s d a k x => BitVec.ofBool s ++ 0x2D#6 ++ d ++ a ++ 0x0#5 ++ k ++ BitVec.ofBool x ++ 0x4#4
  | .vorient2t s d a k x => BitVec.ofBool s ++ 0x2D#6 ++ d ++ a ++ 0x0#5 ++ k ++ BitVec.ofBool x ++ 0x8#4
  | .vorient3t s d a k x => BitVec.ofBool s ++ 0x2D#6 ++ d ++ a ++ 0x0#5 ++ k ++ BitVec.ofBool x ++ 0x9#4
  | .vincirct s d a k x => BitVec.ofBool s ++ 0x2D#6 ++ d ++ a ++ 0x0#5 ++ k ++ BitVec.ofBool x ++ 0xA#4
  | .vinspht s d a k x => BitVec.ofBool s ++ 0x2D#6 ++ d ++ a ++ 0x0#5 ++ k ++ BitVec.ofBool x ++ 0xB#4
  | .escalationSettle _ => 0#32
  | .tcfg s t x => BitVec.ofBool s ++ 0x30#6 ++ t ++ 0x0#6 ++ x ++ 0x0#11
  | .acfg s t x => BitVec.ofBool s ++ 0x30#6 ++ t ++ 0x0#6 ++ x ++ 0x40#11
  | .tzero s t => BitVec.ofBool s ++ 0x30#6 ++ t ++ 0x80#22
  | .azero s t => BitVec.ofBool s ++ 0x30#6 ++ t ++ 0xC0#22
  | .tgetr s t x r => BitVec.ofBool s ++ 0x30#6 ++ t ++ 0x0#6 ++ x ++ 0x4#5 ++ r
  | .tsetr s t x r => BitVec.ofBool s ++ 0x30#6 ++ t ++ 0x0#6 ++ x ++ 0x5#5 ++ r
  | .agetr s t x r => BitVec.ofBool s ++ 0x30#6 ++ t ++ 0x0#6 ++ x ++ 0x6#5 ++ r
  | .asetr s t x r => BitVec.ofBool s ++ 0x30#6 ++ t ++ 0x0#6 ++ x ++ 0x7#5 ++ r
  | .ttrans s t a => BitVec.ofBool s ++ 0x30#6 ++ t ++ a ++ 0x200#19
  | .acvt s t a => BitVec.ofBool s ++ 0x30#6 ++ t ++ a ++ 0x240#19
  | .tmmaD s t a b => BitVec.ofBool s ++ 0x31#6 ++ t ++ a ++ b ++ 0x0#16
  | .tmmaHf s t a b => BitVec.ofBool s ++ 0x31#6 ++ t ++ a ++ b ++ 0x1#16
  | .tmmaBf s t a b => BitVec.ofBool s ++ 0x31#6 ++ t ++ a ++ b ++ 0x2#16
  | .tmmaE4e4 s t a b x => BitVec.ofBool s ++ 0x31#6 ++ t ++ a ++ b ++ x ++ 0x3#11
  | .tmmaE4e5 s t a b x => BitVec.ofBool s ++ 0x31#6 ++ t ++ a ++ b ++ x ++ 0x4#11
  | .tmmaE5e4 s t a b x => BitVec.ofBool s ++ 0x31#6 ++ t ++ a ++ b ++ x ++ 0x5#11
  | .tmmaE5e5 s t a b x => BitVec.ofBool s ++ 0x31#6 ++ t ++ a ++ b ++ x ++ 0x6#11
  | .tmmaI8 s t a b => BitVec.ofBool s ++ 0x31#6 ++ t ++ a ++ b ++ 0x7#16
  | .tmmaC8 s t a b x => BitVec.ofBool s ++ 0x31#6 ++ t ++ a ++ b ++ x ++ 0x8#11
  | .tmmaC6 s t a b x => BitVec.ofBool s ++ 0x31#6 ++ t ++ a ++ b ++ x ++ 0x9#11
  | .tmmaC4 s t a b x => BitVec.ofBool s ++ 0x31#6 ++ t ++ a ++ b ++ x ++ 0xA#11
  | .tld s t x => BitVec.ofBool s ++ 0x32#6 ++ t ++ 0x0#6 ++ x ++ 0x0#11
  | .tst s t x => BitVec.ofBool s ++ 0x32#6 ++ t ++ 0x0#6 ++ x ++ 0x1#11
  | .ald s t x => BitVec.ofBool s ++ 0x32#6 ++ t ++ 0x0#6 ++ x ++ 0x2#11
  | .ast s t x => BitVec.ofBool s ++ 0x32#6 ++ t ++ 0x0#6 ++ x ++ 0x3#11
  | .tileInstructionStart _ => 0#32
  | .matrixArbiterSelect _ => 0#32
  | .spat s p a => BitVec.ofBool s ++ 0x33#6 ++ p ++ a ++ 0x0#15
  | .scmd s a => BitVec.ofBool s ++ 0x33#6 ++ 0x0#5 ++ a ++ 0x1#15
  | .sseal s d => BitVec.ofBool s ++ 0x33#6 ++ d ++ 0x2#20
  | .swaitb s d n => BitVec.ofBool s ++ 0x33#6 ++ d ++ 0x0#5 ++ n ++ 0x3#10
  | .sclose s p => BitVec.ofBool s ++ 0x33#6 ++ 0x0#10 ++ p ++ 0x4#10
  | .sstat s d a => BitVec.ofBool s ++ 0x33#6 ++ d ++ a ++ 0x5#15
  | .scancel s => BitVec.ofBool s ++ 0x33#6 ++ 0x6#25
  | .streamDispatch _ _ => 0#32
  | .streamCommandComplete _ _ => 0#32
  | .binit s a b => BitVec.ofBool s ++ 0x34#6 ++ 0x0#5 ++ a ++ b ++ 0x0#10
  | .barrive s d a => BitVec.ofBool s ++ 0x34#6 ++ d ++ a ++ 0x40#15
  | .bwait s a b => BitVec.ofBool s ++ 0x34#6 ++ 0x0#5 ++ a ++ b ++ 0x80#10
  | .bsync s a => BitVec.ofBool s ++ 0x34#6 ++ 0x0#5 ++ a ++ 0xC0#15
  | .mwait s d a n => BitVec.ofBool s ++ 0x34#6 ++ d ++ a ++ 0x4#9 ++ n
  | .msend s a b => BitVec.ofBool s ++ 0x34#6 ++ 0x0#5 ++ a ++ b ++ 0x140#10
  | .mrd s d n => BitVec.ofBool s ++ 0x34#6 ++ d ++ 0x60#18 ++ n
  | .mwr s a n => BitVec.ofBool s ++ 0x34#6 ++ 0x0#5 ++ a ++ 0x70#13 ++ n
  | .yield s a => BitVec.ofBool s ++ 0x34#6 ++ 0x0#5 ++ a ++ 0x200#15
  | .garrive s d a => BitVec.ofBool s ++ 0x35#6 ++ d ++ a ++ 0x0#15
  | .gwaitb s a b => BitVec.ofBool s ++ 0x35#6 ++ 0x0#5 ++ a ++ b ++ 0x40#10
  | .gbar s a => BitVec.ofBool s ++ 0x35#6 ++ 0x0#5 ++ a ++ 0x80#15
  | .gbarj s a => BitVec.ofBool s ++ 0x35#6 ++ 0x0#5 ++ a ++ 0x81#15
  | .gmcast s a b => BitVec.ofBool s ++ 0x35#6 ++ 0x0#5 ++ a ++ b ++ 0xC0#10
  | .ginfo s d n => BitVec.ofBool s ++ 0x35#6 ++ d ++ 0x4#14 ++ n
  | .tkinit s d a b => BitVec.ofBool s ++ 0x36#6 ++ d ++ a ++ b ++ 0x0#10
  | .tkdec s a => BitVec.ofBool s ++ 0x36#6 ++ 0x0#5 ++ a ++ 0x1#15
  | .tkpop s d a => BitVec.ofBool s ++ 0x36#6 ++ d ++ a ++ 0x2#15
  | .tkstat s d a => BitVec.ofBool s ++ 0x36#6 ++ d ++ a ++ 0x3#15
  | .taskEnqueue _ => 0#32
  | .taskAging _ => 0#32
  | .tuctlWrite _ _ => 0#32
  | .launch s a => BitVec.ofBool s ++ 0x37#6 ++ 0x0#5 ++ a ++ 0x0#15
  | .relay s a b => BitVec.ofBool s ++ 0x37#6 ++ 0x0#5 ++ a ++ b ++ 0x1#10
  | .trigger s => BitVec.ofBool s ++ 0x37#6 ++ 0x2#25
  | .retire s => BitVec.ofBool s ++ 0x37#6 ++ 0x3#25
  | .successorStart _ => 0#32
  | .gangPlacement _ => 0#32
  | .memberStart _ => 0#32
  | .preemption _ => 0#32
  | .victimStopTimeout _ => 0#32
  | .gangComplete _ => 0#32
  | .triggerListLaunch _ => 0#32
  | .resultWritten _ => 0#32
  | .vectorCreditRound _ _ => 0#32
  | .vectorStep _ => 0#32
  | .ringStall _ => 0#32
  | .lanectlWrite _ => 0#32
  | .pageWalk _ => 0#32
  | .migrationTimeout _ => 0#32
  | .pageRelease _ _ => 0#32
  | .tfenceBroadcast _ => 0#32
  | .tfenceAck _ _ => 0#32
  | .entryAgeDrain _ => 0#32
  | .epochAdvance _ => 0#32
  | .l1Fill _ => 0#32
  | .icacheFill _ _ => 0#32
  | .poolScrub _ _ => 0#32
  | .arbitrate _ _ => 0#32
  | .recoveryTimeout _ _ => 0#32
  | .linkReplay _ _ => 0#32
  | .openRoute _ _ => 0#32
  | .dataFlit _ _ => 0#32
  | .closeRoute _ _ => 0#32
  | .truncRoute _ _ => 0#32
  | .mcast _ => 0#32
  | .barrierArrival _ _ _ => 0#32
  | .barrierCompletion _ _ _ => 0#32
  | .deposit _ => 0#32
  | .localRead _ _ => 0#32
  | .localWrite _ _ => 0#32
  | .gets _ => 0#32
  | .getm _ => 0#32
  | .upg _ => 0#32
  | .ncrd _ => 0#32
  | .ncwr _ => 0#32
  | .faop _ => 0#32
  | .fwds _ => 0#32
  | .fwdm _ => 0#32
  | .inv _ => 0#32
  | .rcl _ => 0#32
  | .datas _ => 0#32
  | .datae _ => 0#32
  | .datam _ => 0#32
  | .datamg _ => 0#32
  | .go _ => 0#32
  | .iack _ => 0#32
  | .facks _ => 0#32
  | .facko _ => 0#32
  | .facki _ => 0#32
  | .fackn _ => 0#32
  | .cmp _ => 0#32
  | .wback _ => 0#32
  | .ncrsp _ => 0#32
  | .rcld _ => 0#32
  | .wbd _ => 0#32
  | .hiveLinkFailure _ => 0#32
  | .rowRemap _ => 0#32
  | .remapFlashWrite _ => 0#32
  | .foragerRead _ => 0#32
  | .foragerLag _ => 0#32
  | .interrupt _ => 0#32
  | .hpost _ _ _ => 0#32
  | .hmsg _ _ => 0#32
  | .hostWrite _ _ => 0#32
  | .hostRead _ => 0#32
  | .hintr _ => 0#32
  | .swint _ _ => 0#32
  | .hiveLinkTraining _ _ _ => 0#32
  | .signatureVerify _ => 0#32
  | .bootWatchdog => 0#32
  | .bootctlOk => 0#32
  | .moduleReset => 0#32
  | .coldPowerCycle => 0#32
  | .resetThreadStart _ => 0#32
  | .wgctl _ => 0#32
  | .wagglePacket _ _ => 0#32
  | .waggleReply _ => 0#32
  | .waggleTimeout => 0#32
  | .bbctl _ => 0#32
  | .bootBroadcastPacket => 0#32
  | .sparemap _ _ => 0#32
  | .alarm _ => 0#32
  | .freeze => 0#32
  | .attestation _ => 0#32
  | .pwrlim _ => 0#32
  | .islandClockStep _ _ => 0#32
  | .burmealLoad _ => 0#32
  | .registerWrite _ _ => 0#32
  | .illegalInstruction w => w
  | .yieldEnd _ => 0#32
  | .tmmaComplete _ => 0#32
  | .laneFailure _ => 0#32
  | .flashUpdate => 0#32

/-- A word from the four bytes at an address, little-endian (R256). -/
def wordOfBytes (b0 b1 b2 b3 : Byte) : BitVec 32 := b3 ++ b2 ++ b1 ++ b0

/-- The bytes of a word in memory order (R256). -/
def bytesOfWord (w : BitVec 32) : List Byte :=
  [w.extractLsb' 0 8, w.extractLsb' 8 8, w.extractLsb' 16 8, w.extractLsb' 24 8]

/-- The instruction that the decoder reads from a table word. Every word of the table has 32
bits, numbered from the least significant bit of the word. -/
noncomputable def decodeTableWord (_nbits w : Nat) : Option Instr :=
  match decode (BitVec.ofNat 32 w) with
  | .ok i => some i
  | .error _ => none

end Sys2Proof
end

