-- ==== Sys2Proof/Config.lean ====
section
/-! DEFINITION. What an implementation fixes and the manual leaves open. An `opaque` constant
has no body: nothing can be proved of its value, so a theorem holds for every value. -/

namespace Sys2Proof

/-- The bits that a conforming ZM160 may choose for a predicate element: whether stage A
(`stage` 0) or stage B (`stage` 1) certifies the element with the given predicate code,
element width in bits and coordinate words (R397). Stage A of VORIENT2 is not asked. DESIGN CHOICE (log 57). -/
opaque Config.settles (stage fn ew : Nat) (coords : List Word) : Bool

/-- The SLH-DSA-SHA2-128f signature of an attestation report over a nonce (R414). -/
opaque Config.attestationSignature (nonce : BitVec 256) : List Byte

/-- Double words 0 to 2,046 of the supervisor image that the propolis block verifies (R450). -/
opaque Config.supervisorImage : Nat → Word

/-- A value that the manual does not state, fresh for each value of the counter of the state
that the step reads and advances. -/
opaque Config.freeWord : Nat → Word

/-- Physical base of the boot ROM (R13, R450). -/
def Config.romBase : Nat := 0x0201_8000_0000

/-- Bytes of the boot ROM (R13). -/
def Config.romSize : Nat := 0x4_0000

/-- DEVID (R418). -/
def Config.devid : Word := 0x4B57_0160

/-- REVID: MAJOR 1, MINOR 0 (R418). -/
def Config.revid : Word := 0x0100

/-- FEATURES (R418). -/
def Config.features : Word := 0x87FF

/-- The number of combs of the module (R1). -/
def Config.combs : Nat := 1024

/-- Physical cells of a comb (R67). -/
def Config.cellsPerComb : Nat := 17

end Sys2Proof
end

