-- ==== Sys2Proof/Machine/Sparse.lean ====
section
/-! DEFINITION. Storage by number as plain data: a list of (key, value) pairs sorted by key.
`Sparse` holds tables of values (registers, threads, cells); `Bytes` holds memory, in the
canonical form that lists no byte equal to what an unlisted address reads as. -/

namespace Sys2Proof.Machine

/-- A table by number. -/
abbrev Sparse (α : Type) := List (Nat × α)

/-- The entry of key `k`, if one is listed. -/
def Sparse.find? {α : Type} (k : Nat) : Sparse α → Option α
  | [] => none
  | (j, v) :: t => if j = k then some v else Sparse.find? k t

/-- The entry of key `k`, or `d` when none is listed. -/
def Sparse.getD {α : Type} (m : Sparse α) (k : Nat) (d : α) : α := (Sparse.find? k m).getD d

/-- Entry `k` becomes `v`; the list stays sorted. -/
def Sparse.set {α : Type} (k : Nat) (v : α) : Sparse α → Sparse α
  | [] => [(k, v)]
  | (j, w) :: t =>
    if k < j then (k, v) :: (j, w) :: t
    else if k = j then (k, v) :: t
    else (j, w) :: Sparse.set k v t

/-- Every entry of key `k` is removed. -/
def Sparse.erase {α : Type} (k : Nat) (m : Sparse α) : Sparse α := m.filter (fun e => e.1 ≠ k)

/-- The keys, ascending. -/
def Sparse.keys {α : Type} (m : Sparse α) : List Nat := m.map (·.1)

/-- Keys strictly rise. -/
def Sparse.sorted {α : Type} : Sparse α → Bool
  | [] => true
  | [_] => true
  | (j, _) :: (k, w) :: t => decide (j < k) && Sparse.sorted ((k, w) :: t)

/-- Bytes by address. -/
abbrev Bytes := List (Nat × Byte)

/-- The byte at `a`, where an unlisted address reads as `dflt a`. -/
def Bytes.get (dflt : Nat → Byte) (m : Bytes) (a : Nat) : Byte := Sparse.getD m a (dflt a)

/-- The byte at `a` becomes `b`; an entry equal to the unlisted value is not kept. -/
def Bytes.set (dflt : Nat → Byte) (a : Nat) (b : Byte) (m : Bytes) : Bytes :=
  if b = dflt a then Sparse.erase a m else Sparse.set a b m

/-- The canonical form: addresses strictly rise and no entry equals the unlisted value. -/
def Bytes.wf (dflt : Nat → Byte) (m : Bytes) : Bool :=
  Sparse.sorted m && m.all (fun e => decide (e.2 ≠ dflt e.1))

/-- `n` bytes from `a` as one little-endian number (R5). -/
def Bytes.read (dflt : Nat → Byte) (m : Bytes) (a : Nat) : Nat → Nat
  | 0 => 0
  | n + 1 => (Bytes.get dflt m a).toNat + 256 * Bytes.read dflt m (a + 1) n

/-- The low `n` bytes of `v` go to `a`, little-endian (R5). -/
def Bytes.write (dflt : Nat → Byte) (a : Nat) : Nat → Nat → Bytes → Bytes
  | 0, _, m => m
  | n + 1, v, m =>
    Bytes.write dflt (a + 1) n (v / 256) (Bytes.set dflt a (BitVec.ofNat 8 v) m)

/-- `n` bytes from `a` are replaced. -/
def Bytes.splice (dflt : Nat → Byte) (a n : Nat) (f : Nat → Byte) (m : Bytes) : Bytes :=
  (m.filter fun e => e.1 < a) ++
    ((List.range n).filterMap fun i => if f i = dflt (a + i) then none else some (a + i, f i)) ++
    m.filter fun e => a + n ≤ e.1

/-- A set of numbers as a sorted list without repeats. -/
abbrev NatSet := List Nat

/-- `k` joins the set. -/
def NatSet.add (k : Nat) : NatSet → NatSet
  | [] => [k]
  | j :: t => if k < j then k :: j :: t else if k = j then j :: t else j :: NatSet.add k t

/-- `k` leaves the set. -/
def NatSet.del (k : Nat) (m : NatSet) : NatSet := m.filter (· ≠ k)

/-- Membership. -/
def NatSet.has (m : NatSet) (k : Nat) : Bool := m.elem k

end Sys2Proof.Machine
end

