-- ==== Sys2Proof/Machine/State.lean ====
section
/-! DEFINITION. The state of the module as plain data: threads, cells, combs, homes, memory,
schedulers, task units, host and boot logic, and the model's own fields (which event happens
next). Tables are sorted association lists (`Sparse`, `Bytes`); an entry that is not listed
has the table's default. Reset values are those of R160, R217, R450 and R459. -/

namespace Sys2Proof.Machine

/-- Privilege modes (R235): codes 0, 1 and 3. -/
inductive Mode | user | supervisor | machine
  deriving DecidableEq, Repr

/-- A vector register of at most 8,192 bits: bits [63:0] are the scalar register of the same
number (R211), and `hi` holds the bits above. -/
structure VReg where
  lo : Word
  hi : BitVec 8128
  deriving DecidableEq, Repr

/-- Register classes of R197. -/
inductive RegClass | scalar | vector | mask
  deriving DecidableEq, Repr

/-- For whom a register is pending (R195): for all instructions, for scalar and tile
instructions only, or for writers only. -/
inductive PendFor | all | scalarSide | writers
  deriving DecidableEq, Repr

/-- A pending register (R195) with the result that is under way. -/
structure Pend where
  cls : RegClass
  reg : Nat
  who : PendFor
  /-- The scalar value written when the result arrives. -/
  value : Option Word
  /-- The result is poison (R358). -/
  poisoned : Bool
  /-- Flags delivered with the result (R362, R253). -/
  flags : BitVec 7
  /-- The request of a far atomic, whose NCRSP returns the result (R85). -/
  far : Option Nat
  /-- The queued instruction whose end clears the entry. -/
  seq : Option Nat
  /-- The virtual address of an atomic without destination, for a deferred report (R358). -/
  va : Word
  /-- The line of a near atomic, which leaves the L1 when the result arrives (R53). -/
  line : Option Nat
  deriving DecidableEq, Repr

/-- What an access needs of the thread's translation registers, as latched (R19, R31). -/
structure Xlate where
  mode : Mode
  utbase : Word
  stbase : Word
  asid : Nat
  deriving DecidableEq, Repr

/-- Operations that wait in a vector or tile queue. -/
inductive VKind
  | vadd | vsub | vmul | vmulh | vmulhu | vand | vor | vxor | vsll | vsrl | vsra | vmin | vmax | vminu | vmaxu
  | vsadd | vsaddu | vssub | vssubu | vabs | vsplat | viota | vmv | vsext | vzext
  | vfadd | vfsub | vfmul | vfdiv | vfsqrt | vfmin | vfmax | vfcpsgn | vfneg | vfabs | vfxsgn
  | vbadd | vbsub | vbmul | vfclass | vfcvtw | vfcvtn | vfcvti | vicvtf | vfcvtiu | viucvtf
  | vfmadd | vfmsub | vfnmadd | vfnmsub | vbfmadd | vfwma | vbfwma | vfdot2 | vbfdot2 | vdot4 | vdot4u | vmacc
  | vcmpeq | vcmpne | vcmplt | vcmple | vcmpltu | vcmpleu | vfcmpeq | vfcmplt | vfcmple | vwhile
  | mand | mor | mxor | mandn | mnot | mset | mpopc | mfirst
  | vslideup | vslidedn | vgather | vcompress | vext | vins | vrev
  | vredsum | vredmin | vredmax | vredminu | vredmaxu | vfredsum | vfredmin | vfredmax
  | vld | vldOffset | vlds | vldx | vldff | vld2d | vst | vstOffset | vsts | vstx | vst2d
  | vamoadd | vamoswap | vamomin | vamomax | vamominu | vamomaxu | vamoand | vamoor | vamoxor | vamofadd
  | vorient2 | vorient3 | vincirc | vinsph | vsegx | vorient2t | vorient3t | vincirct | vinspht
  | vspill | vfill
  | tcfg | acfg | tzero | azero | tgetr | tsetr | agetr | asetr | ttrans | acvt | tld | tst | ald | ast
  | tmmaD | tmmaHf | tmmaBf | tmmaE4e4 | tmmaE4e5 | tmmaE5e4 | tmmaE5e5 | tmmaI8 | tmmaC8 | tmmaC6 | tmmaC4
  deriving DecidableEq, Repr

/-- What an instruction that runs whole has come to (R315, R338): its element-group steps, the result computed or not, the
bytes pushed, the images of va and vb that its pop registers have supplied, and their poisoned 8-byte words
(word of va * 2, of vb * 2 + 1). `own` marks the instruction that ESI names (R239). -/
structure WholeRun where
  steps : Nat
  fin : Bool
  put : Nat
  a : Nat
  b : Nat
  pois : NatSet
  own : Bool
  deriving DecidableEq, Repr

/-- No step made. -/
def WholeRun.fresh : WholeRun := ⟨0, false, 0, 0, 0, [], false⟩

/-- An entry of a vector or tile queue: the operation, its register fields, and everything
that R216, R311 and R340 latch at issue. -/
structure QEntry where
  seq : Nat
  pc : Word
  kind : VKind
  d : Nat
  a : Nat
  b : Nat
  k : Nat
  x : Bool
  /-- Format code, row number or addressing detail. -/
  g : Nat
  sa : Word
  sb : Word
  len : Nat
  ew : EW
  rlen : Nat
  fpctl : Word
  xsel : Word
  rows : Nat
  pitch : Int
  ringEn : Bool
  /-- RINGCTL.TIMEOUT as latched (R204, R216). -/
  ringTo : Nat
  /-- The ring bound to each of v28 to v31 at issue. -/
  rings : List (Option Nat)
  xl : Xlate
  /-- TLD or TST of a CB tile, decided at issue (R348). -/
  cb : Bool
  /-- Progress (ESI) once the instruction has started. -/
  prog : Option Word
  run : WholeRun
  deriving DecidableEq, Repr

/-- An active loop (R293): the body, the latched pattern and the pass. -/
structure LoopRec where
  start : Word
  n : Nat
  p : Nat
  pat : BitVec 256
  pass : Nat
  /-- The loop buffer: body words as the first pass fetched them, by place. -/
  buf : Sparse (BitVec 32)
  deriving DecidableEq, Repr

/-- Status of a stream command (R376). -/
inductive CmdStatus | ok | poisoned | truncated | cancelled | fault
  deriving DecidableEq, Repr

/-- A fault held with a batch (R242, R373). -/
structure HeldFault where
  cause : Nat
  tval : Word
  xlsyn : Word
  off : Nat
  pc : Word
  deriving DecidableEq, Repr

/-- What a batch keeps of one of its commands (R374 to R376). -/
structure CmdRec where
  id : Nat
  done : Bool
  status : CmdStatus
  /-- Poisoned source lines. -/
  pois : NatSet
  off : Nat
  /-- ASID and page of the page release that follows the batch of a dispatched command (R378). -/
  rel : Option (Nat × Nat)
  flags : BitVec 7
  held : Option HeldFault
  deriving DecidableEq, Repr

/-- A sealed batch (R374). -/
structure Batch where
  num : Nat
  cmds : List CmdRec
  observed : Bool
  deriving DecidableEq, Repr

/-- Why a thread does not issue (R193). -/
inductive Park
  | running
  /-- At a switch marker (R196). -/
  | marker
  /-- In `MWAIT` on a counter for a value (R381). -/
  | mwait (mc n : Nat)
  /-- In `BWAIT` or `BSYNC` (R380). -/
  | bwait (id gen : Nat)
  /-- In `GWAITB`, `GBAR` or `GBARJ` (R384). -/
  | gwait (id gen : Nat)
  /-- In `TKPOP` with its destination (R190). -/
  | tkpop (frame d : Nat)
  | idle
  /-- In `TFENCE`, with the combs still to acknowledge (R35). -/
  | tfence
  /-- At a relay rendezvous (R171). -/
  | rendezvous
  /-- Waiting for a migrating page (R37). -/
  | replay
  /-- In `YIELD` until a cycle, with its switch marker (R383). -/
  | yield (till : Nat) (mk : Bool)
  /-- In `CRESTORE`, for the count of late flags (R254). -/
  | late
  /-- Behind a far atomic with acquire, for its result (R145), and with a switch marker for every pending register. -/
  | far (tag : Nat) (mk : Bool)
  /-- Stalled in order: the next instruction is tried again when something has changed. -/
  | stalled
  /-- The same inside an operation of class S, which takes no interrupt (R302). -/
  | system
  /-- Between the pool clearing of its launch and its first instruction (R159). -/
  | starting
  deriving DecidableEq, Repr

/-- Part of a thread in a forwarded gang (R163, R165). -/
inductive FwdRole | none | leader | follower
  deriving DecidableEq, Repr

/-- A forwarded instruction: its address and the address that followed it in the leader. -/
structure FwdItem where
  pc : Word
  npc : Word
  deriving DecidableEq, Repr

/-- An arrival already made by an instruction that still waits (`BSYNC`, `GBAR`, `GBARJ`). -/
structure WaitToken where
  pc : Word
  id : Nat
  gen : Nat
  deriving DecidableEq, Repr

/-- A kernel descriptor as read (R157). -/
structure Desc where
  addr : Word
  entry : Word
  partw : Word
  ctx : Nat
  rscope : Nat
  prio : Nat
  trunc : Bool
  fwd : Bool
  k : Nat
  level : Nat
  n : Nat
  wctr : Nat
  wframe : Nat
  wv : Bool
  args : Word
  done : Word
  accept : Nat
  trigs : List Word
  deriving DecidableEq, Repr

/-- A descriptor that an instruction still waiting has read and checked (R158): the address of the
instruction. -/
structure DescRead where
  pc : Word
  desc : Desc
  deriving DecidableEq, Repr

/-- A queue head blocked on a ring (R204): the ring, the cycle since when without progress, and the ring's
head and tail when it yielded last. -/
structure RingWait where
  ring : Nat
  since : Nat
  head : Nat
  tail : Nat
  deriving DecidableEq, Repr

/-- A read that a thread has sent to a home (R28, R29, R94): by its vector or tile queue or by the scalar
side, its first byte and length, DEVICE or not, the request, and the bytes once they have come, with their
poison. -/
structure HomeRead where
  queue : Bool
  pa : Nat
  n : Nat
  dev : Bool
  tag : Nat
  got : Option (Nat × Bool)
  deriving DecidableEq, Repr

/-- A geometric predicate at the head of its queue while its clusters run apart (R398, R399): its number, the element
groups that stage A has completed at each cluster, each cluster's escalation queue, and the elements that are settled
and not committed. -/
structure Pred where
  seq : Nat
  groups : Sparse Nat
  queues : Sparse (List Nat)
  settled : NatSet
  deriving DecidableEq, Repr

/-- A misaligned scalar access part-way (R127): its address and size, whether it writes, the bytes performed, and the value
and poison that they have given. -/
structure PartAccess where
  va : Word
  n : Nat
  wr : Bool
  done : Nat
  val : Nat
  pois : Bool
  deriving DecidableEq, Repr

/-- A thread (R155). An empty slot has `live = false`. -/
structure Thread where
  live : Bool
  gang : Option Nat
  rank : Nat
  pc : Word
  mode : Mode
  v : Sparse VReg
  m : Sparse (BitVec 1024)
  mb : Sparse Word
  /-- Thread-scope control registers by number (R217). -/
  csr : Sparse Word
  tiles : Sparse (BitVec 32768)
  accs : Sparse (BitVec 32768)
  /-- The value TCFGn most recently received in program order (R348). -/
  tcfgSeen : Sparse Word
  /-- Vector registers written since launch, relay or restore (R251). -/
  written : NatSet
  pend : List Pend
  /-- Poisoned 8-byte words of v0 to v31: register * 128 + word (R62). -/
  poison : NatSet
  /-- Poisoned 8-byte words of tiles (class 0) and accumulators (class 1): (class * 8 + n) * 512 + word. -/
  tpoison : NatSet
  park : Park
  tokens : List WaitToken
  seq : Nat
  vq : List QEntry
  tq : List QEntry
  /-- Queue remainders held by S and by M (R236). -/
  remS : List QEntry
  remM : List QEntry
  loop : Option LoopRec
  loopS : Option LoopRec
  loopM : Option LoopRec
  slots : Sparse (BitVec 256)
  nextBatch : Nat
  openCmds : List CmdRec
  batches : List Batch
  /-- Deferred poison reports not yet taken (R358). -/
  deferred : List Word
  /-- MIN and PREF as latched at the last SETVL (R169, R201). -/
  leaseMin : Nat
  leasePref : Nat
  fwd : FwdRole
  fwdBuf : List FwdItem
  resident : Bool
  /-- Stopped by `GSTOP` (R247). -/
  stopped : Bool
  /-- The page of the thread's access that timed out in a replay queue (R38). -/
  migTimeout : Option Nat
  /-- Reads sent to homes, for accesses that wait for them. -/
  reads : List HomeRead
  /-- The ring that the queue head is blocked on (R204). -/
  ringSince : Option RingWait
  /-- Element-group steps that each lane cluster has completed of the queue beyond those that every cluster has
  completed (R202). -/
  lead : Sparse Nat
  /-- The predicate that runs. -/
  pred : Option Pred
  /-- The cycle from which a stall for a pending register is still to be counted (R197). -/
  hazAt : Option Nat
  /-- The cycle in which the scalar side issued last (R316). -/
  issuedAt : Option Nat
  /-- The descriptor that the waiting `LAUNCH` or `RELAY` has read (R158). -/
  descRead : Option DescRead
  /-- A misaligned scalar access that is performed byte by byte. -/
  part : Option PartAccess
  /-- The message register that the thread wrote last, and the cycle (R209). -/
  mbWrote : Option (Nat × Nat)
  deriving DecidableEq, Repr

/-- A write-combining entry (R49). -/
structure Wcb where
  line : Nat
  data : BitVec 1024
  mask : BitVec 128
  nc : Bool
  closed : Bool
  by_ : Nat
  born : Nat
  /-- Poisoned 8-byte words. -/
  pois : BitVec 16
  deriving DecidableEq, Repr

/-- A line of the L1 data cache with the epoch of its fill (R48, R52). -/
structure L1Line where
  line : Nat
  data : BitVec 1024
  epoch : Nat
  /-- Poisoned 8-byte words. -/
  pois : BitVec 16
  deriving DecidableEq, Repr

/-- A fill under way (R53). -/
structure Fill where
  line : Nat
  installable : Bool
  deriving DecidableEq, Repr

/-- A line of the instruction cache (R47): `bad` when its parity fails, `again` when it replaced a
line whose parity failed and has not been fetched from since. -/
structure ILine where
  line : Nat
  data : BitVec 1024
  bad : Bool
  again : Bool
  deriving DecidableEq, Repr

/-- A translation buffer entry (R31): the leaf and the range it maps. -/
structure TlbEntry where
  asid : Nat
  glob : Bool
  /-- First virtual page (address / 64 KiB) and number of pages. -/
  page : Nat
  pages : Nat
  pte : Word
  /-- Physical address of the first byte, and of the leaf entry. -/
  pa : Nat
  pteAddr : Nat
  deriving DecidableEq, Repr

/-- A range scoreboard entry (R55): inclusive byte spans of the scratchpad. -/
structure Range where
  slot : Nat
  cmd : Nat
  src : Option (Nat × Nat)
  dst : Option (Nat × Nat)
  /-- Parity failed: covers the whole scratchpad (R57). -/
  bad : Bool
  deriving DecidableEq, Repr

/-- An access that R56 stalls (R58): the slot, the number of the queued instruction or none for the scalar side, and
the scratchpad bytes that live ranges cover. -/
structure RsbWait where
  slot : Nat
  age : Option Nat
  offs : List Nat
  deriving DecidableEq, Repr

/-- A stream command in a cell's queue (R366, R385). -/
structure Cmd where
  slot : Nat
  id : Nat
  port : Nat
  word : BitVec 256
  pat : BitVec 256
  xl : Xlate
  fpctl : Word
  pc : Word
  /-- A `GMCAST`: its control word and rank mask (R385). -/
  mcast : Option (Word × Word)
  running : Bool
  /-- Elements or packets done. -/
  elem : Nat
  /-- The migrating page that it waits for, and whether it has timed out there (R37, R38). -/
  mig : Option (Nat × Bool)
  /-- Translations that the command has used since its dispatch (R122). -/
  held : List TlbEntry
  /-- It is stopped, and ends when its writes under way have landed (R55, R377). -/
  ending : Bool
  deriving DecidableEq, Repr

/-- A route held by a fabric port (R80, R372): the thread, the receiving gang cell and its physical cell,
the traffic class (R77), the flits sent, and the marker that is due (`true`: truncation). -/
structure Route where
  slot : Nat
  dcell : Nat
  cell : Nat
  tc : Nat
  flits : Nat
  due : Option Bool
  deriving DecidableEq, Repr

/-- Binding of a named barrier (R379). -/
inductive Binding | unbound | cell | gang
  deriving DecidableEq, Repr

/-- A named barrier of a cell (R379, R384). -/
structure NBar where
  bind : Binding
  exp : Nat
  arr : Nat
  gen : Nat
  owner : Nat
  /-- The gang that a gang-bound barrier belongs to; `gen` is then the generation delivered here. -/
  gid : Nat
  deriving DecidableEq, Repr

/-- A ring (R336, R337). -/
structure Ring where
  port : Bool
  base : Nat
  size : Nat
  head : Nat
  tail : Nat
  deriving DecidableEq, Repr

/-- A relay whose successor has not started (R171 to R173). -/
structure Successor where
  desc : Desc
  mask : Nat
  gang : Nat
  rank : Nat
  deriving DecidableEq, Repr

/-- A cell (R40 to R65, R193 to R206). -/
structure Cell where
  gang : Option Nat
  partw : Word
  cellerr : Word
  rsbStalls : Nat
  /-- Cycle from which an access of the cell has been stalled by R56, and the accesses that are. -/
  rsbSince : Option Nat
  rsbHeld : List RsbWait
  lanectl : Word
  /-- A lane change that waits for the vector queues (R61): the slot, the new LANECTL, and the
  destination register with the value it receives, and the switch marker. -/
  laneNext : Option (Nat × Word × Nat × Word × Bool)
  pool : Bytes
  /-- Poisoned 8-byte pool words (R62). -/
  ppoison : NatSet
  /-- Pool words with a correctable error that nothing has corrected yet (R62, R64). -/
  latent : NatSet
  l1 : List L1Line
  fills : List Fill
  epoch : Nat
  wcb : List Wcb
  icache : List ILine
  tlb : List TlbEntry
  rsb : List Range
  stream : List Cmd
  ports : Sparse Route
  mc : Sparse Nat
  /-- The widest scope code among the senders of each counter's increments (R146, R148). -/
  mcScope : Sparse Nat
  /-- Waiters of each mailbox counter, oldest first (R381). -/
  waiters : Sparse (List Nat)
  bars : Sparse NBar
  rings : Sparse Ring
  rendez : Option Word
  /-- Successors of the cell's threads that wait for the rendezvous or the scrub. -/
  succ : Sparse Successor
  /-- Cycle until which the pool clear engine runs (R44). -/
  clear : Nat
  /-- Thread that issued last (R193), and thread the matrix arbiter served last (R205). -/
  last : Nat
  mlast : Nat
  /-- The thread whose matrix instruction the unit executes. -/
  unit : Option Nat
  /-- Vector arbiter: credits MC and PC by cluster * 4 + thread, and PTR by cluster (R201). -/
  mcredit : Sparse Nat
  pcredit : Sparse Nat
  ptr : Sparse Nat
  /-- The round of 16 cycles in which each cluster's credits were granted last (R201). -/
  rounds : Sparse Nat
  /-- The reset thread has started (R450). -/
  booted : Bool
  deriving DecidableEq, Repr

/-- Stable and transient states of a slice line (R88, R89). -/
inductive Moesi | i | s | e | o | m | isD | imD | smA | omA | miA | oiA
  deriving DecidableEq, Repr

/-- A line in a comb slice. -/
structure SliceLine where
  st : Moesi
  /-- In IM_D: DATAMG has arrived, GO has arrived (R89). -/
  gotData : Bool
  gotGo : Bool
  /-- Probes deferred in MI_A and OI_A (R89), as indexes of packet contents. -/
  deferred : List (Nat × Nat)
  pois : Bool
  deriving DecidableEq, Repr

/-- Directory states (R86). -/
inductive DirState | i | s | ex | os
  deriving DecidableEq, Repr

/-- A directory entry (R86): sharers as pointers, or as frame and module bit vectors when OVF. -/
structure DirEntry where
  st : DirState
  owner : Nat
  sharers : List Nat
  ovf : Bool
  frm : BitVec 8
  mod : BitVec 8
  deriving DecidableEq, Repr

/-- Operations of the coherence protocol (R85). -/
inductive CohOp
  | gets | getm | upg | ncrd | ncwr | faop | fwds | fwdm | inv | rcl | datas | datae | datam | datamg | go
  | iack | facks | facko | facki | fackn | cmp | wback | ncrsp | rcld | wbd
  deriving DecidableEq, Repr

/-- Who sends a request that is no slice's (R85): the scalar side of a slot, its queues, one of its stream
commands, the write-combining buffer of a cell, the walker of a comb, the scheduler for a gang from a comb, another
module, or the host. -/
inductive Issuer
  | scalar (slot : Nat)
  | queue (slot : Nat)
  | stream (slot cmd : Nat)
  | buffer (cell : Nat)
  | walker (comb : Nat)
  | sched (comb gang : Nat)
  | peer (node : Nat)
  | host
  deriving DecidableEq, Repr

/-- What an NCRD, NCWR or FAOP asks, and what its NCRSP returns (R85, R94, R104 to R106). -/
structure NcOp where
  who : Issuer
  /-- Number of the request. -/
  tag : Nat
  /-- First byte, and number of bytes, of a read or an atomic. -/
  addr : Nat
  n : Nat
  /-- A DEVICE access (R29). -/
  dev : Bool
  /-- The line with the bytes of `mask`, for a write; what is returned. -/
  data : BitVec 1024
  mask : BitVec 128
  /-- Atomic operation with the rounding mode, and its operands. -/
  aop : Nat
  val : Word
  cmpv : Word
  /-- Flags of a floating-point atomic (R253). -/
  fp : Bool
  flags : BitVec 7
  /-- Gang of the issuing thread, plus one, its context and its rank. -/
  gang : Nat
  ctx : Nat
  rank : Nat
  deriving DecidableEq, Repr

/-- A packet of the coherence protocol (R68, R85). A comb of this module has its index; a comb of module `m` has the number
1024 * (m + 1) + its index (R95); all combs of a module together have a number from 16384 (R87). -/
structure Pkt where
  op : CohOp
  line : Nat
  /-- The slice, or the comb of the cell, that sends or receives it (comb index). -/
  comb : Nat
  /-- The router it leaves from (comb index). -/
  src : Nat
  /-- The requester of the transaction (comb index). -/
  req : Nat
  pois : Bool
  nc : Option NcOp
  deriving DecidableEq, Repr

/-- A write that a comb slice has accepted and not yet performed (R49, R145): the bytes of `mask` of a line,
with poison, from a cell. -/
structure Accepted where
  comb : Nat
  line : Nat
  data : BitVec 1024
  mask : BitVec 128
  pois : Bool
  cell : Nat
  deriving DecidableEq, Repr

/-- A transaction in progress at a home (R90, R91), and the requests that wait for its line. DEDUCED (log 92). -/
structure HomeTx where
  pkt : Pkt
  /-- Invalidations not yet acknowledged. -/
  acks : Nat
  /-- The reply of the probed owner is still awaited. -/
  probe : Bool
  /-- The owner supplied the data itself. -/
  fwd : Bool
  /-- Data or grant sent; CMP awaited. -/
  sent : Bool
  /-- CMP has come; it may overtake the reply of an owner that supplied the data. -/
  cmp : Bool
  /-- The probed owner has written the line back: its reply finds no copy (R92). -/
  gone : Bool
  waiting : List Pkt
  /-- Combs of other modules, and modules, among those that have not acknowledged (R87, R96). -/
  far : List Nat
  deriving DecidableEq, Repr

/-- A post being checked (R405, R406): the frame of its window, whether a virtual function sent it, the
word written and the cycle. -/
structure HostPost where
  frame : Nat
  vf : Bool
  word : Word
  born : Nat
  deriving DecidableEq, Repr

/-- What the host sends, in the order of delivery (R407): 8 bytes through BAR 2, a read there, 8 bytes through BAR 0 and a
read there by the physical function or by the virtual function of a frame (R404), a post and a message in a frame's
window. -/
inductive HostOp
  | write (off : Nat) (v : Word)
  | read (off : Nat)
  | write0 (vf : Option Nat) (off : Nat) (v : Word)
  | read0 (vf : Option Nat) (off : Nat)
  | post (frame : Nat) (vf : Bool) (v : Word)
  | msg (frame : Nat) (v : Word)
  deriving DecidableEq, Repr

/-- A deposit or increment under way (R382). -/
structure Deposit where
  from_ : Nat
  slot : Nat
  word : Word
  mb : Nat
  mc : Nat
  nodep : Bool
  deriving DecidableEq, Repr

/-- Who waits at a migrating page: a thread, a stream command of a slot, or the scheduler for a gang. -/
inductive Waiter
  | thread (slot : Nat)
  | cmd (slot id : Nat)
  | gang (id : Nat)
  deriving DecidableEq, Repr

/-- A translation fence in progress (R35). -/
structure TFence where
  slot : Nat
  addr : Word
  word : Word
  sent : Bool
  /-- Combs that have not acknowledged, and combs that have applied the fence and still wait to acknowledge. -/
  waiting : List Nat
  here : List Nat
  deriving DecidableEq, Repr

/-- Accesses to one page that wait in a comb's replay queue or for a place in it (R37): those of threads by
slot, those of stream commands by slot and command, and those of the scheduler by gang. -/
structure Replay where
  slots : List Nat
  cmds : List (Nat × Nat)
  gangs : List Nat
  asid : Nat
  page : Nat
  since : Nat
  /-- Still waiting for a place in the queue. -/
  outside : Bool
  deriving DecidableEq, Repr

/-- State of a gang member (R161, R171). -/
inductive Member | running | retired | relayed
  deriving DecidableEq, Repr

/-- A gang barrier (R384): expected arrivals, generation, the ranks of the arrivals made, in order (the first `exp` are of
the present generation, the next of the one after), arrivals held at each router of the tree for each generation,
and the completions that routers have still to deliver; both by generation * 1024 + comb. -/
structure GBar where
  exp : Nat
  gen : Nat
  came : List Nat
  below : Sparse Nat
  down : List Nat
  /-- Members that arrived by a `GBAR` with rejoin (R165): generation * 2^64 + address, by rank. -/
  joins : Sparse Nat
  /-- Traffic class of the last arrival (R77). -/
  tc : Nat
  deriving DecidableEq, Repr

/-- A placed gang (R156, R182). -/
structure Gang where
  desc : Desc
  frame : Nat
  /-- Physical cell of each gang cell: the core table. -/
  cells : List Nat
  combs : List Nat
  /-- The logical torus (R182), 0 x 0 when there is none. -/
  w : Nat
  h : Nat
  /-- The route table (R182): for each logical comb of the torus the combs of its neighbours N, E, S, W. -/
  routes : List (List Nat)
  tree : Nat
  members : Sparse Member
  triggered : NatSet
  trigDone : Bool
  /-- Trigger-list entries not yet launched. -/
  trigLeft : List Word
  /-- The first of them, read and waiting for a place in its queue (R158, R176). -/
  trigDesc : Option Desc
  doneAdded : Bool
  /-- The add to the completion word is under way; it has come back, poisoned or not (R162). -/
  doneSent : Bool
  doneBack : Option Bool
  /-- The scheduler's release before it reads or adds (R158, R162, R176): the first request made after it began, and the
  writes that slices held then. -/
  rel : Option (Nat × List Accepted)
  /-- The migrating page that the scheduler's access for the gang waits for, and whether it has timed out (R37, R38). -/
  mig : Option (Nat × Bool)
  /-- `GSTOP`s that wait for the gang's stop, by slot with the destination and the switch marker, and whether one of them asks
  for the gang to be saved (R307, R310). -/
  stops : List (Nat × Nat × Bool)
  saving : Bool
  /-- Successor gangs by descriptor address (R174). -/
  heirs : List (Word × Nat)
  stopped : Bool
  /-- A stop that the scheduler chose, and the cycle it began (R184). -/
  victim : Option Nat
  /-- Its late stop has been reported. -/
  late : Bool
  /-- Slots of the members by rank. -/
  slots : List Nat
  deriving DecidableEq, Repr

/-- A launch in a queue (R179), new or resumed. -/
structure Launch where
  desc : Desc
  resumed : Bool
  done : Sparse Member
  triggered : NatSet
  trigDone : Bool
  trigLeft : List Word
  trigDesc : Option Desc
  heirs : List (Word × Nat)
  /-- Of a stopped gang: the cycle of its stop (R183), and the members of its barriers that rejoin, by barrier (R165). -/
  since : Nat
  joins : Sparse (Sparse Nat)
  deriving DecidableEq, Repr

/-- A stopped gang of a context (R307): on its cells (`some id`), or saved. -/
structure Stopped where
  inPlace : Option Nat
  launch : Launch
  /-- The slots of its members when it stopped (R310). -/
  slots : List Nat
  deriving DecidableEq, Repr

/-- A task in a ready queue (R189, R191). -/
structure Ready where
  ctr : Nat
  prio : Nat
  rel : Nat
  since : Nat
  task : Word
  lv : Bool
  pref : Nat
  min : Nat
  deriving DecidableEq, Repr

/-- A task counter (R186). -/
structure Counter where
  count : Nat
  armed : Bool
  task : Word
  prio : Nat
  lv : Bool
  pref : Nat
  min : Nat
  /-- Tasks released, unqueued (R189), oldest first. -/
  held : List Ready
  deriving DecidableEq, Repr

/-- A row counter (R109). -/
structure RowCtr where
  pch : Nat
  bank : Nat
  row : Nat
  count : Nat
  born : Nat
  deriving DecidableEq, Repr

/-- A remap table entry (R110). A spare row has the number 32,768 + 0 to 3. -/
structure Remap where
  pch : Nat
  bank : Nat
  row : Nat
  spare : Nat
  /-- Written to module flash. -/
  flashed : Bool
  /-- An uncorrectable error in the first and in the second copy of the table, which no access has found yet (R111). -/
  bad1 : Bool
  bad2 : Bool
  deriving DecidableEq, Repr

/-- Memory-side state of a stack base die, or of the second tier (R97 to R120). -/
structure Block where
  rows : List RowCtr
  remap : List Remap
  remapWait : List (Nat × Nat × Nat)
  fenced : NatSet
  /-- Lines in which DRAM holds an error that no read has found yet; `true`: uncorrectable (R107). -/
  errs : Sparse Bool
  /-- Forager: next line of the pass, and the cycle in which the pass began. -/
  pass : Nat
  passStart : Nat
  /-- Second of reference time in which the lag was computed last (R118). -/
  lagAt : Nat
  /-- Lines of the memory-side cache that the forager has scrubbed (R117). -/
  scrubbed : Nat
  deriving DecidableEq, Repr

/-- A line of a memory-side cache (R101): with the data that DRAM does not hold yet when it is dirty, and an
error that nothing has found yet (`true`: uncorrectable). -/
structure MscLine where
  line : Nat
  dirty : Option (BitVec 1024)
  err : Option Bool
  deriving DecidableEq, Repr

/-- Operations of a stream route (R80). -/
inductive RouteOp | opening | data | close | trunc
  deriving DecidableEq, Repr

/-- A flit of a stream route (R80): the sending cell and port, the count in TAG, the receiving cell with the
place of the packet and its mailbox counter, and the command. -/
structure RouteFlit where
  op : RouteOp
  cell : Nat
  port : Nat
  tag : Nat
  dcell : Nat
  off : Nat
  n : Nat
  val : Nat
  /-- Poisoned 8-byte words. -/
  words : NatSet
  mc : Nat
  slot : Nat
  cmd : Nat
  /-- First byte of the packet in the command. -/
  pos : Nat
  deriving DecidableEq, Repr

/-- A multicast packet (R82, R385): its tree id, the sending cell, and the ranks that receive. -/
structure CastFlit where
  tree : Nat
  cell : Nat
  off : Nat
  val : Nat
  words : NatSet
  mc : Nat
  ranks : Option Word
  slot : Nat
  cmd : Nat
  pos : Nat
  deriving DecidableEq, Repr

/-- Management packets (R83): a translation fence for a comb and its acknowledgement, a page release, a line of
the boot broadcast, a waggle packet with its flood number, the coordinates of its sender as comb index, its hops and the
port of its arrival (R411), a waggle reply with its flood number. -/
inductive Mgmt
  | fence (slot : Nat)
  | ack (slot comb : Nat)
  | release (asid page : Nat)
  | boot (off mc : Nat) (data : BitVec 1024) (pois : Bool)
  | waggle (flood xy hops inp : Nat)
  | reply (comb flood : Nat)
  deriving DecidableEq, Repr

/-- What a flit carries. -/
inductive Load
  | coh (p : Pkt)
  | msg (d : Deposit)
  | route (r : RouteFlit)
  | cast (c : CastFlit)
  /-- Combined arrivals at, and the completion of, a gang barrier (R82). -/
  | arrive (gang id gen n : Nat)
  | complete (gang id gen : Nat)
  | mgmt (m : Mgmt)
  /-- Nothing that is defined: a reserved message class. -/
  | junk
  deriving DecidableEq, Repr

/-- A flit at a router (R68, R72): the router and the endpoint that it comes from, its traffic class, the cycle it arrived, ESC (R78), the input port and the
virtual channel it came on (at a local port: the source), the router and the endpoint there that it goes to, the
port it must leave by when that is fixed, the rectangle of a broadcast, and what it carries. -/
structure Flit where
  /-- Number of the flit, which its copies share. -/
  uid : Nat
  src : Nat
  sep : Nat
  tc : Nat
  since : Nat
  esc : Bool
  inp : Nat
  vc : Nat
  dst : Nat
  ep : Nat
  out : Option Nat
  rect : Option (Nat × Nat × Nat × Nat)
  load : Load
  deriving DecidableEq, Repr

/-- Arbitration of a router output port (R75): class and deficits by group and class, the channel that sent
last in each class, the replays of the flit being sent (R70), a failed link, and the input channel whose route
holds each STR channel, as input port * 256 + channel (R80). -/
structure OutPort where
  cur : Sparse Nat
  deficit : Sparse Nat
  turn : Sparse Nat
  replays : Nat
  failed : Bool
  held : Sparse Nat
  deriving DecidableEq, Repr

/-- Start-up and security state (R412 to R414, R450 to R453). -/
structure Boot where
  stage : Nat
  reason : Nat
  attempts : Nat
  /-- Cycle from which the watchdog counts. -/
  wdogFrom : Option Nat
  flood : Nat
  floodFrom : Option Nat
  /-- Combs whose reply has been received, and those that have sent it. -/
  replies : NatSet
  replied : NatSet
  /-- Routers that have taken the current flood, with coordinates and hops. -/
  reached : Sparse (Nat × Nat)
  minimal : Bool
  locked : Bool
  keys : Bool
  policy : Nat
  /-- The flash holds a firmware image whose signature verifies. -/
  signed : Bool
  /-- A flash update has been made since the last cold power cycle. -/
  flashed : Bool
  /-- Boot broadcast: packets still to send, counter, pool offset, source (R452). -/
  bcast : Option (Nat × Nat × Nat × Nat)
  alarmPending : List Nat
  deriving DecidableEq, Repr

/-- A soft error that physics may cause (R62, R84, R102, R103, R107, R111), and a flit with a reserved code
(R68). -/
inductive Upset
  | pool (cell word : Nat) (fatal : Bool)
  /-- A register word (register * 128 + word), or a tile (class 0) or accumulator (class 1) word, of a slot. -/
  | reg (slot word : Nat) (fatal : Bool)
  | tile (slot word : Nat) (fatal : Bool)
  | l1 (cell line : Nat) (fatal : Bool)
  | wcb (cell index word : Nat)
  | icache (cell line : Nat)
  | tlb (cell index : Nat)
  | range (cell index : Nat)
  /-- A slice's data, or its tag. -/
  | slice (comb line : Nat) (tag fatal : Bool)
  | dram (line : Nat) (fatal : Bool)
  | msc (line : Nat) (fatal : Bool)
  | directory (line : Nat)
  | remap (block index : Nat) (second : Bool)
  /-- A flit with a reserved message class (7) or a reserved endpoint code (22 to 31) for a router. -/
  | flit (comb mc ep : Nat)
  deriving DecidableEq, Repr

/-- A page release that waits for the writes of its batch (R121, R378): the router, the endpoint and the slot of the
issuer, the commands of the batch, ASID and page. -/
structure PageRel where
  comb : Nat
  ep : Nat
  slot : Nat
  cmds : List Nat
  asid : Nat
  page : Nat
  deriving DecidableEq, Repr

/-- A packet on a hive link (R95): the gateway port, the other module, what it carries, and the data of its line, or the
operands of a fence. -/
structure HivePkt where
  port : Nat
  node : Nat
  load : Load
  data : BitVec 1024
  deriving DecidableEq, Repr

/-- An invalidation of another module's home that a gateway has spread over this module (R87): the line, the home's module,
the requester, and the combs that have not acknowledged. -/
structure Spread where
  line : Nat
  node : Nat
  req : Nat
  combs : List Nat
  deriving DecidableEq, Repr

/-- What happens next, when it is chosen from outside the machine: an event of the table, the
issue of a given slot, the passing of cycles, a write-back of a memory-side cache line, a
replacement in a slice, a corrupted flit on a link, an upset. -/
inductive Move
  | event (i : Instr)
  /-- An event in the cycle of the step before it (R9). -/
  | sameCycle (i : Instr)
  | issue (slot : Nat)
  | pass (cycles : Nat)
  | mscEvict (line : Nat)
  | sliceEvict (comb line : Nat)
  | drain (cell : Nat)
  | upset (u : Upset)
  /-- From now on queues run at issue (`false`), or by events of their own. -/
  | queuesApart (on : Bool)
  /-- From now on each element, and each byte of a misaligned scalar access, is a step of its own (R126, R127), or not. -/
  | elementsApart (on : Bool)
  /-- A packet arrives from another module, or the oldest one of a gateway port crosses its hive link (R95). -/
  | hive (x : HivePkt)
  | hiveTaken (port : Nat)
  /-- The host sends an operation (R404, R407). -/
  | host (op : HostOp)
  deriving DecidableEq, Repr

/-- A loaded Burmeal image (R421 to R423): its address, the descriptor of its gang, and the rewritten
code of each task with the task's cell. -/
structure Burmeal where
  addr : Nat
  desc : Desc
  tasks : List (Nat × List (BitVec 32))
  deriving DecidableEq, Repr

/-- The state of the module. DESIGN CHOICE (log 4). -/
structure State where
  threads : Sparse Thread
  cells : Sparse Cell
  /-- The slot whose instruction executes. -/
  cur : Nat
  mem : Bytes
  /-- What the memory devices themselves hold (R459). -/
  dram : Bytes
  /-- Poisoned lines of memory (R99). -/
  mpoison : NatSet
  /-- The memory-side caches (R101): the lines of each set, oldest first. -/
  msc : Sparse (List MscLine)
  /-- Lines in the atomic buffer of the second tier's home, oldest first (R104). -/
  farBuf : List Nat
  regs : Sparse Word
  hostMem : Bytes
  /-- Poisoned 8-byte words behind the host aperture (R63). -/
  hostPois : NatSet
  /-- What the last host read returned, and the last attestation report's signature. -/
  hostData : Word
  /-- What the host has sent that waits for its earlier writes, oldest first (R407). -/
  hostq : List HostOp
  /-- Posts being checked, HPSTAT.BUSY = 1 (R405). -/
  posts : List HostPost
  report : List Byte
  msix : List Nat
  /-- What the host has written to the MSI-X table, by double word (R404). -/
  msixTab : Sparse Word
  fuses : NatSet
  slices : Sparse SliceLine
  /-- Writes that slices have accepted, oldest first. -/
  accepted : List Accepted
  dir : Sparse DirEntry
  homes : Sparse HomeTx
  /-- Number of the next request to a home. -/
  nextTag : Nat
  /-- Number of the next flit. -/
  nextFlit : Nat
  /-- Packets and messages that have reached their endpoints, oldest first. -/
  net : List Pkt
  msgs : List Deposit
  fences : List TFence
  /-- Page releases of finished batches. -/
  pageRels : List PageRel
  combTlb : Sparse (List TlbEntry)
  replays : Sparse (List Replay)
  /-- Flits at each router, oldest first, and the multicast buffer of each (R82). -/
  flits : Sparse (List Flit)
  castBuf : Sparse (List Flit)
  outs : Sparse OutPort
  /-- Packets that gateways send, oldest first; requests to homes of other modules; invalidations that gateways spread. -/
  hiveOut : List HivePkt
  hiveReqs : List Pkt
  spreads : List Spread
  queues : Sparse (List Launch)
  headSince : Sparse Nat
  gangs : Sparse Gang
  nextGang : Nat
  /-- Gang barriers by gang * 512 + id. -/
  gbars : Sparse GBar
  stopped : Sparse Stopped
  depcnt : Sparse Word
  burmeal : List Burmeal
  ctrs : Sparse Counter
  ready : Sparse (List Ready)
  pops : Sparse (List Nat)
  blocks : Sparse Block
  /-- The cycle of the last entry posted to each log, and the entries posted to it in that cycle (R112). -/
  logged : Sparse (Nat × Nat)
  pwrlim : Nat
  boot : Boot
  cycle : Nat
  frozen : Bool
  /-- Queues, streams, fences and deposits run by events behind the scalar side. -/
  ahead : Bool
  /-- Elements of queued memory instructions and of stream commands, and bytes of misaligned scalar accesses, are performed in
  steps of their own (R126, R127); otherwise those of one step of its instruction together. -/
  apart : Bool
  /-- Place of the last move among those of one cycle (R9, R210). -/
  phase : Nat
  agenda : List Move
  free : Nat
  deriving DecidableEq, Repr

/-- Why the machine stops. -/
inductive Fault
  /-- Raised by a step of a frozen module (R415): its clocks have stopped, and only a reset ends
  the freeze. Safe: no later state is claimed. -/
  | frozen
  deriving DecidableEq, Repr

/-- Why an instruction has no meaning. -/
inductive Refusal
  /-- Raised by an arm of `exec` whose instruction has no meaning yet. Safe: nothing is claimed. -/
  | notModelled (mnemonic : String)
  deriving DecidableEq, Repr

/-- The zero vector register. -/
def VReg.zero : VReg := ⟨0, 0⟩

/-- An empty slot: every register of R160 at zero, control registers at R217. DESIGN CHOICE (log 6). -/
def Thread.empty : Thread where
  live := false
  gang := none
  rank := 0
  pc := 0
  mode := .user
  v := []
  m := []
  mb := []
  csr := []
  tiles := []
  accs := []
  tcfgSeen := []
  written := []
  pend := []
  poison := []
  tpoison := []
  park := .running
  tokens := []
  seq := 0
  vq := []
  tq := []
  remS := []
  remM := []
  loop := none
  loopS := none
  loopM := none
  slots := []
  nextBatch := 0
  openCmds := []
  batches := []
  deferred := []
  leaseMin := 0
  leasePref := 4
  fwd := .none
  fwdBuf := []
  resident := false
  stopped := false
  migTimeout := none
  reads := []
  ringSince := none
  lead := []
  pred := none
  hazAt := none
  issuedAt := none
  descRead := none
  part := none
  mbWrote := none

/-- The partition word at reset (R41). -/
def partwReset : Word := 0x0680_0000_0000_000C

/-- A cell at reset (R41, R217, R459). -/
def Cell.initial : Cell where
  gang := none
  partw := partwReset
  cellerr := 0
  rsbStalls := 0
  rsbSince := none
  rsbHeld := []
  lanectl := 2
  laneNext := none
  pool := []
  ppoison := []
  latent := []
  l1 := []
  fills := []
  epoch := 0
  wcb := []
  icache := []
  tlb := []
  rsb := []
  stream := []
  ports := []
  mc := []
  mcScope := []
  waiters := []
  bars := []
  rings := []
  rendez := none
  succ := []
  clear := 0
  last := 3
  mlast := 3
  unit := none
  mcredit := []
  pcredit := []
  ptr := []
  rounds := []
  booted := false

/-- An unbound barrier (R379). -/
def NBar.initial : NBar := ⟨.unbound, 0, 0, 0, 0, 0⟩

/-- A line that a slice does not hold. -/
def SliceLine.invalid : SliceLine := ⟨.i, false, false, [], false⟩

/-- A line that no slice holds. -/
def DirEntry.invalid : DirEntry := ⟨.i, 0, [], false, 0, 0⟩

/-- A task counter at reset. -/
def Counter.initial : Counter := ⟨0, false, 0, 0, false, 0, 0, []⟩

/-- A memory block at reset. -/
def Block.initial : Block := ⟨[], [], [], [], [], 0, 0, 0, 0⟩

/-- A router port at reset. -/
def OutPort.initial : OutPort := ⟨[], [], [], 0, false, []⟩

/-- Start-up logic after a cold power cycle: step 1 has not ended (R412, R413). -/
def Boot.initial : Boot where
  stage := 1
  reason := 0
  attempts := 0
  wdogFrom := none
  flood := 0
  floodFrom := none
  replies := []
  replied := []
  reached := []
  minimal := false
  locked := false
  keys := true
  policy := 0
  signed := true
  flashed := false
  bcast := none
  alarmPending := []

/-- The module right after reset: nothing listed in any table, no thread started. DESIGN CHOICE (log 2). -/
def State.reset : State where
  threads := []
  cells := []
  cur := 0
  mem := []
  dram := []
  mpoison := []
  msc := []
  farBuf := []
  regs := []
  hostMem := []
  hostPois := []
  hostData := 0
  hostq := []
  posts := []
  report := []
  msix := []
  msixTab := []
  fuses := []
  slices := []
  accepted := []
  dir := []
  homes := []
  nextTag := 0
  nextFlit := 0
  net := []
  msgs := []
  fences := []
  pageRels := []
  combTlb := []
  replays := []
  flits := []
  castBuf := []
  outs := []
  hiveOut := []
  hiveReqs := []
  spreads := []
  queues := []
  headSince := []
  gangs := []
  nextGang := 0
  gbars := []
  stopped := []
  depcnt := []
  burmeal := []
  ctrs := []
  ready := []
  pops := []
  blocks := []
  logged := []
  pwrlim := 3600
  boot := .initial
  cycle := 0
  frozen := false
  ahead := true
  apart := true
  phase := 0
  agenda := []
  free := 0

end Sys2Proof.Machine
end

