-- ==== Sys2Proof/Machine/Ops.lean ====
section
/-! DEFINITION. The named operations over the state that every family uses: the executing
thread and its cell, registers, control-register storage, pending registers, the hazard and
poison checks at issue, taking a trap and returning from one, advancing past an instruction. -/

namespace Sys2Proof.Machine

/-! ### Numbers of control registers (R217) -/

def csrFPCTL : Nat := 0x000
def csrFPFLG : Nat := 0x001
def csrXSEL : Nat := 0x002
def csrLEN : Nat := 0x010
def csrEW : Nat := 0x011
def csrESI : Nat := 0x012
def csrFFI : Nat := 0x013
def csrROWS : Nat := 0x014
def csrPITCH : Nat := 0x015
def csrLIX0 : Nat := 0x018
def csrLOFF : Nat := 0x01E
def csrRINGCTL : Nat := 0x020
def csrRINGB0 : Nat := 0x021
def csrMBSTAT : Nat := 0x030
def csrTSTAT : Nat := 0x040
def csrTCFG0 : Nat := 0x048
def csrACFG0 : Nat := 0x050
def csrSTAGECNT0 : Nat := 0x060
def csrEPC : Nat := 0x100
def csrCAUSE : Nat := 0x101
def csrTVAL : Nat := 0x102
def csrTELEM : Nat := 0x103
def csrSEPC : Nat := 0x104
def csrPSTATE : Nat := 0x105
def csrTVEC : Nat := 0x106
def csrSSCR : Nat := 0x107
def csrIPEND : Nat := 0x108
def csrISWVAL : Nat := 0x109
def csrIENB : Nat := 0x10A
def csrMEPC : Nat := 0x120
def csrMCAUSE : Nat := 0x121
def csrMTVAL : Nat := 0x122
def csrMTELEM : Nat := 0x123
def csrMSEPC : Nat := 0x124
def csrMPSTATE : Nat := 0x125
def csrMTVEC : Nat := 0x126
def csrMSCR : Nat := 0x127
def csrDELEG : Nat := 0x128
def csrUTBASE : Nat := 0x140
def csrSTBASE : Nat := 0x141
def csrCTXASID : Nat := 0x142
def csrXLSYN : Nat := 0x143
def csrPARTW : Nat := 0x150
def csrCELLERR : Nat := 0x151
def csrRSBSTAT : Nat := 0x152
def csrNETCTL : Nat := 0x153
def csrLEASE : Nat := 0x154
def csrFWDSTAT : Nat := 0x155
def csrHZCTL : Nat := 0x156
def csrISSUESTAT : Nat := 0x157
def csrLANECTL : Nat := 0x160
def csrDEPCNT : Nat := 0x170
def csrDEVID : Nat := 0x180
def csrREVID : Nat := 0x181
def csrFEATURES : Nat := 0x182

/-- Reset values of thread-scope control registers (R217). LEASE is that of the general role (R167). -/
def csrReset (n : Nat) : Word :=
  if n = 0x002 then 0x0F
  else if n = 0x020 then 0x0010_0000_0000_0000
  else if n = 0x10A then 0x0E
  else if n = 0x154 then 0x400
  else if n = 0x156 then 0x700
  else 0

/-! ### Bit fields -/

/-- Bits [lo+len-1 : lo] of a word as a number. -/
def bits (w : Word) (lo len : Nat) : Nat := w.toNat / 2 ^ lo % 2 ^ len

/-- `w` with bits [lo+len-1 : lo] replaced by `v`. -/
def setBits (w : Word) (lo len v : Nat) : Word :=
  let mask : Word := BitVec.ofNat 64 ((2 ^ len - 1) * 2 ^ lo)
  (w &&& ~~~mask) ||| (BitVec.ofNat 64 (v % 2 ^ len * 2 ^ lo))

/-- A counter field of `len` bits rises by `k` and stops at its maximum. -/
def satAdd (w : Word) (lo len k : Nat) : Word :=
  setBits w lo len (Nat.min (bits w lo len + k) (2 ^ len - 1))

/-- The quotient, rounded up. -/
def ceilDiv (a b : Nat) : Nat := (a + b - 1) / b

/-- The low `n` bits of `x`, sign-extended (R234). -/
def sext (n : Nat) (x : Word) : Word := (x.setWidth n).signExtend 64

/-- The low `n` bits of `x`, zero-extended (R234). -/
def zext (n : Nat) (x : Word) : Word := (x.setWidth n).setWidth 64

/-- An optional number as one number. -/
def optNat : Option Nat → Nat
  | some n => n + 1
  | none => 0

/-! ### Threads and cells -/

/-- The thread in a slot. -/
def State.thread (s : State) (slot : Nat) : Thread := Sparse.getD s.threads slot .empty

/-- The slot's thread becomes `t`. -/
def State.setThread (s : State) (slot : Nat) (t : Thread) : State :=
  { s with threads := Sparse.set slot t s.threads }

/-- The executing thread. -/
def State.thr (s : State) : Thread := s.thread s.cur

/-- The executing thread becomes `t`. -/
def State.setThr (s : State) (t : Thread) : State := s.setThread s.cur t

/-- A change of the executing thread. -/
def State.upd (s : State) (f : Thread → Thread) : State := s.setThr (f s.thr)

/-- A change of the thread in a slot. -/
def State.updThread (s : State) (slot : Nat) (f : Thread → Thread) : State :=
  s.setThread slot (f (s.thread slot))

/-- A cell by number: comb index * 17 + physical cell. -/
def State.cell (s : State) (c : Nat) : Cell := Sparse.getD s.cells c .initial

/-- Cell `c` becomes `x`. -/
def State.setCell (s : State) (c : Nat) (x : Cell) : State := { s with cells := Sparse.set c x s.cells }

/-- The cell of a slot, and the thread number in it. -/
def cellOf (slot : Nat) : Nat := slot / 4
def threadOf (slot : Nat) : Nat := slot % 4

/-- The comb of a cell, and its physical number in the comb. -/
def combOf (c : Nat) : Nat := c / 17
def physOf (c : Nat) : Nat := c % 17

/-- The executing thread's cell. -/
def State.cl (s : State) : Cell := s.cell (cellOf s.cur)

/-- A change of the executing thread's cell. -/
def State.updCell (s : State) (f : Cell → Cell) : State := s.setCell (cellOf s.cur) (f s.cl)

/-- A change of a cell. -/
def State.updCellAt (s : State) (c : Nat) (f : Cell → Cell) : State := s.setCell c (f (s.cell c))

/-- Number of active threads of a cell (R41). -/
def Cell.nthr (c : Cell) : Nat := bits c.partw 0 2 + 1

/-- The partition's RLEN in bits (R41). -/
def Cell.rlenFull (c : Cell) : Nat := 512 * 2 ^ (bits c.partw 2 3)

/-- Enabled clusters (R219). -/
def Cell.clusters (c : Cell) : Nat := if bits c.lanectl 0 2 = 0 then 1 else if bits c.lanectl 0 2 = 1 then 2 else 4

/-- The effective RLEN (R61). -/
def Cell.rlen (c : Cell) : Nat := c.rlenFull * c.clusters / 4

/-- Scratchpad granules, and scratchpad bytes (R41, R12). -/
def Cell.spg (c : Cell) : Nat := bits c.partw 53 6
def Cell.spadBytes (c : Cell) : Nat := c.spg * 4096

/-- NTILE and NACC of a thread, and the capacities in bytes (R41). -/
def Cell.ntile (c : Cell) (t : Nat) : Nat := bits c.partw (13 + 8 * t) 4
def Cell.nacc (c : Cell) (t : Nat) : Nat := bits c.partw (17 + 8 * t) 4
def Cell.tcap (c : Cell) : Nat := 1024 * 2 ^ (bits c.partw 45 2)
def Cell.acap (c : Cell) : Nat := 1024 * 2 ^ (bits c.partw 47 2)

/-- Role of a thread (R41, R167). -/
def Cell.role (c : Cell) (t : Nat) : Nat := bits c.partw (5 + 2 * t) 2

/-! ### Registers -/

/-- A vector register. -/
def Thread.vreg (t : Thread) (i : Nat) : VReg := Sparse.getD t.v i .zero

/-- A scalar operand (R211): index 31 reads zero. DEDUCED (log 9). -/
def Thread.readS (t : Thread) (r : Reg) : Word := if r = 31 then 0 else (t.vreg r.toNat).lo

/-- A scalar result (R211): bits [63:0] are replaced and the poison of the word is cleared
(R63); a write to 31 is discarded. -/
def Thread.writeS (t : Thread) (r : Reg) (x : Word) : Thread :=
  if r = 31 then t
  else { t with v := Sparse.set r.toNat ⟨x, (t.vreg r.toNat).hi⟩ t.v, poison := NatSet.del (r.toNat * 128) t.poison }

/-- All bits of a vector register. -/
def VReg.full (x : VReg) : BitVec 8192 := x.hi ++ x.lo

/-- A vector register from all its bits. -/
def VReg.ofFull (x : BitVec 8192) : VReg := ⟨x.setWidth 64, x.extractLsb' 64 8128⟩

/-- All bits of vector register `i`. -/
def Thread.readV (t : Thread) (i : Nat) : BitVec 8192 := (t.vreg i).full

/-- Vector register `i` is written. -/
def Thread.writeV (t : Thread) (i : Nat) (x : BitVec 8192) : Thread :=
  { t with v := Sparse.set i (VReg.ofFull x) t.v, written := NatSet.add i t.written }

/-- A mask register (R213). -/
def Thread.readM (t : Thread) (i : Nat) : BitVec 1024 := Sparse.getD t.m i 0

/-- A mask register is written. -/
def Thread.writeM (t : Thread) (i : Nat) (x : BitVec 1024) : Thread := { t with m := Sparse.set i x t.m }

/-- A message register (R215). -/
def Thread.readMb (t : Thread) (i : Nat) : Word := Sparse.getD t.mb i 0

/-- The stored bits of a thread-scope control register. -/
def Thread.csrGet (t : Thread) (n : Nat) : Word := Sparse.getD t.csr n (csrReset n)

/-- The stored bits of a control register are replaced. -/
def Thread.csrSet (t : Thread) (n : Nat) (x : Word) : Thread := { t with csr := Sparse.set n x t.csr }

/-- A scalar register of the executing thread. -/
def State.rs (s : State) (r : Reg) : Word := s.thr.readS r

/-- A scalar register of the executing thread is written. -/
def State.ws (s : State) (r : Reg) (x : Word) : State := s.upd (·.writeS r x)

/-- LEN and the element width in force (R218). -/
def Thread.lenNow (t : Thread) : Nat := bits (t.csrGet csrLEN) 0 11
def ewOfNat (n : Nat) : EW := if n = 0 then .e8 else if n = 1 then .e16 else if n = 2 then .e32 else .e64
def Thread.ewNow (t : Thread) : EW := ewOfNat (bits (t.csrGet csrEW) 0 2)

/-- Bits and bytes of an element width; the EW code. -/
def ewBits : EW → Nat
  | .e8 => 8 | .e16 => 16 | .e32 => 32 | .e64 => 64
def ewBytes (e : EW) : Nat := ewBits e / 8
def ewCode : EW → Nat
  | .e8 => 0 | .e16 => 1 | .e32 => 2 | .e64 => 3

/-! ### Modes -/

/-- Mode codes (R235). -/
def Mode.code : Mode → Nat
  | .user => 0 | .supervisor => 1 | .machine => 3

/-- The mode of a code; code 2 is reserved and is not written (R237). -/
def Mode.ofCode (n : Nat) : Mode := if n = 0 then .user else if n = 3 then .machine else .supervisor

/-- Whether mode `m` has at least the privilege of `p`. -/
def Mode.atLeast (m p : Mode) : Bool := decide (p.code ≤ m.code)

/-! ### Loops (R293, R295) -/

/-- Dimension count of a pattern word (R364). -/
def patDims (p : BitVec 256) : Nat := (p.extractLsb' 248 4).toNat
def patBound (p : BitVec 256) (d : Nat) : Nat := (p.extractLsb' (40 * d + 24) 16).toNat
def patStride (p : BitVec 256) (d : Nat) : Int := (p.extractLsb' (40 * d) 24).toInt
def patEsz (p : BitVec 256) : Nat := 2 ^ (p.extractLsb' 240 2).toNat

/-- The number of index tuples, B0 x ... x B(D-1) (R365). -/
def patCount (p : BitVec 256) : Nat := (List.range (patDims p)).foldl (fun n d => n * patBound p d) 1

/-- The index tuple of linear index `e`, innermost first (R293, R365). -/
def patIndex (p : BitVec 256) (e d : Nat) : Nat :=
  e / ((List.range d).foldl (fun n j => n * patBound p j) 1) % (patBound p d)

/-- The pattern offset of element `e` in bytes (R365), which is also LOFF of pass `e` (R293). -/
def patOffset (p : BitVec 256) (e : Nat) : Int :=
  (List.range (patDims p)).foldl (fun n d => n + (patIndex p e d : Int) * patStride p d * patEsz p) 0

/-- LIX0 to LIX5 and LOFF of pass `e`. -/
def Thread.setLoopRegs (t : Thread) (p : BitVec 256) (e : Nat) : Thread :=
  let t := (List.range 6).foldl
    (fun t d => t.csrSet (csrLIX0 + d) (if d < patDims p then BitVec.ofNat 64 (patIndex p e d) else 0)) t
  t.csrSet csrLOFF (BitVec.ofInt 64 (patOffset p e))

/-- LIX0 to LIX5 and LOFF become zero. -/
def Thread.clearLoopRegs (t : Thread) : Thread :=
  ((List.range 6).foldl (fun t d => t.csrSet (csrLIX0 + d) 0) t).csrSet csrLOFF 0

/-- A pattern slot holds a valid pattern word (R364, R369). -/
def Thread.slotPat (t : Thread) (p : Nat) : Option (BitVec 256) := Sparse.find? p t.slots

/-! ### Pending registers (R195 to R197) -/

/-- Whether pend entry `p` makes scalar register `r` pending for a scalar instruction that
writes it (`wr`) or reads it. A vector register aliases the scalar register of its number. -/
def Pend.blocksScalar (p : Pend) (r : Nat) (wr : Bool) : Bool :=
  decide (p.reg = r) &&
    match p.cls, p.who with
    | .mask, _ => false
    | _, .writers => wr
    | _, _ => true

/-- The first register among `reads` and then `writes` that is pending for a scalar instruction.
DEDUCED (log 19). -/
def Thread.hazard (t : Thread) (reads writes : List Reg) : Option Reg :=
  match reads.find? (fun r => decide (r ≠ 31) && t.pend.any (·.blocksScalar r.toNat false)) with
  | some r => some r
  | none => writes.find? (fun r => decide (r ≠ 31) && t.pend.any (·.blocksScalar r.toNat true))

/-- The first register read whose 8-byte word is poisoned (R358). DEDUCED (log 55). -/
def Thread.poisonedRead (t : Thread) (reads : List Reg) : Option Reg :=
  reads.find? (fun r => decide (r ≠ 31) && NatSet.has t.poison (r.toNat * 128))

/-- A register of the thread is pending: what a switch marker waits for (R196). -/
def Thread.anyPending (t : Thread) : Bool :=
  t.pend.any (fun p => decide (p.cls ≠ .scalar ∨ p.reg ≠ 31))

/-- The destination of a variable-latency instruction becomes pending with its value. DESIGN CHOICE (log 18). -/
def Thread.pendScalar (t : Thread) (d : Reg) (x : Word) (pois : Bool) (fl : BitVec 7) : Thread :=
  { t with pend := t.pend ++ [⟨.scalar, d.toNat, .all, some x, pois, fl, none, none, 0, none⟩] }

/-! ### Traps (R235 to R238) -/

/-- What a trap reports. -/
structure TrapInfo where
  int : Bool := false
  st : Bool := false
  batch : Nat := 0
  code : Nat
  tval : Word := 0
  telem : Word := 0
  xlsyn : Option Word := none

/-- The CAUSE word (R237). -/
def TrapInfo.cause (i : TrapInfo) : Word :=
  BitVec.ofNat 64 ((if i.int then 2 ^ 63 else 0) + (if i.st then 2 ^ 62 else 0) + i.batch % 65536 * 2 ^ 32 + i.code)

/-- The mode a trap of cause `i` is taken in (R235). -/
def Thread.trapMode (t : Thread) (i : TrapInfo) : Mode :=
  if t.mode = .machine then .machine
  else if bits (t.csrGet csrDELEG) ((if i.int then 32 else 0) + i.code % 32) 1 = 1 then .machine
  else .supervisor

/-- The saved copy `n` (an S number 0x100 to 0x107) of the trap registers of mode `x`. -/
def trapCsr (x : Mode) (n : Nat) : Nat :=
  if x = .machine then
    (if n = csrEPC then csrMEPC else if n = csrCAUSE then csrMCAUSE else if n = csrTVAL then csrMTVAL
      else if n = csrTELEM then csrMTELEM else if n = csrSEPC then csrMSEPC else if n = csrPSTATE then csrMPSTATE
      else if n = csrTVEC then csrMTVEC else csrMSCR)
  else n

/-- The status word of the mode taken (R236, step 3). -/
def trapStatus (old : Word) (prev : Mode) (vq : Bool) : Word :=
  let ie := bits old 0 1
  let w := setBits (setBits (setBits old 4 2 prev.code) 1 1 ie) 0 1 0
  if vq then setBits w 8 1 1 else w

/-- A matrix multiply-accumulate. -/
def VKind.isTmma : VKind → Bool
  | .tmmaD | .tmmaHf | .tmmaBf | .tmmaE4e4 | .tmmaE4e5 | .tmmaE5e4 | .tmmaE5e5 | .tmmaI8 | .tmmaC8 | .tmmaC6
  | .tmmaC4 => true
  | _ => false

/-- Queue entries stopped by a trap: they keep their progress. Tile unavailable leaves the tile queue to finish (R356).
DEDUCED (log 36). -/
def Thread.stopQueues (t : Thread) (i : TrapInfo) : List QEntry := if i.code = 0x0C ∧ !i.int then t.vq else t.vq ++ t.tq

/-- The entry that ESI names at a stop: the one that faulted, or else the oldest that has started (R239, R315).
DEDUCED (log 35). -/
def esiEntry (q : List QEntry) : Option QEntry := (q.find? (·.run.own)).or (q.find? (·.prog.isSome))

/-- ESI at a stop. -/
def stopEsi (q : List QEntry) : Word := ((esiEntry q).bind (·.prog)).getD 0

/-- The entries of a remainder: that of ESI is marked. -/
def markEsi (q : List QEntry) : List QEntry :=
  match esiEntry q with
  | some e => q.map fun x => if x.seq = e.seq then { x with run := { x.run with own := true } } else x
  | none => q

/-- Entry to a trap (R236): the queues stop, the registers of the mode taken are written, the
loop record is saved, and the thread fetches from the handler. Registers of the remainder are not
pending while it is held, as the handler of R441 shows. `epc` is the address of the
faulting, stopped or interrupted instruction and `sepc` where the scalar side resumes. DEDUCED (log 36). -/
def Thread.trapEntry (t : Thread) (i : TrapInfo) (epc sepc : Word) : Thread :=
  let x := t.trapMode i
  let q := t.stopQueues i
  let rem := (if x = .machine then t.remM else t.remS)
  let t1 := t.csrSet (trapCsr x csrEPC) epc
  let t2 := t1.csrSet (trapCsr x csrSEPC) sepc
  let t3 := t2.csrSet (trapCsr x csrCAUSE) i.cause
  let t4 := t3.csrSet (trapCsr x csrTVAL) i.tval
  let t5 := t4.csrSet (trapCsr x csrTELEM) i.telem
  let t6 := match i.xlsyn with | some w => t5.csrSet csrXLSYN w | none => t5
  let t7 := t6.csrSet (trapCsr x csrPSTATE) (trapStatus (t6.csrGet (trapCsr x csrPSTATE)) t.mode (!t.vq.isEmpty || !t.tq.isEmpty))
  let t8 := if q.isEmpty then t7 else t7.csrSet csrESI (stopEsi q)
  { t8 with
    mode := x
    pc := t8.csrGet (trapCsr x csrTVEC) &&& ~~~3
    vq := []
    tq := if i.code = 0x0C ∧ !i.int then t.tq else []
    pend := t8.pend.filter fun p => !q.any fun e => decide (p.seq = some e.seq)
    remS := if x = .machine then t.remS else markEsi q ++ rem
    remM := if x = .machine then markEsi q ++ rem else t.remM
    loopS := if x = .machine then t.loopS else t.loop
    loopM := if x = .machine then t.loop else t.loopM
    loop := none
    ringSince := none
    lead := []
    pred := none
    descRead := none
    part := none
    migTimeout := none
    reads := t8.reads.filter (·.dev)
    park := .running }

/-- A follower that takes a trap or an interrupt leaves the leader's stream (R164). -/
def Thread.detach (t : Thread) (overrun : Bool) : Thread :=
  if t.fwd = .follower then
    let w := t.csrGet csrFWDSTAT
    { t with
      fwd := .none
      fwdBuf := []
      csr := Sparse.set csrFWDSTAT (satAdd w (if overrun then 32 else 16) 16 1) t.csr }
  else t

/-- A wait of the slot on a mailbox counter or a task unit is withdrawn (R190, R381). -/
def State.withdrawWait (s : State) (slot : Nat) : State :=
  match (s.thread slot).park with
  | .mwait mc _ =>
    s.updCellAt (cellOf slot) fun c =>
      { c with waiters := Sparse.set mc ((Sparse.getD c.waiters mc []).filter (· ≠ threadOf slot)) c.waiters }
  | .tkpop f _ => { s with pops := Sparse.set f ((Sparse.getD s.pops f []).filter (· ≠ slot)) s.pops }
  | _ => s

/-- An access waits at a replay entry, joins it, leaves it; an entry for which no access waits goes. -/
def Replay.holds (r : Replay) : Waiter → Bool
  | .thread t => decide (t ∈ r.slots)
  | .cmd t id => decide ((t, id) ∈ r.cmds)
  | .gang g => decide (g ∈ r.gangs)
def Replay.join (r : Replay) : Waiter → Replay
  | .thread t => { r with slots := r.slots ++ [t] }
  | .cmd t id => { r with cmds := r.cmds ++ [(t, id)] }
  | .gang g => { r with gangs := r.gangs ++ [g] }
def Replay.without (r : Replay) : Waiter → Replay
  | .thread t => { r with slots := r.slots.filter (· ≠ t) }
  | .cmd t id => { r with cmds := r.cmds.filter (· ≠ (t, id)) }
  | .gang g => { r with gangs := r.gangs.filter (· ≠ g) }
def Replay.empty (r : Replay) : Bool := r.slots.isEmpty && r.cmds.isEmpty && r.gangs.isEmpty

/-- An access leaves a comb's replay queue (R37). -/
def State.leaveReplay (s : State) (comb : Nat) (w : Waiter) : State :=
  let q := Sparse.getD s.replays comb []
  if q.any (·.holds w) then
    { s with replays := Sparse.set comb ((q.map (·.without w)).filter fun r => !r.empty) s.replays }
  else s

/-- The access of the slot leaves its comb's replay queue (R37). -/
def State.withdrawReplay (s : State) (slot : Nat) : State := s.leaveReplay (combOf (cellOf slot)) (.thread slot)

/-- A lane change that the slot's thread waits for is withdrawn (R61). -/
def State.withdrawLanes (s : State) (slot : Nat) : State :=
  match (s.cell (cellOf slot)).laneNext with
  | some l => if l.1 = slot then s.updCellAt (cellOf slot) fun c => { c with laneNext := none } else s
  | none => s

/-- A thread that leaves the relay rendezvous takes its entry with it; the word goes with the last
thread that waits there (R177). -/
def State.withdrawRendez (s : State) (slot : Nat) : State :=
  match (s.thread slot).park with
  | .rendezvous =>
    s.updCellAt (cellOf slot) fun c =>
      let others := (List.range 4).any fun i =>
        decide (i ≠ threadOf slot ∧ (s.thread (cellOf slot * 4 + i)).park = .rendezvous)
      { c with succ := Sparse.erase (threadOf slot) c.succ, rendez := if others then c.rendez else none }
  | _ => s

/-- Inclusive byte spans overlap. -/
def spanMeets (lo hi : Nat) : Option (Nat × Nat) → Bool
  | some (a, b) => decide (lo ≤ b ∧ a ≤ hi)
  | none => false

/-- A live entry covers part of [lo, hi] of the scratchpad. -/
def Range.meets (r : Range) (lo hi : Nat) : Bool := r.bad || spanMeets lo hi r.src || spanMeets lo hi r.dst

/-- The entry holds an access of queued instruction `age` of a slot, or of its scalar side: not one that is older than the
entry's command in its own thread (R144). -/
def Range.holds (r : Range) (slot : Nat) (age : Option Nat) (o : Nat) : Bool :=
  r.meets o o && !(match age with | some a => decide (r.slot = slot ∧ a < r.cmd) | none => false)

/-- A period in which an access of the cell was stalled by R56 ends: its cycles are counted (R58). -/
def Cell.rsbEnd (c : Cell) (now : Nat) : Cell :=
  match c.rsbSince with
  | some n => { c with rsbStalls := Nat.min (c.rsbStalls + (now - n)) (2 ^ 32 - 1), rsbSince := none }
  | none => c

/-- Accesses that no live entry holds any more are no longer stalled by R56; the period ends with the last (R58). -/
def Cell.rsbSettle (c : Cell) (now : Nat) : Cell :=
  let c1 := { c with rsbHeld := c.rsbHeld.filter fun w => w.offs.any fun o => c.rsb.any (·.holds w.slot w.age o) }
  if c1.rsbHeld.isEmpty then c1.rsbEnd now else c1

/-- The slot's stalled accesses are withdrawn (R58). -/
def State.withdrawRsb (s : State) (slot : Nat) : State :=
  if (s.cell (cellOf slot)).rsbHeld.any fun w => decide (w.slot = slot) then
    s.updCellAt (cellOf slot) fun c => ({ c with rsbHeld := c.rsbHeld.filter fun w => decide (w.slot ≠ slot) } : Cell).rsbSettle s.cycle
  else s

/-- The matrix instruction of the slot that the unit executes. -/
def State.inUnit (s : State) (slot : Nat) : List QEntry :=
  if (s.cell (cellOf slot)).unit = some slot then (s.thread slot).tq.head?.toList.filter (·.kind.isTmma) else []

/-- The matrix unit is free of an instruction of the slot that stops. -/
def State.withdrawUnit (s : State) (slot : Nat) : State :=
  if (s.cell (cellOf slot)).unit = some slot ∧ s.inUnit slot = [] then
    s.updCellAt (cellOf slot) fun c => { c with unit := none }
  else s

/-- Every wait of the slot outside its own registers is withdrawn when it traps. -/
def State.withdraw (s : State) (slot : Nat) : State :=
  (((((s.withdrawWait slot).withdrawReplay slot).withdrawLanes slot).withdrawRsb slot).withdrawRendez slot).withdrawUnit slot

/-- The cycles of a stall for a pending register are counted when it ends (R197). -/
def Thread.hazSettle (t : Thread) (now : Nat) : Thread :=
  match t.hazAt with
  | some c => { t with hazAt := none, csr := Sparse.set csrISSUESTAT (satAdd (t.csrGet csrISSUESTAT) 16 16 (now - c)) t.csr }
  | none => t

/-- A trap of a thread whose matrix instructions `keep` stand in the unit: they complete (R239). -/
def Thread.trapKeep (t : Thread) (keep : List QEntry) (i : TrapInfo) (epc sepc : Word) : Thread :=
  if keep = [] then t.trapEntry i epc sepc
  else
    let u := ({ t with tq := t.tq.drop keep.length } : Thread).trapEntry i epc sepc
    { u with tq := keep ++ u.tq }

/-- The thread in `slot` takes a trap (R236). -/
def State.trapAt (s : State) (slot : Nat) (i : TrapInfo) (epc sepc : Word) : State :=
  (s.withdraw slot).updThread slot fun t => ((t.hazSettle s.cycle).trapKeep (s.inUnit slot) i epc sepc).detach false

/-- A precise synchronous trap at the executing instruction: SEPC = EPC (R238). -/
def State.trap (s : State) (i : TrapInfo) : State := s.trapAt s.cur i s.thr.pc s.thr.pc

/-- The illegal-instruction trap with the word in TVAL (R265). -/
def State.illegal (s : State) (w : BitVec 32) : State := s.trap { code := 0x01, tval := w.setWidth 64 }

/-- The illegal-operand trap. -/
def State.badOperand (s : State) (v : Word) : State := s.trap { code := 0x02, tval := v }

/-- The executing instruction stalls in order: it is tried again (R193). DEDUCED (log 60). -/
def State.stall (s : State) : State := s.upd fun t => { t with park := .stalled }

/-- The executing thread parks; its instruction runs again when the wait is over. DEDUCED (log 40). -/
def State.parkAs (s : State) (p : Park) : State := s.upd fun t => { t with park := p }

/-! ### Issue checks (R197, R284) -/

/-- A hazard with its TVAL: the trap, or with HZCTL.STALL = 1 a stall whose cycles are counted (R197). -/
def State.hazardAt (s : State) (v : Word) : State :=
  if bits (s.thr.csrGet csrHZCTL) 0 1 = 1 then (s.upd fun t => { t with hazAt := some s.cycle }).stall
  else s.trap { code := 0x05, tval := v }

/-- A hazard on scalar register `r`. -/
def State.hazardStop (s : State) (r : Reg) : State := s.hazardAt (BitVec.ofNat 64 r.toNat)

/-- The state an instruction stops in when an operand or destination is pending, or a scalar
operand is poisoned; `none` when it may execute. -/
def State.guardStop (s : State) (reads writes : List Reg) : Option State :=
  match s.thr.hazard reads writes with
  | some r => some (s.hazardStop r)
  | none =>
    match s.thr.poisonedRead reads with
    | some r => some (s.trap { code := 0x0B, tval := BitVec.ofNat 64 r.toNat })
    | none => none

/-- An instruction's effect behind its register checks. -/
def State.guarded (s : State) (reads writes : List Reg) (f : State → State) : State :=
  match s.guardStop reads writes with
  | some s' => s'
  | none => f s

/-! ### Advancing (R196, R256, R293) -/

/-- The pc after the instruction at the executing pc, with the end of a loop body (R293). DEDUCED (log 87). -/
def Thread.stepPc (t : Thread) : Thread :=
  match t.loop with
  | some l =>
    if t.pc = l.start + BitVec.ofNat 64 (4 * (l.n - 1)) then
      if l.pass + 1 < patCount l.pat then
        { (t.setLoopRegs l.pat (l.pass + 1)) with pc := l.start, loop := some { l with pass := l.pass + 1 } }
      else { t.clearLoopRegs with pc := l.start + BitVec.ofNat 64 (4 * l.n), loop := none }
    else { t with pc := t.pc + 4 }
  | none => { t with pc := t.pc + 4 }

/-- A switch marker parks the thread while a register is pending (R196). -/
def Thread.mark (t : Thread) (mk : Bool) : Thread :=
  if mk && t.anyPending then { t with park := .marker } else { t with park := .running }

/-- The instruction completes issue and the thread goes on behind it. -/
def State.advance (s : State) (mk : Bool) : State := s.upd fun t => t.stepPc.mark mk

/-- The instruction completes and the thread goes on at `pc`. -/
def State.goto (s : State) (mk : Bool) (pc : Word) : State := s.upd fun t => ({ t with pc := pc }).mark mk

/-- The executing pc lies in the body of an active loop. -/
def Thread.inBody (t : Thread) : Bool :=
  match t.loop with
  | some l => decide (l.start.toNat ≤ t.pc.toNat ∧ t.pc.toNat < l.start.toNat + 4 * l.n)
  | none => false

/-- R294: an instruction that a loop body must not contain takes the illegal-instruction trap
and ends the loop. -/
def State.notInBody (s : State) (w : BitVec 32) (f : State → State) : State :=
  if s.thr.inBody then (s.upd fun t => { t.clearLoopRegs with loop := none }).illegal w else f s

/-- R302: an operation that needs S or M takes the illegal-instruction trap in U. -/
def State.privileged (s : State) (w : BitVec 32) (f : State → State) : State :=
  if s.thr.mode = .user then s.illegal w else f s

/-! ### Words of instructions, for TVAL (R257) -/

/-- A word of format A. -/
def wordA (mk : Bool) (major : BitVec 6) (d a b : Reg) (fn : BitVec 10) : BitVec 32 :=
  BitVec.ofBool mk ++ major ++ d ++ a ++ b ++ fn

/-- A word of format I. -/
def wordI (mk : Bool) (major : BitVec 6) (d a : Reg) (i : BitVec 15) : BitVec 32 :=
  BitVec.ofBool mk ++ major ++ d ++ a ++ i

/-- A word of format J. -/
def wordJ (mk : Bool) (major : BitVec 6) (o : BitVec 25) : BitVec 32 := BitVec.ofBool mk ++ major ++ o

/-- A word of format C. -/
def wordC (mk : Bool) (d a : Reg) (c : BitVec 12) (fn : BitVec 3) : BitVec 32 :=
  BitVec.ofBool mk ++ (0x38 : BitVec 6) ++ d ++ a ++ c ++ fn

end Sys2Proof.Machine
end

