-- ==== Sys2Proof/Machine/Flags.lean ====
section
/-! DEFINITION. Floating-point control and flags: the dynamic rounding mode, trap enables,
sticky flags, and the delivery of a scalar result with its flags (R225, R227, R234). -/

namespace Sys2Proof.Machine

/-- FPCTL fields of a word (R225). -/
def fpEnOf (w : Word) : Flags := w.setWidth 7
def fpRmOf (w : Word) : RoundMode := RoundMode.ofCode (bits w 16 3)
def fpSatnOf (w : Word) : Bool := decide (bits w 19 1 = 1)

/-- The thread's trap enables (R225). -/
def Thread.fpEn (t : Thread) : Flags := fpEnOf (t.csrGet csrFPCTL)

/-- The rounding mode of an rm field; code 7 is FPCTL.RM (R225). -/
def Thread.rmOf (t : Thread) : Rm → RoundMode
  | .rne => .rne
  | .rtz => .rtz
  | .rdn => .rdn
  | .rup => .rup
  | .rmm => .rmm
  | .dyn => fpRmOf (t.csrGet csrFPCTL)

/-- Flags join the sticky flags of FPFLG (R225, R234). -/
def Thread.raise (t : Thread) (fl : Flags) : Thread :=
  if fl = 0 then t else t.csrSet csrFPFLG (t.csrGet csrFPFLG ||| fl.setWidth 64)

/-- SignalFP of a scalar result (R227, R234, R296): an enabled flag traps with the destination
unwritten; otherwise the result is written. -/
def State.fpFinish (s : State) (mk : Bool) (d : Reg) (r : Nat × Flags) : State :=
  if r.2 &&& s.thr.fpEn = 0 then
    (((s.upd (·.raise r.2)).ws d (BitVec.ofNat 64 r.1)).advance mk)
  else (s.upd (·.raise r.2)).trap { code := 0x06, tval := r.2.setWidth 64 }

/-- A result of class P without enabled flags (R298): the destination is pending until it is
written; the flags are those of the operation. -/
def State.fpPend (s : State) (mk : Bool) (d : Reg) (r : Nat × Flags) : State :=
  if s.thr.fpEn = 0 then
    ((s.upd (·.raise r.2)).upd (·.pendScalar d (BitVec.ofNat 64 r.1) false 0)).advance mk
  else s.fpFinish mk d r

end Sys2Proof.Machine
end

