-- ==== Sys2Proof/Machine/Operands.lean ====
section
/-! DEFINITION. Operand forms: addresses of R264, PC-relative targets of R259, scalar
floating-point operands of R284, element width and format codes. -/

namespace Sys2Proof.Machine

/-- The floating-point format of `fmt2` (R296). -/
def fpFmt : Fmt → FpFormat
  | .d => fmtD
  | .s => fmtS

/-- The encoding a scalar floating-point operand holds: the low bits of its register (R284). -/
def fpIn (f : FpFormat) (x : Word) : Nat := x.toNat % 2 ^ f.width

/-- R264: the index register of an address, `none` for LOFF or an offset form. -/
def eaReads (i : BitVec 12) : List Reg :=
  if i.getLsbD 11 = true ∧ i.extractLsb' 6 5 ≠ 31 then [i.extractLsb' 6 5] else []

/-- R264: the address that base `a` and imm12 form, with 64-bit wrapping. -/
def Thread.ea (t : Thread) (a : Word) (i : BitVec 12) : Word :=
  if i.getLsbD 11 then
    let x := if i.extractLsb' 6 5 = 31 then t.csrGet csrLOFF else t.readS (i.extractLsb' 6 5)
    a + (x <<< (i.extractLsb' 4 2).toNat)
  else a + (i.setWidth 11).signExtend 64

/-- Target of a B-format branch: PC + Sext(imm15) * 4 (R259). -/
def targetB (pc : Word) (o : BitVec 15) : Word := pc + ((o.signExtend 64) <<< 2)

/-- Target of a J-format jump: PC + Sext(imm25) * 4 (R259). -/
def targetJ (pc : Word) (o : BitVec 25) : Word := pc + ((o.signExtend 64) <<< 2)

/-- Bytes of an access width (R359). -/
def widthBytes : Width → Nat
  | .b => 1 | .h => 2 | .w => 4 | .d => 8

/-- A loaded value extended to 64 bits (R359). -/
def extendLoad (w : Width) (signed : Bool) (v : Nat) : Word :=
  let x : Word := BitVec.ofNat 64 v
  if signed then sext (8 * widthBytes w) x else zext (8 * widthBytes w) x

/-- Annotations of atomics (R261). -/
def annAcq : Ann → Bool
  | .acquire => true | .acqRel => true | .relaxed => false | .release => false
def annRel : Ann → Bool
  | .release => true | .acqRel => true | .relaxed => false | .acquire => false

end Sys2Proof.Machine
end

