-- ==== Sys2Proof/Machine/Alu.lean ====
section
/-! DEFINITION. Integer register and immediate operations and bitfields (R286 to R289). -/

namespace Sys2Proof.Machine

open Host (Outcome)

/-- A two-operand operation of class 1 or 3 (R284, R286). -/
def State.alu2 (s : State) (mk : Bool) (d a b : Reg) (f : Word → Word → Word) : State :=
  s.guarded [a, b] [d] fun s => (s.ws d (f (s.rs a) (s.rs b))).advance mk

/-- A one-operand operation (R284). -/
def State.alu1 (s : State) (mk : Bool) (d a : Reg) (f : Word → Word) : State :=
  s.guarded [a] [d] fun s => (s.ws d (f (s.rs a))).advance mk

/-- An operation that also reads its destination (R286, R289). -/
def State.alu3 (s : State) (mk : Bool) (d a b : Reg) (f : Word → Word → Word → Word) : State :=
  s.guarded [a, b, d] [d] fun s => (s.ws d (f (s.rs d) (s.rs a) (s.rs b))).advance mk

/-- One or zero as a comparison yields (R286). -/
def boolWord (p : Bool) : Word := if p then 1 else 0

/-- Shift amount b[5:0] (R286). -/
def shAmt (b : Word) : Nat := b.toNat % 64

/-- Number of leading zero bits, 0 to 64 (R286). -/
def clzWord (a : Word) : Word := BitVec.ofNat 64 (if a.toNat = 0 then 64 else 63 - Nat.log2 a.toNat)

/-- Number of trailing zero bits among the low `n` bits from bit `i`. -/
def ctzFrom (a : Word) (i : Nat) : Nat → Nat
  | 0 => 0
  | n + 1 => if a.getLsbD i then 0 else 1 + ctzFrom a (i + 1) n

/-- Number of one bits among bits below `n`. -/
def popcUpTo (a : Word) : Nat → Nat
  | 0 => 0
  | n + 1 => popcUpTo a n + (if a.getLsbD n then 1 else 0)

/-- The eight bytes in reverse order (R286). -/
def byteRev (a : Word) : Word :=
  a.extractLsb' 0 8 ++ a.extractLsb' 8 8 ++ a.extractLsb' 16 8 ++ a.extractLsb' 24 8 ++
    a.extractLsb' 32 8 ++ a.extractLsb' 40 8 ++ a.extractLsb' 48 8 ++ a.extractLsb' 56 8

/-- Bits [127:64] of an exact product (R286). -/
def mulHigh (x y : Int) : Word := BitVec.ofInt 64 (x * y / 2 ^ 64)

/-- Signed quotient and remainder with the boundary cases of R287. -/
def divS (a b : Word) : Word :=
  if b = 0 then 0
  else if a.toInt = -(2 ^ 63) ∧ b.toInt = -1 then BitVec.ofNat 64 (2 ^ 63 - 1)
  else BitVec.ofInt 64 (a.toInt.tdiv b.toInt)
def remS (a b : Word) : Word := if b = 0 then a else BitVec.ofInt 64 (a.toInt.tmod b.toInt)
def divU (a b : Word) : Word := if b = 0 then 0 else BitVec.ofNat 64 (a.toNat / b.toNat)
def remU (a b : Word) : Word := if b = 0 then a else BitVec.ofNat 64 (a.toNat % b.toNat)

/-- A divide or remainder (R287): class P; of class S, with a trap, when b is zero and HZCTL.DZT = 1. -/
def State.divide (s : State) (mk : Bool) (d a b : Reg) (f : Word → Word → Word) : State :=
  s.guarded [a, b] [d] fun s =>
    if bits (s.thr.csrGet csrHZCTL) 2 1 = 1 ∧ s.rs b = 0 then s.trap { code := 0x18 }
    else (s.upd (·.pendScalar d (f (s.rs a) (s.rs b)) false 0)).advance mk

/-- ADD (R286). -/
def execAdd (s : Bool) (d a b : Reg) (st : State) : Outcome State Fault Refusal :=
  .next (st.alu2 s d a b (fun x y => x + y))

/-- SUB (R286). -/
def execSub (s : Bool) (d a b : Reg) (st : State) : Outcome State Fault Refusal :=
  .next (st.alu2 s d a b (fun x y => x - y))

/-- ADD32 (R286). -/
def execAdd32 (s : Bool) (d a b : Reg) (st : State) : Outcome State Fault Refusal :=
  .next (st.alu2 s d a b (fun x y => sext 32 (x + y)))

/-- SUB32 (R286). -/
def execSub32 (s : Bool) (d a b : Reg) (st : State) : Outcome State Fault Refusal :=
  .next (st.alu2 s d a b (fun x y => sext 32 (x - y)))

/-- AND (R286). -/
def execAnd (s : Bool) (d a b : Reg) (st : State) : Outcome State Fault Refusal :=
  .next (st.alu2 s d a b (fun x y => x &&& y))

/-- OR (R286). -/
def execOr (s : Bool) (d a b : Reg) (st : State) : Outcome State Fault Refusal :=
  .next (st.alu2 s d a b (fun x y => x ||| y))

/-- XOR (R286). -/
def execXor (s : Bool) (d a b : Reg) (st : State) : Outcome State Fault Refusal :=
  .next (st.alu2 s d a b (fun x y => x ^^^ y))

/-- ANDN (R286). -/
def execAndn (s : Bool) (d a b : Reg) (st : State) : Outcome State Fault Refusal :=
  .next (st.alu2 s d a b (fun x y => x &&& ~~~y))

/-- SLL (R286). -/
def execSll (s : Bool) (d a b : Reg) (st : State) : Outcome State Fault Refusal :=
  .next (st.alu2 s d a b (fun x y => x <<< shAmt y))

/-- SRL (R286). -/
def execSrl (s : Bool) (d a b : Reg) (st : State) : Outcome State Fault Refusal :=
  .next (st.alu2 s d a b (fun x y => x >>> shAmt y))

/-- SRA (R286). -/
def execSra (s : Bool) (d a b : Reg) (st : State) : Outcome State Fault Refusal :=
  .next (st.alu2 s d a b (fun x y => x.sshiftRight (shAmt y)))

/-- ROR (R286). -/
def execRor (s : Bool) (d a b : Reg) (st : State) : Outcome State Fault Refusal :=
  .next (st.alu2 s d a b (fun x y => x.rotateRight (shAmt y)))

/-- MIN (R286). -/
def execMin (s : Bool) (d a b : Reg) (st : State) : Outcome State Fault Refusal :=
  .next (st.alu2 s d a b (fun x y => if x.toInt ≤ y.toInt then x else y))

/-- MAX (R286). -/
def execMax (s : Bool) (d a b : Reg) (st : State) : Outcome State Fault Refusal :=
  .next (st.alu2 s d a b (fun x y => if x.toInt ≤ y.toInt then y else x))

/-- MINU (R286). -/
def execMinu (s : Bool) (d a b : Reg) (st : State) : Outcome State Fault Refusal :=
  .next (st.alu2 s d a b (fun x y => if x.toNat ≤ y.toNat then x else y))

/-- MAXU (R286). -/
def execMaxu (s : Bool) (d a b : Reg) (st : State) : Outcome State Fault Refusal :=
  .next (st.alu2 s d a b (fun x y => if x.toNat ≤ y.toNat then y else x))

/-- CLZ (R286). -/
def execClz (s : Bool) (d a : Reg) (st : State) : Outcome State Fault Refusal :=
  .next (st.alu1 s d a (clzWord))

/-- CTZ (R286). -/
def execCtz (s : Bool) (d a : Reg) (st : State) : Outcome State Fault Refusal :=
  .next (st.alu1 s d a (fun x => BitVec.ofNat 64 (ctzFrom x 0 64)))

/-- POPC (R286). -/
def execPopc (s : Bool) (d a : Reg) (st : State) : Outcome State Fault Refusal :=
  .next (st.alu1 s d a (fun x => BitVec.ofNat 64 (popcUpTo x 64)))

/-- BYTEREV (R286). -/
def execByterev (s : Bool) (d a : Reg) (st : State) : Outcome State Fault Refusal :=
  .next (st.alu1 s d a (byteRev))

/-- SLT (R286). -/
def execSlt (s : Bool) (d a b : Reg) (st : State) : Outcome State Fault Refusal :=
  .next (st.alu2 s d a b (fun x y => boolWord (decide (x.toInt < y.toInt))))

/-- SLTU (R286). -/
def execSltu (s : Bool) (d a b : Reg) (st : State) : Outcome State Fault Refusal :=
  .next (st.alu2 s d a b (fun x y => boolWord (decide (x.toNat < y.toNat))))

/-- SEQ (R286). -/
def execSeq (s : Bool) (d a b : Reg) (st : State) : Outcome State Fault Refusal :=
  .next (st.alu2 s d a b (fun x y => boolWord (decide (x = y))))

/-- SNE (R286). -/
def execSne (s : Bool) (d a b : Reg) (st : State) : Outcome State Fault Refusal :=
  .next (st.alu2 s d a b (fun x y => boolWord (decide (x ≠ y))))

/-- CMOVNZ (R286): d is unchanged when the condition fails. -/
def execCmovnz (s : Bool) (d a b : Reg) (st : State) : Outcome State Fault Refusal :=
  .next (st.guarded [a, b] [d] fun t => (if t.rs b ≠ 0 then t.ws d (t.rs a) else t).advance s)

/-- CMOVZ (R286): d is unchanged when the condition fails. -/
def execCmovz (s : Bool) (d a b : Reg) (st : State) : Outcome State Fault Refusal :=
  .next (st.guarded [a, b] [d] fun t => (if t.rs b = 0 then t.ws d (t.rs a) else t).advance s)

/-- MUL (R286). -/
def execMul (s : Bool) (d a b : Reg) (st : State) : Outcome State Fault Refusal :=
  .next (st.alu2 s d a b (fun x y => x * y))

/-- MULHS (R286). -/
def execMulhs (s : Bool) (d a b : Reg) (st : State) : Outcome State Fault Refusal :=
  .next (st.alu2 s d a b (fun x y => mulHigh x.toInt y.toInt))

/-- MULHU (R286). -/
def execMulhu (s : Bool) (d a b : Reg) (st : State) : Outcome State Fault Refusal :=
  .next (st.alu2 s d a b (fun x y => mulHigh x.toNat y.toNat))

/-- MULHUS (R286). -/
def execMulhus (s : Bool) (d a b : Reg) (st : State) : Outcome State Fault Refusal :=
  .next (st.alu2 s d a b (fun x y => mulHigh x.toNat y.toInt))

/-- MUL32 (R286). -/
def execMul32 (s : Bool) (d a b : Reg) (st : State) : Outcome State Fault Refusal :=
  .next (st.alu2 s d a b (fun x y => sext 32 (x * y)))

/-- MULADD (R286): d is a third operand. -/
def execMuladd (s : Bool) (d a b : Reg) (st : State) : Outcome State Fault Refusal :=
  .next (st.alu3 s d a b (fun z x y => z + x * y))

/-- MULSUB (R286): d is a third operand. -/
def execMulsub (s : Bool) (d a b : Reg) (st : State) : Outcome State Fault Refusal :=
  .next (st.alu3 s d a b (fun z x y => z - x * y))

/-- DIV (R286, R287). -/
def execDiv (s : Bool) (d a b : Reg) (st : State) : Outcome State Fault Refusal :=
  .next (st.divide s d a b divS)

/-- DIVU (R286, R287). -/
def execDivu (s : Bool) (d a b : Reg) (st : State) : Outcome State Fault Refusal :=
  .next (st.divide s d a b divU)

/-- REM (R286, R287). -/
def execRem (s : Bool) (d a b : Reg) (st : State) : Outcome State Fault Refusal :=
  .next (st.divide s d a b remS)

/-- REMU (R286, R287). -/
def execRemu (s : Bool) (d a b : Reg) (st : State) : Outcome State Fault Refusal :=
  .next (st.divide s d a b remU)

/-- ADDI (R288). -/
def execAddi (s : Bool) (d a : Reg) (i : BitVec 15) (st : State) : Outcome State Fault Refusal :=
  .next (st.alu1 s d a (fun x => x + i.signExtend 64))

/-- ANDI (R288). -/
def execAndi (s : Bool) (d a : Reg) (i : BitVec 15) (st : State) : Outcome State Fault Refusal :=
  .next (st.alu1 s d a (fun x => x &&& i.signExtend 64))

/-- ORI (R288). -/
def execOri (s : Bool) (d a : Reg) (i : BitVec 15) (st : State) : Outcome State Fault Refusal :=
  .next (st.alu1 s d a (fun x => x ||| i.signExtend 64))

/-- XORI (R288). -/
def execXori (s : Bool) (d a : Reg) (i : BitVec 15) (st : State) : Outcome State Fault Refusal :=
  .next (st.alu1 s d a (fun x => x ^^^ i.signExtend 64))

/-- SLLI (R288). -/
def execSlli (s : Bool) (d a : Reg) (n : BitVec 6) (st : State) : Outcome State Fault Refusal :=
  .next (st.alu1 s d a (fun x => x <<< n.toNat))

/-- SRLI (R288). -/
def execSrli (s : Bool) (d a : Reg) (n : BitVec 6) (st : State) : Outcome State Fault Refusal :=
  .next (st.alu1 s d a (fun x => x >>> n.toNat))

/-- SRAI (R288). -/
def execSrai (s : Bool) (d a : Reg) (n : BitVec 6) (st : State) : Outcome State Fault Refusal :=
  .next (st.alu1 s d a (fun x => x.sshiftRight n.toNat))

/-- RORI (R288). -/
def execRori (s : Bool) (d a : Reg) (n : BitVec 6) (st : State) : Outcome State Fault Refusal :=
  .next (st.alu1 s d a (fun x => x.rotateRight n.toNat))

/-- SLTI (R288). -/
def execSlti (s : Bool) (d a : Reg) (i : BitVec 14) (st : State) : Outcome State Fault Refusal :=
  .next (st.alu1 s d a (fun x => boolWord (decide (x.toInt < i.toInt))))

/-- SLTIU (R288). -/
def execSltiu (s : Bool) (d a : Reg) (i : BitVec 14) (st : State) : Outcome State Fault Refusal :=
  .next (st.alu1 s d a (fun x => boolWord (decide (x.toNat < (i.signExtend 64).toNat))))

/-- LUI (R288). -/
def execLui (s : Bool) (d : Reg) (i : BitVec 20) (st : State) : Outcome State Fault Refusal :=
  .next (st.guarded [] [d] fun t => (t.ws d ((i.signExtend 64) <<< 12)).advance s)

/-- ADDPC (R288): PC is the address of the instruction. -/
def execAddpc (s : Bool) (d : Reg) (i : BitVec 20) (st : State) : Outcome State Fault Refusal :=
  .next (st.guarded [] [d] fun t => (t.ws d (t.thr.pc + ((i.signExtend 64) <<< 12))).advance s)

/-- Width of a bitfield: the field holds width - 1 (R289). -/
def bfWidth (w : BitVec 6) : Nat := w.toNat + 1

/-- A bitfield operation, which refuses pos + width above 64 (R289). -/
def bfWord (mk : Bool) (d a : Reg) (p w : BitVec 6) (op : BitVec 2) : BitVec 32 :=
  wordA mk 0x0F d a (p.setWidth 5) (op ++ w ++ (0 : BitVec 1) ++ p.extractLsb' 5 1)

/-- The check of R289 before a bitfield operation. -/
def State.bitfield (s : State) (mk : Bool) (d a : Reg) (p w : BitVec 6) (op : BitVec 2) (f : State → State) : State :=
  if 64 < p.toNat + bfWidth w then s.illegal (bfWord mk d a p w op) else f s

/-- BFX (R289). -/
def execBfx (s : Bool) (d a : Reg) (p w : BitVec 6) (st : State) : Outcome State Fault Refusal :=
  .next (st.bitfield s d a p w 0 fun t => t.alu1 s d a (fun x => sext (bfWidth w) (x >>> p.toNat)))

/-- BFXU (R289). -/
def execBfxu (s : Bool) (d a : Reg) (p w : BitVec 6) (st : State) : Outcome State Fault Refusal :=
  .next (st.bitfield s d a p w 1 fun t => t.alu1 s d a (fun x => zext (bfWidth w) (x >>> p.toNat)))

/-- BFI (R289): it reads d as well as a. -/
def execBfi (s : Bool) (d a : Reg) (p w : BitVec 6) (st : State) : Outcome State Fault Refusal :=
  .next (st.bitfield s d a p w 2 fun t => t.alu3 s d a a (fun z x _ => setBits z p.toNat (bfWidth w) x.toNat))

end Sys2Proof.Machine
end

