-- ==== Sys2Proof/Machine/BootRom.lean ====
section
/-! DEFINITION. The contents of the boot ROM: the program of spec 20 (Program F), assembled at
the boot ROM base word by word from the encodings of spec 10, 11 and 14. -/

namespace Sys2Proof.Machine

/-- The words of the boot ROM from its base; the rest of the ROM reads as zero. -/
def bootRom : List (BitVec 32) :=
  [0x201F8027, 0x054F8201, 0x0D4A0020, 0x115000E0, 0x035A5400, 0x043F8001, 0x163AB000, 0x944AB008, 0x0C52103F, 0x205FFFFE, 0x046A9000, 0x10700020] ++
  [0x0473FFFF, 0x10800010, 0x10900090, 0x029A2400, 0x10A00100, 0x04BF8400, 0x04CF8001, 0x94D33000, 0x02D69C06, 0x02E68012, 0x0EF74002, 0x20FF803B] ++
  [0x02D6A005, 0x02D68011, 0x16D4B000, 0x04630008, 0x0294A800, 0x30B67FF6, 0x11000004, 0x17F83000, 0x17F83008, 0x1C00801C, 0x17FAB010, 0x11100038] ++
  [0x0D188010, 0x0518807F, 0x171AB018, 0x043F8001, 0xE8418101, 0x68500180, 0x046F8080, 0xE8430100, 0x0C528012, 0x047F8200, 0x0C738020, 0x02739400] ++
  [0x10800038, 0x0273A000, 0x05238000, 0x049F8800, 0x04AF8000, 0x04CF8001, 0x94B3B000, 0x02A52C00, 0x04738008, 0x30967FFD, 0x11000004, 0x02D57C1B] ++
  [0x0CD68003, 0x02D83400, 0x1BF6B064, 0x221F8003, 0x70000017, 0x21FFFFFF, 0x14E83000, 0x94F83008, 0x02E73C00, 0x11100004, 0x22E8FFFC, 0x22FF800B] ++
  [0x053F8201, 0x0D398020, 0x11649000, 0x0339D800, 0x056F8001, 0x0D6B0020, 0x11701000, 0x036B5C00, 0x1769B008, 0x2FF90000, 0x70000017, 0x21FFFFFF]

/-- What a byte of physical memory that nothing has written reads as: the boot ROM's program at
its addresses, zero elsewhere. -/
def romByte (pa : Nat) : Byte :=
  if Config.romBase ≤ pa ∧ pa < Config.romBase + Config.romSize then
    let o := pa - Config.romBase
    (((bootRom.getD (o / 4) 0) >>> (8 * (o % 4))).setWidth 8)
  else 0

end Sys2Proof.Machine
end

