-- ==== Sys2Proof/Machine/Fields.lean ====
section
/-! DEFINITION. Fields of control and device registers with their access codes (R6, R7), and
reading, writing, setting and clearing a register by its fields (R216, R301). -/

namespace Sys2Proof.Machine

/-- Access codes (R6). -/
inductive Access | ro | rw | wo | w1c | rc
  deriving DecidableEq, Repr

/-- A field: place, access code, lowest privilege, and the codes that it accepts (R216). -/
structure Field where
  lo : Nat
  len : Nat
  acc : Access
  priv : Mode
  ok : Nat → Bool := fun _ => true

/-- A field that accepts every code. -/
def fld (lo len : Nat) (acc : Access) (priv : Mode) : Field := { lo := lo, len := len, acc := acc, priv := priv }

/-- Whether mode `m` may access the field (R6). -/
def Field.may (f : Field) (m : Mode) : Bool := m.atLeast f.priv

/-- What a read in mode `m` returns of stored bits `v` (R6). -/
def readFields (fs : List Field) (m : Mode) (v : Word) : Word :=
  fs.foldl (fun r f => if f.may m && decide (f.acc ≠ .wo) then setBits r f.lo f.len (bits v f.lo f.len) else r) 0

/-- What a read in mode `m` leaves: RC fields it may access are cleared (R6). -/
def clearRead (fs : List Field) (m : Mode) (v : Word) : Word :=
  fs.foldl (fun r f => if f.may m && decide (f.acc = .rc) then setBits r f.lo f.len 0 else r) v

/-- The same for a read that returns only the bits of `en`: an RC field is cleared when all of it is returned (R6).
DESIGN CHOICE (log 29): a field returned in part stays. -/
def clearReadPart (fs : List Field) (m : Mode) (en v : Word) : Word :=
  clearRead (fs.filter fun f => decide (bits en f.lo f.len = 2 ^ f.len - 1)) m v

/-- What a field's write does to stored bits `v`; `x` holds the bits, `en` those written. -/
def Field.put (f : Field) (m : Mode) (x en v : Word) : Word :=
  if !f.may m then v
  else match f.acc with
    | .rw =>
      let n := bits ((v &&& ~~~en) ||| (x &&& en)) f.lo f.len
      if f.ok n then setBits v f.lo f.len n else v
    | .w1c => setBits v f.lo f.len (bits (v &&& ~~~(x &&& en)) f.lo f.len)
    | _ => v

/-- A write in mode `m` (R6, R301). -/
def writeFields (fs : List Field) (m : Mode) (x en v : Word) : Word :=
  fs.foldl (fun r f => f.put m x en r) v

/-- CSET: each RW field becomes old or a (R301). -/
def setFields (fs : List Field) (m : Mode) (x v : Word) : Word :=
  fs.foldl (fun r f => if f.acc = .rw then f.put m (r ||| x) (BitVec.allOnes 64) r else r) v

/-- CCLR: each RW field becomes old and not a; W1C bits with a 1 in a are cleared (R301). -/
def clearFields (fs : List Field) (m : Mode) (x v : Word) : Word :=
  fs.foldl (fun r f =>
    if f.acc = .rw then f.put m (r &&& ~~~x) (BitVec.allOnes 64) r
    else if f.acc = .w1c then f.put m x (BitVec.allOnes 64) r else r) v

/-- A register with no writable field (R216). -/
def readOnly (fs : List Field) : Bool := fs.all fun f => decide (f.acc = .ro ∨ f.acc = .rc)

end Sys2Proof.Machine
end

