-- ==== Sys2Proof/Machine/Dev.lean ====
section
/-! DEFINITION. The device control window (R16, R403): the registers of comb pages, stack base
dies, the I/O die and the propolis block, the effects of writing them, error logs, interrupts
and deposits into message registers. -/

namespace Sys2Proof.Machine

/-! ### Places -/

/-- Window offset of a comb page register. -/
def combReg (comb o : Nat) : Nat := comb * 0x10_0000 + o

/-- Window offset of the register block of stack base die `f`, 0 to 7, or of the I/O die, 8. -/
def blockBase (f : Nat) : Nat := if f < 8 then 0x4000_0000 + f * 0x100_0000 else 0x4800_0000
def blockReg (f o : Nat) : Nat := blockBase f + o

/-- Window offset of a propolis register. -/
def propolisReg (o : Nat) : Nat := 0x4900_0000 + o

/-- Storage key of HPSTAT of a frame (BAR 0, R404); it is no offset of the window. -/
def hpstatKey (f : Nat) : Nat := 0x8000_0000 + f

/-- North-west comb of a frame (R185). -/
def frameComb (f : Nat) : Nat := 32 * (8 * (f / 2)) + 16 * (f % 2)

/-- The frame of a comb (R1). -/
def frameOfComb (c : Nat) : Nat := 2 * (c / 32 / 8) + c % 32 / 16

/-! ### Registers -/

/-- Reset value of a window register. -/
def devReset (off : Nat) : Word :=
  if off < 0x4000_0000 then
    let o := off % 0x10_0000
    if 0x8_0000 ≤ o ∧ o < 0x8_0040 then 8
    else if o = 0x8_0040 then 4096
    else if o = 0x9_0000 then 16
    else if o = 0xA_0000 then 0x0010_0000 ||| 0x1_0000_0000
    else if o = 0xC_0000 ∨ o = 0xC_0008 then 0x1_0001_0000
    else 0
  else if off < 0x4900_0000 then
    let o := if off < 0x4800_0000 then off % 0x100_0000 else off - 0x4800_0000
    if o = 0 then 0x0000_05A0_0000_0F08
    else if o = 0x10 then 0x8_0000_0000
    else if o = 0x2_0010 ∧ 0x4800_0000 ≤ off then 0x100
    else if 0x2_2000 ≤ o ∧ o < 0x2_2080 ∧ 0x4800_0000 ≤ off then 25
    else 0
  else if off = 0x4900_0008 then 0x100_0000
  else 0

/-- The stored bits of a window register. -/
def State.dev (s : State) (off : Nat) : Word := Sparse.getD s.regs off (devReset off)

/-- The stored bits of a window register are replaced. -/
def State.setDev (s : State) (off : Nat) (v : Word) : State := { s with regs := Sparse.set off v s.regs }

/-- A counter field of a window register rises and saturates. -/
def State.bumpDev (s : State) (off lo len : Nat) : State := s.setDev off (satAdd (s.dev off) lo len 1)

/-- Fields of a comb page register at page offset `o` (R39, R67, R76, R79, R82, R185, R192, R250,
R408, R451, R452, R457). TUCTL, TUSTAT and GSCTL exist in a frame's north-west comb, the
coordinator's and table registers at router (0, 0). -/
def combFields (comb o : Nat) : List Field :=
  let nw := decide (comb = frameComb (frameOfComb comb))
  let q := decide (comb = 0)
  if 0x8_0000 ≤ o ∧ o < 0x8_0040 then [fld 0 8 .rw .machine]
  else if o = 0x8_0040 then [fld 0 16 .rw .machine]
  else if o = 0x8_0048 then [fld 32 32 .rc .machine, fld 16 16 .rc .machine, fld 0 16 .rc .machine]
  else if 0x8_1000 ≤ o ∧ o < 0x8_1200 then
    [fld 63 1 .rw .machine, fld 40 16 .rw .machine, fld 36 4 .rw .machine,
     fld 32 4 .rw .machine, fld 0 17 .rw .machine]
  else if o = 0x9_0000 then [fld 0 5 .rw .machine]
  else if o = 0xA_0000 then [fld 33 7 .ro .machine, fld 32 1 .rw .machine, fld 0 32 .rw .machine]
  else if o = 0xB_0000 ∧ nw then [fld 0 1 .rw .machine]
  else if o = 0xB_0008 ∧ nw then
    [fld 48 16 .rc .machine, fld 0 48 .ro .machine]
  else if o = 0xC_0000 ∧ nw then [fld 0 33 .rw .machine]
  else if o = 0xC_0008 ∧ q then [fld 0 33 .rw .machine]
  else if o = 0xC_0010 ∧ q then [fld 22 30 .rw .machine, fld 0 1 .rw .machine]
  else if o = 0xC_0018 ∧ q then [fld 2 62 .rw .machine]
  else if o = 0xC_0020 ∧ q then [fld 0 64 .rw .machine]
  else if o = 0xE_0008 ∧ q then [fld 63 1 .ro .machine, fld 0 11 .ro .machine]
  else if o = 0xE_0010 ∧ q then [fld 7 45 .rw .machine]
  else if 0xE_1000 ≤ o ∧ o < 0xE_3000 ∧ q then [fld 0 17 .ro .machine]
  else []

/-- Fields of a register of a memory block at block offset `o` (R114 to R119) and of the I/O die
(`io`, R405, R409, R410, R416). -/
def blockFields (io : Bool) (o : Nat) : List Field :=
  if o = 0 then [fld 32 16 .rw .machine, fld 0 12 .rw .machine]
  else if o = 0x8 then [fld 16 48 .ro .machine]
  else if o = 0x10 then [fld 32 8 .rw .machine, fld 0 10 .rw .machine]
  else if o = 0x18 then
    [fld 48 16 .rc .machine, fld 32 16 .rc .machine, fld 16 16 .rc .machine,
     fld 0 11 .ro .machine]
  else if o = 0x20 then
    [fld 30 18 .ro .machine, fld 8 8 .rc .machine, fld 0 8 .rc .machine]
  else if o = 0x28 then [fld 0 64 .ro .machine]
  else if o = 0x30 then [fld 0 16 .rw .machine]
  else if o = 0x38 then [fld 0 32 .rc .machine]
  else if 0x1_0000 ≤ o ∧ o < 0x1_4000 then [fld 0 64 .rw .machine]
  else if !io then []
  else if o = 0x2_0010 then [fld 8 8 .rw .machine, fld 0 3 .rw .machine]
  else if o = 0x2_0020 then [fld 43 21 .rw .machine, fld 0 1 .rw .machine]
  else if 0x2_0100 ≤ o ∧ o < 0x2_0140 then [fld 24 8 .rw .supervisor, fld 0 16 .rw .supervisor]
  else if 0x2_1000 ≤ o ∧ o < 0x2_1060 then
    [fld 63 1 .rw .machine, fld 49 7 .ro .machine, fld 32 17 .rc .machine,
     fld 0 8 .ro .machine]
  else if 0x2_2000 ≤ o ∧ o < 0x2_2080 then [fld 0 8 .ro .machine]
  else []

/-- Fields of a propolis register (R412). -/
def propolisFields (o : Nat) : List Field :=
  if o = 0 then [fld 8 8 .ro .machine, fld 0 2 .ro .machine]
  else if o = 8 then [fld 0 32 .rw .machine]
  else if o = 0x10 then [fld 4 1 .ro .machine, fld 0 4 .w1c .machine]
  else []

/-- Fields of the window register at offset `off`; reserved offsets have none: they read zero
and drop writes (R403). -/
def devFields (off : Nat) : List Field :=
  if off < 0x4000_0000 then combFields (off / 0x10_0000) (off % 0x10_0000)
  else if off < 0x4800_0000 then blockFields false (off % 0x100_0000)
  else if off < 0x4900_0000 then blockFields true (off - 0x4800_0000)
  else if off < 0x4A00_0000 then propolisFields (off - 0x4900_0000)
  else []

/-- Tasks of a frame's ready queues and tasks released, unqueued (R192). -/
def State.readyCount (s : State) (f : Nat) : Nat :=
  (List.range 8).foldl (fun n p => n + (Sparse.getD s.ready (f * 8 + p) []).length) 0
def State.heldCount (s : State) (f : Nat) : Nat :=
  s.ctrs.foldl (fun n e => if e.1 / 65536 = f then n + e.2.held.length else n) 0

/-- BOOTSTAT (R412). -/
def Boot.stat (b : Boot) : Word := BitVec.ofNat 64 (b.stage * 4096 + b.reason * 256 + b.attempts)

/-- Entries of a log with V = 1 (R115): bit 63 of the upper half of each entry. -/
def State.logCount (s : State) (f : Nat) : Nat :=
  (s.regs.filter (fun e =>
    decide (blockReg f 0x1_0000 ≤ e.1 ∧ e.1 < blockReg f 0x1_4000 ∧ e.1 % 16 = 8) && e.2.getLsbD 63)).length

/-- The bits of a window register as they stand, with the fields that report other state. DEDUCED (log 30). -/
def State.devView (s : State) (off : Nat) : Word :=
  let v := s.dev off
  if off < 0x4000_0000 then
    let c := off / 0x10_0000
    let o := off % 0x10_0000
    if o = 0xA_0000 then
      setBits v 33 7 ((Sparse.getD s.replays c []).filter (fun r => !r.outside)).length
    else if o = 0xB_0008 then
      let f := frameOfComb c
      setBits (setBits (setBits v 32 16 (s.heldCount f)) 16 16 (Sparse.getD s.pops f []).length) 0 16 (s.readyCount f)
    else v
  else if off = propolisReg 0 then s.boot.stat
  else if off = propolisReg 8 then v
  else
    let f := if off < 0x4800_0000 then (off - 0x4000_0000) / 0x100_0000 else 8
    let o := off - blockBase f
    let b := Sparse.getD s.blocks f .initial
    if o = 0x18 then setBits v 10 1 (if s.logCount f = 1024 then 1 else 0)
    else if o = 0x20 then setBits (setBits v 34 14 b.remap.length) 30 4 b.remapWait.length
    else if o = 0x28 then b.fenced.foldl (fun r p => setBits r p 1 1) 0
    else v

/-- A read of the bits of `en` of a window register in mode `m`: the value, and the state with the RC fields that it
returns cleared. -/
def State.devReadPart (s : State) (m : Mode) (off : Nat) (en : Word) : Word × State :=
  let fs := devFields off
  (readFields fs m (s.devView off),
    if fs.any (fun f => decide (f.acc = .rc)) then s.setDev off (clearReadPart fs m en (s.dev off)) else s)

/-- A read of a whole window register in mode `m`. -/
def State.devRead (s : State) (m : Mode) (off : Nat) : Word × State := s.devReadPart m off (BitVec.allOnes 64)

/-- `n` bytes at offset `o` of the window, of one register. -/
def State.devBytes (s : State) (m : Mode) (o n : Nat) : Nat × State :=
  let r := s.devReadPart m (o / 8 * 8) (BitVec.ofNat 64 ((2 ^ (8 * n) - 1) * 2 ^ (8 * (o % 8))))
  (r.1.toNat / 2 ^ (8 * (o % 8)) % 2 ^ (8 * n), r.2)

/-! ### Interrupts and error logs (R112, R113, R243, R244) -/

/-- SKIP of a comb (R67): values 17 to 31 act as 16. -/
def State.skip (s : State) (comb : Nat) : Nat := Nat.min (bits (s.dev (combReg comb 0x9_0000)) 0 5) 16

/-- Physical cell of logical cell `l` of a comb (R67). -/
def State.physOfLogical (s : State) (comb l : Nat) : Nat := if l < s.skip comb then l else l + 1

/-- Cell number (comb * 17 + physical) of a module logical cell (R15). -/
def State.cellOfLogical (s : State) (l : Nat) : Nat := l / 16 * 17 + s.physOfLogical (l / 16) (l % 16)

/-- Module logical cell number of a cell. -/
def State.logicalOfCell (s : State) (c : Nat) : Nat :=
  combOf c * 16 + (if physOf c < s.skip (combOf c) then physOf c else physOf c - 1)

/-- A cell that runs: neither fused off nor named by SKIP (R67, R450). -/
def State.running (s : State) (c : Nat) : Bool :=
  decide (physOf c ≠ s.skip (combOf c)) && !NatSet.has s.fuses c && decide (combOf c < Config.combs)

/-- The summary bits MC and ADV of IPEND follow their logs (R244). -/
def ipendSum (w : Word) : Word :=
  setBits (setBits w 1 1 (if bits w 12 9 = 0 then 0 else 1)) 2 1 (if bits w 21 10 = 0 then 0 else 1)

/-- Bit `n` of the slot's IPEND is set. -/
def State.postPend (s : State) (slot n : Nat) : State :=
  s.updThread slot fun t => t.csrSet csrIPEND (ipendSum (setBits (t.csrGet csrIPEND) n 1 1))

/-- The slot that MCDEST of block `f` names (R116). -/
def State.mcdest (s : State) (f : Nat) : Nat :=
  let w := s.dev (blockReg f 0x30)
  s.cellOfLogical (bits w 2 14) * 4 + bits w 0 2

/-- Machine check, or advisory, of log `f` (R113). -/
def State.machineCheck (s : State) (f : Nat) : State := s.postPend (s.mcdest f) (12 + f)
def State.advisory (s : State) (f : Nat) : State := s.postPend (s.mcdest f) (22 + f)

/-- Reference time in units of 10 ms: 1,000,000 cycles of the 100 MHz reference clock; the model
counts one reference cycle for 25 of its own (R3, R112). DESIGN CHOICE (log 17). -/
def State.refTime (s : State) : Nat := s.cycle / 25_000_000 % 2 ^ 27

/-- The place of a new entry of source `src` in a log whose next place is `head`: how many of the entries posted in this
cycle stand behind it, since those of one cycle are written in ascending SRC order (R112). -/
def State.logBehind (s : State) (f head src : Nat) : Nat :=
  let fresh := match Sparse.find? f s.logged with | some (c, n) => if c = s.cycle then n else 0 | none => 0
  (((List.range fresh).map (· + 1)).takeWhile fun k =>
    decide (src < bits (s.dev (blockReg f (0x1_0000 + 16 * ((head + 1024 - k) % 1024)) + 8)) 56 4)).length

/-- The last `k` entries of a log move up by one place. -/
def State.logShift (s : State) (f head k : Nat) : State :=
  (List.range k).foldl (fun s j =>
    let a := blockReg f (0x1_0000 + 16 * ((head + 1023 - j) % 1024))
    let b := blockReg f (0x1_0000 + 16 * ((head + 1024 - j) % 1024))
    (s.setDev b (s.dev a)).setDev (b + 8) (s.dev (a + 8))) s

/-- An entry was posted in a free place of a log. -/
def State.notePost (s : State) (f : Nat) : State :=
  let n := match Sparse.find? f s.logged with | some (c, n) => if c = s.cycle then n + 1 else 1 | none => 1
  { s with logged := Sparse.set f (s.cycle, Nat.min n 1023) s.logged }

/-- An entry joins log `f` (R112, R113): `hi` and `lo` are its words without V and TIME. -/
def State.postLog (s : State) (f sev : Nat) (hi lo : Word) : State :=
  let st := s.dev (blockReg f 0x18)
  let head := bits st 0 10
  let full := decide (s.logCount f = 1024)
  let ring := fun (i : Nat) => blockReg f (0x1_0000 + 16 * i)
  let put := fun (s : State) (i : Nat) =>
    (s.setDev (ring i) (setBits lo 0 27 s.refTime)).setDev (ring i + 8) (setBits (setBits hi 63 1 1) 60 3 sev)
  let s1 :=
    if !full then
      let k := s.logBehind f head (bits hi 56 4)
      ((put (s.logShift f head k) ((head + 1024 - k) % 1024)).setDev (blockReg f 0x18) (setBits st 0 10 ((head + 1) % 1024))).notePost f
    else if sev = 0 then s.bumpDev (blockReg f 0x18) 48 16
    else
      match (List.range 1024).find? (fun k => decide (bits (s.dev (ring ((head + k) % 1024) + 8)) 60 3 = 0)) with
      | some k => (put s ((head + k) % 1024)).bumpDev (blockReg f 0x18) 48 16
      | none => (s.bumpDev (blockReg f 0x18) 32 16).machineCheck f
  if sev = 1 ∨ sev = 2 then s1.machineCheck f else if sev = 5 then s1.advisory f else s1

/-- Upper word of a log entry (R112): SRC and ADDR[51:0] at [115:64]. -/
def logHi (src addr : Nat) : Word := setBits (setBits 0 56 4 src) 0 52 addr

/-- Lower word of a DRAM log entry (R112). -/
def logLo (pch bank row col count : Nat) : Word :=
  setBits (setBits (setBits (setBits (setBits 0 58 6 pch) 53 5 bank) 38 15 row) 35 3 col) 27 8 count

/-- Lower word and ADDR bits of a scheduler entry (R458). -/
def schedLo (ctx code kind : Nat) : Word := setBits (setBits (setBits 0 48 16 ctx) 40 8 code) 37 3 kind

/-- A scheduler's SEV 5 entry in the log of frame `f` (R458). -/
def State.postSched (s : State) (f ctx code kind : Nat) (addr : Nat) : State :=
  s.postLog f 5 (logHi 10 addr) (schedLo ctx code kind)

/-- An entry of a router or a cell (R112): router coordinates and endpoint in ADDR. -/
def State.postRouter (s : State) (comb sev src endpoint val : Nat) : State :=
  s.postLog (frameOfComb comb) sev
    (logHi src (comb % 32 * 2 ^ 11 + comb / 32 * 2 ^ 6 + endpoint * 2 + val % 65536 * 2 ^ 16)) 0

/-! ### Mailboxes (R148, R170, R215) -/

/-- Number of mailbox counters each active thread of a cell owns (R170). -/
def mcShare (n : Nat) : Nat := if n ≤ 1 then 64 else if n = 2 then 32 else 16

/-- The owning thread of a counter of a cell, if any (R170). -/
def Cell.mcOwner (c : Cell) (mc : Nat) : Option Nat :=
  if mc / mcShare c.nthr < c.nthr then some (mc / mcShare c.nthr) else none

/-- Mailbox counter `mc` of cell `c`. -/
def State.mcAt (s : State) (c mc : Nat) : Nat := Sparse.getD (s.cell c).mc mc 0

/-- Scopes by width (R145): cell 1, comb 2, frame 3, module 4, system 5. -/
def scopeCode : Scope → Nat
  | .cell => 1 | .comb => 2 | .frame => 3 | .module => 4 | .system => 5
def scopeOfCode (n : Nat) : Scope :=
  if n ≤ 1 then .cell else if n = 2 then .comb else if n = 3 then .frame else if n = 4 then .module else .system

/-- The narrowest scope that holds two cells of this module (R146). -/
def scopeOf (a b : Nat) : Scope :=
  if a = b then .cell else if combOf a = combOf b then .comb
  else if frameOfComb (combOf a) = frameOfComb (combOf b) then .frame else .module

/-- One increment (R148, R215) by a sender that scope `sc` holds together with the cell: a counter at its
maximum stays there and sets MBSTAT.SAT of the owning thread. -/
def State.mcIncrement (s : State) (c mc : Nat) (sc : Scope) : State :=
  let s1 := s.updCellAt c fun x =>
    { x with mcScope := Sparse.set mc (Nat.max (Sparse.getD x.mcScope mc 0) (scopeCode sc)) x.mcScope }
  if s1.mcAt c mc = 2 ^ 32 - 1 then
    match (s1.cell c).mcOwner mc with
    | some t => s1.updThread (c * 4 + t) fun th => th.csrSet csrMBSTAT (setBits (th.csrGet csrMBSTAT) 4 1 1)
    | none => s1
  else s1.updCellAt c fun x => { x with mc := Sparse.set mc (s1.mcAt c mc + 1) x.mc }

/-- A deposit into message register `mb`, in the cycle `now` (R209, R215): it comes after a local write of the
same cycle, which it overwrites. -/
def Thread.takeDeposit (t : Thread) (w : Word) (mb now : Nat) : Thread :=
  let t1 := { t with mb := Sparse.set mb w t.mb }
  if t.mbWrote = some (mb, now) then t1.csrSet csrMBSTAT (setBits (t1.csrGet csrMBSTAT) mb 1 1) else t1

/-- A deposit (R382): the message register, unless NODEP, then the counter. -/
def State.deposit (s : State) (slot : Nat) (w : Word) (mb mc : Nat) (nodep : Bool) (sc : Scope) : State :=
  (if nodep then s else s.updThread slot (·.takeDeposit w mb s.cycle)).mcIncrement (cellOf slot) mc sc

/-! ### Effects of writes -/

/-- Running physical cells of a comb. -/
def State.runningCells (s : State) (comb : Nat) : List Nat :=
  ((List.range 17).map (fun p => comb * 17 + p)).filter s.running

/-- A cell is held in reset: its threads and its state are gone (R67, R450). -/
def State.holdCell (s : State) (c : Nat) : State :=
  { s with
    threads := s.threads.filter fun e => e.1 / 4 ≠ c
    cells := Sparse.erase c s.cells }

/-- SPAREMAP of a comb is written (R67, R453): the cell that SKIP names is held in reset, and every
running cell of the comb receives its logical number. -/
def State.writeSparemap (s : State) (comb : Nat) (v : Word) : State :=
  let s0 := s.setDev (combReg comb 0x9_0000) (v &&& 31)
  let s1 := s0.holdCell (comb * 17 + s0.skip comb)
  let s2 := if s1.boot.stage = 3 then { s1 with boot := { s1.boot with stage := 4 } } else s1
  (s2.runningCells comb).foldl
    (fun s c => s.deposit (c * 4) (BitVec.ofNat 64 (s.logicalOfCell c)) 0 1 false .module) s2

/-! ### Flits at routers (R66, R68, R411) -/

/-- The neighbour of router `a` behind mesh port `port`, and the port by which it comes in there. -/
def meshNext (a port : Nat) : Option Nat :=
  if port = 0 then (if 32 ≤ a then some (a - 32) else none)
  else if port = 1 then (if a % 32 < 31 then some (a + 1) else none)
  else if port = 2 then (if a + 32 < 1024 then some (a + 32) else none)
  else if port = 3 then (if 0 < a % 32 then some (a - 1) else none)
  else none
def opposite (port : Nat) : Nat := (port + 2) % 4

/-- Endpoint codes (R68): 0 to 16 a physical cell. -/
def epSlice : Nat := 17
def epHome : Nat := 18
def epHive : Nat := 19
def epHost : Nat := 20
def epMgmt : Nat := 21

/-- The local port of an endpoint (R66): 4 crossbar, 5 slice, 6 home or I/O die, 7 router management, 8 hive gateway; the
mesh ports are 0 N, 1 E, 2 S and 3 W. -/
def epPort (ep : Nat) : Nat :=
  if ep ≤ 16 then 4 else if ep = epSlice then 5 else if ep = epHive then 8 else if ep ≤ epHost then 6 else 7

/-- A flit joins the flits of a router. DESIGN CHOICE (log 88). -/
def State.addFlit (s : State) (r : Nat) (f : Flit) : State :=
  { s with flits := Sparse.set r (Sparse.getD s.flits r [] ++ [f]) s.flits }

/-- A flit of endpoint `sep` of router `src` for endpoint `ep` of router `dst`; `vc` is its channel at the local port. -/
def Flit.of (src sep vc tc dst ep : Nat) (l : Load) : Flit := ⟨0, src, sep, tc, 0, false, epPort sep, vc, dst, ep, none, none, l⟩

/-- A flit as it leaves its source: with its number and the cycle. -/
def State.stamp (s : State) (f : Flit) : State × Flit :=
  ({ s with nextFlit := s.nextFlit + 1 }, { f with uid := s.nextFlit, since := s.cycle })

/-- A new flit joins the flits of a router. -/
def State.newFlit (s : State) (r : Nat) (f : Flit) : State := (s.stamp f).1.addFlit r (s.stamp f).2

/-- A router sends its copies of the waggle packet to every mesh port but the one it came by (R83, R411): with its own
coordinates. -/
def State.waggleCopies (s : State) (r flood xy hops : Nat) (inp : Option Nat) : State :=
  (List.range 4).foldl (fun s p =>
    match meshNext r p with
    | some n =>
      if inp = some p then s
      else s.newFlit r { Flit.of r epMgmt epMgmt 7 n epMgmt (.mgmt (.waggle flood xy hops (opposite p))) with out := some p }
    | none => s) s

/-- WGCTL is written (R451): the flood starts at router (0, 0); WGSTAT and WGTAB are cleared. -/
def State.writeWgctl (s : State) (v : Word) : State :=
  ({ s with
    regs := s.regs.filter (fun e => decide (¬ (e.1 = combReg 0 0xE_0008 ∨ (combReg 0 0xE_1000 ≤ e.1 ∧ e.1 < combReg 0 0xE_3000))))
    boot := { s.boot with
      flood := bits v 0 8
      floodFrom := some s.cycle
      replies := []
      replied := []
      reached := [(0, (0, 0))]
      stage := if s.boot.stage = 2 then 3 else s.boot.stage } } : State).waggleCopies 0 (bits v 0 8) 0 0 none

/-- HVSTAT of a port is written (R410): a port that is enabled begins to train, and one that is not is down.
DEDUCED (log 91). -/
def State.writeHvstat (s : State) (old off : Nat) : State :=
  let w := s.dev off
  if w.getLsbD 63 then (if old = 0 then s.setDev off (setBits w 0 4 1) else s)
  else s.setDev off (setBits (setBits w 4 4 0) 0 4 0)

/-- BBCTL is written (R452): the boot broadcast starts. -/
def State.writeBbctl (s : State) (v : Word) : State :=
  { s with boot := { s.boot with
      bcast := some (bits v 0 8 + 1, bits v 34 6, bits v 16 18, bits (s.dev (combReg 0 0xE_0010)) 7 45 * 128)
      stage := if s.boot.stage = 4 then 5 else s.boot.stage } }

/-- SWINT of a comb is written (R408, R244). -/
def State.writeSwint (s : State) (comb : Nat) (v : Word) : State :=
  if bits v 6 2 ≠ 0 then s
  else
    let slot := (comb * 17 + s.physOfLogical comb (bits v 2 4)) * 4 + bits v 0 2
    s.updThread slot fun t =>
      let was := bits (t.csrGet csrIPEND) 3 1
      let ov := if was = 1 then 1 else bits (t.csrGet csrISWVAL) 63 1
      (t.csrSet csrISWVAL (setBits (setBits 0 0 56 (bits v 8 56)) 63 1 ov)).csrSet csrIPEND
        (setBits (t.csrGet csrIPEND) 3 1 1)

/-- HINTR is written (R408). -/
def State.writeHintr (s : State) (v : Word) : State :=
  if v.toNat < 2048 then { s with msix := s.msix ++ [v.toNat] } else s

/-- The start has succeeded (R412, R413). -/
def State.bootOk (s : State) : State :=
  { s with boot := { s.boot with attempts := 0, stage := 7, minimal := false, wdogFrom := none } }

/-- BOOTCTL.OK is written (R412). In minimal mode it does nothing, since only a cold power cycle after a flash update ends that
mode (R413). DEDUCED (log 100). -/
def State.writeBootOk (s : State) : State := if s.boot.minimal then s else s.bootOk

/-- A ready task takes its place in a queue by release cycle, then counter (R189). -/
def insertReady (r : Ready) : List Ready → List Ready
  | [] => [r]
  | h :: t => if r.rel < h.rel ∨ (r.rel = h.rel ∧ r.ctr < h.ctr) then r :: h :: t else h :: insertReady r t

/-- Ready queue of priority `p` of a frame's task unit, and its replacement. -/
def State.readyQ (s : State) (f p : Nat) : List Ready := Sparse.getD s.ready (f * 8 + p) []
def State.setReadyQ (s : State) (f p : Nat) (q : List Ready) : State := { s with ready := Sparse.set (f * 8 + p) q s.ready }

/-- Places of a ready queue (R189), and the wait that ages a task (R191). -/
def readyCap : Nat := 4096
def ageWait : Nat := 65536

/-- Tasks of a frame released, unqueued in their counters at a priority. -/
def State.heldTasks (s : State) (f p : Nat) : List Ready :=
  s.ctrs.flatMap fun e => if e.1 / 65536 = f then e.2.held.filter fun r => decide (r.prio = p) else []

/-- Overdue tasks of priority `p` move up while there is room (R191); a place that frees goes first to a
task of that priority released, unqueued before them (R189). -/
def State.ageQueue (s : State) (f p : Nat) : State :=
  (s.readyQ f p).foldl (fun s r =>
    if r.since + ageWait ≤ s.cycle ∧ (s.readyQ f (p + 1)).length < readyCap ∧
        (s.heldTasks f (p + 1)).all (fun h => decide (r.rel < h.rel ∨ (r.rel = h.rel ∧ r.ctr < h.ctr))) then
      (s.setReadyQ f p ((s.readyQ f p).erase r)).setReadyQ f (p + 1)
        (insertReady { r with prio := p + 1, since := s.cycle } (s.readyQ f (p + 1)))
    else s) s

/-- Aging of a frame's tasks, each by one priority (R191). -/
def State.ageTasks (s : State) (f : Nat) : State :=
  if bits (s.dev (combReg (frameComb f) 0xB_0000)) 0 1 = 1 then [6, 5, 4, 3, 2, 1, 0].foldl (fun s p => s.ageQueue f p) s else s

/-- A write of bits `x` (those in `en`) to the window register at `off` in mode `m`. -/
def State.devWrite (s : State) (m : Mode) (off : Nat) (x en : Word) : State :=
  let c := off / 0x10_0000
  let o := off % 0x10_0000
  let w := x &&& en
  if off < 0x4000_0000 ∧ m = .machine ∧ o = 0x9_0000 then s.writeSparemap c (writeFields (devFields off) m x en (s.dev off))
  else if off < 0x4000_0000 ∧ o = 0xD_0000 then s.writeSwint c w
  else if off = combReg 0 0xE_0000 ∧ m = .machine then s.writeWgctl w
  else if off = combReg 0 0xE_0018 ∧ m = .machine then s.writeBbctl w
  else if off = blockReg 8 0x2_0008 then s.writeHintr w
  else
    let s1 := if (devFields off).isEmpty then s else s.setDev off (writeFields (devFields off) m x en (s.dev off))
    if off = propolisReg 8 ∧ m = .machine ∧ w.getLsbD 32 then s1.writeBootOk
    else if off < 0x4000_0000 ∧ o = 0xB_0000 ∧ c = frameComb (frameOfComb c) then s1.ageTasks (frameOfComb c)
    else if blockReg 8 0x2_1000 ≤ off ∧ off < blockReg 8 0x2_1060 ∧ m = .machine then s1.writeHvstat (bits (s.dev off) 63 1) off
    else s1

end Sys2Proof.Machine
end

