-- ==== Sys2Proof/Machine/Memory.lean ====
section
/-! DEFINITION. The memory side: bytes of memory and their poison, the memory-side caches, row counters and
the remap table of a stack base die and of the second tier (R97 to R112, R120), comb slices (R84, R88), and
the packets that leave slices and homes (R68, R72, R85). Block 0 to 7 is a stack base die, block 8 the I/O
die. -/

namespace Sys2Proof.Machine

/-- Nothing listed reads as zero in a pool and behind the host aperture. DESIGN CHOICE (log 3). -/
def zeroByte (_ : Nat) : Byte := 0

/-! ### Bytes of memory -/

/-- One byte of physical memory: the value that was performed last. -/
def State.memByte (s : State) (pa : Nat) : Byte := Bytes.get romByte s.mem pa

/-- `n` bytes of physical memory, little-endian. -/
def State.memRead (s : State) (pa n : Nat) : Nat := Bytes.read romByte s.mem pa n

/-- The data of a line. -/
def State.lineData (s : State) (line : Nat) : BitVec 1024 := BitVec.ofNat 1024 (s.memRead (line * 128) 128)

/-- Byte `i` of a line image. -/
def byteOf (data : BitVec 1024) (i : Nat) : Byte := data.extractLsb' (8 * i) 8

/-- The bytes of `data` whose bit of `mask` is set replace those of a line. -/
def State.putLine (s : State) (line : Nat) (data : BitVec 1024) (mask : BitVec 128) : State :=
  let put := fun (m : Bytes) (i : Nat) => if mask.getLsbD i then Bytes.set romByte (line * 128 + i) (byteOf data i) m else m
  { s with mem := (List.range 128).foldl put s.mem }

/-- `n` bytes from `i` of a byte mask. -/
def byteMask (i n : Nat) : BitVec 128 := BitVec.ofNat 128 ((2 ^ n - 1) * 2 ^ i)

/-- `n` bytes of `v` are put at byte `i` of a line image. -/
def putBytes (data : BitVec 1024) (i n v : Nat) : BitVec 1024 :=
  let m : BitVec 1024 := BitVec.ofNat 1024 ((2 ^ (8 * n) - 1) * 2 ^ (8 * i))
  (data &&& ~~~m) ||| BitVec.ofNat 1024 (v % 2 ^ (8 * n) * 2 ^ (8 * i))

/-- The mask of a whole line. -/
def wholeLine : BitVec 128 := BitVec.allOnes 128

/-! ### Places (R13, R98) -/

/-- This module's node number (R410). -/
def State.node (s : State) : Nat := bits (s.dev (blockReg 8 0x2_0010)) 0 3

/-- The memory block of a line: stack base die 0 to 7, or 8 for the second tier, and the offset in it. -/
def blockOf (line : Nat) : Nat × Nat :=
  let o := line * 128 % 2 ^ 48
  if o < 0x80_0000_0000 then (o / 2 ^ 36, o % 2 ^ 36) else (8, o - 0x100_0000_0000)

/-- Pseudo-channel, bank, row and column of an offset in a stack (R98). DESIGN CHOICE (log 110): the second
tier uses the same map, with the row modulo 32,768. -/
def pchOf (o : Nat) : Nat := o / 128 % 64
def bankOf (o : Nat) : Nat := o / 65536 % 32
def rowOf (o : Nat) : Nat := o / 2 ^ 21 % 32768
def colOf (o : Nat) : Nat := o / 8192 % 8

/-- The memory block of a number. -/
def State.block (s : State) (f : Nat) : Block := Sparse.getD s.blocks f .initial

/-- A change of a block. -/
def State.updBlock (s : State) (f : Nat) (g : Block → Block) : State :=
  { s with blocks := Sparse.set f (g (s.block f)) s.blocks }

/-- First physical address of a block in this module, and the lines of a pass (R13, R117, R120). -/
def State.blockPa (s : State) (f : Nat) : Nat := s.node * 2 ^ 48 + if f < 8 then f * 2 ^ 36 else 0x100_0000_0000
def blockLines (f : Nat) : Nat := if f < 8 then 2 ^ 29 else 2 ^ 33

/-- Physical address of the first line of a row (R98). -/
def State.rowPa (s : State) (f pch bank row : Nat) : Nat := s.blockPa f + pch * 128 + bank * 65536 + row * 2 ^ 21

/-! ### Log entries (R112) -/

/-- SRC of an entry of a block (R112, R120). -/
def srcOf (f src : Nat) : Nat := if f = 8 then 8 else src

/-- The present count of a row (R109). -/
def Block.countOf (b : Block) (pch bank row : Nat) : Nat :=
  ((b.rows.find? fun r => decide (r.pch = pch ∧ r.bank = bank ∧ r.row = row)).map (·.count)).getD 0

/-- An entry of the log of a line's block, with its place, and with the count of its row for SRC 0 and 4 (R112).
DESIGN CHOICE (log 110): entries of SRC 1, 2 and 8 carry their place too. -/
def State.logLine (s : State) (line sev src : Nat) : State :=
  let f := (blockOf line).1
  let o := (blockOf line).2
  let n := if srcOf f src = 0 ∨ srcOf f src = 4 then (s.block f).countOf (pchOf o) (bankOf o) (rowOf o) else 0
  s.postLog f sev (logHi (srcOf f src) (line * 128)) (logLo (pchOf o) (bankOf o) (rowOf o) (colOf o) n)

/-- A log entry of a row (R112). DESIGN CHOICE (log 110): ADDR is that of the row's first line, and COL is 0. -/
def State.logRow (s : State) (f sev src pch bank row : Nat) : State :=
  s.postLog f sev (logHi (srcOf f src) (s.rowPa f pch bank row)) (logLo pch bank row 0 0)

/-! ### Row counters (R109) -/

/-- The entry that gives way in a full table: the lowest count, the oldest on a tie. -/
def lowestRow (l : List RowCtr) : Option RowCtr :=
  l.foldl (fun m r => match m with
    | none => some r
    | some x => if r.count < x.count ∨ (r.count = x.count ∧ r.born < x.born) then some r else some x) none

/-- Entries of a row counter table. -/
def rowCap : Nat := 16384

/-- A row's count rises by one; a row without an entry takes one. The second part is the new count. -/
def countRow (now pch bank row : Nat) (l : List RowCtr) : List RowCtr × Nat :=
  let same := fun (r : RowCtr) => decide (r.pch = pch ∧ r.bank = bank ∧ r.row = row)
  match l.find? same with
  | some r =>
    let n := Nat.min (r.count + 1) 255
    (l.map fun x => if same x then { x with count := n } else x, n)
  | none =>
    let l1 := if l.length < rowCap then l else match lowestRow l with | some x => l.erase x | none => l
    (l1 ++ [⟨pch, bank, row, 1, now⟩], 1)

/-- A remap of a row starts to wait, unless it waits already; a ninth is dropped (R110, step 1).
DESIGN CHOICE (log 110): a dropped one is not counted in REMAPSTAT.NOSPARE. -/
def State.startRemap (s : State) (f pch bank row : Nat) : State :=
  let b := s.block f
  if b.remapWait.elem (pch, bank, row) then s
  else if 8 ≤ b.remapWait.length then s.logRow f 4 3 pch bank row
  else s.updBlock f fun b => { b with remapWait := b.remapWait ++ [(pch, bank, row)] }

/-- A corrected error in a row: its count, the log entry, and a remap at ROWTHR (R109, R112, R114). -/
def State.correctedRow (s : State) (line src : Nat) : State :=
  let f := (blockOf line).1
  let o := (blockOf line).2
  let c := countRow s.cycle (pchOf o) (bankOf o) (rowOf o) (s.block f).rows
  let s1 := (s.updBlock f fun b => { b with rows := c.1 }).logLine line 0 src
  let thr := bits (s.dev (blockReg f 0x10)) 32 8
  if thr ≠ 0 ∧ thr ≤ c.2 then s1.startRemap f (pchOf o) (bankOf o) (rowOf o) else s1

/-! ### The remap table and fences (R110, R111) -/

/-- Entries of a bank, and the row or spare that holds a row now. -/
def Block.bankRemaps (b : Block) (pch bank : Nat) : List Remap := b.remap.filter fun r => decide (r.pch = pch ∧ r.bank = bank)
def Block.rowNow (b : Block) (pch bank row : Nat) : Nat :=
  (b.bankRemaps pch bank).foldl (fun r e => if e.row = r then 32768 + e.spare else r) row

/-- Both copies of a remap entry are uncorrectable: its pseudo-channel is fenced (R111). DESIGN CHOICE (log 96): the entry
names the pseudo-channel and its first address, with BANK, ROW and COL zero. -/
def State.fencePch (s : State) (f pch : Nat) : State :=
  (s.updBlock f fun b => { b with fenced := NatSet.add pch b.fenced }).postLog f 2
    (logHi (srcOf f 3) (s.blockPa f + pch * 128)) (logLo pch 0 0 0 0)

/-- Entries that a look-up of a row meets: that of the row, and that of each spare it leads to. -/
def Block.chain (b : Block) (pch bank row : Nat) : List Remap :=
  ((b.bankRemaps pch bank).foldl (fun (a : Nat × List Remap) e => if e.row = a.1 then (32768 + e.spare, a.2 ++ [e]) else a) (row, [])).2

/-- An entry whose first copy is uncorrectable (R111): the second copy rewrites it, or the pseudo-channel is fenced. -/
def State.badRemap (f : Nat) (s : State) (r : Remap) : State :=
  if !r.bad1 then s
  else if r.bad2 then if NatSet.has (s.block f).fenced r.pch then s else s.fencePch f r.pch
  else
    ((s.updBlock f fun b => { b with remap := b.remap.replace r { r with bad1 := false } }).bumpDev (blockReg f 0x20) 8 8).logRow
      f 0 3 r.pch r.bank r.row

/-- The controller looks a row up in both copies of the remap table (R111). -/
def State.rowLookup (s : State) (line : Nat) : State :=
  let f := (blockOf line).1
  let o := (blockOf line).2
  ((s.block f).chain (pchOf o) (bankOf o) (rowOf o)).foldl (State.badRemap f) s

/-- The line lies in a fenced pseudo-channel (R111). DEDUCED (log 96). -/
def State.fencedLine (s : State) (line : Nat) : Bool :=
  NatSet.has (s.block (blockOf line).1).fenced (pchOf (blockOf line).2)

/-! ### DRAM and the memory-side cache (R99 to R102, R107) -/

/-- A DRAM read of a line finds its error (R107): an uncorrectable one poisons the line and is logged, unless the line is
poisoned already; a correctable one is corrected and counted. -/
def State.dramFind (s : State) (line src : Nat) : State :=
  if s.blocks.isEmpty then s
  else
    let s0 := s.rowLookup line
    let f := (blockOf line).1
    let drop := fun (s : State) => s.updBlock f fun b => { b with errs := Sparse.erase line b.errs }
    if s0.fencedLine line then s0
    else match Sparse.find? line (s0.block f).errs with
    | some true =>
      if NatSet.has s0.mpoison line then drop s0
      else ({ drop s0 with mpoison := NatSet.add line s0.mpoison } : State).logLine line 1 src
    | some false => (drop s0).correctedRow line src
    | none => s0

/-- DRAM takes the data of a line; a fenced pseudo-channel drops it, and an uncorrected entry with the source of DRAM logs
that (R101, R111). DESIGN CHOICE (log 96). -/
def State.dramWrite (s : State) (line : Nat) (d : BitVec 1024) : State :=
  let s0 := if s.blocks.isEmpty then s else s.rowLookup line
  if s0.fencedLine line then s0.logLine line 1 0
  else
    let s1 : State := { s0 with dram := Bytes.splice romByte (line * 128) 128 (byteOf d) s0.dram }
    if s1.blocks.isEmpty then s1
    else s1.updBlock (blockOf line).1 fun b => { b with errs := Sparse.erase line b.errs }

/-- Sets of the memory-side cache of a stack (R101): 16 ways of 65,536 sets, 4,096 of them at each home port. -/
def mscKey (line : Nat) : Nat := (blockOf line).1 * 65536 + line % 65536
def State.mscSet (s : State) (line : Nat) : List MscLine := Sparse.getD s.msc (mscKey line) []
def State.setMsc (s : State) (line : Nat) (l : List MscLine) : State :=
  { s with msc := if l.isEmpty then Sparse.erase (mscKey line) s.msc else Sparse.set (mscKey line) l s.msc }

/-- The line in the cache. -/
def State.mscFind (s : State) (line : Nat) : Option MscLine := (s.mscSet line).find? fun m => m.line = line

/-- A line is marked poisoned in the cache, which logs it (R102). -/
def State.mscPoison (s : State) (line : Nat) : State :=
  ({ s with mpoison := NatSet.add line s.mpoison } : State).logLine line 1 1

/-- A line leaves the cache; DRAM takes what it does not hold (R101). An uncorrectable error in that poisons the line
(R102). -/
def State.mscEvict (s : State) (line : Nat) : State :=
  match s.mscFind line with
  | some m =>
    let s1 := s.setMsc line ((s.mscSet line).filter fun x => x.line ≠ line)
    match m.dirty with
    | some d => (if m.err = some true then s1.mscPoison line else s1).dramWrite line d
    | none => s1
  | none => s

/-- A line is put into the cache, in its place or as the youngest of its set; the oldest line of a full set
gives way (R101). DESIGN CHOICE (log 111). -/
def State.mscPut (s : State) (m : MscLine) : State :=
  if (s.mscFind m.line).isSome then
    s.setMsc m.line ((s.mscSet m.line).map fun x => if x.line = m.line then m else x)
  else
    let s1 := if (s.mscSet m.line).length < 16 then s
      else match s.mscSet m.line with | x :: _ => s.mscEvict x.line | [] => s
    s1.setMsc m.line (s1.mscSet m.line ++ [m])

/-- The home's controller reads a line that the cache does not hold, and the cache takes it. -/
def State.mscFill (s : State) (line : Nat) : State := (s.dramFind line 0).mscPut ⟨line, none, none⟩

/-- An error in a line of the cache is found (R102): a correctable one is corrected; a clean line is discarded
and read again; a dirty line is poisoned and stays dirty. -/
def State.mscCheck (s : State) (m : MscLine) : State :=
  match m.err with
  | some true =>
    if m.dirty.isSome then
      (s.mscPut { m with err := none }).mscPoison m.line
    else ((s.setMsc m.line ((s.mscSet m.line).filter fun x => x.line ≠ m.line)).logLine m.line 0 1).mscFill m.line
  | some false => s.mscPut { m with err := none }
  | none => s

/-- A home read of a line (R102): from the cache, which takes a line that it does not hold; the second tier has
no such cache (R120). -/
def State.homeTouch (s : State) (line : Nat) : State :=
  if 8 ≤ (blockOf line).1 then s.dramFind line 0
  else match s.mscFind line with
    | some m => s.mscCheck m
    | none => s.mscFill line

/-- Whether a line is poisoned at its home (R99), or reads as poisoned (R111). -/
def State.linePoisoned (s : State) (line : Nat) : Bool := NatSet.has s.mpoison line || s.fencedLine line

/-- A home read with its errors (R101, R102, R107): a line already poisoned counts in POISONRD. The first part says
that the line is poisoned. -/
def State.homePoison (s : State) (line : Nat) : Bool × State :=
  if s.linePoisoned line then (true, (s.bumpDev (blockReg (blockOf line).1 0x18) 16 16).homeTouch line)
  else
    let s1 := s.homeTouch line
    (s1.linePoisoned line, s1)

/-- The home has the latest data of a line (R101, R120): dirty in the cache, or in the second tier itself. -/
def State.homeDirty (s : State) (line : Nat) : State :=
  if 8 ≤ (blockOf line).1 then s.dramWrite line (s.lineData line) else s.mscPut ⟨line, some (s.lineData line), none⟩

/-- A write at the home (R100, R101): a full clean write clears the line's poison, and a write that carries
poison sets it. A write into a fenced pseudo-channel is dropped, and an uncorrected entry with the source of DRAM logs
that (R111). DESIGN CHOICE (logs 28 and 96). -/
def State.homeStore (s : State) (line : Nat) (data : BitVec 1024) (mask : BitVec 128) (pois : Bool) : State :=
  if s.fencedLine line then s.logLine line 1 0
  else
    let s1 := (if mask = wholeLine then s else s.homeTouch line).putLine line data mask
    ({ s1 with mpoison :=
        if pois then NatSet.add line s1.mpoison
        else if mask = wholeLine then NatSet.del line s1.mpoison else s1.mpoison } : State).homeDirty line

/-- A slice's data comes back to the home (R90, R94): all bytes of the line are written. -/
def State.homeTake (s : State) (line : Nat) (pois : Bool) : State := s.homeStore line (s.lineData line) wholeLine pois

/-! ### Comb slices (R84, R88) -/

/-- The line of a comb slice. -/
def sliceKey (comb line : Nat) : Nat := line * 8192 + comb
def State.slice (s : State) (comb line : Nat) : SliceLine := Sparse.getD s.slices (sliceKey comb line) .invalid

/-- A line of a slice changes; a line in I is not listed. -/
def State.setSlice (s : State) (comb line : Nat) (l : SliceLine) : State :=
  { s with slices := if l.st = .i then Sparse.erase (sliceKey comb line) s.slices else Sparse.set (sliceKey comb line) l s.slices }

/-- A state in which a slice's copy is the latest (R86, R89). -/
def Moesi.holds : Moesi → Bool
  | .e | .o | .m | .omA | .miA | .oiA => true
  | _ => false

/-- The slice that holds the latest data of a line, if it is not the home (R86). -/
def State.holder (s : State) (line : Nat) : Option (Nat × SliceLine) :=
  ((s.slices.filter fun e => decide (e.1 / 8192 = line) && e.2.st.holds).head?).map fun e => (e.1 % 8192, e.2)

/-- A coherent read of a line at its home or at the slice that owns it (R124): whether it is poisoned. -/
def State.coherent (s : State) (line : Nat) : Bool × State :=
  match s.holder line with
  | some h => (h.2.pois, s)
  | none => s.homePoison line

/-- A write by the module's own units, performed in one step where the latest data of the line is.
DESIGN CHOICE (log 112). -/
def State.coherentStore (s : State) (line : Nat) (data : BitVec 1024) (mask : BitVec 128) (pois : Bool) : State :=
  match s.holder line with
  | some h =>
    (s.putLine line data mask).setSlice h.1 line
      { h.2 with
        st := if h.2.st = .e then .m else h.2.st
        pois := pois || (h.2.pois && decide (mask ≠ wholeLine)) }
  | none => s.homeStore line data mask pois

/-- Lines that `n` bytes from `pa` touch, with the first byte and the number of bytes in each. -/
def linePieces (pa n : Nat) : List (Nat × Nat × Nat) :=
  (List.range ((pa + n - 1) / 128 - pa / 128 + 1)).map fun j =>
    let lo := Nat.max pa ((pa / 128 + j) * 128)
    (pa / 128 + j, lo % 128, Nat.min (pa + n) ((pa / 128 + j + 1) * 128) - lo)

/-- `n` bytes of `v` are written by a unit of the module, with their poison. -/
def State.memPut (s : State) (pa n v : Nat) (pois : Bool) : State :=
  if n = 0 then s
  else (linePieces pa n).foldl (fun s p =>
    s.coherentStore p.1 (putBytes 0 p.2.1 p.2.2 (v / 2 ^ (8 * (p.1 * 128 + p.2.1 - pa)))) (byteMask p.2.1 p.2.2) pois) s

/-- The same without poison. -/
def State.memWrite (s : State) (pa n v : Nat) : State := s.memPut pa n v false

/-- Operations that travel to the home of their line (R85). -/
def CohOp.toHome : CohOp → Bool
  | .fwds | .fwdm | .inv | .rcl | .datas | .datae | .datam | .datamg | .go | .wback | .ncrsp => false
  | _ => true

/-- Requests of cells and walkers, not of slices (R85). -/
def CohOp.isNc : CohOp → Bool
  | .ncrd | .ncwr | .faop => true
  | _ => false

/-- Message class of a packet: 0 REQ, 1 FWD, 2 RSP, 3 WB (R72, R85), and its traffic class. -/
def CohOp.cls : CohOp → Nat
  | .gets | .getm | .upg | .ncrd | .ncwr | .faop => 0
  | .fwds | .fwdm | .inv | .rcl => 1
  | .wbd => 3
  | _ => 2
def CohOp.tc (o : CohOp) : Nat := if o.cls = 1 then 4 else if o.cls = 2 then 6 else 5

/-- Message class of a flit (R72): 4 STR, 5 MSG, 6 MGT. -/
def Load.cls : Load → Nat
  | .coh p => p.op.cls
  | .route _ | .cast _ => 4
  | .msg _ | .arrive _ _ _ _ | .complete _ _ _ => 5
  | .mgmt _ => 6
  | .junk => 7

/-- The router of a line's home port (R66, R402), as comb index. -/
def homeComb (line : Nat) : Nat :=
  let b := (blockOf line).1
  let k := line % 16
  if b < 8 then 32 * (8 * (b / 2) + 4) + 16 * (b % 2) + k
  else 32 * (4 * (k / 2) + 1) + (if k % 2 = 0 then 15 else 16)

/-- The router that a packet travels to in this module. -/
def Pkt.dst (p : Pkt) : Nat := if p.op.toHome then homeComb p.line else p.comb

/-! ### Other modules (R95, R402, R410) -/

/-- The module of a line's home (R13). -/
def homeNode (line : Nat) : Nat := line / 2 ^ 41 % 8

/-- The number of comb `c` of module `m`, of all its combs but that of the owner `o` (a pointer plus one, or 0), and the
module of such a number. -/
def farComb (m c : Nat) : Nat := 1024 * (m + 1) + c % 1024
def wideComb (m o : Nat) : Nat := 16384 + m + 8 * o
def nodeOf (id : Nat) : Nat := if 16384 ≤ id then id % 8 else id / 1024 - 1

/-- HVSTAT of a port, and the router of its gateway (R402). -/
def hvstat (p : Nat) : Nat := blockReg 8 (0x2_1000 + 8 * p)
def gatewayComb (p : Nat) : Nat := 32 * [2, 7, 12, 19, 24, 29].getD (p % 6) 0 + if p < 6 then 0 else 31

/-- A port is up to a module (R410), and the modules that ports are up to. -/
def State.portTo (s : State) (node p : Nat) : Bool := decide (bits (s.dev (hvstat p)) 0 4 = 2 ∧ bits (s.dev (hvstat p)) 53 3 = node)
def State.peers (s : State) : List Nat :=
  (List.range 8).filter fun m => decide (m ≠ s.node) && (List.range 12).any (s.portTo m)

/-- The gateway port of a line's packets to and from a module (R95): by both node numbers and PA[10:7], among the ports
that are up to it. DESIGN CHOICE (log 133). -/
def State.hivePort (s : State) (node line : Nat) : Nat :=
  let k := s.node + node + line % 16
  let up := (List.range 12).filter (s.portTo node)
  up.getD (k % up.length) (k % 12)

/-- The module that a packet leaves for, none inside this one. -/
def State.leavesFor (s : State) (p : Pkt) : Option Nat :=
  if p.op.toHome then (if homeNode p.line = s.node then none else some (homeNode p.line))
  else if p.comb < 1024 then none else some (nodeOf p.comb)

/-- A flit for endpoint `ep` of router `dst` enters at router `r` from its endpoint `src`. -/
def State.inject (s : State) (r src dst ep tc : Nat) (l : Load) : State := s.newFlit r (Flit.of r src src tc dst ep l)

/-- Flits anywhere on their way. -/
def State.allFlits (s : State) : List Flit := s.flits.flatMap (·.2) ++ s.castBuf.flatMap (·.2)

/-- Packets and messages anywhere on their way. -/
def State.packets (s : State) : List Pkt :=
  s.net ++ s.allFlits.filterMap fun f => match f.load with | .coh p => some p | _ => none
def State.messages (s : State) : List Deposit :=
  s.msgs ++ s.allFlits.filterMap fun f => match f.load with | .msg d => some d | _ => none

/-- Packets under way, at homes, and those that other modules have not answered. -/
def State.openPkts (s : State) : List Pkt := s.packets ++ (s.hiveReqs ++ s.homes.flatMap fun h => h.2.pkt :: h.2.waiting)

/-- Scope `c` waits for what concerns a line: `.module` and narrower scopes never wait on a hive link (R95). -/
def State.inReach (s : State) (c : Scope) (line : Nat) : Bool := decide (c = .system ∨ homeNode line = s.node)

/-- Requests of an issuer under way or at a home, and what is returned for them, as far as a scope waits for them. -/
def State.requestsIn (s : State) (c : Scope) (w : Issuer) : List (CohOp × NcOp) :=
  s.openPkts.filterMap fun p =>
    match p.nc with | some o => if o.who = w ∧ s.inReach c p.line = true then some (p.op, o) else none | none => none

/-- All of them. -/
def State.requests (s : State) (w : Issuer) : List (CohOp × NcOp) := s.requestsIn .system w

/-- The endpoint of an issuer (R68). -/
def Issuer.endpoint : Issuer → Nat
  | .scalar t | .queue t | .stream t _ => physOf (cellOf t)
  | .buffer c => physOf c
  | .walker _ => epSlice
  | .sched _ _ => epMgmt
  | .peer _ => epHive
  | .host => epHost

/-- The endpoint on the requester's side of a packet: an issuer's, or the slice. -/
def Pkt.requester (p : Pkt) : Nat := match p.nc with | some o => o.who.endpoint | none => epSlice

/-- A packet leaves its router: from a slice, a cell, a walker, a home or a gateway; one for another module goes to the
gateway of its port (R95). Channel 0 takes all packets of an endpoint in an adaptive class. -/
def State.sendPkt (s : State) (p : Pkt) : State :=
  let sep := if p.op.toHome then p.requester else if homeNode p.line = s.node then epHome else epHive
  match s.leavesFor p with
  | some m => s.inject p.src sep (gatewayComb (s.hivePort m p.line)) epHive p.op.tc (.coh p)
  | none => s.inject p.src sep p.dst (if p.op.toHome then epHome else p.requester) p.op.tc (.coh p)

/-- A packet without operands leaves router `src`. -/
def State.sendFrom (s : State) (src : Nat) (op : CohOp) (line comb req : Nat) (pois : Bool) : State :=
  s.sendPkt ⟨op, line, comb, src, req, pois, none⟩

/-- A packet without operands leaves the slice for the home, or the home for the slice. -/
def State.sendCoh (s : State) (op : CohOp) (line comb req : Nat) (pois : Bool) : State :=
  s.sendFrom (if op.toHome then comb else homeComb line) op line comb req pois

/-- A request of comb `comb` leaves for the home of a line. -/
def State.sendNc (s : State) (comb : Nat) (op : CohOp) (line : Nat) (pois : Bool) (o : NcOp) : State :=
  ({ s with nextTag := s.nextTag + 1 } : State).sendPkt ⟨op, line, comb, comb, comb, pois, some { o with tag := s.nextTag }⟩

/-- A request without operands. -/
def NcOp.new (w : Issuer) : NcOp := ⟨w, 0, 0, 0, false, 0, 0, 0, 0, 0, false, 0, 0, 0, 0⟩

/-- Eviction of a line in a stable state (R88): silent from S and E, with a write-back from O and M. -/
def State.evictSlice (s : State) (comb line : Nat) : State :=
  let l := s.slice comb line
  match l.st with
  | .s | .e => s.setSlice comb line .invalid
  | .o => (s.setSlice comb line { l with st := .oiA }).sendCoh .wbd line comb comb l.pois
  | .m => (s.setSlice comb line { l with st := .miA }).sendCoh .wbd line comb comb l.pois
  | _ => s

/-- A stable state, and a state with a request outstanding (R88, R89). -/
def Moesi.stable : Moesi → Bool
  | .i | .s | .e | .o | .m => true
  | _ => false
def Moesi.asks : Moesi → Bool
  | .isD | .imD | .smA | .omA => true
  | _ => false

/-- Lines of a comb slice in the set of `line` (R84): 2,048 sets of 12 ways. -/
def State.sliceSet (s : State) (comb line : Nat) : List (Nat × SliceLine) :=
  s.slices.filter fun e => decide (e.1 % 8192 = comb ∧ e.1 / 8192 % 2048 = line % 2048)

/-- A way for a new line: the state, after the eviction of the first stable line of a full set, and
whether the way is free (R84). DESIGN CHOICE (log 21). -/
def State.sliceRoom (s : State) (comb line : Nat) : State × Bool :=
  let set := s.sliceSet comb line
  if set.length < 12 then (s, true)
  else
    match (set.filter fun e => e.2.st.stable).head? with
    | some e => (s.evictSlice comb (e.1 / 8192), decide (e.2.st = .s ∨ e.2.st = .e))
    | none => (s, false)

/-- The slice may send another request: it holds up to 128 outstanding (R84). -/
def State.mayAsk (s : State) (comb : Nat) : Bool :=
  decide ((s.slices.filter fun e => decide (e.1 % 8192 = comb) && e.2.st.asks).length < 128)

/-- A slice asks the home for a line that it does not hold, once a way is free. -/
def State.allocLine (s : State) (comb line : Nat) (op : CohOp) (st : Moesi) : State :=
  if !s.mayAsk comb then s
  else
    let r := s.sliceRoom comb line
    if r.2 then (r.1.setSlice comb line { SliceLine.invalid with st := st }).sendCoh op line comb comb false else r.1

/-- A local read of a slice (R88). DESIGN CHOICE (log 20). -/
def State.localRead (s : State) (comb line : Nat) : State :=
  match (s.slice comb line).st with
  | .i => s.allocLine comb line .gets .isD
  | _ => s

/-- A local write or near atomic of a slice (R88). -/
def State.localWrite (s : State) (comb line : Nat) : State :=
  let l := s.slice comb line
  let upgrade := fun (st : Moesi) =>
    if s.mayAsk comb then (s.setSlice comb line { l with st := st }).sendCoh .upg line comb comb false else s
  match l.st with
  | .i => s.allocLine comb line .getm .imD
  | .s => upgrade .smA
  | .o => upgrade .omA
  | .e => s.setSlice comb line { l with st := .m }
  | _ => s

/-- A write that the slice has accepted for the line waits there. -/
def State.writeWaits (s : State) (comb line : Nat) : Bool := s.accepted.any fun a => decide (a.comb = comb ∧ a.line = line)

/-- The slice can serve a local read of the line now (R88, R89): it holds it in a stable state, and no write
waits for it. -/
def State.sliceHas (s : State) (comb line : Nat) : Bool :=
  (match (s.slice comb line).st with | .s | .e | .o | .m => true | _ => false) && !s.writeWaits comb line

/-- The slice can perform a local write or near atomic of the line now. -/
def State.sliceOwns (s : State) (comb line : Nat) : Bool :=
  (match (s.slice comb line).st with | .e | .m => true | _ => false) && !s.writeWaits comb line

/-- Bytes are written in a slice that holds the line in E or M (R88, R100). -/
def State.sliceStore (s : State) (comb line : Nat) (data : BitVec 1024) (mask : BitVec 128) (pois : Bool) : State :=
  let l := s.slice comb line
  (s.putLine line data mask).setSlice comb line { l with st := .m, pois := pois || (l.pois && decide (mask ≠ wholeLine)) }

/-- The writes that wait for a line are performed in the order of their acceptance. -/
def State.performAccepted (s : State) (comb line : Nat) : State :=
  let mine := fun (a : Accepted) => decide (a.comb = comb ∧ a.line = line)
  (s.accepted.filter mine).foldl (fun s a => s.sliceStore comb line a.data a.mask a.pois)
    { s with accepted := s.accepted.filter fun a => !mine a }

/-- A slice accepts a write (R49, R145) and performs it once it holds the line in E or M (R88). -/
def State.accept (s : State) (a : Accepted) : State :=
  if s.sliceOwns a.comb a.line then s.sliceStore a.comb a.line a.data a.mask a.pois
  else ({ s with accepted := s.accepted ++ [a] } : State).localWrite a.comb a.line

end Sys2Proof.Machine
end

