-- ==== Sys2Proof/Machine/Router.lean ====
section
/-! DEFINITION. Routers of the mesh: their ports and neighbours, XY routes, and the arrival of a flit at a
router, with the copies of broadcasts and of multicast packets (R66, R68, R72, R82, R83). -/

namespace Sys2Proof.Machine

/-- Arbitration state of an output port of a router. -/
def State.port (s : State) (comb p : Nat) : OutPort := Sparse.getD s.outs (comb * 16 + p) .initial
def State.setPort (s : State) (comb p : Nat) (o : OutPort) : State := { s with outs := Sparse.set (comb * 16 + p) o s.outs }

/-- Productive ports from router `a` towards router `b`, along x and along y (R72). -/
def xPort (a b : Nat) : Option Nat := if a % 32 < b % 32 then some 1 else if b % 32 < a % 32 then some 3 else none
def yPort (a b : Nat) : Option Nat := if a / 32 < b / 32 then some 2 else if b / 32 < a / 32 then some 0 else none

/-- Window offset of entry `i` of a router's multicast tree table (R82). -/
def treeReg (comb i : Nat) : Nat := combReg comb (0x8_1000 + 8 * i)

/-- The root of a gang's tree (R82). DESIGN CHOICE (log 117): its first comb. -/
def Gang.root (g : Gang) : Nat := g.combs.headD 0

/-- A copy of a flit that must leave by port `p`. -/
def State.copyTo (s : State) (r : Nat) (f : Flit) (b : Bool) (p : Nat) : State := if b then s.addFlit r { f with out := some p } else s

/-- Copies of a broadcast at a router of its rectangle (R83): for the router itself, eastwards along the first
row, and southwards. -/
def State.spread (s : State) (r : Nat) (f : Flit) (rc : Nat × Nat × Nat × Nat) : State :=
  ((s.copyTo r f true 7).copyTo r f (decide (r / 32 = rc.2.1 ∧ r % 32 < rc.2.2.1)) 1).copyTo r f (decide (r / 32 < rc.2.2.2)) 2

/-- Copies of a multicast packet at a router of its tree (R82): on the DOWN ports and for the CELLS cells. -/
def State.castDown (s : State) (r : Nat) (f : Flit) (tree : Nat) : State :=
  let e := s.dev (treeReg r tree)
  if !e.getLsbD 63 then s
  else
    (List.range 17).foldl (fun s c => s.copyTo r { f with dst := r, ep := c } (e.getLsbD c) 4)
      ((List.range 4).foldl (fun s p => s.copyTo r f (e.getLsbD (32 + p)) p) s)

/-- The header of a flit below its check code (R68): class, traffic class, channel, ESC, destination and source, module
`node` at both ends; OP, ADDR and TAG as `op`, `addr` and `tag`. -/
def Flit.header (f : Flit) (node op addr tag : Nat) : BitVec 104 :=
  BitVec.ofNat 104 (f.load.cls % 8 * 2 ^ 101 + f.tc % 8 * 2 ^ 98 + f.vc % 4 * 2 ^ 96 + (if f.esc then 2 ^ 95 else 0) + op % 32 * 2 ^ 90 +
    node % 8 * 2 ^ 87 + f.dst % 32 * 2 ^ 82 + f.dst / 32 % 32 * 2 ^ 77 + f.ep % 32 * 2 ^ 72 + node % 8 * 2 ^ 69 + f.src % 32 * 2 ^ 64 +
    f.src / 32 % 32 * 2 ^ 59 + f.sep % 32 * 2 ^ 54 + addr % 2 ^ 45 * 2 ^ 9 + tag % 512)

/-- MC and DPORT of a header (R68). -/
def headerMc (h : BitVec 104) : Nat := (h.extractLsb' 101 3).toNat
def headerPort (h : BitVec 104) : Nat := (h.extractLsb' 72 5).toNat

/-- A flit arrives at a router: one with a reserved code is discarded and counted (R68, R79); a broadcast spreads
from the north-west router of its rectangle on; a multicast packet on its way down the tree is copied. -/
def State.enter (s : State) (r : Nat) (f : Flit) : State :=
  let h := f.header 0 0 0 0
  if headerMc h = 7 ∨ epMgmt < headerPort h then s.bumpDev (combReg r 0x8_0048) 0 16
  else
    match f.rect, f.load with
    | some rc, _ => if f.out.isSome ∨ r = f.dst then s.spread r { f with dst := r, out := none } rc else s.addFlit r f
    | none, .cast c => if f.out.isSome then s.castDown r { f with out := none } c.tree else s.addFlit r f
    | none, _ => s.addFlit r { f with out := none }

/-- A management packet for every router of a rectangle of combs (first column and row, last column and row) leaves
router `r` from its endpoint `src` (R83). -/
def State.broadcast (s : State) (r src : Nat) (rc : Nat × Nat × Nat × Nat) (m : Mgmt) : State :=
  let q := s.stamp { Flit.of r src src 7 (32 * rc.2.1 + rc.1) epMgmt (.mgmt m) with rect := some rc }
  q.1.enter r q.2

/-- A management packet for router `dst`. -/
def State.sendMgmt (s : State) (r src dst : Nat) (m : Mgmt) : State := s.inject r src dst epMgmt 7 (.mgmt m)

/-- All routers, the routers of a frame, and one router, as rectangles. -/
def wholeMesh : Nat × Nat × Nat × Nat := (0, 0, 31, 31)
def frameRect (f : Nat) : Nat × Nat × Nat × Nat := (16 * (f % 2), 8 * (f / 2), 16 * (f % 2) + 15, 8 * (f / 2) + 7)
def combRect (c : Nat) : Nat × Nat × Nat × Nat := (c % 32, c / 32, c % 32, c / 32)

end Sys2Proof.Machine
end

