-- ==== Sys2Proof/Machine/Translate.lean ====
section
/-! DEFINITION. Addresses: the local windows, physical regions, the page walk, translation
buffers, permission checks and the location that each byte of an access reaches (R11 to R39). -/

namespace Sys2Proof.Machine

/-! ### Physical space (R13 to R15) -/

/-- Regions of physical space as this module sees them. -/
inductive Region | hbm | tier2 | peer | ctrl | rom | host | hole
  deriving DecidableEq, Repr

/-- Memory types (R28). -/
inductive MemType | normal | nc | device
  deriving DecidableEq, Repr

/-- A node is present: this module, or a node of the mask that an up link reports (R14, R410). DEDUCED (log 34). -/
def State.nodePresent (s : State) (m : Nat) : Bool :=
  decide (m = s.node) ||
    (decide (m < 8) && (s.dev (blockReg 8 0x2_0010)).getLsbD (8 + m) &&
      (List.range 12).any fun p =>
        let v := s.dev (blockReg 8 (0x2_1000 + 8 * p))
        decide (bits v 0 4 = 2 ∧ bits v 53 3 = m))

/-- The region of a physical address by its offset in its module's slice (R13). -/
def regionAt (pa : Nat) : Region :=
  let o := pa % 2 ^ 48
  if o < 0x80_0000_0000 then .hbm
  else if 0x100_0000_0000 ≤ o ∧ o < 0x200_0000_0000 then .tier2
  else if 0x200_0000_0000 ≤ o ∧ o < 0x201_0000_0000 then .peer
  else if 0x201_0000_0000 ≤ o ∧ o < 0x201_8000_0000 then .ctrl
  else if 0x201_8000_0000 ≤ o ∧ o < 0x201_8004_0000 then .rom
  else if 0x800_0000_0000 ≤ o ∧ o < 0x1000_0000_0000 then .host
  else .hole

/-- What this module reaches at a physical address (R13, R14): holes, absent nodes and regions of other
modules that are reachable only locally are `hole`. -/
def State.region (s : State) (pa : Nat) : Region :=
  if !s.nodePresent (pa / 2 ^ 48) then .hole
  else if pa / 2 ^ 48 ≠ s.node ∧ regionAt pa ≠ .hbm ∧ regionAt pa ≠ .tier2 then .hole
  else regionAt pa

/-- Memory types that a region permits (R13). -/
def Region.permits : Region → MemType → Bool
  | .hbm, _ => true
  | .tier2, _ => true
  | .peer, t => decide (t ≠ .normal)
  | .ctrl, t => decide (t = .device)
  | .rom, t => decide (t ≠ .device)
  | .host, t => decide (t ≠ .normal)
  | .hole, _ => false

/-- The memory type of a machine-mode access (R17). -/
def Region.machineType : Region → MemType
  | .peer => .nc
  | .ctrl => .device
  | .host => .device
  | _ => .normal

/-- Where a byte lies. -/
inductive Loc
  /-- The executing cell's own pool. -/
  | own (off : Nat)
  /-- Another cell's pool through the peer pool window. -/
  | peer (cell off : Nat) (t : MemType)
  /-- HBM4E or the second tier. -/
  | mem (pa : Nat) (t : MemType)
  | rom (pa : Nat)
  | dev (off : Nat)
  /-- Behind the host aperture: the host's address and the physical one. -/
  | host (addr pa : Nat) (t : MemType)
  deriving DecidableEq, Repr

/-- The location `k` bytes further on. -/
def Loc.shift (k : Nat) : Loc → Loc
  | .own o => .own (o + k)
  | .peer c o t => .peer c (o + k) t
  | .mem pa t => .mem (pa + k) t
  | .rom pa => .rom (pa + k)
  | .dev o => .dev (o + k)
  | .host a pa t => .host (a + k) (pa + k) t

/-- Offset of the supervisor reservation in the pool (R40). -/
def poolSup : Nat := 0x3_8000

/-- The location of physical byte `pa` for an access that writes (`wr`) or not; `none` is the
physical access fault (R14 to R16, R409). -/
def State.physLoc (s : State) (pa : Nat) (t : MemType) (wr : Bool) : Option Loc :=
  let o := pa % 2 ^ 48
  match s.region pa with
  | .hbm => some (.mem pa t)
  | .tier2 => some (.mem pa t)
  | .rom => if wr then none else some (.rom o)
  | .ctrl => some (.dev (o - 0x201_0000_0000))
  | .host =>
    let w := s.dev (blockReg 8 0x2_0020)
    if w.getLsbD 0 then some (.host (bits w 43 21 * 2 ^ 43 + (o - 0x800_0000_0000)) pa t) else none
  | .peer =>
    let c := s.cellOfLogical ((o - 0x200_0000_0000) / 0x4_0000)
    let q := o % 0x4_0000
    if s.running c ∧ (q < (s.cell c).spadBytes ∨ poolSup ≤ q) then some (.peer c q t) else none
  | .hole => none

/-! ### Accesses and faults -/

/-- Kinds of access (R20, R26). -/
inductive AccKind | read | write | near | far | exec
  deriving DecidableEq, Repr

/-- XLSYN.KIND (R20). -/
def AccKind.code : AccKind → Nat
  | .read => 0 | .write => 1 | .near => 2 | .far => 2 | .exec => 3

/-- Kinds that write. -/
def AccKind.writes : AccKind → Bool
  | .write => true | .near => true | .far => true | .read => false | .exec => false

/-- Paths of XLSYN (R20). -/
def pathLS : Nat := 0
def pathST : Nat := 1
def pathLA : Nat := 2
def pathFA : Nat := 3
def pathFetch : Nat := 5
def pathWalker : Nat := 6

/-- A fault of an access. -/
structure AccFault where
  code : Nat
  tval : Word
  xlsyn : Word
  deriving DecidableEq, Repr

/-- The cause of a reason (R20, R238): 0x07 address, 0x08 permission, 0x09 page, 0x0A physical. -/
def reasonCause (r : Nat) : Nat :=
  if r ≤ 4 then 0x09 else if r ≤ 10 then 0x08 else if r ≤ 13 then 0x07 else 0x0A

/-- The fault of reason `r` at virtual address `va` (R20). -/
def mkFault (path : Nat) (k : AccKind) (level r : Nat) (va : Word) : AccFault :=
  ⟨reasonCause r, va, BitVec.ofNat 64 (path * 2 ^ 13 + k.code * 2 ^ 11 + level * 2 ^ 9 + r)⟩

/-- Result of a translation: the state (buffers and A and D bits may have changed) with the
location, a fault, a page that is migrating (R37), or a walk that waits for a line of a table or for its OR. -/
inductive Xl (α : Type)
  | ok (s : State) (l : α)
  | fault (s : State) (f : AccFault)
  | migrate (s : State) (page : Nat)
  | wait (s : State)

/-! ### Page tables (R21 to R27) -/

/-- Index of a virtual address at a level (R21). -/
def vaIndex (va : Word) (lvl : Nat) : Nat := bits va (55 - 13 * lvl) 13

/-- Memory type of a leaf; code 3 is refused before (R22). -/
def pteType (e : Word) : MemType :=
  if bits e 9 2 = 0 then .normal else if bits e 9 2 = 1 then .nc else .device

/-- Physical address field of an entry (R22). DEDUCED (log 15). -/
def ptePa (e : Word) : Nat := bits e 16 36 * 65536

/-- R23: the reason an entry gives at a level, if any. DEDUCED (log 14). -/
def pteReason (e : Word) (lvl : Nat) : Option Nat :=
  if bits e 0 1 = 0 then some 0
  else if lvl < 3 ∧ bits e 13 1 = 1 then
    if bits e 1 12 ≠ 0 ∨ bits e 52 4 ≠ 0 then some 1 else none
  else if lvl = 1 then some 2
  else if bits e 52 4 ≠ 0 ∨ bits e 14 2 ≠ 0 ∨ bits e 9 2 = 3 ∨ (bits e 2 1 = 1 ∧ bits e 1 1 = 0) ∨
      (lvl = 2 ∧ bits e 8 1 = 1) ∨ (lvl = 3 ∧ bits e 13 1 = 1) ∨ (lvl = 2 ∧ bits e 16 13 ≠ 0) then some 1
  else
    let pa := ptePa e
    let last := pa + (if lvl = 2 then 2 ^ 29 else 65536) - 1
    if regionAt pa ≠ regionAt last ∨ !(regionAt pa).permits (pteType e) then some 3 else none

/-- Outcome of a walk (R24). -/
inductive Walk
  | leaf (e : Word) (lvl addr : Nat)
  | stop (reason lvl : Nat)
  /-- A table outside memory: reason 14, path 6. -/
  | table (lvl : Nat)
  /-- The comb slice does not hold a line of a table. -/
  | wait (line : Nat)

/-- Levels `lvl` and below of the walk, from table `tbl`, read at the slice of a comb (R24). DESIGN CHOICE (log 12):
poison of a table line is ignored, and its stored bytes are used. -/
def State.walkFrom (s : State) (comb : Nat) (va : Word) (tbl lvl : Nat) : Nat → Walk
  | 0 => .stop 0 lvl
  | n + 1 =>
    let a := tbl + 8 * vaIndex va lvl
    if s.region a ≠ .hbm ∧ s.region a ≠ .tier2 then .table lvl
    else if !s.sliceHas comb (a / 128) then .wait (a / 128)
    else
      let e : Word := BitVec.ofNat 64 (s.memRead a 8)
      match pteReason e lvl with
      | some r => .stop r lvl
      | none =>
        if lvl < 3 ∧ bits e 13 1 = 1 then s.walkFrom comb va (ptePa e) (lvl + 1) n
        else .leaf e lvl a

/-- The walk of R24 for a half whose root is `root`. DESIGN CHOICE (log 13). -/
def State.walk (s : State) (comb : Nat) (va root : Word) : Walk :=
  if root.getLsbD 0 then s.walkFrom comb va (bits root 16 36 * 65536) 1 3 else .stop 0 1

/-- The walker of a comb has the leaf's bits ORed by a far atomic at the home of the table line (R27); while
one is under way it waits for that. -/
def State.orPte (s : State) (comb addr : Nat) (m : Word) : State :=
  if (s.requests (.walker comb)).any fun o => decide (o.2.addr = addr) then s
  else s.sendNc comb .faop (addr / 128) false { NcOp.new (.walker comb) with addr := addr, n := 8, aop := 4, val := m }

/-- The buffer entry of a leaf (R31). -/
def tlbOf (asid : Nat) (va e : Word) (lvl addr : Nat) : TlbEntry :=
  let page := bits va 16 39
  ⟨asid, decide (bits e 7 1 = 1), if lvl = 2 then page / 8192 * 8192 else page, if lvl = 2 then 8192 else 1,
    e ||| 0x20, ptePa e, addr⟩

/-- An entry serves ASID and page (R31). -/
def TlbEntry.hits (t : TlbEntry) (asid page : Nat) : Bool :=
  (t.glob || decide (t.asid = asid)) && decide (t.page ≤ page ∧ page < t.page + t.pages)

/-- An entry joins a buffer of `cap` entries; the oldest leaves a full buffer. DESIGN CHOICE (log 11). -/
def tlbAdd (cap : Nat) (t : TlbEntry) (b : List TlbEntry) : List TlbEntry :=
  if b.length < cap then b ++ [t] else b.drop (b.length + 1 - cap) ++ [t]

/-- The entry joins the buffers of cell `c` and of its comb. -/
def State.tlbInstall (s : State) (c : Nat) (t : TlbEntry) : State :=
  let s1 := s.updCellAt c fun x => { x with tlb := tlbAdd 64 t x.tlb }
  { s1 with combTlb := Sparse.set (combOf c) (tlbAdd 4096 t (Sparse.getD s1.combTlb (combOf c) [])) s1.combTlb }

/-- Buffered entries of a page of an ASID are discarded in cell `c` and its comb (R27). -/
def State.tlbDrop (s : State) (c asid page : Nat) : State :=
  let s1 := s.updCellAt c fun x => { x with tlb := x.tlb.filter (fun t => !t.hits asid page) }
  { s1 with combTlb :=
      Sparse.set (combOf c) ((Sparse.getD s1.combTlb (combOf c) []).filter (fun t => !t.hits asid page)) s1.combTlb }

/-- The entry for a page: from the cell's buffer, the comb's buffer, or a walk (R27, R32, R37). The A bit of a
leaf in a poisoned line is not set, since no far atomic is performed there (R106). DESIGN CHOICE (log 12): KIND of the
walker's own fault is that of the access that it walks for. -/
def State.lookup (s : State) (c : Nat) (x : Xlate) (path : Nat) (k : AccKind) (va : Word) : Xl TlbEntry :=
  let page := bits va 16 39
  let root := if va.getLsbD 54 then x.stbase else x.utbase
  if !root.getLsbD 0 then .fault s (mkFault path k 1 0 va)
  else
    match (s.cell c).tlb.find? (·.hits x.asid page) with
    | some t => .ok s t
    | none =>
      match (Sparse.getD s.combTlb (combOf c) []).find? (·.hits x.asid page) with
      | some t => .ok (s.updCellAt c fun y => { y with tlb := tlbAdd 64 t y.tlb }) t
      | none =>
        match s.walk (combOf c) va root with
        | .stop r lvl => .fault s (mkFault path k lvl r va)
        | .table lvl => .fault s (mkFault pathWalker k lvl 14 va)
        | .wait line => .wait (s.localRead (combOf c) line)
        | .leaf e lvl addr =>
          if bits e 12 1 = 1 then .migrate s page
          else if bits e 5 1 = 0 ∧ !(s.slice (combOf c) (addr / 128)).pois then .wait (s.orPte (combOf c) addr 0x20)
          else
            let t := tlbOf x.asid va e lvl addr
            .ok (s.tlbInstall c t) t

/-- R26: the first failing check of an access to a leaf. `al` says that a DEVICE access is
naturally aligned and at most 8 bytes wide. -/
def permReason (m : Mode) (k : AccKind) (e : Word) (rg : Region) (al : Bool) : Option Nat :=
  let t := pteType e
  let u := bits e 4 1
  if (m = .user ∧ u = 0) ∨ (m = .supervisor ∧ k = .exec ∧ u = 1) then some 8
  else if (k = .read ∨ k = .near ∨ k = .far) ∧ bits e 1 1 = 0 then some 5
  else if k.writes ∧ bits e 2 1 = 0 then some 6
  else if k = .exec ∧ (bits e 3 1 = 0 ∨ t = .device) then some 7
  else if k = .far ∧ bits e 11 1 = 0 then some 9
  else if (k = .near ∧ t ≠ .normal) ∨ (k = .far ∧ (t = .device ∨ (rg ≠ .hbm ∧ rg ≠ .tier2))) then some 10
  else if t = .device ∧ !al then some 13
  else none

/-- R17: the checks of a machine-mode access to a region. -/
def machineReason (k : AccKind) (rg : Region) (al : Bool) : Option Nat :=
  let t := rg.machineType
  if k = .exec ∧ t = .device then some 7
  else if (k = .near ∧ t ≠ .normal) ∨ (k = .far ∧ (t = .device ∨ (rg ≠ .hbm ∧ rg ≠ .tier2))) then some 10
  else if t = .device ∧ !al then some 13
  else none

/-- First addresses of the two local windows (R12). -/
def winUser : Nat := 0x003F_F000_0000_0000
def winSup : Nat := 0xFFFF_F000_0000_0000

/-- The window a virtual address lies in: `some false` the local, `some true` the supervisor's. -/
def windowOf (va : Word) : Option Bool :=
  if winUser ≤ va.toNat ∧ va.toNat < winUser + 2 ^ 44 then some false
  else if winSup ≤ va.toNat then some true else none

/-- R11: bits [63:55] equal bit 54. -/
def canonical (va : Word) : Bool := decide (sext 55 va = va)

/-- An access of `n` bytes to a local window (R12). DESIGN CHOICE (log 113): a fetch is denied before the bounds
and the mode are looked at. -/
def State.window (s : State) (c : Nat) (m : Mode) (path : Nat) (k : AccKind) (sup : Bool) (va : Word) (n : Nat) :
    Xl Loc :=
  let o := va.toNat - (if sup then winSup else winUser)
  let size := if sup then 0x8000 else (s.cell c).spadBytes
  if k = .exec then .fault s (mkFault path k 0 7 va)
  else if sup ∧ m = .user then .fault s (mkFault path k 0 8 va)
  else if size < o + n then .fault s (mkFault path k 0 12 va)
  else if k = .far then .fault s (mkFault path k 0 10 va)
  else .ok s (.own (if sup then poolSup + o else o))

/-- The location of `va`, for an access of `n` bytes of one page that starts there. -/
def State.xlatePage (s : State) (c : Nat) (x : Xlate) (path : Nat) (k : AccKind) (va : Word) (n : Nat) (al : Bool) :
    Xl Loc :=
  let done := fun (s : State) (pa : Nat) (t : MemType) =>
    match s.physLoc pa t k.writes, s.physLoc (pa + n - 1) t k.writes with
    | some l, some _ => Xl.ok s l
    | _, _ => Xl.fault s (mkFault path k 0 14 va)
  match windowOf va with
  | some sup => s.window c x.mode path k sup va n
  | none =>
    if x.mode = .machine then
      if 2 ^ 52 ≤ va.toNat then .fault s (mkFault path k 0 11 va)
      else
        match machineReason k (regionAt va.toNat) al with
        | some r => .fault s (mkFault path k 0 r va)
        | none => done s va.toNat (regionAt va.toNat).machineType
    else if !canonical va then .fault s (mkFault path k 0 11 va)
    else if x.mode = .user ∧ va.getLsbD 54 then .fault s (mkFault path k 0 8 va)
    else
      match s.lookup c x path k va with
      | .fault s' f => .fault s' f
      | .migrate s' p => .migrate s' p
      | .wait s' => .wait s'
      | .ok s1 t =>
        let paOf := fun (t : TlbEntry) => t.pa + (bits va 0 55 - t.page * 65536)
        match permReason x.mode k t.pte (regionAt (paOf t)) al with
        | some r => .fault s1 (mkFault path k 0 r va)
        | none =>
          if k.writes ∧ bits t.pte 6 1 = 0 then
            -- R27: the buffered entry is discarded and the walker re-walks before D is set
            let s0 := s1.tlbDrop c x.asid (bits va 16 39)
            match s0.lookup c x path k va with
            | .fault s' f => .fault s' f
            | .migrate s' p => .migrate s' p
            | .wait s' => .wait s'
            | .ok s2 t2 =>
              match permReason x.mode k t2.pte (regionAt (paOf t2)) al with
              | some r => .fault s2 (mkFault path k 0 r va)
              | none =>
                if bits t2.pte 6 1 = 0 ∧ !(s2.slice (combOf c) (t2.pteAddr / 128)).pois then
                  .wait ((s2.tlbDrop c x.asid (bits va 16 39)).orPte (combOf c) t2.pteAddr 0x60)
                else done s2 (paOf t2) (pteType t2.pte)
          else done s1 (paOf t) (pteType t.pte)

/-- Locations of the `n` bytes from a first location. -/
def locsFrom (l : Loc) (n : Nat) : List Loc := (List.range n).map fun i => l.shift i

/-- The locations of all `n` bytes of an access at `va`; an access over two pages makes and checks
both translations before any byte is performed (R358). DEDUCED (log 16). -/
def State.resolve (s : State) (c : Nat) (x : Xlate) (path : Nat) (k : AccKind) (va : Word) (n : Nat) : Xl (List Loc) :=
  let al := decide (va.toNat % n = 0 ∧ n ≤ 8)
  let room := 65536 - va.toNat % 65536
  if n ≤ room ∨ (windowOf va).isSome then
    match s.xlatePage c x path k va n al with
    | .fault s' f => .fault s' f
    | .migrate s' p => .migrate s' p
    | .wait s' => .wait s'
    | .ok s' l => .ok s' (locsFrom l n)
  else
    match s.xlatePage c x path k va room al with
    | .fault s' f => .fault s' f
    | .migrate s' p => .migrate s' p
    | .wait s' => .wait s'
    | .ok s1 l =>
      match s1.xlatePage c x path k (va + BitVec.ofNat 64 room) (n - room) al with
      | .fault s' f => .fault s' f
      | .migrate s' p => .migrate s' p
      | .wait s' => .wait s'
      | .ok s2 l2 => .ok s2 (locsFrom l room ++ locsFrom l2 (n - room))

/-- The translation registers of a thread (R18, R19). -/
def Thread.xlate (t : Thread) : Xlate :=
  ⟨t.mode, t.csrGet csrUTBASE, t.csrGet csrSTBASE, bits (t.csrGet csrCTXASID) 0 16⟩

/-- An access to a migrating page enters the comb's replay queue, or waits for a place in it behind those that wait
already (R37); with MERGEN it joins an entry of its page whose walk ended in this cycle (R32, R39). DEDUCED (log 13). -/
def State.enterReplay (s : State) (comb asid page : Nat) (w : Waiter) : State :=
  let q := Sparse.getD s.replays comb []
  let merge := bits (s.dev (combReg comb 0xA_0000)) 32 1 = 1
  let q1 := match (if merge then q.find? fun r => decide (r.asid = asid ∧ r.page = page ∧ r.since = s.cycle) else none) with
    | some r => q.replace r (r.join w)
    | none =>
      let full := decide (64 ≤ (q.filter fun r => !r.outside).length) || q.any (·.outside)
      q ++ [Replay.join ⟨[], [], [], asid, page, s.cycle, full⟩ w]
  { s with replays := Sparse.set comb q1 s.replays }

/-- The executing thread's access waits for a migrating page (R37). -/
def State.onMigrate (s : State) (page : Nat) : State :=
  (s.enterReplay (combOf (cellOf s.cur)) s.thr.xlate.asid page (.thread s.cur)).parkAs .replay

/-- An access of the slot's thread: one whose page timed out in the replay queue faults (R38). Accesses to the local
windows and in machine mode have no translation. -/
def State.access (s : State) (slot : Nat) (x : Xlate) (path : Nat) (k : AccKind) (va : Word) (n : Nat) : Xl (List Loc) :=
  match (s.thread slot).migTimeout with
  | some p =>
    if (p = bits va 16 39 ∨ p = bits (va + BitVec.ofNat 64 (n - 1)) 16 39) ∧ windowOf va = none ∧ x.mode ≠ .machine then
      .fault (s.updThread slot fun t => { t with migTimeout := none }) (mkFault path k 0 4 va)
    else s.resolve (cellOf slot) x path k va n
  | none => s.resolve (cellOf slot) x path k va n

/-- The trap of an access fault. -/
def State.accTrap (s : State) (f : AccFault) : State :=
  s.trap { code := f.code, tval := f.tval, xlsyn := some f.xlsyn }

end Sys2Proof.Machine
end

