-- ==== Sys2Proof/Machine/MemOps.lean ====
section
/-! DEFINITION. Reading and writing bytes from a cell: the write-combining buffer, the L1 data cache, reads
and writes that go to homes, pools, the range scoreboard and the device window (R28, R29, R48 to R58, R62,
R63, R100). -/

namespace Sys2Proof.Machine

/-! ### Bytes behind the host aperture -/

/-- The host's address of a physical address of the aperture (R409). -/
def State.hostAddr (s : State) (pa : Nat) : Nat :=
  bits (s.dev (blockReg 8 0x2_0020)) 43 21 * 2 ^ 43 + (pa % 2 ^ 48 - 0x800_0000_0000)

/-- 8-byte words that `n` bytes from `o` touch, and those that they cover. -/
def wordsTouched (o n : Nat) : List Nat := if n = 0 then [] else (List.range ((o + n - 1) / 8 - o / 8 + 1)).map (· + o / 8)
def wordsCovered (o n : Nat) : List Nat := (wordsTouched o n).filter fun w => decide (o ≤ w * 8 ∧ w * 8 + 8 ≤ o + n)

/-- Poisoned words behind a write of `n` bytes at `o` (R63): with poison the words it touches join, and
otherwise the words that it covers leave. -/
def poisonWrite (m : NatSet) (o n : Nat) (pois : Bool) : NatSet :=
  if pois then (wordsTouched o n).foldl (fun m w => NatSet.add w m) m
  else if m.isEmpty then m else m.filter fun w => decide (¬ (o ≤ w * 8 ∧ w * 8 + 8 ≤ o + n))

/-- The same for the 16 words of a line. -/
def poisonBits (p : BitVec 16) (i n : Nat) (pois : Bool) : BitVec 16 :=
  if pois then (wordsTouched i n).foldl (fun p w => p ||| BitVec.ofNat 16 (2 ^ w)) p
  else (wordsCovered i n).foldl (fun p w => p &&& ~~~BitVec.ofNat 16 (2 ^ w)) p

/-- `n` bytes are written at address `a` of the host. -/
def State.hostWrite (s : State) (a n v : Nat) (pois : Bool) : State :=
  { s with hostMem := Bytes.write zeroByte a n v s.hostMem, hostPois := poisonWrite s.hostPois a n pois }

/-! ### The write-combining buffer (R49, R50) -/

/-- The bytes of an entry go to the host; the I/O die drops them while the aperture is closed (R409). DESIGN CHOICE
(log 135). -/
def State.hostDrain (s : State) (w : Wcb) : State :=
  let a := s.hostAddr (w.line * 128)
  if !(s.dev (blockReg 8 0x2_0020)).getLsbD 0 then s
  else (List.range 128).foldl (fun s i =>
    if w.mask.getLsbD i then s.hostWrite (a + i) 1 (byteOf w.data i).toNat (w.pois.getLsbD (i / 8)) else s) s

/-- One entry drains to the comb slice, or to the home for NORMAL-NC (R49), or to the host. -/
def State.drainEntry (c : Nat) (s : State) (w : Wcb) : State :=
  if !w.nc then s.accept ⟨combOf c, w.line, w.data, w.mask, decide (w.pois ≠ 0), c⟩
  else if regionAt (w.line * 128) = .host then s.hostDrain w
  else s.sendNc (combOf c) .ncwr w.line (decide (w.pois ≠ 0)) { NcOp.new (.buffer c) with data := w.data, mask := w.mask }

/-- The first `k` entries of the cell's buffer drain, in allocation order. -/
def State.drainFirst (s : State) (c k : Nat) : State :=
  let b := (s.cell c).wcb
  (b.take k).foldl (State.drainEntry c) (s.updCellAt c fun x => { x with wcb := b.drop k })

/-- All entries drain. -/
def State.drainAll (s : State) (c : Nat) : State := s.drainFirst c (s.cell c).wcb.length

/-- Entries up to and with the last one that satisfies `p` drain. -/
def State.drainTo (s : State) (c : Nat) (p : Wcb → Bool) : State :=
  let b := (s.cell c).wcb
  s.drainFirst c (b.length - (b.reverse.takeWhile (fun w => !p w)).length)

/-- The entries of a line drain (R50). -/
def State.drainLine (s : State) (c line : Nat) : State := s.drainTo c fun w => decide (w.line = line)

/-- Entries opened by NORMAL-NC stores drain (R50). -/
def State.drainNc (s : State) (c : Nat) : State := s.drainTo c (·.nc)

/-- An entry has come to the age at which it closes and drains (R50, R53). -/
def Wcb.aged (w : Wcb) (now : Nat) : Bool := decide (w.born + 256 ≤ now)

/-- Entries of every cell that are 256 cycles old drain, with those before them (R49, R50). -/
def State.drainAged (s : State) : State :=
  (s.cells.filter fun e => e.2.wcb.any (·.aged s.cycle)).foldl (fun s e => s.drainTo e.1 (·.aged s.cycle)) s

/-- The last entry satisfying `p` is replaced. -/
def updLast (p : Wcb → Bool) (f : Wcb → Wcb) (b : List Wcb) : List Wcb :=
  match b.reverse with
  | [] => []
  | l =>
    let pre := l.takeWhile (fun w => !p w)
    match l.dropWhile (fun w => !p w) with
    | [] => b
    | w :: t => (pre ++ f w :: t).reverse

/-- `n` bytes of `v` at byte `i` of a line join an entry. -/
def Wcb.merge (w : Wcb) (i n v : Nat) (pois : Bool) : Wcb :=
  { w with data := putBytes w.data i n v, mask := w.mask ||| byteMask i n, pois := poisonBits w.pois i n pois }

/-- A store of bytes within one line enters the buffer (R49): a NORMAL store merges into the open
entry of its line, a NORMAL-NC store into the youngest entry if that is its line's and was opened
by such a store; otherwise a new entry is allocated, after the oldest of 16 has drained. An entry that has
come of age is closed (R53). DESIGN CHOICE (log 22). -/
def State.wcbStore (s : State) (c thr : Nat) (line i n v : Nat) (nc pois : Bool) : State :=
  let s1 := if nc && (s.cell c).wcb.any (fun w => w.nc && decide (w.by_ = thr ∧ w.line ≠ line)) then s.drainNc c else s
  let b := (s1.cell c).wcb
  let mine : Wcb → Bool := fun w => decide (w.line = line) && decide (w.nc = nc) && !w.closed && !w.aged s.cycle
  let canMerge := if nc then (match b.getLast? with | some w => mine w | none => false) else b.any mine
  if canMerge then s1.updCellAt c fun x => { x with wcb := updLast mine (·.merge i n v pois) x.wcb }
  else
    let s2 := if 16 ≤ (s1.cell c).wcb.length then s1.drainFirst c 1 else s1
    let w : Wcb := ⟨line, 0, 0, nc, false, thr, s.cycle, 0⟩
    s2.updCellAt c fun x =>
      { x with wcb := (if nc then updLast (fun _ => true) (fun w => { w with closed := true }) x.wcb else x.wcb) ++ [w.merge i n v pois] }

/-! ### The L1 data cache (R48, R51 to R53) -/

/-- Epoch of a cycle (R52). -/
def epochOf (now : Nat) : Nat := now / 4096

/-- The line of the cell's L1, if it is of the present epoch or the one before (R52). -/
def Cell.l1Find (c : Cell) (now line : Nat) : Option L1Line :=
  c.l1.find? fun l => decide (l.line = line ∧ epochOf now ≤ l.epoch + 1)

/-- Every L1 line is invalidated, and fills already requested will not be installed (R52, R53). -/
def State.l1Invalidate (s : State) (c : Nat) : State :=
  s.updCellAt c fun x => { x with l1 := [], fills := x.fills.map fun f => { f with installable := false } }

/-- One L1 line is invalidated (R53). -/
def State.l1Drop (s : State) (c line : Nat) : State :=
  s.updCellAt c fun x => { x with l1 := x.l1.filter (fun l => l.line ≠ line) }

/-- A load that misses requests a fill (R53). -/
def State.l1Miss (s : State) (c line : Nat) : State :=
  if ((s.cell c).l1Find s.cycle line).isSome ∨ (s.cell c).fills.any (fun f => f.line = line) then s
  else s.updCellAt c fun x => { x with fills := x.fills ++ [⟨line, true⟩] }

/-- A store updates a valid L1 line and keeps older fills of the line from being installed (R48, R53). -/
def State.l1Store (s : State) (c line i n v : Nat) (pois : Bool) : State :=
  s.updCellAt c fun x =>
    { x with
      l1 := x.l1.map fun l =>
        if l.line = line then { l with data := putBytes l.data i n v, pois := poisonBits l.pois i n pois } else l
      fills := x.fills.map fun f => if f.line = line then { f with installable := false } else f }

/-! ### Pools -/

/-- One byte of a cell's pool. DESIGN CHOICE (log 33). -/
def State.poolByte (s : State) (c o : Nat) : Byte := Bytes.get zeroByte (s.cell c).pool o

/-- `n` bytes of a pool as a number. -/
def State.poolRead (s : State) (c o n : Nat) : Nat := Bytes.read zeroByte (s.cell c).pool o n

/-- `n` bytes are written to a pool; whole 8-byte words lose their poison (R63). -/
def State.poolWrite (s : State) (c o n v : Nat) : State :=
  s.updCellAt c fun x =>
    { x with
      pool := Bytes.write zeroByte o n v x.pool
      ppoison := poisonWrite x.ppoison o n false
      latent := poisonWrite x.latent o n false }

/-- Words of a pool that `n` bytes at `o` touch become poisoned (R63). -/
def State.poolPoison (s : State) (c o n : Nat) : State :=
  s.updCellAt c fun x => { x with ppoison := poisonWrite x.ppoison o n true }

/-- `n` bytes are written to a pool, with their poison. -/
def State.poolPut (s : State) (c o n v : Nat) (pois : Bool) : State :=
  if pois then (s.poolWrite c o n v).poolPoison c o n else s.poolWrite c o n v

/-- Some byte of a pool range lies in a poisoned word. -/
def State.poolPoisoned (s : State) (c o n : Nat) : Bool :=
  (s.cell c).ppoison.any fun w => decide (w * 8 < o + n ∧ o < w * 8 + 8)

/-- Words with a correctable error among the `n` bytes at `o` are corrected and counted in POOLCE (R62). -/
def Cell.poolFix (x : Cell) (hit : Nat → Bool) : Cell :=
  { x with latent := x.latent.filter fun w => !hit w, cellerr := satAdd x.cellerr 48 16 (x.latent.filter hit).length }
def State.poolCorrect (s : State) (c o n : Nat) : State :=
  if (s.cell c).latent.any fun w => decide (w * 8 < o + n ∧ o < w * 8 + 8) then
    s.updCellAt c (·.poolFix fun w => decide (w * 8 < o + n ∧ o < w * 8 + 8))
  else s

/-! ### Reads that go to homes (R28, R29, R94) -/

/-- Who reads or writes for a slot: its queues or its scalar side. -/
def issuer (slot : Nat) (q : Bool) : Issuer := if q then .queue slot else .scalar slot

/-- The thread's read of `n` bytes at `pa`, if it has been sent. -/
def Thread.readOf (t : Thread) (q : Bool) (pa n : Nat) (dev : Bool) : Option HomeRead :=
  t.reads.find? fun r => decide (r.queue = q ∧ r.pa = pa ∧ r.n = n ∧ r.dev = dev)

/-- DEVICE accesses of the slot that are not performed yet: the next one waits for them (R29). -/
def State.deviceBusy (s : State) (slot : Nat) : Bool :=
  (s.requests (.scalar slot) ++ s.requests (.queue slot)).any fun o => o.2.dev && decide (o.1 ≠ .ncrsp)

/-- A location of a DEVICE access. -/
def Loc.isDev : Loc → Bool
  | .mem _ t => decide (t = .device)
  | .peer _ _ t => decide (t = .device)
  | .host _ _ t => decide (t = .device)
  | .dev _ => true
  | _ => false

/-- Splits a list of locations into runs of consecutive bytes of one kind and one memory line. -/
def locRuns : List Loc → List (Loc × Nat)
  | [] => []
  | l :: t =>
    match locRuns t with
    | (l2, n) :: r =>
      let joins := decide (l.shift 1 = l2) &&
        (match l with | .mem pa _ => decide (pa % 128 ≠ 127) | .host _ pa _ => decide (pa % 128 ≠ 127) | _ => true)
      if joins then (l, n + 1) :: r else (l, 1) :: (l2, n) :: r
    | [] => [(l, 1)]

/-- A byte as the cell holds it (R51): in the youngest buffer entry that has it, or in a valid L1 line. -/
def State.nearByte (s : State) (c pa : Nat) (t : MemType) : Option (Byte × Bool) :=
  if t = .device then none
  else
    match (s.cell c).wcb.reverse.find? (fun w => decide (w.line = pa / 128) && w.mask.getLsbD (pa % 128)) with
    | some w => some (byteOf w.data (pa % 128), w.pois.getLsbD (pa % 128 / 8))
    | none =>
      match (if t = .normal then (s.cell c).l1Find s.cycle (pa / 128) else none) with
      | some l => some (byteOf l.data (pa % 128), l.pois.getLsbD (pa % 128 / 8))
      | none => none

/-- Whether the bytes of a run can be read now: the cell has them, its slice holds the line, or the home has
returned them. -/
def State.runReady (s : State) (slot : Nat) (q : Bool) (r : Loc × Nat) : Bool :=
  match r.1 with
  | .mem pa t =>
    (List.range r.2).all (fun i => (s.nearByte (cellOf slot) (pa + i) t).isSome) ||
      (if t = .normal then s.sliceHas (combOf (cellOf slot)) (pa / 128)
       else match (s.thread slot).readOf q pa r.2 (decide (t = .device)) with | some h => h.got.isSome | none => false)
  | _ => true

/-- What a run that cannot be read asks for (R84, R94): its line of the slice, or its bytes of the home. -/
def State.askRun (slot : Nat) (q : Bool) (s : State) (r : Loc × Nat) : State :=
  match r.1 with
  | .mem pa t =>
    let dev := decide (t = .device)
    if s.runReady slot q r then s
    else if t = .normal then s.localRead (combOf (cellOf slot)) (pa / 128)
    else if ((s.thread slot).readOf q pa r.2 dev).isSome then s
    else
      (s.sendNc (combOf (cellOf slot)) .ncrd (pa / 128) false { NcOp.new (issuer slot q) with addr := pa, n := r.2, dev := dev }).updThread
        slot fun t => { t with reads := t.reads ++ [⟨q, pa, r.2, dev, s.nextTag, none⟩] }
  | _ => s

/-- Little-endian number of a list of bytes. -/
def bytesVal : List Byte → Nat
  | [] => 0
  | b :: t => b.toNat + 256 * bytesVal t

/-- One byte that lies neither in memory nor in a device, and whether it is poisoned. -/
def State.placeByte (s : State) (c : Nat) : Loc → Byte × Bool
  | .own o => (s.poolByte c o, s.poolPoisoned c o 1)
  | .peer d o _ => (s.poolByte d o, s.poolPoisoned d o 1)
  | .rom pa => (s.memByte pa, false)
  | .host a pa t => (s.nearByte c pa (if t = .normal then .nc else t)).getD (Bytes.get zeroByte s.hostMem a, NatSet.has s.hostPois (a / 8))
  | .dev _ => (0, false)
  | .mem pa _ => (s.memByte pa, s.linePoisoned (pa / 128))

/-- Byte `i` of a run that can be read (R51). -/
def State.runByte (s : State) (slot : Nat) (q : Bool) (r : Loc × Nat) (i : Nat) : Byte × Bool :=
  match r.1 with
  | .mem pa t =>
    match s.nearByte (cellOf slot) (pa + i) t with
    | some b => b
    | none =>
      if t = .normal then (s.memByte (pa + i), (s.slice (combOf (cellOf slot)) (pa / 128)).pois)
      else
        match ((s.thread slot).readOf q pa r.2 (decide (t = .device))).bind (·.got) with
        | some g => (BitVec.ofNat 8 (g.1 / 2 ^ (8 * i)), g.2)
        | none => (0, false)
  | l => s.placeByte (cellOf slot) (l.shift i)

/-- What a run leaves behind when it has been read: a requested fill (R53), a home read that is used up, a
corrected pool word. -/
def State.runRead (slot : Nat) (q : Bool) (s : State) (r : Loc × Nat) : State :=
  match r.1 with
  | .mem pa t =>
    if t = .normal then s.l1Miss (cellOf slot) (pa / 128)
    else s.updThread slot fun th =>
      { th with reads := th.reads.filter fun h => decide (¬ (h.queue = q ∧ h.pa = pa ∧ h.n = r.2 ∧ h.dev = decide (t = .device))) }
  | .own o => s.poolCorrect (cellOf slot) o r.2
  | .peer d o _ => s.poolCorrect d o r.2
  | _ => s

/-- One LS-path read of bytes at locations that can be read, in mode `m`, for slot `slot`: the value, poison
and the new state. A device register is read once. DEDUCED (log 29). -/
def State.readLocs (s : State) (slot : Nat) (q : Bool) (m : Mode) (ls : List Loc) : Nat × Bool × State :=
  match ls with
  | .dev o :: _ =>
    let r := s.devBytes m o ls.length
    (r.1, false, r.2)
  | _ =>
    let rs := locRuns ls
    let bs := rs.flatMap fun r => (List.range r.2).map (s.runByte slot q r)
    (bytesVal (bs.map (·.1)), bs.any (·.2), rs.foldl (State.runRead slot q) s)

/-! ### Writes -/

/-- Consecutive bytes of one memory line are written by slot `slot` (R28): DEVICE bytes go to the home at once. -/
def State.storeRun (s : State) (slot : Nat) (q : Bool) (pa n v : Nat) (t : MemType) (pois : Bool) : State :=
  let c := cellOf slot
  let line := pa / 128
  let i := pa % 128
  if t = .device then
    (s.drainNc c).sendNc (combOf c) .ncwr line pois
      { NcOp.new (issuer slot q) with addr := pa, n := n, dev := true, data := putBytes 0 i n v, mask := byteMask i n }
  else ((if t = .normal then s.l1Store c line i n v pois else s).wcbStore c (threadOf slot) line i n v (decide (t = .nc)) pois)

/-- One run of bytes is written on the LS path for slot `slot` in mode `m`. A DEVICE store drains what
NORMAL-NC stores left in the buffer (R50). -/
def State.writeRun (s : State) (slot : Nat) (q : Bool) (m : Mode) (l : Loc) (n v : Nat) (pois : Bool) : State :=
  let s0 := if l.isDev then s.drainNc (cellOf slot) else s
  match l with
  | .own o => s0.poolPut (cellOf slot) o n v pois
  | .peer d o _ => s0.poolPut d o n v pois
  | .rom _ => s0
  | .host a pa t =>
    if t = .device then s0.hostWrite a n v pois else s0.wcbStore (cellOf slot) (threadOf slot) (pa / 128) (pa % 128) n v true pois
  | .dev o =>
    let sh := 8 * (o % 8)
    s0.devWrite m (o / 8 * 8) (BitVec.ofNat 64 (v * 2 ^ sh)) (BitVec.ofNat 64 ((2 ^ (8 * n) - 1) * 2 ^ sh))
  | .mem pa t => s0.storeRun slot q pa n v t pois

/-- Runs are written in ascending order of the bytes of `v`. -/
def State.writeRuns (s : State) (slot : Nat) (q : Bool) (m : Mode) (pois : Bool) : List (Loc × Nat) → Nat → State
  | [], _ => s
  | (l, n) :: t, v => (s.writeRun slot q m l n (v % 2 ^ (8 * n)) pois).writeRuns slot q m pois t (v / 2 ^ (8 * n))

/-- The bytes of `v` are written to locations on the LS path. -/
def State.writeLocs (s : State) (slot : Nat) (q : Bool) (m : Mode) (ls : List Loc) (v : Nat) (pois : Bool) : State :=
  s.writeRuns slot q m pois (locRuns ls) v

/-! ### Accesses of streams and of the module's own units -/

/-- The memory lines among locations. -/
def memLines (ls : List Loc) : List Nat :=
  (ls.filterMap fun l => match l with | .mem pa _ => some (pa / 128) | _ => none).eraseDups

/-- A coherent read at the home or at the owning slice, or at a target (R124): the value, its poison, and the
state with what the read finds. A device register is read once. -/
def State.unitRead (s : State) (c : Nat) (m : Mode) (ls : List Loc) : Nat × Bool × State :=
  match ls with
  | .dev o :: _ =>
    let r := s.devBytes m o ls.length
    (r.1, false, r.2)
  | _ =>
    let r := (memLines ls).foldl (fun (a : Bool × State) l => let p := a.2.coherent l; (a.1 || p.1, p.2)) (false, s)
    let bs := ls.map (s.placeByte c)
    let other := (ls.zip bs).any fun x => match x.1 with | .mem _ _ => false | _ => x.2.2
    (bytesVal (bs.map (·.1)), r.1 || other, r.2)

/-- A write by a unit of the module, performed in one step. -/
def State.unitWrite (s : State) (slot : Nat) (m : Mode) (ls : List Loc) (v : Nat) (pois : Bool) : State :=
  ((locRuns ls).foldl
    (fun (p : State × Nat) r =>
      (match r.1 with
        | .mem pa _ => p.1.memPut pa r.2 (p.2 % 2 ^ (8 * r.2)) pois
        | l => p.1.writeRun slot true m l r.2 (p.2 % 2 ^ (8 * r.2)) pois,
       p.2 / 2 ^ (8 * r.2))) (s, v)).1

/-! ### The range scoreboard (R55 to R58) -/

/-- The bytes of this cell's scratchpad among locations: of the local window, or of the cell's own block of the peer
window. DEDUCED (log 27). -/
def State.spadBytesOf (s : State) (c : Nat) (ls : List Loc) : List Nat :=
  ls.filterMap fun l => match l with
    | .own o => if o < (s.cell c).spadBytes then some o else none
    | .peer d o _ => if d = c ∧ o < (s.cell c).spadBytes then some o else none
    | _ => none

/-- The scratchpad bytes among the locations for which a live entry holds the access of slot `slot`. -/
def State.rsbHits (s : State) (slot : Nat) (age : Option Nat) (ls : List Loc) : List Nat :=
  let rs := (s.cell (cellOf slot)).rsb
  if rs.isEmpty then [] else (s.spadBytesOf (cellOf slot) ls).filter fun o => rs.any (·.holds slot age o)
def State.rsbBlocks (s : State) (slot : Nat) (age : Option Nat) (ls : List Loc) : Bool := !(s.rsbHits slot age ls).isEmpty

/-- An access is stalled by R56 from now on (R58). DESIGN CHOICE (log 114). -/
def State.rsbNote (s : State) (slot : Nat) (age : Option Nat) (ls : List Loc) : State :=
  let w : RsbWait := ⟨slot, age, s.rsbHits slot age ls⟩
  s.updCellAt (cellOf slot) fun x =>
    { x with
      rsbSince := if x.rsbSince.isSome then x.rsbSince else some s.cycle
      rsbHeld := x.rsbHeld.filter (fun v => decide (¬ (v.slot = slot ∧ v.age = age))) ++ [w] }

/-! ### Routes of window accesses (R71, R402, R403) -/

/-- The router of the I/O die port that a source router uses (R402): the port of its band of four rows and its half of the
mesh. -/
def ioRouter (r : Nat) : Nat :=
  let k := 2 * (r / 32 / 4) + r % 32 / 16
  32 * (4 * (k / 2) + 1) + (if k % 2 = 0 then 15 else 16)

/-- The router at which an access of router `r` to a place outside memory and its own pool ends (R403): the comb of the page
or of the pool, home port 0 of a stack base die, or an I/O die port. -/
def Loc.router (r : Nat) : Loc → Option Nat
  | .dev o =>
    some (if o < 0x4000_0000 then o / 0x10_0000
      else if o < 0x4800_0000 then 32 * (8 * ((o - 0x4000_0000) / 0x100_0000 / 2) + 4) + 16 * ((o - 0x4000_0000) / 0x100_0000 % 2)
      else ioRouter r)
  | .rom _ => some (ioRouter r)
  | .host _ _ _ => some (ioRouter r)
  | .peer d _ _ => some (combOf d)
  | .own _ => none
  | .mem _ _ => none

/-- No link of the XY path from router `r` to router `d` has failed (R71). -/
def State.xyOpen (s : State) (r d : Nat) : Nat → Bool
  | 0 => true
  | n + 1 =>
    match (match xPort r d with | some p => some p | none => yPort r d) with
    | some p => !(s.port r p).failed && (match meshNext r p with | some q => s.xyOpen q d n | none => true)
    | none => true

/-- Accesses of a cell to such places can cross the mesh and their answers can come back (R71). DESIGN CHOICE (log 136). -/
def State.routesOpen (s : State) (c : Nat) (ls : List Loc) : Bool :=
  s.outs.all (fun o => !o.2.failed) ||
    ls.all fun l => match l.router (combOf c) with
      | some d => s.xyOpen (combOf c) d 64 && s.xyOpen d (combOf c) 64
      | none => true

/-! ### When an access can be performed -/

/-- The state in which a read by slot `slot` waits, if it cannot be performed yet: for the range scoreboard
(R56), for DEVICE accesses before it (R29), for a failed link (R71), or for bytes that are asked for (R84, R94). `age` is the number of the queued
instruction that reads, none for the scalar side. -/
def State.holdRead (s : State) (slot : Nat) (age : Option Nat) (ls : List Loc) : Option State :=
  if s.rsbBlocks slot age ls then some (s.rsbNote slot age ls)
  else if (ls.any (·.isDev) ∧ s.deviceBusy slot) ∨ !s.routesOpen (cellOf slot) ls then some s
  else if (locRuns ls).all (s.runReady slot age.isSome) then none
  else some ((locRuns ls).foldl (State.askRun slot age.isSome) s)

/-- The same for a write. -/
def State.holdWrite (s : State) (slot : Nat) (age : Option Nat) (ls : List Loc) : Option State :=
  if s.rsbBlocks slot age ls then some (s.rsbNote slot age ls)
  else if (ls.any (·.isDev) ∧ s.deviceBusy slot) ∨ !s.routesOpen (cellOf slot) ls then some s
  else none

end Sys2Proof.Machine
end

