-- ==== Sys2Proof/Machine/StreamWords.lean ====
section
/-! DEFINITION. Pattern and stream words (R364 to R368), what a queued stream command names, and the places that its
addresses have by the page tables as they stand. -/

namespace Sys2Proof.Machine

/-! ### Words -/

/-- Element `i` of a 256-bit word. -/
def elem64 (w : BitVec 256) (i : Nat) : Word := w.extractLsb' (64 * i) 64

/-- Bits of a 256-bit word as a number. -/
def bits256 (w : BitVec 256) (lo len : Nat) : Nat := w.toNat / 2 ^ lo % 2 ^ len

/-- R364: a valid pattern word. -/
def patOk (p : BitVec 256) : Bool :=
  decide (bits256 p 252 4 = 1 ∧ 1 ≤ patDims p ∧ patDims p ≤ 6 ∧ bits256 p 242 6 = 0) &&
    (List.range 6).all fun d =>
      if d < patDims p then decide (patBound p d ≠ 0) else decide (bits256 p (40 * d) 40 = 0)

/-- Hull of a pattern relative to its base: the first byte and the end (R55). -/
def patLo (p : BitVec 256) : Int :=
  ((List.range (patDims p)).foldl (fun n d => n + min 0 (patStride p d * ((patBound p d : Int) - 1))) 0) * patEsz p
def patHi (p : BitVec 256) : Int :=
  ((List.range (patDims p)).foldl (fun n d => n + max 0 (patStride p d * ((patBound p d : Int) - 1))) 0) * patEsz p + patEsz p

/-- Kinds of commands (R367, R385). -/
inductive CmdKind | get | put | copy | mcopy | send | mcast
  deriving DecidableEq, Repr

/-- Fields of a stream word (R366). -/
def swSlot (w : BitVec 256) : Nat := bits256 w 248 4
def swPort (w : BitVec 256) : Nat := bits256 w 245 3
def swDir (w : BitVec 256) : Nat := bits256 w 243 2
def swCvt (w : BitVec 256) : Bool := w.getLsbD 242
def swSfmt (w : BitVec 256) : Nat := bits256 w 238 4
def swDfmt (w : BitVec 256) : Nat := bits256 w 234 4
def swRel (w : BitVec 256) : Bool := w.getLsbD 233
def swRv (w : BitVec 256) : Bool := w.getLsbD 232
def swRing (w : BitVec 256) : Nat := bits256 w 229 3
def swDcell (w : BitVec 256) : Nat := bits256 w 204 17
def swDmc (w : BitVec 256) : Nat := bits256 w 198 6
def swSpoff (w : BitVec 256) : Nat := bits256 w 180 18
def swDspoff (w : BitVec 256) : Nat := bits256 w 162 18
def swVa (w : BitVec 256) : Word := sext 55 (BitVec.ofNat 64 (bits256 w 107 55))
def swDva (w : BitVec 256) : Word := sext 55 (BitVec.ofNat 64 (bits256 w 52 55))

/-- The kind that PORT and DIR name (R367). -/
def swKind (w : BitVec 256) : Option CmdKind :=
  if 4 ≤ swPort w then
    (if swDir w = 0 then some .get else if swDir w = 1 then some .put else if swDir w = 2 then some .copy else some .mcopy)
  else if swDir w = 1 then some .send else none

/-- Fields that the kind leaves unused are zero (R367). -/
def swUnusedZero (w : BitVec 256) : CmdKind → Bool
  | .get | .put => decide (swDcell w = 0 ∧ swDmc w = 0 ∧ swDspoff w = 0 ∧ swDva w = 0)
  | .copy => decide (swRv w = false ∧ swDcell w = 0 ∧ swDmc w = 0 ∧ swVa w = 0 ∧ swDva w = 0)
  | .mcopy => decide (swRv w = false ∧ swDcell w = 0 ∧ swDmc w = 0 ∧ swSpoff w = 0 ∧ swDspoff w = 0)
  | .send | .mcast => decide (swVa w = 0 ∧ swDva w = 0)

/-- Element bytes of formats 0 to 7 (R220). -/
def fmtBytes (f : Nat) : Nat :=
  if f = 0 then 8 else if f = 1 ∨ f = 7 then 4 else if f = 2 ∨ f = 3 then 2 else 1

/-- Bytes of a conversion format 0 to 5 (R220). -/
def cvtBytes (f : Nat) : Nat := fmtBytes f

/-- Source and destination element sizes of a command (R368). -/
def swSrcSize (w : BitVec 256) (p : BitVec 256) : Nat := if swCvt w then cvtBytes (swSfmt w) else patEsz p
def swDstSize (w : BitVec 256) (p : BitVec 256) : Nat := if swCvt w then cvtBytes (swDfmt w) else patEsz p

/-- R368: the conversion fields fit each other and the pattern's element size. -/
def swCvtOk (w p : BitVec 256) (k : CmdKind) : Bool :=
  if swCvt w then
    decide (swSfmt w ≠ swDfmt w ∧ swSfmt w ≤ 5 ∧ swDfmt w ≤ 5 ∧
      (if k = .put then cvtBytes (swDfmt w) else cvtBytes (swSfmt w)) = patEsz p)
  else decide (swSfmt w = 0 ∧ swDfmt w = 0)

/-- Size of a dense element (R368): the source's in a put, else the destination's. -/
def swDense (w p : BitVec 256) (k : CmdKind) : Nat := if k = .put then swSrcSize w p else swDstSize w p

/-! ### What a command names -/

/-- The kind of a queued command. -/
def Cmd.kind (k : Cmd) : CmdKind := if k.mcast.isSome then .mcast else (swKind k.word).getD .get

/-- Ranges of virtual addresses of a command: first byte and length, and whether it is the source. -/
def cmdVas (w p : BitVec 256) (k : CmdKind) : List (Word × Nat × Bool) :=
  let hull := (swVa w + BitVec.ofInt 64 (patLo p), (patHi p - patLo p).toNat)
  match k with
  | .get => [(hull.1, hull.2, true)]
  | .put => [(hull.1, hull.2, false)]
  | .mcopy => [(hull.1, hull.2, true), (swDva w, patCount p * swDstSize w p, false)]
  | .copy | .send | .mcast => []

/-- Scratchpad spans of this cell that a command names through the local window (R55). -/
def cmdWindows (w p : BitVec 256) (k : CmdKind) : List (Int × Int × Nat × Bool) :=
  (cmdVas w p k).filterMap fun r =>
    if windowOf r.1 = some false then
      let o : Int := r.1.toNat - winUser
      some (o, o + r.2.1, 0, r.2.2)
    else none

/-- The physical address and memory type that the tables give an address, without an access to them. -/
def State.peekFrom (s : State) (va : Word) (tbl lvl : Nat) : Nat → Option (Nat × MemType)
  | 0 => none
  | n + 1 =>
    let e : Word := BitVec.ofNat 64 (s.memRead (tbl + 8 * vaIndex va lvl) 8)
    if (pteReason e lvl).isSome then none
    else if lvl < 3 ∧ bits e 13 1 = 1 then s.peekFrom va (ptePa e) (lvl + 1) n
    else some (ptePa e + bits va 0 (if lvl = 2 then 29 else 16), pteType e)
def State.peek (s : State) (x : Xlate) (va : Word) : Option (Nat × MemType) :=
  if (windowOf va).isSome then none
  else if x.mode = .machine then some (va.toNat, (regionAt va.toNat).machineType)
  else
    let root := if va.getLsbD 54 then x.stbase else x.utbase
    if canonical va && root.getLsbD 0 then s.peekFrom va (bits root 16 36 * 65536) 1 3 else none

/-- A range of virtual addresses by pages of 64 KiB, at most 4,096 of them. -/
def pagePieces (va : Word) (n : Nat) : List (Word × Nat) :=
  if n = 0 then []
  else
    let a := va.toNat
    (List.range (Nat.min 4096 ((a % 65536 + n - 1) / 65536 + 1))).map fun j =>
      let lo := if j = 0 then a else (a / 65536 + j) * 65536
      (BitVec.ofNat 64 lo, Nat.min (a + n) ((a / 65536 + j + 1) * 65536) - lo)

/-- The pieces of a queued command's virtual ranges with their places, and whether they are its source. -/
def State.cmdPlaces (s : State) (k : Cmd) : List (Nat × MemType × Nat × Bool) :=
  if k.mcast.isSome then []
  else (cmdVas k.word k.pat k.kind).flatMap fun r =>
    (pagePieces r.1 r.2.1).filterMap fun p => (s.peek k.xl p.1).map fun q => (q.1, q.2, p.2, r.2.2)

/-- The command may read or write DEVICE memory, or write it (R29, R152). -/
def State.cmdDevice (s : State) (k : Cmd) : Bool := (s.cmdPlaces k).any fun q => decide (q.2.1 = .device)
def State.cmdStoresDevice (s : State) (k : Cmd) : Bool := (s.cmdPlaces k).any fun q => decide (q.2.1 = .device) && !q.2.2.2

end Sys2Proof.Machine
end

