-- ==== Sys2Proof/Machine/LoadStore.lean ====
section
/-! DEFINITION. Scalar loads and stores, ordered accesses, deprecated LDP, prefetch hints
(R357 to R359, R266 to R270), and what releases wait for and acquires do (R145). -/

namespace Sys2Proof.Machine

open Host (Outcome)

/-- The executing cell, the thread's number in it and its mode. -/
def State.cc (s : State) : Nat := cellOf s.cur
def State.ct (s : State) : Nat := threadOf s.cur
def State.mode (s : State) : Mode := s.thr.mode

/-- A loaded value goes to `d` (R357, R358): pending, or nowhere when `d` is 31. -/
def State.deliver (s : State) (d : Reg) (x : Word) (pois : Bool) : State :=
  if d = 31 then s else s.upd (·.pendScalar d x pois 0)

/-! ### Use of register fields (R320 to R338) -/

/-- What the vd field of an instruction names. -/
inductive VDst | none | vec | mask | scalar | pair
  deriving DecidableEq, Repr

/-- Register fields that are vector sources, and what vd is (R320 to R335). -/
structure VUse where
  a : Bool
  b : Bool
  d : Bool
  dst : VDst
  deriving DecidableEq, Repr

/-- The uses of an instruction kind; predicates name their group apart. -/
def VKind.use : VKind → VUse
  | .vabs | .vmv | .vsext | .vzext | .vfsqrt | .vfneg | .vfabs | .vfclass | .vfcvtw | .vfcvtn
  | .vfcvti | .vicvtf | .vfcvtiu | .viucvtf | .vslideup | .vslidedn | .vcompress | .vrev => ⟨true, false, false, .vec⟩
  | .vsplat | .viota | .vins | .vld | .vldOffset | .vlds | .vldff | .vld2d => ⟨false, false, false, .vec⟩
  | .vfmadd | .vfmsub | .vfnmadd | .vfnmsub | .vbfmadd | .vfdot2 | .vbfdot2 | .vdot4 | .vdot4u | .vmacc =>
    ⟨true, true, true, .vec⟩
  | .vfwma | .vbfwma => ⟨true, true, true, .pair⟩
  | .vcmpeq | .vcmpne | .vcmplt | .vcmple | .vcmpltu | .vcmpleu | .vfcmpeq | .vfcmplt | .vfcmple => ⟨true, true, false, .mask⟩
  | .vwhile | .mand | .mor | .mxor | .mandn | .mnot | .mset => ⟨false, false, false, .mask⟩
  | .vorient2 | .vorient3 | .vincirc | .vinsph | .vsegx | .vorient2t | .vorient3t | .vincirct | .vinspht =>
    ⟨false, false, false, .vec⟩
  | .mpopc | .mfirst => ⟨false, false, false, .scalar⟩
  | .vext | .vredsum | .vredmin | .vredmax | .vredminu | .vredmaxu | .vfredsum | .vfredmin | .vfredmax =>
    ⟨true, false, false, .scalar⟩
  | .vldx => ⟨false, true, false, .vec⟩
  | .vst | .vstOffset | .vsts | .vst2d => ⟨false, false, true, .none⟩
  | .vstx => ⟨false, true, true, .none⟩
  | .vamoadd | .vamoswap | .vamomin | .vamomax | .vamominu | .vamomaxu | .vamoand | .vamoor | .vamoxor | .vamofadd =>
    ⟨false, true, true, .vec⟩
  | .vspill | .vfill | .tcfg | .acfg | .tzero | .azero | .tgetr | .tsetr | .agetr | .asetr | .ttrans | .acvt
  | .tld | .tst | .ald | .ast | .tmmaD | .tmmaHf | .tmmaBf | .tmmaE4e4 | .tmmaE4e5 | .tmmaE5e4 | .tmmaE5e5
  | .tmmaI8 | .tmmaC8 | .tmmaC6 | .tmmaC4 => ⟨false, false, false, .none⟩
  | .vadd | .vsub | .vmul | .vmulh | .vmulhu | .vand | .vor | .vxor | .vsll | .vsrl | .vsra | .vmin | .vmax | .vminu
  | .vmaxu | .vsadd | .vsaddu | .vssub | .vssubu | .vfadd | .vfsub | .vfmul | .vfdiv | .vfmin | .vfmax | .vfcpsgn
  | .vfxsgn | .vbadd | .vbsub | .vbmul | .vgather => ⟨true, true, false, .vec⟩

/-! ### Rings (R336 to R338) -/

/-- The ring that a pop register supplies from, latched at issue. -/
def QEntry.popRing (e : QEntry) (r : Nat) : Option Nat :=
  if e.ringEn ∧ (r = 28 ∨ r = 29) then e.rings.getD (r - 28) none else none

/-- The ring that a push register appends to. -/
def QEntry.pushRing (e : QEntry) (r : Nat) : Option Nat :=
  if e.ringEn ∧ (r = 30 ∨ r = 31) then e.rings.getD (r - 28) none else none

/-- Pop registers among the vector sources, each once. -/
def QEntry.pops (e : QEntry) : List (Nat × Nat) :=
  let f := fun (u : Bool) (r : Nat) => if u then (match e.popRing r with | some q => [(r, q)] | none => []) else []
  let xs := f e.kind.use.a e.a
  if e.kind.use.b ∧ (e.b ≠ e.a ∨ !e.kind.use.a) then xs ++ f e.kind.use.b e.b else xs

/-- Predicates, which read and write v28 to v31 as plain bits (R391). -/
def VKind.isPredicate : VKind → Bool
  | .vorient2 | .vorient3 | .vincirc | .vinsph | .vsegx | .vorient2t | .vorient3t | .vincirct | .vinspht => true
  | _ => false

/-- The ring of the push register, if the destination is one. -/
def QEntry.push? (e : QEntry) : Option Nat :=
  if e.kind.use.dst = .vec ∧ !e.kind.isPredicate then e.pushRing e.d else none

/-- The rings that a queued instruction pops or pushes. -/
def QEntry.ringUse (e : QEntry) : List Nat := e.pops.map (·.2) ++ e.push?.toList

/-! ### Events of queued instructions (R124) -/

/-- Bytes that a queued instruction may access on the LS path. -/
inductive LsSpan | nothing | anything | span (lo hi : Nat)

/-- The LS-path bytes of a queue entry; only unit-stride accesses are bounded. -/
def QEntry.lsSpan (e : QEntry) : LsSpan :=
  let unit := fun (a : Word) =>
    if e.len = 0 then LsSpan.nothing
    else if 2 ^ 64 ≤ a.toNat + e.len * ewBytes e.ew then .anything else .span a.toNat (a.toNat + e.len * ewBytes e.ew)
  match e.kind with
  | .vld | .vldff | .vst => unit e.sa
  | .vldOffset | .vstOffset => unit (e.sa + e.sb)
  | .vlds | .vsts | .vldx | .vstx | .vld2d | .vst2d => if e.len = 0 then .nothing else .anything
  | .vspill | .vfill | .tld | .tst | .ald | .ast => .anything
  | _ => .nothing

/-- A queued lane atomic. -/
def QEntry.laneEvents (e : QEntry) : Bool :=
  match e.kind with
  | .vamoadd | .vamoswap | .vamomin | .vamomax | .vamominu | .vamomaxu | .vamoand | .vamoor | .vamoxor | .vamofadd => true
  | _ => false

/-- A queued instruction that has events on the LS path: accesses to memory, ring pops and pushes (R124). -/
def QEntry.lsEvents (e : QEntry) : Bool :=
  (match e.lsSpan with | .nothing => false | _ => true) ||
    (decide (0 < e.len) && !e.ringUse.isEmpty)

/-- A queued instruction that has events on the LS or LA path. -/
def QEntry.hasEvents (e : QEntry) : Bool := e.lsEvents || e.laneEvents

/-- Two ranges of virtual addresses may name the same bytes: they overlap within a page of 64 KiB. -/
def mayAlias (lo len va n : Nat) : Bool :=
  decide ((va % 65536 + 65536 - lo % 65536) % 65536 < len ∨ (lo % 65536 + 65536 - va % 65536) % 65536 < n)

/-- An older queued instruction of the thread may still access some of the `n` bytes at `va`, under this or
another address: the scalar access waits for it (R130, R349). DEDUCED (log 24). -/
def Thread.lsBusy (t : Thread) (va : Word) (n : Nat) : Bool :=
  (t.vq ++ t.tq).any fun e =>
    match e.lsSpan with
    | .nothing => false
    | .anything => true
    | .span lo hi => mayAlias lo (hi - lo) va.toNat n

/-- Some of the scratchpad bytes lie in a ring that an older queued instruction of the slot pops or pushes (R124, R130). -/
def State.ringBusy (s : State) (slot : Nat) (q : List QEntry) (ls : List Loc) : Bool :=
  let c := s.cell (cellOf slot)
  let own := s.spadBytesOf (cellOf slot) ls
  !own.isEmpty && q.any fun e => e.ringUse.any fun r =>
    match Sparse.find? r c.rings with
    | some g => own.any fun o => decide (g.base * 128 ≤ o ∧ o < g.base * 128 + g.size * 128)
    | none => false

/-- A near atomic of the thread on one of the lines has not returned: its line may still stand in the L1 (R53). -/
def Thread.nearBusy (t : Thread) (ls : List Loc) : Bool :=
  t.pend.any fun p => match p.line with
    | some l => ls.any fun x => match x with | .mem pa _ => decide (pa / 128 = l) | _ => false
    | none => false

/-- A scalar access waits for older accesses of the thread: a DEVICE access for every queued one (R29, R152), one to the
bytes of a ring for queued pops and pushes (R130), one to the line of a near atomic for its return (R136). -/
def State.afterQueue (s : State) (ls : List Loc) : Bool :=
  (ls.any (·.isDev) && (s.thr.vq ++ s.thr.tq).any (·.lsEvents)) || s.ringBusy s.cur (s.thr.vq ++ s.thr.tq) ls || s.thr.nearBusy ls

/-- The state in which a scalar read of the executing thread waits, if it cannot be performed yet. -/
def State.waitRead (s : State) (ls : List Loc) : Option State :=
  if s.afterQueue ls then some s else s.holdRead s.cur none ls

/-- The same for a scalar write. -/
def State.waitWrite (s : State) (ls : List Loc) : Option State :=
  if s.afterQueue ls then some s else s.holdWrite s.cur none ls

/-- An access of the executing thread to `n` bytes at `va` (R18 to R27, R37): `f` goes on with its locations. -/
def State.reach (s : State) (path : Nat) (k : AccKind) (va : Word) (n : Nat) (f : State → List Loc → State) : State :=
  match s.access s.cur s.thr.xlate path k va n with
  | .fault s' e => s'.accTrap e
  | .migrate s' p => s'.onMigrate p
  | .wait s' => s'.stall
  | .ok s' ls => f s' ls

/-- The progress of the executing thread's access of `n` bytes at `va`. -/
def Thread.partOf (t : Thread) (va : Word) (n : Nat) (wr : Bool) : PartAccess :=
  match t.part with
  | some p => if p.va = va ∧ p.n = n ∧ p.wr = wr then p else ⟨va, n, wr, 0, 0, false⟩
  | none => ⟨va, n, wr, 0, 0, false⟩

/-- The access is performed byte by byte (R127): misaligned, while elements are steps of their own. -/
def State.byBytes (s : State) (va : Word) (n : Nat) : Bool := s.apart && decide (va.toNat % n ≠ 0)

/-- One more byte of a misaligned read, in ascending order. DESIGN CHOICE (log 124). -/
def State.readByte (s : State) (va : Word) (n : Nat) (ls : List Loc) (f : State → Nat → Bool → State) : State :=
  let p := s.thr.partOf va n false
  let r := s.readLocs s.cur false s.mode ((ls.drop p.done).take 1)
  let q := { p with done := p.done + 1, val := p.val + r.1 * 2 ^ (8 * p.done), pois := p.pois || r.2.1 }
  if q.done < n then (r.2.2.upd fun t => { t with part := some q }).stall
  else f (r.2.2.upd fun t => { t with part := none }) q.val q.pois

/-- One more byte of a misaligned write. -/
def State.writeByte (s : State) (va : Word) (n v : Nat) (ls : List Loc) (f : State → State) : State :=
  let p := s.thr.partOf va n true
  let s1 := s.writeLocs s.cur false s.mode ((ls.drop p.done).take 1) (v / 2 ^ (8 * p.done) % 256) false
  if p.done + 1 < n then (s1.upd fun t => { t with part := some { p with done := p.done + 1 } }).stall
  else f (s1.upd fun t => { t with part := none })

/-- An LS-path read at `va` by the executing thread: `f` goes on with value and poison. -/
def State.lsRead (s : State) (va : Word) (n : Nat) (f : State → Nat → Bool → State) : State :=
  if s.thr.lsBusy va n then s.stall
  else s.reach pathLS .read va n fun s ls =>
    match s.waitRead ls with
    | some s' => s'.stall
    | none =>
      if s.byBytes va n then s.readByte va n ls f
      else
        let r := s.readLocs s.cur false s.mode ls
        f r.2.2 r.1 r.2.1

/-- An LS-path write of `n` bytes at `va` by the executing thread. -/
def State.lsWrite (s : State) (va : Word) (n v : Nat) (f : State → State) : State :=
  if s.thr.lsBusy va n then s.stall
  else s.reach pathLS .write va n fun s ls =>
    match s.waitWrite ls with
    | some s' => s'.stall
    | none => if s.byBytes va n then s.writeByte va n v ls f else f (s.writeLocs s.cur false s.mode ls v false)

/-- A scalar load (R357). -/
def State.load (s : State) (mk : Bool) (d a : Reg) (w : Width) (signed : Bool) (i : BitVec 12) : State :=
  s.guarded (a :: eaReads i) [d] fun s =>
    s.lsRead (s.thr.ea (s.rs a) i) (widthBytes w) fun s v p =>
      (s.deliver d (extendLoad w signed v) p).advance mk

/-- LD (R357). -/
def execLd (s : Bool) (d a : Reg) (w : Width) (i : BitVec 12) (st : State) : Outcome State Fault Refusal :=
  .next (st.load s d a w true i)

/-- LDU (R357). -/
def execLdu (s : Bool) (d a : Reg) (w : Width) (i : BitVec 12) (st : State) : Outcome State Fault Refusal :=
  .next (st.load s d a w false i)

/-- ST (R357). -/
def execSt (s : Bool) (b a : Reg) (w : Width) (i : BitVec 12) (st : State) : Outcome State Fault Refusal :=
  .next (st.guarded (b :: a :: eaReads i) [] fun t =>
    t.lsWrite (t.thr.ea (t.rs a) i) (widthBytes w) ((t.rs b).toNat % 2 ^ (8 * widthBytes w)) fun t => t.advance s)

/-! ### Releases and acquires (R145) -/

/-- Paths as bits of a path set (R261). -/
def psLS : BitVec 5 := 1
def psST : BitVec 5 := 2
def psLA : BitVec 5 := 4
def psFA : BitVec 5 := 8
def psMS : BitVec 5 := 16
def psAll : BitVec 5 := 31

/-- A stream command that writes memory and no scratchpad (R367). -/
def Cmd.toMemory (k : Cmd) : Bool := decide ((k.kind = .put ∨ k.kind = .mcopy) ∧ windowOf (swDva k.word) = none ∧ windowOf (swVa k.word) = none)

/-- Writes of the slot's stream commands that homes have not performed, as far as scope `c` waits for them. -/
def State.streamWrites (s : State) (slot : Nat) (c : Scope) : Bool :=
  s.openPkts.any fun p =>
    match p.nc with
    | some o => (match o.who with | .stream t _ => decide (t = slot ∧ p.op ≠ .ncrsp) && s.inReach c p.line | _ => false)
    | none => false

/-- Whether earlier events of the slot's thread on the paths of `p` have not been performed: queued vector and
tile accesses (LS, LA), stream commands (ST), far atomics (FA). -/
def State.underWay (s : State) (slot : Nat) (p : BitVec 5) : Bool :=
  let t := s.thread slot
  (p.getLsbD 0 && (t.vq ++ t.tq).any (·.lsEvents)) ||
  (p.getLsbD 1 && (s.cell (cellOf slot)).stream.any (fun k => decide (k.slot = slot))) ||
  (p.getLsbD 2 && t.vq.any (·.laneEvents)) ||
  (p.getLsbD 3 && t.pend.any (·.far.isSome))

/-- DEVICE writes of the slot's stream commands that targets have not performed. -/
def State.streamDevice (s : State) (slot : Nat) (c : Scope) : Bool :=
  s.openPkts.any fun p =>
    match p.nc with
    | some o => (match o.who with | .stream t _ => decide (t = slot ∧ p.op = .ncwr) && o.dev && s.inReach c p.line | _ => false)
    | none => false

/-- What a release of scope `c` waits for before the buffer drains (R145, R152): the thread's queued accesses,
its DEVICE writes, near atomics, its stream commands as far as the scope asks, far atomics, deposits and increments.
DEDUCED (log 25). -/
def State.relWaits (s : State) (slot : Nat) (p : BitVec 5) (c : Scope) : Bool :=
  let wide := decide (3 ≤ scopeCode c)
  s.underWay slot (p &&& 0b11101) ||
  (p.getLsbD 0 && (s.requestsIn c (.scalar slot) ++ s.requestsIn c (.queue slot)).any fun o => decide (o.1 = .ncwr)) ||
  (p.getLsbD 0 && (s.thread slot).pend.any (·.line.isSome)) ||
  (p.getLsbD 1 && (s.cell (cellOf slot)).stream.any fun k =>
    decide (k.slot = slot) && (decide (c ≠ .cell) || !k.toMemory || s.cmdStoresDevice k)) ||
  (p.getLsbD 1 && s.streamDevice slot c) ||
  (p.getLsbD 1 && wide && s.streamWrites slot c) ||
  (p.getLsbD 4 && s.messages.any (fun m => decide (m.from_ = slot)))

/-- The drain of a release on the paths of `p` (R50, R145): `.cell` scope drains nothing. -/
def State.relDrain (s : State) (slot : Nat) (p : BitVec 5) (c : Scope) : State :=
  if p.getLsbD 0 ∧ c ≠ .cell then s.drainAll (cellOf slot) else s

/-- What the release waits for behind the drain (R145): homes that have not acknowledged drained entries, and
from `.frame` on writes that the comb's slice has accepted and not performed. DESIGN CHOICE (log 115). -/
def State.relOpen (s : State) (slot : Nat) (p : BitVec 5) (c : Scope) : Bool :=
  p.getLsbD 0 &&
    ((decide (c ≠ .cell) && !(s.requestsIn c (.buffer (cellOf slot))).isEmpty) ||
      (decide (3 ≤ scopeCode c) && s.accepted.any fun a => decide (a.comb = combOf (cellOf slot)) && s.inReach c a.line))

/-- The effect of an acquire on the paths of `p` (R52, R145). -/
def State.acquire (s : State) (slot : Nat) (p : BitVec 5) (c : Scope) : State :=
  if p.getLsbD 0 ∧ c ≠ .cell then s.l1Invalidate (cellOf slot) else s

/-- A release of the slot's thread can be performed now. -/
def State.relReady (s : State) (slot : Nat) (p : BitVec 5) (c : Scope) : Bool :=
  !s.relWaits slot p c && !(s.relDrain slot p c).relOpen slot p c

/-- A release by the executing thread before `f`: it waits, stalled in order, and drains. -/
def State.released (s : State) (p : BitVec 5) (c : Scope) (f : State → State) : State :=
  if s.relWaits s.cur p c then s.stall
  else if (s.relDrain s.cur p c).relOpen s.cur p c then (s.relDrain s.cur p c).stall
  else f (s.relDrain s.cur p c)

/-- LDA (R359): an acquire read. -/
def execLda (s : Bool) (d a : Reg) (c : Scope) (w : Width) (st : State) : Outcome State Fault Refusal :=
  .next (st.guarded [a] [d] fun t =>
    if (t.rs a).toNat % widthBytes w ≠ 0 then t.badOperand (t.rs a)
    else t.lsRead (t.rs a) (widthBytes w) fun t v p =>
      ((t.deliver d (extendLoad w true v) p).acquire t.cur psLS c).advance s)

/-- STL (R359): a release write, sent on to the slice at once. DEDUCED (log 26). -/
def execStl (s : Bool) (a b : Reg) (c : Scope) (w : Width) (st : State) : Outcome State Fault Refusal :=
  .next (st.guarded [a, b] [] fun t =>
    if (t.rs a).toNat % widthBytes w ≠ 0 then t.badOperand (t.rs a)
    else t.released psLS c fun t =>
      t.lsWrite (t.rs a) (widthBytes w) ((t.rs b).toNat % 2 ^ (8 * widthBytes w)) fun t =>
        (t.relDrain t.cur psLS c).advance s)

/-! ### Deprecated instructions and hints -/

/-- A completed deprecated instruction is counted for the context (R266, R420). DEDUCED (log 107). -/
def State.countDeprecated (s : State) : State :=
  let ctx := bits (s.thr.csrGet csrPSTATE) 48 16
  let w := Sparse.getD s.depcnt ctx 0
  let s1 := { s with depcnt := Sparse.set ctx (satAdd w 0 32 1) s.depcnt }
  if w.getLsbD 63 then s1.postPend s.cur 21 else s1

/-- LDP (R270): both halves are translated and checked before either read. -/
def execLdp (s : Bool) (d a : Reg) (i : BitVec 12) (st : State) : Outcome State Fault Refusal :=
  .next (
    if d.toNat % 2 = 1 ∨ 28 < d.toNat then st.illegal (BitVec.ofBool s ++ (0x39 : BitVec 6) ++ d ++ a ++ (0 : BitVec 3) ++ i)
    else st.guarded [a] [d, d + 1] fun t =>
      let va := t.rs a + ((i.signExtend 64) <<< 3)
      if t.thr.lsBusy va 16 then t.stall
      else t.reach pathLS .read va 8 fun t l1 => t.reach pathLS .read (va + 8) 8 fun t l2 =>
        match t.waitRead l1 with
        | some t' => t'.stall
        | none =>
          match t.waitRead l2 with
          | some t' => t'.stall
          | none =>
            let lo := t.readLocs t.cur false t.mode l1
            let hi := lo.2.2.readLocs t.cur false t.mode l2
            (((hi.2.2.deliver d (BitVec.ofNat 64 lo.1) lo.2.1).deliver (d + 1) (BitVec.ofNat 64 hi.1) hi.2.1).countDeprecated).advance s)

/-- The line an HPF names: present translation, NORMAL, readable (and writable), not migrating (R269). -/
def State.hpfLine (s : State) (a : Reg) (i : BitVec 12) (wr : Bool) : Option Nat :=
  let t := s.thr
  let va := t.readS a + i.signExtend 64
  if a ≠ 31 ∧ t.pend.any (·.blocksScalar a.toNat false) ∨ !canonical va ∨ (windowOf va).isSome ∨ t.mode = .machine then none
  else
    let page := bits va 16 39
    let x := t.xlate
    match ((s.cl.tlb ++ Sparse.getD s.combTlb (combOf s.cc) []).find? (·.hits x.asid page)) with
    | none => none
    | some e =>
      let pa := e.pa + (bits va 0 55 - e.page * 65536)
      if pteType e.pte = .normal ∧ permReason t.mode .read e.pte (s.region pa) true = none ∧
          (!wr ∨ bits e.pte 2 1 = 1) ∧ (s.region pa = .hbm ∨ s.region pa = .tier2) then some (pa / 128)
      else none

/-- HPF.l1 (R269): the line is requested into the slice and the L1. -/
def execHpfL1 (s : Bool) (a : Reg) (i : BitVec 12) (st : State) : Outcome State Fault Refusal :=
  .next ((match st.hpfLine a i false with
    | some l => (st.localRead (combOf st.cc) l).l1Miss st.cc l
    | none => st).advance s)

/-- HPF.s (R269). -/
def execHpfS (s : Bool) (a : Reg) (i : BitVec 12) (st : State) : Outcome State Fault Refusal :=
  .next ((match st.hpfLine a i false with
    | some l => st.localRead (combOf st.cc) l
    | none => st).advance s)

/-- HPF.sx (R269): the line is requested in M. -/
def execHpfSx (s : Bool) (a : Reg) (i : BitVec 12) (st : State) : Outcome State Fault Refusal :=
  .next ((match st.hpfLine a i true with
    | some l => st.localWrite (combOf st.cc) l
    | none => st).advance s)

/-- HINT_NOP (R267): a no-op that may park its thread. -/
def execHintNop (s : Bool) (_body : BitVec 31) (st : State) : Outcome State Fault Refusal :=
  .next (st.advance s)

/-- ILLEGAL_INSTRUCTION (R265): the trap with TVAL holding the word; in a loop body a word of a
major that R294 excludes also ends the loop. -/
def execIllegalInstruction (w : BitVec 32) (st : State) : Outcome State Fault Refusal :=
  let m := (w.extractLsb' 25 6).toNat
  .next (if (0x10 ≤ m ∧ m ≤ 0x19) ∨ m = 0x37 ∨ (m = 0x38 ∧ w.extractLsb' 0 3 = 7)
    then st.notInBody w fun t => t.illegal w else st.illegal w)

end Sys2Proof.Machine
end

