-- ==== Sys2Proof/Machine/Atomics.lean ====
section
/-! DEFINITION. Near and far atomics (R360 to R362, R104 to R106, R143). -/

namespace Sys2Proof.Machine

open Host (Outcome)

/-- Operations of atomics and lane atomics (R334, R360). -/
inductive AmoOp | add | swap | cas | and | or | xor | min | max | minu | maxu | fadd
  deriving DecidableEq, Repr

/-- The new value of an operand of `w` bits, the flags, and whether it is written (R360). `cmp` is
the comparison operand of CAS; `rm` rounds FADD. -/
def amoApply (op : AmoOp) (w : Nat) (rm : RoundMode) (old b cmp : Nat) : Nat × Flags × Bool :=
  let x := old % 2 ^ w
  let y := b % 2 ^ w
  let sx := (BitVec.ofNat w x).toInt
  let sy := (BitVec.ofNat w y).toInt
  match op with
  | .add => ((x + y) % 2 ^ w, 0, true)
  | .swap => (y, 0, true)
  | .cas => if x = cmp % 2 ^ w then (y, 0, true) else (x, 0, false)
  | .and => (x &&& y, 0, true)
  | .or => (x ||| y, 0, true)
  | .xor => (x ^^^ y, 0, true)
  | .min => (if sx ≤ sy then x else y, 0, true)
  | .max => (if sx ≤ sy then y else x, 0, true)
  | .minu => (Nat.min x y, 0, true)
  | .maxu => (Nat.max x y, 0, true)
  | .fadd =>
    let r := (if w = 32 then fmtS else if w = 16 then fmtH else fmtD).add rm x y
    (r.1, r.2, true)

/-- What `d` receives of an old value (R360): the .w forms sign-extend, binary32 zero-extends. -/
def amoOld (op : AmoOp) (n : Nat) (old : Nat) : Word :=
  if n = 4 ∧ op ≠ .fadd then sext 32 (BitVec.ofNat 64 old) else BitVec.ofNat 64 old

/-- Operations of the far-atomic unit by code. -/
def amoOps : List AmoOp := [.add, .swap, .cas, .and, .or, .xor, .min, .max, .minu, .maxu, .fadd]
def amoCode (op : AmoOp) : Nat := amoOps.idxOf op
def amoOfCode (n : Nat) : AmoOp := amoOps.getD n .add

/-- The outcome of a near atomic returns (R358, R361): RESULT_WRITTEN writes it, and the L1 line `line` goes
then (R53). Without destination only poison is still under way. -/
def State.nearReturn (s : State) (d : Reg) (va : Word) (x : Word) (pois : Bool) (fl : Flags) (line : Option Nat) : State :=
  if d = 31 ∧ !pois then
    (match line with | some l => s.l1Drop (cellOf s.cur) l | none => s).upd (·.raise fl)
  else s.upd fun t => { t with pend := t.pend ++ [⟨.scalar, d.toNat, .all, some x, pois, fl, none, none, va, line⟩] }

/-- A near atomic at the slice that owns its line, or at a pool (R361, R362): the old value with its poison,
and the write of a new value. -/
structure NearPlace where
  old : Nat
  pois : Bool
  write : State → Nat → State
  line : Option Nat

/-- Where a near atomic of `n` bytes acts; `none`: its line must come to the slice first. -/
def State.nearPlace (s : State) (n : Nat) (ls : List Loc) : Option NearPlace :=
  match ls with
  | .mem pa _ :: _ =>
    let comb := combOf s.cc
    if s.sliceOwns comb (pa / 128) then
      some ⟨s.memRead pa n, (s.slice comb (pa / 128)).pois,
        fun s v => s.sliceStore comb (pa / 128) (putBytes 0 (pa % 128) n v) (byteMask (pa % 128) n) false, some (pa / 128)⟩
    else none
  | _ =>
    let r := s.unitRead s.cc s.mode ls
    some ⟨r.1, r.2.1, fun s v => s.writeLocs s.cur false s.mode ls v false, none⟩

/-- A near atomic at its locations (R361, R362). -/
def State.nearAt (s : State) (mk : Bool) (op : AmoOp) (n : Nat) (d b : Reg) (an : Ann) (c : Scope) (va : Word) (ls : List Loc) :
    State :=
  match s.waitWrite ls with
  | some s' => s'.stall
  | none =>
    let s1 := match ls with
      | .mem pa _ :: _ => s.drainLine s.cc (pa / 128)
      | .own o :: _ => s.poolCorrect s.cc o n
      | .peer c o _ :: _ => s.poolCorrect c o n
      | _ => s
    match s1.nearPlace n ls with
    | none =>
      (match ls with | .mem pa _ :: _ => s1.localWrite (combOf s1.cc) (pa / 128) | _ => s1).stall
    | some w =>
      let classS := decide (op = AmoOp.fadd) && decide (s1.thr.fpEn ≠ (0 : Flags))
      let r := amoApply op (8 * n) (fpRmOf (s1.thr.csrGet csrFPCTL)) w.old (s1.rs b).toNat (s1.rs d).toNat
      let fin := fun (s : State) => (if annAcq an then s.acquire s.cur psLS c else s).advance mk
      if w.pois then
        if classS then s1.trap { code := 0x0B, tval := va } else fin (s1.nearReturn d va 0 true 0 w.line)
      else if classS && decide (r.2.1 &&& s1.thr.fpEn ≠ (0 : Flags)) then
        (s1.upd (·.raise r.2.1)).trap { code := 0x06, tval := r.2.1.setWidth 64 }
      else
        let s2 := if r.2.2 then w.write s1 r.1 else s1
        let x := amoOld op n w.old
        fin (if classS then
            ((match w.line with | some l => s2.l1Drop (cellOf s2.cur) l | none => s2).upd (·.raise r.2.1)).ws d x
          else s2.nearReturn d va x false r.2.1 w.line)

/-- The request of a far atomic (R85, R106). -/
def State.farOp (s : State) (op : AmoOp) (n : Nat) (b d : Reg) (pa : Nat) : NcOp :=
  let t := s.thr
  { NcOp.new (.scalar s.cur) with
    addr := pa
    n := n
    aop := amoCode op + 16 * (t.csrGet csrFPCTL).toNat
    val := s.rs b
    cmpv := s.rs d
    fp := decide (op = AmoOp.fadd)
    gang := optNat t.gang
    ctx := bits (t.csrGet csrPSTATE) 48 16
    rank := t.rank }

/-- A far atomic leaves for the home of its line, behind what the thread stored to the line (R50, R143). With
an acquire the thread goes on when the result has come (R145). -/
def State.farAt (s : State) (mk : Bool) (op : AmoOp) (n : Nat) (d b : Reg) (an : Ann) (va : Word) (ls : List Loc) : State :=
  match ls with
  | .mem pa _ :: _ =>
    let s1 := s.drainLine s.cc (pa / 128)
    if s1.writeWaits (combOf s1.cc) (pa / 128) then s1.stall
    else
      let tag := s1.nextTag
      let s2 := (s1.sendNc (combOf s1.cc) .faop (pa / 128) false (s1.farOp op n b d pa)).upd fun t =>
        { t with pend := t.pend ++ [⟨.scalar, d.toNat, .all, none, false, 0, some tag, none, va, none⟩] }
      if annAcq an then (s2.advance false).parkAs (.far tag mk) else s2.advance mk
  | _ => s

/-- An atomic of `n` bytes (R361, R362). -/
def State.atomic (s : State) (mk : Bool) (far : Bool) (op : AmoOp) (n : Nat) (d a b : Reg) (an : Ann) (c : Scope) : State :=
  s.guarded (if op = .cas then [a, b, d] else [a, b]) [d] fun s =>
    let va := s.rs a
    let go := fun (s : State) =>
      if far then
        if s.thr.lsBusy (BitVec.ofNat 64 (va.toNat / 128 * 128)) 128 then s.stall
        else s.reach pathFA .far va n fun s ls => s.farAt mk op n d b an va ls
      else
        if s.thr.lsBusy va n then s.stall
        else s.reach pathLS .near va n fun s ls => s.nearAt mk op n d b an c va ls
    if va.toNat % n ≠ 0 then s.badOperand va
    else if annRel an then s.released (if far then psFA else psLS) c go
    else go s

/-- AMOADD (R360, R361): `w` selects the .d form. -/
def execAmoadd (s : Bool) (d a b : Reg) (w : Bool) (n : Ann) (c : Scope) (st : State) : Outcome State Fault Refusal :=
  .next (st.atomic s false .add (if w then 8 else 4) d a b n c)

/-- AMOSWAP (R360, R361): `w` selects the .d form. -/
def execAmoswap (s : Bool) (d a b : Reg) (w : Bool) (n : Ann) (c : Scope) (st : State) : Outcome State Fault Refusal :=
  .next (st.atomic s false .swap (if w then 8 else 4) d a b n c)

/-- AMOCAS (R360, R361): `w` selects the .d form. -/
def execAmocas (s : Bool) (d a b : Reg) (w : Bool) (n : Ann) (c : Scope) (st : State) : Outcome State Fault Refusal :=
  .next (st.atomic s false .cas (if w then 8 else 4) d a b n c)

/-- AMOAND (R360, R361). -/
def execAmoand (s : Bool) (d a b : Reg) (n : Ann) (c : Scope) (st : State) : Outcome State Fault Refusal :=
  .next (st.atomic s false .and 8 d a b n c)

/-- AMOOR (R360, R361). -/
def execAmoor (s : Bool) (d a b : Reg) (n : Ann) (c : Scope) (st : State) : Outcome State Fault Refusal :=
  .next (st.atomic s false .or 8 d a b n c)

/-- AMOXOR (R360, R361). -/
def execAmoxor (s : Bool) (d a b : Reg) (n : Ann) (c : Scope) (st : State) : Outcome State Fault Refusal :=
  .next (st.atomic s false .xor 8 d a b n c)

/-- AMOMIN (R360, R361). -/
def execAmomin (s : Bool) (d a b : Reg) (n : Ann) (c : Scope) (st : State) : Outcome State Fault Refusal :=
  .next (st.atomic s false .min 8 d a b n c)

/-- AMOMAX (R360, R361). -/
def execAmomax (s : Bool) (d a b : Reg) (n : Ann) (c : Scope) (st : State) : Outcome State Fault Refusal :=
  .next (st.atomic s false .max 8 d a b n c)

/-- AMOMINU (R360, R361). -/
def execAmominu (s : Bool) (d a b : Reg) (n : Ann) (c : Scope) (st : State) : Outcome State Fault Refusal :=
  .next (st.atomic s false .minu 8 d a b n c)

/-- AMOMAXU (R360, R361). -/
def execAmomaxu (s : Bool) (d a b : Reg) (n : Ann) (c : Scope) (st : State) : Outcome State Fault Refusal :=
  .next (st.atomic s false .maxu 8 d a b n c)

/-- AMOFADD.s (R360 to R362). DEDUCED (log 52). -/
def execAmofaddS (s : Bool) (d a b : Reg) (n : Ann) (c : Scope) (st : State) : Outcome State Fault Refusal :=
  .next (st.atomic s false .fadd 4 d a b n c)

/-- AMOFADD.d (R360 to R362). DEDUCED (log 53). -/
def execAmofaddD (s : Bool) (d a b : Reg) (n : Ann) (c : Scope) (st : State) : Outcome State Fault Refusal :=
  .next (st.atomic s false .fadd 8 d a b n c)

/-- FAMOADD (R360, R361): `w` selects the .d form. -/
def execFamoadd (s : Bool) (d a b : Reg) (w : Bool) (n : Ann) (c : Scope) (st : State) : Outcome State Fault Refusal :=
  .next (st.atomic s true .add (if w then 8 else 4) d a b n c)

/-- FAMOSWAP (R360, R361): `w` selects the .d form. -/
def execFamoswap (s : Bool) (d a b : Reg) (w : Bool) (n : Ann) (c : Scope) (st : State) : Outcome State Fault Refusal :=
  .next (st.atomic s true .swap (if w then 8 else 4) d a b n c)

/-- FAMOCAS (R360, R361): `w` selects the .d form. -/
def execFamocas (s : Bool) (d a b : Reg) (w : Bool) (n : Ann) (c : Scope) (st : State) : Outcome State Fault Refusal :=
  .next (st.atomic s true .cas (if w then 8 else 4) d a b n c)

/-- FAMOAND (R360, R361). -/
def execFamoand (s : Bool) (d a b : Reg) (n : Ann) (c : Scope) (st : State) : Outcome State Fault Refusal :=
  .next (st.atomic s true .and 8 d a b n c)

/-- FAMOOR (R360, R361). -/
def execFamoor (s : Bool) (d a b : Reg) (n : Ann) (c : Scope) (st : State) : Outcome State Fault Refusal :=
  .next (st.atomic s true .or 8 d a b n c)

/-- FAMOXOR (R360, R361). -/
def execFamoxor (s : Bool) (d a b : Reg) (n : Ann) (c : Scope) (st : State) : Outcome State Fault Refusal :=
  .next (st.atomic s true .xor 8 d a b n c)

/-- FAMOMIN (R360, R361). -/
def execFamomin (s : Bool) (d a b : Reg) (n : Ann) (c : Scope) (st : State) : Outcome State Fault Refusal :=
  .next (st.atomic s true .min 8 d a b n c)

/-- FAMOMAX (R360, R361). -/
def execFamomax (s : Bool) (d a b : Reg) (n : Ann) (c : Scope) (st : State) : Outcome State Fault Refusal :=
  .next (st.atomic s true .max 8 d a b n c)

/-- FAMOMINU (R360, R361). -/
def execFamominu (s : Bool) (d a b : Reg) (n : Ann) (c : Scope) (st : State) : Outcome State Fault Refusal :=
  .next (st.atomic s true .minu 8 d a b n c)

/-- FAMOMAXU (R360, R361). -/
def execFamomaxu (s : Bool) (d a b : Reg) (n : Ann) (c : Scope) (st : State) : Outcome State Fault Refusal :=
  .next (st.atomic s true .maxu 8 d a b n c)

/-- FAMOFADD.s (R360 to R362). -/
def execFamofaddS (s : Bool) (d a b : Reg) (n : Ann) (c : Scope) (st : State) : Outcome State Fault Refusal :=
  .next (st.atomic s true .fadd 4 d a b n c)

/-- FAMOFADD.d (R360 to R362). -/
def execFamofaddD (s : Bool) (d a b : Reg) (n : Ann) (c : Scope) (st : State) : Outcome State Fault Refusal :=
  .next (st.atomic s true .fadd 8 d a b n c)

end Sys2Proof.Machine
end

