-- ==== Sys2Proof/Machine/Branch.lean ====
section
/-! DEFINITION. Branches, jumps, SUBBR and LOOP (R290 to R294). -/

namespace Sys2Proof.Machine

open Host (Outcome)

/-- A conditional branch (R290); majors 0x10 to 0x15 must not stand in a loop body (R294). -/
def State.branch (s : State) (mk : Bool) (major : BitVec 6) (a b : Reg) (o : BitVec 15) (p : Word → Word → Bool) :
    State :=
  s.notInBody (wordI mk major a b o) fun s =>
    s.guarded [a, b] [] fun s =>
      if p (s.rs a) (s.rs b) then s.goto mk (targetB s.thr.pc o) else s.advance mk

/-- BEQ (R290). -/
def execBeq (s : Bool) (a b : Reg) (o : BitVec 15) (st : State) : Outcome State Fault Refusal :=
  .next (st.branch s 0x10 a b o (fun x y => decide (x = y)))

/-- BNE (R290). -/
def execBne (s : Bool) (a b : Reg) (o : BitVec 15) (st : State) : Outcome State Fault Refusal :=
  .next (st.branch s 0x11 a b o (fun x y => decide (x ≠ y)))

/-- BLT (R290). -/
def execBlt (s : Bool) (a b : Reg) (o : BitVec 15) (st : State) : Outcome State Fault Refusal :=
  .next (st.branch s 0x12 a b o (fun x y => decide (x.toInt < y.toInt)))

/-- BGE (R290). -/
def execBge (s : Bool) (a b : Reg) (o : BitVec 15) (st : State) : Outcome State Fault Refusal :=
  .next (st.branch s 0x13 a b o (fun x y => decide (x.toInt ≥ y.toInt)))

/-- BLTU (R290). -/
def execBltu (s : Bool) (a b : Reg) (o : BitVec 15) (st : State) : Outcome State Fault Refusal :=
  .next (st.branch s 0x14 a b o (fun x y => decide (x.toNat < y.toNat)))

/-- BGEU (R290). -/
def execBgeu (s : Bool) (a b : Reg) (o : BitVec 15) (st : State) : Outcome State Fault Refusal :=
  .next (st.branch s 0x15 a b o (fun x y => decide (x.toNat ≥ y.toNat)))

/-- JAL (R290): PC + 4 goes to s30. -/
def execJal (s : Bool) (o : BitVec 25) (st : State) : Outcome State Fault Refusal :=
  .next (st.notInBody (wordJ s 0x16 o) fun t => t.guarded [] [30] fun t =>
    (t.ws 30 (t.thr.pc + 4)).goto s (targetJ t.thr.pc o))

/-- JALR (R290): a is read before d is written. -/
def execJalr (s : Bool) (d a : Reg) (i : BitVec 15) (st : State) : Outcome State Fault Refusal :=
  .next (st.notInBody (wordI s 0x17 d a i) fun t => t.guarded [a] [d] fun t =>
    (t.ws d (t.thr.pc + 4)).goto s ((t.rs a + i.signExtend 64) &&& ~~~3))

/-- SUBBR (R292). -/
def execSubbr (s : Bool) (a b : Reg) (o : BitVec 15) (st : State) : Outcome State Fault Refusal :=
  .next (st.notInBody (wordI s 0x18 a b o) fun t =>
    if a = 31 then t.illegal (wordI s 0x18 a b o)
    else t.guarded [a, b] [a] fun t =>
      let x := t.rs a - t.rs b
      let u := t.ws a x
      if 0 < x.toInt then u.goto s (targetB t.thr.pc o) else u.advance s)

/-- LOOP (R293): the field `n` holds the body length less 1. -/
def execLoop (s : Bool) (n : BitVec 5) (p : BitVec 4) (st : State) : Outcome State Fault Refusal :=
  .next (st.notInBody (wordI s 0x19 0 0 (n ++ (0 : BitVec 6) ++ p)) fun t =>
    match t.thr.slotPat p.toNat with
    | none => t.badOperand (p.setWidth 64)
    | some w =>
      if 2 ^ 32 ≤ patCount w then t.badOperand (p.setWidth 64)
      else t.upd fun th =>
        ({ th.setLoopRegs w 0 with
            pc := th.pc + 4
            loop := some ⟨th.pc + 4, n.toNat + 1, p.toNat, w, 0, []⟩ } : Thread).mark s)

end Sys2Proof.Machine
end

