-- ==== Sys2Proof/Machine/Dram.lean ====
section
/-! DEFINITION. Row repair and the forager of a stack base die and of the second tier (R109, R110, R117 to R120). -/

namespace Sys2Proof.Machine

open Host (Outcome)

/-! ### Row repair (R110) -/

/-- The lines of a row (R98). -/
def State.rowLines (s : State) (f pch bank row : Nat) : List Nat :=
  (List.range 8).map fun c => (s.rowPa f pch bank row + c * 8192) / 128

/-- A row is copied, corrected, into its spare (R110, step 2): an uncorrectable line is found there. -/
def State.copyRow (s : State) (f pch bank row : Nat) : State :=
  (s.rowLines f pch bank row).foldl (fun s l =>
    match Sparse.find? l (s.block f).errs with
    | some true => s.dramFind l 0
    | some false => s.updBlock f fun b => { b with errs := Sparse.erase l b.errs }
    | none => s) s

/-- ROW_REMAP: the first waiting remap takes a free spare of its bank, or is refused (R110). -/
def execRowRemap (block : Nat) (st : State) : Outcome State Fault Refusal :=
  .next (
    match (st.block block).remapWait with
    | [] => st
    | (pch, bank, row) :: rest =>
      let s1 := st.updBlock block fun b => { b with remapWait := rest }
      let used := ((st.block block).bankRemaps pch bank).length
      if 4 ≤ used then (s1.bumpDev (blockReg block 0x20) 0 8).logRow block 4 3 pch bank row
      else
        ((s1.copyRow block pch bank row).updBlock block fun b =>
          { b with
            remap := b.remap ++ [⟨pch, bank, b.rowNow pch bank row, used, false, false, false⟩]
            rows := b.rows.filter fun r => decide (¬ (r.pch = pch ∧ r.bank = bank ∧ r.row = row)) }).logRow
          block 3 3 pch bank row)

/-- REMAP_FLASH_WRITE: the oldest remap entry that module flash does not hold is written to it (R110). -/
def execRemapFlashWrite (block : Nat) (st : State) : Outcome State Fault Refusal :=
  .next (
    match (st.block block).remap.find? fun r => !r.flashed with
    | some r => st.updBlock block fun b => { b with remap := b.remap.replace r { r with flashed := true } }
    | none => st)

/-! ### The forager (R117 to R119) -/

/-- FORCTL and FORSTAT of a block. -/
def forctl (f : Nat) : Nat := blockReg f 0
def forstat (f : Nat) : Nat := blockReg f 8

/-- A pass ends: counts are halved and the next pass begins (R109, R118). -/
def State.passEnd (s : State) (f : Nat) : State :=
  let w := s.dev (forstat f)
  (s.updBlock f fun b =>
    { b with rows := b.rows.map (fun r => { r with count := r.count / 2 }), pass := 0, passStart := s.cycle }).setDev
    (forstat f) (setBits (setBits w 32 32 (bits w 32 32 + 1)) 16 7 0)

/-- Entries of the controller queue of a line's pseudo-channel (R117). DESIGN CHOICE (log 95): the transactions in
progress at homes of the pseudo-channel, and the requests that wait there. -/
def State.pchLoad (s : State) (line : Nat) : Nat :=
  (s.homes.filter fun h => decide ((blockOf h.1).1 = (blockOf line).1 ∧ pchOf (blockOf h.1).2 = pchOf (blockOf line).2)).foldl
    (fun n h => n + 1 + h.2.waiting.length) 0

/-- Cycles between two attempts of the forager at one block. -/
def foragerStep : Nat := 1152

/-- The forager may issue its read of a line (R117, R118): below the effective threshold, or by a grant of levels 2
and 3. DESIGN CHOICE (log 95): each attempt stands for one command. -/
def State.foragerMay (s : State) (f line : Nat) : Bool :=
  let thr := Nat.min 64 (bits (s.dev (forctl f)) 0 8)
  let lv := bits (s.dev (forstat f)) 30 2
  decide (s.pchLoad line < (if lv = 0 then thr else Nat.min 64 (2 * bits (s.dev (forctl f)) 0 8))) ||
    decide (lv = 2 ∧ s.cycle / foragerStep % 100 = 0) || decide (lv = 3 ∧ s.cycle / foragerStep % 25 = 0)

/-- The forager reads and corrects the next line of the memory-side cache (R117). -/
def State.mscScrub (s : State) (f : Nat) : State :=
  let ls := (s.msc.filter fun e => decide (e.1 / 65536 = f)).flatMap (·.2)
  match ls[(s.block f).scrubbed % ls.length]? with
  | some m => (s.mscCheck m).updBlock f fun b => { b with scrubbed := b.scrubbed + 1 }
  | none => s

/-- FORAGER_READ: the forager reads the next line of its pass (R117); with MSCEN a line of the cache is scrubbed after every
64. DESIGN CHOICE (log 95). DESIGN CHOICE (log 129): the spec does not say what the checking read of a busy or dirty line
finds; it finds, counts and logs nothing here. -/
def execForagerRead (block : Nat) (st : State) : Outcome State Fault Refusal :=
  .next (
    let n := (st.block block).pass
    let line := st.blockPa block / 128 + n
    if 9 ≤ block ∨ bits (st.dev (forctl block)) 8 1 = 0 ∨ !st.foragerMay block line then st
    else
      let dirty := match st.mscFind line with | some m => m.dirty.isSome | none => false
      let s1 := if (Sparse.find? line st.homes).isSome ∨ (block < 8 ∧ dirty = true) then st else st.dramFind line 4
      let s2 := s1.updBlock block fun b => { b with pass := n + 1 }
      let s3 := if bits (st.dev (forctl block)) 9 1 = 1 ∧ n % 64 = 63 then s2.mscScrub block else s2
      if blockLines block ≤ n + 1 then s3.passEnd block
      else s3.setDev (forstat block) (setBits (s3.dev (forstat block)) 16 7 ((n + 1) * 100 / blockLines block)))

/-- Lag that must be exceeded to enter a level (R118). -/
def levelEntry (l : Nat) : Nat := if l = 0 then 0 else if l = 1 then 10 else if l = 2 then 25 else 50

/-- The highest level whose entry value a lag exceeds. -/
def levelOf (lag : Nat) : Nat := if 50 < lag then 3 else if 25 < lag then 2 else if 10 < lag then 1 else 0

/-- The next level (R118): it rises at once, and falls by one at 5 below its entry value. -/
def levelNext (esc : Bool) (cur lag : Nat) : Nat :=
  if !esc then 0
  else if cur < levelOf lag then levelOf lag
  else if 0 < cur ∧ lag + 5 ≤ levelEntry cur then cur - 1 else cur

/-- The model's cycles in a minute of reference time: 25 of them to a cycle of the 100 MHz clock (R3, R97). -/
def minuteCycles : Nat := 150_000_000_000

/-- The model's cycles in a second of reference time. -/
def secondCycles : Nat := 2_500_000_000

/-- FORAGER_LAG: the lag and the escalation level are computed, once in a second of reference time (R118).
DESIGN CHOICE (log 120): each percentage is rounded down, a negative lag is 0, and the SEV 5 entry of level 3 has
zero in its address and place. -/
def execForagerLag (block : Nat) (st : State) : Outcome State Fault Refusal :=
  .next (
    if 9 ≤ block then st
    else
      let c := st.dev (forctl block)
      let w := st.dev (forstat block)
      let b := st.block block
      let gone := (st.cycle - b.passStart) * 100 / (Nat.max 1 (bits c 32 16) * minuteCycles)
      let lag := Nat.min 100 (gone - b.pass * 100 / blockLines block)
      let lv := levelNext (decide (bits c 10 1 = 1)) (bits w 30 2) lag
      let s1 := (st.updBlock block fun b => { b with lagAt := st.cycle / secondCycles }).setDev (forstat block)
        (setBits (setBits w 30 2 lv) 23 7 lag)
      if lv = 3 ∧ bits w 30 2 ≠ 3 ∧ bits c 11 1 = 1 then s1.postLog block 5 (logHi (srcOf block 4) 0) 0 else s1)

end Sys2Proof.Machine
end

