-- ==== Sys2Proof/Machine/Csr.lean ====
section
/-! DEFINITION. Control registers: which exist, their privilege and fields (R217 to R219, R225,
R226, R237, R244), their values, and CRD, CWR, CSET and CCLR (R216, R301). -/

namespace Sys2Proof.Machine

open Host (Outcome)

/-- Fields of one of the eight trap registers, counted from EPC or MEPC (R237). -/
def trapRegFields (i : Nat) (p : Mode) : List Field :=
  if i = 1 then [fld 63 1 .rw p, fld 62 1 .rw p, fld 32 16 .rw p, fld 0 16 .rw p]
  else if i = 3 then [{ fld 60 4 .rw p with ok := fun n => decide (n ≤ 5) }, fld 0 60 .rw p]
  else if i = 5 then
    [fld 48 16 .rw p, fld 8 1 .rw p, { fld 4 2 .rw p with ok := fun n => decide (n ≠ 2) }, fld 1 1 .rw p, fld 0 1 .rw p]
  else if i = 6 then [fld 2 62 .rw p]
  else [fld 0 64 .rw p]

/-- Lowest privilege and fields of a control register; `none` for an unassigned number (R217). -/
def csrInfo (n : Nat) : Option (Mode × List Field) :=
  let u := Mode.user
  let sv := Mode.supervisor
  let mm := Mode.machine
  if n = csrFPCTL then some (u, [fld 19 1 .rw u, { fld 16 3 .rw u with ok := fun n => decide (n ≤ 4) }, fld 0 7 .rw u])
  else if n = csrFPFLG ∨ n = csrXSEL then some (u, [fld 0 7 .rw u])
  else if n = csrLEN ∨ n = csrFFI then some (u, [fld 0 11 .ro u])
  else if n = csrEW then some (u, [fld 0 2 .ro u])
  else if n = csrESI then some (sv, [fld 16 16 .rw sv, fld 0 16 .rw sv])
  else if n = csrROWS then some (u, [{ fld 0 11 .rw u with ok := fun n => decide (n ≤ 1024) }])
  else if n = csrPITCH then some (u, [fld 0 32 .rw u])
  else if csrLIX0 ≤ n ∧ n < csrLIX0 + 6 then some (u, [fld 0 16 .ro u])
  else if n = csrLOFF then some (u, [fld 0 64 .ro u])
  else if n = csrRINGCTL then some (u, [fld 32 32 .rw u, fld 0 1 .rw u])
  else if csrRINGB0 ≤ n ∧ n < csrRINGB0 + 4 then some (u, [fld 39 25 .ro u, fld 0 34 .ro u])
  else if n = csrMBSTAT then some (u, [fld 4 1 .w1c u, fld 0 4 .w1c u])
  else if n = csrTSTAT then some (sv, [fld 48 16 .rw sv, fld 16 1 .rw sv, fld 8 8 .rw sv, fld 0 8 .rw sv])
  else if csrTCFG0 ≤ n ∧ n < csrTCFG0 + 16 then some (u, [fld 24 4 .rw u, fld 16 7 .rw u, fld 0 13 .rw u])
  else if csrSTAGECNT0 ≤ n ∧ n < csrSTAGECNT0 + 3 then some (u, [fld 0 32 .rw u])
  else if csrEPC ≤ n ∧ n < csrEPC + 8 then some (sv, trapRegFields (n - csrEPC) sv)
  else if n = csrIPEND then
    some (sv, [fld 22 9 .w1c sv, fld 21 1 .w1c sv, fld 12 9 .w1c sv, fld 3 1 .w1c sv, fld 2 1 .ro sv, fld 1 1 .ro sv])
  else if n = csrISWVAL then some (sv, [fld 63 1 .w1c sv, fld 0 56 .ro sv])
  else if n = csrIENB then some (sv, [fld 3 1 .rw sv, fld 2 1 .rw sv, fld 1 1 .rw sv])
  else if csrMEPC ≤ n ∧ n < csrMEPC + 8 then some (mm, trapRegFields (n - csrMEPC) mm)
  else if n = csrDELEG then some (mm, [fld 32 32 .rw mm, fld 0 32 .rw mm])
  else if n = csrUTBASE ∨ n = csrSTBASE then some (sv, [fld 16 36 .rw sv, fld 0 1 .rw sv])
  else if n = csrCTXASID then some (sv, [fld 0 16 .rw sv])
  else if n = csrXLSYN then some (sv, [fld 9 7 .ro sv, fld 0 4 .ro sv])
  else if n = csrPARTW then some (u, [fld 0 59 .ro u])
  else if n = csrCELLERR then
    some (sv, [fld 48 16 .rc sv, fld 40 8 .rc sv, fld 32 8 .rc sv, fld 24 8 .rc sv, fld 16 8 .rc sv, fld 8 8 .rc sv, fld 0 8 .rc sv])
  else if n = csrRSBSTAT then some (u, [fld 5 32 .rc sv, fld 0 5 .ro u])
  else if n = csrNETCTL then some (u, [fld 2 2 .rw u, fld 0 2 .rw u])
  else if n = csrLEASE then some (u, [fld 16 5 .ro u, fld 8 5 .rw u, fld 0 5 .rw u])
  else if n = csrFWDSTAT then some (u, [fld 32 16 .rc u, fld 16 16 .rc u, fld 1 1 .ro u, fld 0 1 .ro u])
  else if n = csrHZCTL then some (u, [fld 8 3 .rw u, fld 2 1 .rw u, fld 1 1 .rw u, fld 0 1 .rw u])
  else if n = csrISSUESTAT then some (u, [fld 32 32 .rc u, fld 16 16 .rc u, fld 0 16 .rc u])
  else if n = csrLANECTL then some (sv, [{ fld 0 2 .rw sv with ok := fun n => decide (n ≠ 3) }])
  else if n = csrDEPCNT then some (sv, [fld 63 1 .rw sv, fld 0 32 .rw sv])
  else if n = csrDEVID ∨ n = csrREVID ∨ n = csrFEATURES then some (u, [fld 0 64 .ro u])
  else none

/-- Registers marked P in R217. -/
def csrPends (n : Nat) : Bool :=
  decide (n = csrFPFLG ∨ (csrSTAGECNT0 ≤ n ∧ n < csrSTAGECNT0 + 3) ∨ n = csrCELLERR ∨ n = csrRSBSTAT ∨
    n = csrFWDSTAT ∨ n = csrISSUESTAT ∨ n = csrDEPCNT)

/-- Registers whose access waits for earlier vector and tile instructions (R216, R343, R400). DEDUCED (log 59). -/
def csrWaits (t : Thread) (n : Nat) : Bool :=
  ((decide (n = csrFPFLG) || decide (csrSTAGECNT0 ≤ n ∧ n < csrSTAGECNT0 + 3)) && (!t.vq.isEmpty || !t.tq.isEmpty)) ||
  (decide (csrTCFG0 ≤ n ∧ n < csrTCFG0 + 16) && !t.tq.isEmpty)

/-- RINGBn as it reads (R337): the stored V and RING with the ring's own fields. -/
def State.ringbView (s : State) (w : Word) : Word :=
  if w.getLsbD 63 then
    match Sparse.find? (bits w 59 3) s.cl.rings with
    | some r =>
      setBits (setBits (setBits (setBits (setBits (setBits (setBits 0 63 1 1) 62 1 (if r.port then 1 else 0)) 59 3 (bits w 59 3))
        48 11 r.base) 39 9 r.size) 17 17 r.tail) 0 17 r.head
    | none => w
  else 0

/-- The bits of a control register as they stand. -/
def State.csrView (s : State) (n : Nat) : Word :=
  let t := s.thr
  let c := s.cl
  if n = csrPARTW then c.partw
  else if n = csrCELLERR then c.cellerr
  else if n = csrRSBSTAT then BitVec.ofNat 64 ((c.rsbEnd s.cycle).rsbStalls * 32 + c.rsb.length)
  else if n = csrLANECTL then c.lanectl
  else if n = csrDEPCNT then Sparse.getD s.depcnt (bits (t.csrGet csrPSTATE) 48 16) 0
  else if n = csrDEVID then Config.devid
  else if n = csrREVID then Config.revid
  else if n = csrFEATURES then Config.features
  else if csrRINGB0 ≤ n ∧ n < csrRINGB0 + 4 then s.ringbView (t.csrGet n)
  else if n = csrFWDSTAT then
    setBits (setBits (t.csrGet n) 1 1 (if t.fwd = .leader then 1 else 0)) 0 1 (if t.fwd = .follower then 1 else 0)
  else t.csrGet n

/-- The stored bits of a control register are replaced. -/
def State.csrPut (s : State) (n : Nat) (v : Word) : State :=
  if n = csrCELLERR then s.updCell fun c => { c with cellerr := v }
  else if n = csrRSBSTAT then s.updCell fun c => { c with rsbStalls := bits v 5 32, rsbSince := c.rsbSince.map fun _ => s.cycle }
  else if n = csrDEPCNT then { s with depcnt := Sparse.set (bits (s.thr.csrGet csrPSTATE) 48 16) v s.depcnt }
  else if n = csrIPEND then s.upd fun t => t.csrSet n (ipendSum v)
  else s.upd fun t => t.csrSet n v

/-! ### Shapes and lazy tile state (R214, R246) -/

/-- Block bytes of a CB format (R224). -/
def cbBytes (f : Nat) : Nat := if f = 8 then 32 else if f = 9 then 24 else 16

/-- FMT, ROWS and RBYTES of a configuration word (R214). -/
def cfgFmt (w : Word) : Nat := bits w 24 4
def cfgRows (w : Word) : Nat := bits w 16 7
def cfgBytes (w : Word) : Nat := bits w 0 13

/-- R214: a valid shape for a register of `cap` bytes; `acc` restricts the formats. ROWS = 0 is
"not configured" and needs only legal fields. -/
def shapeOk (acc : Bool) (cap : Nat) (w : Word) : Bool :=
  let f := cfgFmt w
  let r := cfgRows w
  let b := cfgBytes w
  decide (w &&& ~~~(0x0F7F_1FFF : Word) = 0) && decide (f ≤ 10) && (!acc || decide (f = 0 ∨ f = 1 ∨ f = 7)) &&
    decide (r ≤ 64 ∧ b ≤ 4096 ∧ b % 8 = 0 ∧ r * b ≤ cap) && decide (r = 0 ∨ 8 ≤ b) &&
    (if f ≤ 7 then decide (b % fmtBytes f = 0) else decide (b % (cbBytes f + 4) = 0))

/-- The class and number that TVAL names for tile `n` or accumulator `n` (R238, R342). -/
def tileName (acc : Bool) (n : Nat) : Word := BitVec.ofNat 64 ((if acc then 4 else 3) * 256 + n)

/-- User-mode tile state is unavailable (R246). -/
def Thread.tileUnavailable (t : Thread) : Bool :=
  decide (t.mode = .user) &&
    (decide (bits (t.csrGet csrTSTAT) 16 1 = 0) || decide (bits (t.csrGet csrTSTAT) 48 16 ≠ bits (t.csrGet csrPSTATE) 48 16))

/-- The dirty bit of tile or accumulator `n` (R246). -/
def Thread.markDirty (t : Thread) (acc : Bool) (n : Nat) : Thread :=
  t.csrSet csrTSTAT (setBits (t.csrGet csrTSTAT) (if acc then 8 + n else n) 1 1)

/-- Number of tiles or accumulators of the slot, and their capacity in bytes (R41). -/
def Cell.tileCount (c : Cell) (acc : Bool) (t : Nat) : Nat := if acc then c.nacc t else c.ntile t
def Cell.tileCap (c : Cell) (acc : Bool) : Nat := if acc then c.acap else c.tcap

/-- All bytes of a tile or accumulator. -/
def Thread.tileGet (t : Thread) (acc : Bool) (n : Nat) : BitVec 32768 :=
  Sparse.getD (if acc then t.accs else t.tiles) n 0
def Thread.tilePut (t : Thread) (acc : Bool) (n : Nat) (x : BitVec 32768) : Thread :=
  if acc then { t with accs := Sparse.set n x t.accs } else { t with tiles := Sparse.set n x t.tiles }

/-- Configuration register number of a tile or accumulator. -/
def cfgCsr (acc : Bool) (n : Nat) : Nat := (if acc then csrACFG0 else csrTCFG0) + n

/-- A new shape with all bytes zero (R343); poison goes with them. -/
def Thread.configure (t : Thread) (acc : Bool) (n : Nat) (w : Word) : Thread :=
  let lo := ((if acc then 8 else 0) + n) * 512
  { ((t.csrSet (cfgCsr acc n) w).tilePut acc n 0).markDirty acc n with
    tcfgSeen := if acc then t.tcfgSeen else Sparse.set n w t.tcfgSeen
    tpoison := t.tpoison.filter fun p => decide (¬ (lo ≤ p ∧ p < lo + 512)) }

/-! ### Lanes (R61) -/

/-- Every vector queue of the cell is empty. -/
def State.lanesIdle (s : State) (c : Nat) : Bool :=
  (List.range 4).all fun i => (s.thread (c * 4 + i)).vq.isEmpty

/-- A thread's vector and mask registers lose what lies at the new maximum and beyond, and LEN
follows; a restarted instruction executes no element there (R61). -/
def Thread.restripe (t : Thread) (rlen : Nat) : Thread :=
  let m : BitVec 8192 := BitVec.ofNat 8192 (2 ^ rlen - 1)
  let mm : BitVec 1024 := BitVec.ofNat 1024 (2 ^ (rlen / 8) - 1)
  let cut := fun (e : QEntry) => { e with rlen := rlen, len := Nat.min e.len (rlen / ewBits e.ew) }
  { t with
    remS := t.remS.map cut
    remM := t.remM.map cut
    v := t.v.map fun e => (e.1, VReg.ofFull (e.2.full &&& m))
    m := t.m.map fun e => (e.1, e.2 &&& mm)
    poison := t.poison.filter fun p => decide (64 * (p % 128) < rlen)
    lead := []
    csr := Sparse.set csrLEN (BitVec.ofNat 64 (Nat.min t.lenNow (rlen / ewBits t.ewNow))) t.csr }

/-- The lane change of a cell takes effect (R61). DEDUCED (log 50). -/
def State.laneApply (s : State) (c : Nat) (v : Word) : State :=
  let s1 := s.updCellAt c fun x => { x with lanectl := v, laneNext := none }
  let rl := (s1.cell c).rlen
  (List.range 4).foldl
    (fun s i => if (s.thread (c * 4 + i)).live then s.updThread (c * 4 + i) (·.restripe rl) else s) s1

/-! ### The four operations -/

/-- The number of the tile or accumulator whose configuration register `n` is. -/
def tileOfCsr (n : Nat) : Option (Bool × Nat) :=
  if csrTCFG0 ≤ n ∧ n < csrTCFG0 + 8 then some (false, n - csrTCFG0)
  else if csrACFG0 ≤ n ∧ n < csrACFG0 + 8 then some (true, n - csrACFG0) else none

/-- The checks of R216, R214 and R246 before an access of register `c` (`wr`: one that writes). -/
def State.csrCheck (s : State) (word : BitVec 32) (c : BitVec 12) (wr : Bool) (f : State → List Field → State) : State :=
  let n := c.toNat
  match csrInfo n with
  | none => s.illegal word
  | some (p, fs) =>
    if !s.mode.atLeast p then s.trap { code := 0x04, tval := BitVec.ofNat 64 n }
    else if wr && readOnly fs then s.illegal word
    else
      match tileOfCsr n with
      | some (acc, i) =>
        if s.cl.tileCount acc s.ct ≤ i then s.trap { code := 0x03, tval := tileName acc i }
        else if s.thr.tileUnavailable then s.trap { code := 0x0C, tval := tileName acc i }
        else f s fs
      | none => f s fs

/-- What a read leaves and returns (R301). -/
def State.csrRead (s : State) (n : Nat) (fs : List Field) : Word × State :=
  let v := s.csrView n
  (readFields fs s.mode v,
    if fs.any (fun f => decide (f.acc = .rc)) then s.csrPut n (clearRead fs s.mode v) else s)

/-- New bits `v` go to register `n` of the executing thread, then `f` (R61, R214, R343); a tile's configuration takes them with
its reserved bits, `raw`. A lane change that has to wait keeps the destination `d`, its value `old` and the switch marker.
DEDUCED (log 47). -/
def State.csrCommit (s : State) (mk : Bool) (n : Nat) (v raw : Word) (d : Reg) (old : Word) (f : State → State) : State :=
  match tileOfCsr n with
  | some (acc, i) =>
    if shapeOk acc (s.cl.tileCap acc) raw then f (s.upd (·.configure acc i raw)) else s.badOperand raw
  | none =>
    if n = csrLANECTL then
      if s.lanesIdle s.cc then f (s.laneApply s.cc v)
      else (s.updCell fun c => { c with laneNext := some (s.cur, v, d.toNat, old, mk) }).stall
    else f (s.csrPut n v)

/-- CRD (R301): class P for a register marked P, class 1 otherwise. -/
def execCrd (s : Bool) (d : Reg) (c : BitVec 12) (st : State) : Outcome State Fault Refusal :=
  .next (st.csrCheck (wordC s d 0 c 0) c false fun t fs =>
    t.guarded [] [d] fun t =>
      if csrWaits t.thr c.toNat then t.stall
      else
        let r := t.csrRead c.toNat fs
        (if csrPends c.toNat then r.2.deliver d r.1 false else r.2.ws d r.1).advance s)

/-- CWR (R301). -/
def execCwr (s : Bool) (a : Reg) (c : BitVec 12) (st : State) : Outcome State Fault Refusal :=
  .next (st.csrCheck (wordC s 0 a c 1) c true fun t fs =>
    t.guarded [a] [] fun t =>
      if csrWaits t.thr c.toNat then t.stall
      else
        t.csrCommit s c.toNat (writeFields fs t.mode (t.rs a) (BitVec.allOnes 64) (t.csrView c.toNat)) (t.rs a) 31 0 fun t => t.advance s)

/-- CSET (R301). -/
def execCset (s : Bool) (d a : Reg) (c : BitVec 12) (st : State) : Outcome State Fault Refusal :=
  .next (st.csrCheck (wordC s d a c 2) c true fun t fs =>
    t.guarded [a] [d] fun t =>
      if csrWaits t.thr c.toNat then t.stall
      else
        let v := t.csrView c.toNat
        t.csrCommit s c.toNat (setFields fs t.mode (t.rs a) (clearRead fs t.mode v)) (v ||| t.rs a) d (readFields fs t.mode v) fun t =>
          (t.ws d (readFields fs t.mode v)).advance s)

/-- CCLR (R301). -/
def execCclr (s : Bool) (d a : Reg) (c : BitVec 12) (st : State) : Outcome State Fault Refusal :=
  .next (st.csrCheck (wordC s d a c 3) c true fun t fs =>
    t.guarded [a] [d] fun t =>
      if csrWaits t.thr c.toNat then t.stall
      else
        let v := t.csrView c.toNat
        t.csrCommit s c.toNat (clearFields fs t.mode (t.rs a) (clearRead fs t.mode v)) (v &&& ~~~t.rs a) d (readFields fs t.mode v) fun t =>
          (t.ws d (readFields fs t.mode v)).advance s)

end Sys2Proof.Machine
end

