-- ==== Sys2Proof/Machine/VecAlu.lean ====
section
/-! DEFINITION. Element operations of vector instructions: integer, floating-point, fused,
compares, and the element widths that each accepts (R313, R320 to R326). -/

namespace Sys2Proof.Machine

/-- Element `i` of width `w` (R212). -/
def elemGet (x : BitVec 8192) (w i : Nat) : Nat := (x.extractLsb' (i * w) w).toNat

/-- Element `i` of width `w` becomes `v`. -/
def elemSet (x : BitVec 8192) (w i v : Nat) : BitVec 8192 :=
  let m : BitVec 8192 := BitVec.ofNat 8192 ((2 ^ w - 1) * 2 ^ (i * w))
  (x &&& ~~~m) ||| BitVec.ofNat 8192 (v % 2 ^ w * 2 ^ (i * w))

/-- An element as a signed integer. -/
def signedElem (w v : Nat) : Int := (BitVec.ofNat w v).toInt

/-- An integer taken mod 2^w. -/
def wrapInt (w : Nat) (x : Int) : Nat := (x % (2 : Int) ^ w).toNat

/-- The format of an element width (R313); `bf` reads EW 16 as bfloat16. -/
def ewFmt (bf : Bool) (w : Nat) : FpFormat :=
  if w = 64 then fmtD else if w = 32 then fmtS else if bf then fmtBF else fmtH

/-- A clamped result with SAT (R223, R321). -/
def clampInt (w : Nat) (signed : Bool) (x : Int) : Nat × Flags :=
  let lo : Int := if signed then -(2 : Int) ^ (w - 1) else 0
  let hi : Int := if signed then (2 : Int) ^ (w - 1) - 1 else (2 : Int) ^ w - 1
  if x < lo then (wrapInt w lo, flSAT) else if hi < x then (wrapInt w hi, flSAT) else (wrapInt w x, 0)

/-- Kinds that read EW 16 as bfloat16. -/
def VKind.isBf : VKind → Bool
  | .vbadd => true | .vbsub => true | .vbmul => true | .vbfmadd => true | .vbfwma => true | .vbfdot2 => true
  | _ => false

/-- One element of an element-wise arithmetic instruction: `a`, `b` and `d` are source and
destination elements at width `w`, `i` the element number. -/
def vAlu (k : VKind) (w : Nat) (rm : RoundMode) (satn : Bool) (g i : Nat) (sa : Word) (a b d : Nat) : Nat × Flags :=
  let f := ewFmt k.isBf w
  let sx := signedElem w a
  let sy := signedElem w b
  let sh := b % w
  match k with
  | .vadd => ((a + b) % 2 ^ w, 0)
  | .vsub => (wrapInt w ((a : Int) - b), 0)
  | .vmul => (a * b % 2 ^ w, 0)
  | .vmulh => (wrapInt w (sx * sy / 2 ^ w), 0)
  | .vmulhu => (a * b / 2 ^ w, 0)
  | .vand => (a &&& b, 0)
  | .vor => (a ||| b, 0)
  | .vxor => (a ^^^ b, 0)
  | .vsll => (a * 2 ^ sh % 2 ^ w, 0)
  | .vsrl => (a / 2 ^ sh, 0)
  | .vsra => (wrapInt w (sx / 2 ^ sh), 0)
  | .vmin => (if sx ≤ sy then a else b, 0)
  | .vmax => (if sx ≤ sy then b else a, 0)
  | .vminu => (Nat.min a b, 0)
  | .vmaxu => (Nat.max a b, 0)
  | .vsadd => clampInt w true (sx + sy)
  | .vsaddu => clampInt w false ((a : Int) + b)
  | .vssub => clampInt w true (sx - sy)
  | .vssubu => clampInt w false ((a : Int) - b)
  | .vabs => (wrapInt w (sx.natAbs : Int), 0)
  | .vsplat => (sa.toNat % 2 ^ w, 0)
  | .viota => (i % 2 ^ w, 0)
  | .vmv => (a, 0)
  | .vsext => (wrapInt w (signedElem (w / 2) a), 0)
  | .vzext => (a, 0)
  | .vfadd => f.add rm a b
  | .vfsub => f.sub rm a b
  | .vfmul => f.mul rm a b
  | .vfdiv => f.div rm a b
  | .vfsqrt => f.sqrt rm a
  | .vfmin => f.minMax false a b
  | .vfmax => f.minMax true a b
  | .vfcpsgn => (f.withSign a (f.signOf b), 0)
  | .vfneg => (f.withSign a (!f.signOf a), 0)
  | .vfabs => (f.withSign a false, 0)
  | .vfxsgn => (f.withSign a (f.signOf a != f.signOf b), 0)
  | .vbadd => f.add rm a b
  | .vbsub => f.sub rm a b
  | .vbmul => f.mul rm a b
  | .vfclass => (f.classify a, 0)
  | .vfcvtw => f.roundFP .rne ((fmtOfCode g).decode (a % 2 ^ (fmtOfCode g).width))
  | .vfcvtn => (fmtOfCode g).narrow rm satn (f.decode a)
  | .vfcvti =>
    let r := toIntRange rm (-(2 : Int) ^ (w - 1)) ((2 : Int) ^ (w - 1) - 1) (f.decode a)
    (wrapInt w r.1, r.2)
  | .vfcvtiu =>
    let r := toIntRange rm 0 ((2 : Int) ^ w - 1) (f.decode a)
    (wrapInt w r.1, r.2)
  | .vicvtf => f.roundFP rm (fvalOfInt sx)
  | .viucvtf => f.roundFP rm (fvalOfInt a)
  | .vfmadd => f.fma rm false false a b d
  | .vfmsub => f.fma rm false true a b d
  | .vfnmadd => f.fma rm true true a b d
  | .vfnmsub => f.fma rm true false a b d
  | .vbfmadd => f.fma rm false false a b d
  | .vmacc => ((d + a * b) % 2 ^ w, 0)
  | _ => (d, 0)

/-- One element of a compare (R326). -/
def vCmp (k : VKind) (w i : Nat) (sa sb : Word) (a b : Nat) : Bool × Flags :=
  let f := ewFmt false w
  match k with
  | .vcmpeq => (decide (a = b), 0)
  | .vcmpne => (decide (a ≠ b), 0)
  | .vcmplt => (decide (signedElem w a < signedElem w b), 0)
  | .vcmple => (decide (signedElem w a ≤ signedElem w b), 0)
  | .vcmpltu => (decide (a < b), 0)
  | .vcmpleu => (decide (a ≤ b), 0)
  | .vfcmpeq => let r := f.relation false a b; (decide (r.1 = 2), r.2)
  | .vfcmplt => let r := f.relation true a b; (decide (r.1 = 1), r.2)
  | .vfcmple => let r := f.relation true a b; (decide (r.1 = 1 ∨ r.1 = 2), r.2)
  | .vwhile => (decide (sa.toInt + i < sb.toInt), 0)
  | _ => (false, 0)

/-- The format of twice the width (R324). -/
def wideFmt (w : Nat) : FpFormat := if w = 32 then fmtD else fmtS

/-- One element of a widening multiply-add (R324): sources at `w`, accumulator at 2w. -/
def vWiden (k : VKind) (w : Nat) (rm : RoundMode) (a b g : Nat) : Nat × Flags :=
  let f := ewFmt k.isBf w
  (wideFmt w).fmaWith rm false false (f.decode a) (f.decode b) ((wideFmt w).decode g)

/-- The exact sum of products and an accumulator, rounded once (R324): NaN operands in the stated
order, then an infinity times zero, then infinities. -/
def dotRound (rm : RoundMode) (ops : List FVal) (prods : List (Option FVal)) (acc : FVal) : Nat × Flags :=
  if prods.any (·.isNone) then
    ((fmtS.nanResult ops).1, flNV)
  else if ops.any FVal.isNan then fmtS.nanResult ops
  else
    let ps := prods.filterMap id ++ [acc]
    let infs := ps.filter FVal.isInf
    match infs with
    | p :: t => if t.any (fun q => q.neg? != p.neg?) then (fmtS.canonicalNan, flNV) else (fmtS.infinity p.neg?, 0)
    | [] =>
      let s := ps.foldl (fun (x : Int × Int) v => match v with
        | .fin n m e => dyAdd x.1 x.2 (signedM n m) e
        | _ => x) (0, 0)
      let zneg := if ps.all FVal.isZero then (if ps.all FVal.neg? then true else if ps.any FVal.neg? then decide (rm = .rdn) else false)
        else decide (rm = .rdn)
      fmtS.roundSum rm zneg s.1 s.2

/-- One result of VFDOT2 or VBFDOT2 (R324). DEDUCED (log 46). -/
def vDot2 (k : VKind) (rm : RoundMode) (a0 b0 a1 b1 d : Nat) : Nat × Flags :=
  let f := ewFmt k.isBf 16
  let x0 := f.decode a0; let y0 := f.decode b0; let x1 := f.decode a1; let y1 := f.decode b1
  let z := fmtS.decode d
  let pr := fun (x y : FVal) => if x.isNan || y.isNan then some (FVal.fin false 0 0) else x.mul y
  dotRound rm [x0, y0, x1, y1, z] [pr x0 y0, pr x1 y1] z

/-- One result of VDOT4 or VDOT4U (R324). DEDUCED (log 61). -/
def vDot4 (signed : Bool) (ps : List (Nat × Nat)) (d : Nat) : Nat :=
  let v := fun n => if signed then signedElem 8 n else (n : Int)
  wrapInt 32 (ps.foldl (fun s p => s + v p.1 * v p.2) (d : Int))

/-- Element widths that an instruction accepts (R313). -/
def vEwOk (k : VKind) (e : EW) : Bool :=
  match k with
  | .vsext => decide (e ≠ .e8) | .vzext => decide (e ≠ .e8)
  | .vfadd => decide (e ≠ .e8) | .vfsub => decide (e ≠ .e8) | .vfmul => decide (e ≠ .e8) | .vfdiv => decide (e ≠ .e8)
  | .vfsqrt => decide (e ≠ .e8) | .vfmin => decide (e ≠ .e8) | .vfmax => decide (e ≠ .e8) | .vfcpsgn => decide (e ≠ .e8)
  | .vfneg => decide (e ≠ .e8) | .vfabs => decide (e ≠ .e8) | .vfxsgn => decide (e ≠ .e8)
  | .vfclass => decide (e ≠ .e8) | .vfcvtw => decide (e ≠ .e8) | .vfcvtn => decide (e ≠ .e8)
  | .vfcvti => decide (e ≠ .e8) | .vicvtf => decide (e ≠ .e8) | .vfcvtiu => decide (e ≠ .e8) | .viucvtf => decide (e ≠ .e8)
  | .vfmadd => decide (e ≠ .e8) | .vfmsub => decide (e ≠ .e8) | .vfnmadd => decide (e ≠ .e8) | .vfnmsub => decide (e ≠ .e8)
  | .vfcmpeq => decide (e ≠ .e8) | .vfcmplt => decide (e ≠ .e8) | .vfcmple => decide (e ≠ .e8)
  | .vfredsum => decide (e ≠ .e8) | .vfredmin => decide (e ≠ .e8) | .vfredmax => decide (e ≠ .e8)
  | .vbadd => decide (e = .e16) | .vbsub => decide (e = .e16) | .vbmul => decide (e = .e16) | .vbfmadd => decide (e = .e16)
  | .vbfwma => decide (e = .e16) | .vfdot2 => decide (e = .e16) | .vbfdot2 => decide (e = .e16)
  | .vfwma => decide (e = .e16 ∨ e = .e32)
  | .vdot4 => decide (e = .e8) | .vdot4u => decide (e = .e8)
  | .vamoadd => decide (e = .e32 ∨ e = .e64) | .vamoswap => decide (e = .e32 ∨ e = .e64)
  | .vamomin => decide (e = .e32 ∨ e = .e64) | .vamomax => decide (e = .e32 ∨ e = .e64)
  | .vamominu => decide (e = .e32 ∨ e = .e64) | .vamomaxu => decide (e = .e32 ∨ e = .e64)
  | .vamoand => decide (e = .e32 ∨ e = .e64) | .vamoor => decide (e = .e32 ∨ e = .e64)
  | .vamoxor => decide (e = .e32 ∨ e = .e64) | .vamofadd => decide (e = .e32 ∨ e = .e64)
  | .vorient2 => decide (e = .e32 ∨ e = .e64) | .vorient3 => decide (e = .e32 ∨ e = .e64)
  | .vincirc => decide (e = .e32 ∨ e = .e64) | .vinsph => decide (e = .e32 ∨ e = .e64) | .vsegx => decide (e = .e32 ∨ e = .e64)
  | .vorient2t => decide (e = .e32 ∨ e = .e64) | .vorient3t => decide (e = .e32 ∨ e = .e64)
  | .vincirct => decide (e = .e32 ∨ e = .e64) | .vinspht => decide (e = .e32 ∨ e = .e64)
  | _ => true

end Sys2Proof.Machine
end

