-- ==== Sys2Proof/Machine/VecExec.lean ====
section
/-! DEFINITION. Execution of queued vector instructions that touch registers only: element-wise
arithmetic and compares, mask operations, permutes and reductions, with activity, poison, flags,
exception masks, restart and ring registers (R311 to R329, R336 to R338). -/

namespace Sys2Proof.Machine

/-! ### Kinds of instructions -/

/-- Mask operations (R327). -/
def VKind.isMaskOp : VKind → Bool
  | .mand | .mor | .mxor | .mandn | .mnot | .mset | .mpopc | .mfirst => true
  | _ => false

/-- Widening multiply-adds, whose destination is a pair (R325). -/
def VKind.widens : VKind → Bool
  | .vfwma | .vbfwma => true
  | _ => false

/-- Dot products: source elements for each result (R325). -/
def VKind.dotWidth : VKind → Nat
  | .vfdot2 | .vbfdot2 => 2
  | .vdot4 | .vdot4u => 4
  | _ => 0

/-- Permutes and extraction (R328). -/
def VKind.permutes : VKind → Bool
  | .vslideup | .vslidedn | .vgather | .vcompress | .vins | .vrev => true
  | _ => false

/-- Reductions to a scalar (R329). -/
def VKind.reduces : VKind → Bool
  | .vredsum | .vredmin | .vredmax | .vredminu | .vredmaxu | .vfredsum | .vfredmin | .vfredmax => true
  | _ => false

/-- Operand width in bits. -/
def QEntry.w (e : QEntry) : Nat := ewBits e.ew

/-- The width of a result element (R325). -/
def QEntry.rw (e : QEntry) : Nat :=
  if e.kind.widens then 2 * e.w else if e.kind.dotWidth ≠ 0 then 32 else e.w

/-- Number of result elements (R325). -/
def QEntry.count (e : QEntry) : Nat :=
  if e.kind.dotWidth = 0 then e.len else (e.len + e.kind.dotWidth - 1) / e.kind.dotWidth

/-- Result elements of one element group of the sources (R212). -/
def QEntry.group (e : QEntry) : Nat := if e.kind.widens then 512 / e.w else 512 / e.rw

/-- Bytes of a source of LEN elements, its element groups, and the bytes of group `k`. -/
def QEntry.bytes (e : QEntry) : Nat := e.len * e.w / 8
def QEntry.groups (e : QEntry) : Nat := ceilDiv e.bytes 64
def QEntry.groupBytes (e : QEntry) (k : Nat) : Nat := Nat.min 64 (e.bytes - 64 * k)

/-- Element `i` is active, LEN apart (R312, R226). -/
def Thread.vActive (t : Thread) (e : QEntry) (i : Nat) : Bool :=
  if e.x then (t.readM 0).getLsbD i
  else if e.k = 31 then true else (t.readM e.k).getLsbD i

/-- R315: destination elements overlap source elements at other positions. -/
def QEntry.overlaps (e : QEntry) : Bool :=
  match e.kind with
  | .vsext | .vzext => decide (e.d = e.a)
  | .vfwma | .vbfwma => decide (e.a = e.d ∨ e.a = e.d + 1 ∨ e.b = e.d ∨ e.b = e.d + 1)
  | .vfdot2 | .vbfdot2 | .vdot4 | .vdot4u => decide (e.a = e.d ∨ e.b = e.d)
  | _ => false

/-- Instructions that compute their result once every element group of the sources has been taken: those that are not
interrupted once they start (R315), and extensions whose half-width elements a ring supplies (R338). -/
def QEntry.whole (e : QEntry) : Bool :=
  e.kind.permutes || e.kind.reduces || e.kind.isMaskOp || e.overlaps ||
    (match e.kind with | .vext => true | .vsext | .vzext => !e.pops.isEmpty | _ => false)

/-- Instructions of which a fault undoes everything, ESI zero (R315). -/
def QEntry.atomicRun (e : QEntry) : Bool := e.overlaps || e.kind.permutes

/-- Pool offset of byte `k` of a ring's stream (R337). -/
def Ring.offset (r : Ring) (k : Nat) : Nat := r.base * 128 + k % (r.size * 128)

/-- Bytes in a ring, and room in it (R337). -/
def Ring.used (r : Ring) : Nat := r.tail - r.head
def Ring.room (r : Ring) : Nat := r.size * 128 - r.used

/-- A ring of a cell; one never defined is empty. -/
def Cell.ring (c : Cell) (q : Nat) : Ring := Sparse.getD c.rings q ⟨false, 0, 0, 0, 0⟩

/-- The next `n` bytes of a ring as a number. -/
def State.ringBytes (s : State) (c q n : Nat) : Nat :=
  let r := (s.cell c).ring q
  bytesVal ((List.range n).map fun j => s.poolByte c (r.offset (r.head + j)))

/-- Some of `n` bytes from byte `k` of those to be popped is poisoned. -/
def State.ringPoisoned (s : State) (c q k n : Nat) : Bool :=
  let r := (s.cell c).ring q
  (List.range n).any fun j => s.poolPoisoned c (r.offset (r.head + k + j)) 1

/-- The pool ranges of `n` bytes from byte `k` of a ring's stream: offset and length. -/
def Ring.pieces (r : Ring) (k n : Nat) : List (Nat × Nat) :=
  let a := Nat.min n (r.size * 128 - k % (r.size * 128))
  if a = n then [(r.offset k, n)] else [(r.offset k, a), (r.base * 128, n - a)]

/-- HEAD advances; what was read is corrected (R62). -/
def State.ringPop (s : State) (c q n : Nat) : State :=
  let r := (s.cell c).ring q
  ((r.pieces r.head n).foldl (fun s p => s.poolCorrect c p.1 p.2) s).updCellAt c fun x =>
    { x with rings := Sparse.set q { r with head := r.head + n } x.rings }

/-- `n` bytes of `v` are appended, 8-byte words `pois` of them poisoned (R63), and TAIL advances. -/
def State.ringPush (s : State) (c q n v : Nat) (pois : Nat → Bool) : State :=
  let r := (s.cell c).ring q
  let s1 := ((r.pieces r.tail n).foldl
    (fun (a : State × Nat) p => (a.1.poolWrite c p.1 p.2 (a.2 % 2 ^ (8 * p.2)), a.2 / 2 ^ (8 * p.2))) (s, v)).1
  let s2 := ((List.range (ceilDiv n 8)).filter pois).foldl (fun s j =>
    (r.pieces (r.tail + 8 * j) (Nat.min 8 (n - 8 * j))).foldl (fun s p => s.poolPoison c p.1 p.2) s) s1
  s2.updCellAt c fun x => { x with rings := Sparse.set q { x.ring q with tail := (x.ring q).tail + n } x.rings }

/-! ### Poison of register words (R63) -/

/-- The 8-byte word of register `r` that holds bit `lo` is poisoned. -/
def Thread.wordPoisoned (t : Thread) (r lo : Nat) : Bool := NatSet.has t.poison (r * 128 + lo / 64)

/-- Words of `r` that elements `wr` of width `w` cover wholly are no longer poisoned. -/
def Thread.cleanWords (t : Thread) (r w : Nat) (wr : List Nat) : Thread :=
  { t with poison := t.poison.filter fun p =>
      !(decide (p / 128 = r) && (List.range (64 / w)).all fun j => wr.elem (p % 128 * (64 / w) + j)) }

/-! ### One run over elements -/

/-- TELEM of an element (R237): KIND 1, or KIND 2 with row and column. -/
def telemElem (i : Nat) : Word := BitVec.ofNat 64 (2 ^ 60 + i)
def telemRow (r c : Nat) : Word := BitVec.ofNat 64 (2 * 2 ^ 60 + r * 65536 + c)

/-- Elements executed so far: the thread, the destination elements written, and the trap with its
element. -/
structure VRun where
  t : Thread
  wr : List Nat
  trap : Option (TrapInfo × Nat)

/-- Result element `i` becomes `v` (R314, R325, R326). -/
def Thread.vPut (t : Thread) (e : QEntry) (i v : Nat) : Thread :=
  match e.kind.use.dst with
  | .mask =>
    let bit : BitVec 1024 := BitVec.ofNat 1024 (2 ^ i)
    t.writeM e.d (if v = 0 then t.readM e.d &&& ~~~bit else t.readM e.d ||| bit)
  | .pair =>
    let per := e.rlen / e.rw
    t.writeV (e.d + i / per) (elemSet (t.readV (e.d + i / per)) e.rw (i % per) v)
  | _ => t.writeV e.d (elemSet (t.readV e.d) e.rw i v)

/-- The exception-mask bit of element `i` (R226). -/
def Thread.vNote (t : Thread) (e : QEntry) (i : Nat) (hit : Bool) : Thread :=
  if e.x then
    let bit : BitVec 1024 := BitVec.ofNat 1024 (2 ^ i)
    t.writeM e.k (if hit then t.readM e.k ||| bit else t.readM e.k &&& ~~~bit)
  else t

/-- One element (R314): poison consumption, the exception mask, SignalFP, then the result. -/
def vElem (e : QEntry) (act : Nat → Bool) (pois : Nat → Option Nat) (val : Nat → Nat × Flags) (r : VRun) (i : Nat) : VRun :=
  if r.trap.isSome ∨ !act i then r
  else match pois i with
    | some n => { r with trap := some ({ code := 0x0B, tval := BitVec.ofNat 64 n, telem := telemElem i }, i) }
    | none =>
      let v := val i
      let t1 := (r.t.vNote e i (decide (v.2 &&& e.xsel.setWidth 7 ≠ 0 ∨ v.2 &&& fpEnOf e.fpctl ≠ 0))).raise v.2
      if v.2 &&& fpEnOf e.fpctl = 0 then ⟨t1.vPut e i v.1, i :: r.wr, none⟩
      else ⟨t1, r.wr, some ({ code := 0x06, tval := v.2.setWidth 64, telem := telemElem i }, i)⟩

/-- Elements `lo` to `hi` - 1 in ascending order. -/
def vRun (e : QEntry) (act : Nat → Bool) (pois : Nat → Option Nat) (val : Nat → Nat × Flags) (lo hi : Nat) (t : Thread) : VRun :=
  let r := ((List.range (hi - lo)).map (· + lo)).foldl (vElem e act pois val) ⟨t, [], none⟩
  match e.kind.use.dst with
  | .vec => { r with t := r.t.cleanWords e.d e.rw r.wr }
  | .pair =>
    let per := e.rlen / e.rw
    let lows := r.wr.filter fun j => decide (j < per)
    let highs := (r.wr.filter fun j => decide (per ≤ j)).map fun j => j - per
    { r with t := (r.t.cleanWords e.d e.rw lows).cleanWords (e.d + 1) e.rw highs }
  | _ => r

/-! ### Values of elements -/

/-- Source images: va and vb as they stand or as their rings supply them. -/
structure VSrc where
  a : BitVec 8192
  b : BitVec 8192

/-- Element `j` of a source, zero at LEN and beyond (R325). -/
def srcElem (e : QEntry) (x : BitVec 8192) (j : Nat) : Nat := if j < e.len then elemGet x e.w j else 0

/-- Accumulator element `i` of a widening pair (R325). -/
def Thread.pairElem (t : Thread) (e : QEntry) (i : Nat) : Nat :=
  elemGet (t.readV (e.d + i / (e.rlen / e.rw))) e.rw (i % (e.rlen / e.rw))

/-- The indices of active elements below LEN, ascending: what VCOMPRESS packs (R328). -/
def Thread.activeList (t : Thread) (e : QEntry) : List Nat := (List.range e.len).filter (t.vActive e)

/-- The element of va that a permute moves to element `i` (R328). -/
def Thread.permIndex (t : Thread) (e : QEntry) (src : VSrc) (i : Nat) : Option Nat :=
  match e.kind with
  | .vslideup => some (i - e.sb.toNat)
  | .vslidedn => if i + e.sb.toNat < e.len then some (i + e.sb.toNat) else none
  | .vgather => let j := elemGet src.b e.w i; if j < e.len then some j else none
  | .vcompress => (t.activeList e)[i]?
  | .vrev => some (e.len - 1 - i)
  | _ => none

/-- Which result elements an instruction writes (R312, R328). -/
def Thread.vActs (t : Thread) (e : QEntry) (i : Nat) : Bool :=
  match e.kind with
  | .vslideup => t.vActive e i && decide (e.sb.toNat ≤ i)
  | .vcompress => decide (i < (t.activeList e).length)
  | .vins => decide (i = e.sb.toNat)
  | _ => t.vActive e i

/-- The value and flags of result element `i`, from the thread and sources before the run. -/
def Thread.vVal (t : Thread) (e : QEntry) (src : VSrc) (i : Nat) : Nat × Flags :=
  let w := e.w
  let rm := fpRmOf e.fpctl
  let a := elemGet src.a w i
  let b := elemGet src.b w i
  if e.kind.permutes then
    if e.kind = .vins then (e.sa.toNat % 2 ^ w, 0)
    else match t.permIndex e src i with
      | some j => (elemGet src.a w j, 0)
      | none => (0, 0)
  else if e.kind.widens then vWiden e.kind w rm a b (t.pairElem e i)
  else if e.kind.dotWidth = 2 then
    vDot2 e.kind rm (srcElem e src.a (2 * i)) (srcElem e src.b (2 * i)) (srcElem e src.a (2 * i + 1))
      (srcElem e src.b (2 * i + 1)) (elemGet (t.readV e.d) 32 i)
  else if e.kind.dotWidth = 4 then
    (vDot4 (decide (e.kind = .vdot4)) ((List.range 4).map fun m => (srcElem e src.a (4 * i + m), srcElem e src.b (4 * i + m)))
      (elemGet (t.readV e.d) 32 i), 0)
  else match e.kind.use.dst with
    | .mask =>
      let r := vCmp e.kind w i e.sa e.sb a b
      (if r.1 then 1 else 0, r.2)
    | _ =>
      let a' := match e.kind with | .vsext => elemGet src.a (w / 2) i | .vzext => elemGet src.a (w / 2) i | _ => a
      vAlu e.kind w rm (fpSatnOf e.fpctl) e.g i e.sa a' b (elemGet (t.readV e.d) w i)

/-- Source elements of a register field read for result element `i`: (element, width). -/
def Thread.srcElems (t : Thread) (e : QEntry) (src : VSrc) (second : Bool) (i : Nat) : List (Nat × Nat) :=
  if e.kind.permutes then
    if second then [(i, e.w)] else (match t.permIndex e src i with | some j => [(j, e.w)] | none => [])
  else if e.kind.dotWidth ≠ 0 then
    ((List.range e.kind.dotWidth).map (· + e.kind.dotWidth * i)).filterMap fun j => if j < e.len then some (j, e.w) else none
  else match e.kind with
    | .vsext | .vzext => [(i, e.w / 2)]
    | _ => [(i, e.w)]

/-- vb names the pop register of va, which pops once (R338). -/
def QEntry.popsOnce (e : QEntry) : Bool := e.kind.use.a && decide (e.b = e.a)

/-- `w` bits from bit `lo` of the source in register `r` are poisoned; `base` is the first byte that its ring still holds. -/
def State.srcPoisoned (s : State) (c : Nat) (t : Thread) (e : QEntry) (base r : Nat) (second : Bool) (lo w : Nat) : Bool :=
  match e.popRing r with
  | some q =>
    if e.whole then NatSet.has e.run.pois (lo / 64 * 2 + if second && !e.popsOnce then 1 else 0)
    else s.ringPoisoned c q (lo / 8 - base) (w / 8)
  | none => t.wordPoisoned r lo

/-- The register among the sources of result element `i` whose word is poisoned (R63). -/
def State.vPois (s : State) (c : Nat) (t : Thread) (e : QEntry) (src : VSrc) (base i : Nat) : Option Nat :=
  let u := e.kind.use
  let bad := fun (r : Nat) (second : Bool) =>
    (t.srcElems e src second i).any fun p => s.srcPoisoned c t e base r second (p.1 * p.2) p.2
  if u.a && bad e.a false then some e.a
  else if u.b && bad e.b true then some e.b
  else if u.d && (if e.kind.widens then t.wordPoisoned (e.d + i / (e.rlen / e.rw)) (i % (e.rlen / e.rw) * e.rw)
      else t.wordPoisoned e.d (i * e.rw)) then some e.d
  else none

/-! ### Outcomes of a step of a queue head -/

/-- What a step of a queue head comes to. -/
inductive VOut
  /-- The instruction is complete. -/
  | done (s : State)
  /-- It goes on later from this ESI. -/
  | more (s : State) (esi : Word)
  /-- It faults; ESI as given. -/
  | fault (s : State) (i : TrapInfo) (esi : Word)
  /-- It is blocked on the ring of register `r` (R204). -/
  | ring (s : State) (r : Nat)
  /-- It waits (scoreboard, migrating page). -/
  | wait (s : State)

/-- The pop register that lacks `n` bytes. -/
def State.popBlocks (s : State) (c : Nat) (e : QEntry) (n : Nat) : Option Nat :=
  (e.pops.find? fun p => decide (((s.cell c).ring p.2).used < n)).map (·.1)

/-- The push register that lacks room for `n` bytes. -/
def State.pushBlocks (s : State) (c : Nat) (e : QEntry) (n : Nat) : Option Nat :=
  match e.push? with
  | some q => if ((s.cell c).ring q).room < n then some e.d else none
  | none => none

/-- The ring register that blocks a step of `n` bytes (R204). -/
def State.ringBlocks (s : State) (c : Nat) (e : QEntry) (n : Nat) : Option Nat := (s.popBlocks c e n).or (s.pushBlocks c e n)

/-- A source image: bytes from `base` come from the ring of a pop register. -/
def State.vImage (s : State) (c : Nat) (t : Thread) (e : QEntry) (r base n : Nat) : BitVec 8192 :=
  match e.popRing r with
  | some q => BitVec.ofNat 8192 (s.ringBytes c q n * 2 ^ (8 * base))
  | none => t.readV r

/-- `n` bytes from `base` of the destination are appended to the ring of a push register, poison with them (R63, R338). -/
def State.pushOut (s : State) (slot : Nat) (e : QEntry) (base n : Nat) : State :=
  match e.push? with
  | some q =>
    let t := s.thread slot
    s.ringPush (cellOf slot) q n ((t.readV e.d).toNat / 2 ^ (8 * base) % 2 ^ (8 * n)) fun j => t.wordPoisoned e.d (8 * base + 64 * j)
  | none => s

/-- Heads advance past the popped bytes and the result's bytes are pushed (R338). DEDUCED (log 48). -/
def State.ringCommit (s : State) (slot : Nat) (e : QEntry) (base n : Nat) : State :=
  (e.pops.foldl (fun s p => s.ringPop (cellOf slot) p.2 n) s).pushOut slot e base n

/-- The first element at or above `i` in whose group of `g` elements an active one is left (R317): `total` when there is
none. A ring supplies and takes every group (R338). -/
def Thread.skipTo (t : Thread) (e : QEntry) (g total i : Nat) : Nat :=
  if !e.pops.isEmpty || e.push?.isSome then i
  else match ((List.range (total - i)).map (· + i)).find? (t.vActive e) with
    | some j => Nat.max i (j / g * g)
    | none => total

/-- The entry `seq` has run as far as `r`. -/
def Thread.queueRun (t : Thread) (seq : Nat) (r : WholeRun) : Thread :=
  let f := fun (q : QEntry) => if q.seq = seq then { q with run := r } else q
  { t with vq := t.vq.map f, tq := t.tq.map f }

/-- An element group of an element-wise instruction, from the first element not skipped. -/
def State.vElemStep (s : State) (slot : Nat) (e : QEntry) (esi : Nat) : VOut :=
  let c := cellOf slot
  let t := s.thread slot
  let lo := t.skipTo e e.group e.count esi
  if e.count ≤ lo then .done s
  else
    let k := lo / e.group
    let hi := Nat.min e.count ((k + 1) * e.group)
    let n := e.groupBytes k
    match s.ringBlocks c e n with
    | some r => .ring s r
    | none =>
      let src : VSrc := ⟨s.vImage c t e e.a (64 * k) n, s.vImage c t e e.b (64 * k) n⟩
      let r := vRun e (t.vActs e) (s.vPois c t e src (64 * k)) (t.vVal e src) lo hi t
      match r.trap with
      | some (i, j) => .fault (s.setThread slot r.t) i (BitVec.ofNat 64 j)
      | none =>
        let s2 := (s.setThread slot r.t).ringCommit slot e (64 * k) n
        let next := (s2.thread slot).skipTo e e.group e.count hi
        if e.count ≤ next then .done s2 else .more s2 (BitVec.ofNat 64 next)

/-! ### Instructions that run whole (R315) -/

/-- Element-group steps of an instruction that runs whole (R317). -/
def Thread.wholeSteps (t : Thread) (e : QEntry) : Nat :=
  if e.pops.isEmpty then
    ((List.range e.groups).filter fun k => (List.range (512 / e.w)).any fun j =>
      decide (k * (512 / e.w) + j < e.len) && t.vActive e (k * (512 / e.w) + j)).length
  else e.groups

/-- The next element group: its bytes leave the rings of the pop registers for the entry (R338). -/
def State.takeGroup (s : State) (slot : Nat) (e : QEntry) : State × WholeRun :=
  let c := cellOf slot
  let k := e.run.steps
  let n := e.groupBytes k
  let pois := fun (q b : Nat) (ps : NatSet) => ((List.range (ceilDiv n 8)).filter fun j =>
    s.ringPoisoned c q (8 * j) (Nat.min 8 (n - 8 * j))).foldl (fun ps j => NatSet.add ((8 * k + j) * 2 + b) ps) ps
  let r := e.pops.foldl (fun (r : WholeRun) p =>
    let x := s.ringBytes c p.2 n * 2 ^ (512 * k)
    if e.kind.use.a ∧ p.1 = e.a then { r with a := r.a + x, pois := pois p.2 0 r.pois }
    else { r with b := r.b + x, pois := pois p.2 1 r.pois }) e.run
  (e.pops.foldl (fun s p => s.ringPop c p.2 n) s, { r with steps := k + 1 })

/-- The sources of an instruction that runs whole: what rings have supplied, or the registers. -/
def QEntry.wholeSrc (e : QEntry) (t : Thread) : VSrc :=
  ⟨if (e.popRing e.a).isSome then BitVec.ofNat 8192 e.run.a else t.readV e.a,
   if (e.popRing e.b).isSome then BitVec.ofNat 8192 (if e.popsOnce then e.run.a else e.run.b) else t.readV e.b⟩

/-- Every element group is taken: `f` computes the result, whose push begins; after a fault the instruction runs again whole,
with what rings have supplied kept. DEDUCED (log 48). -/
def State.wholeEnd (s : State) (slot : Nat) (e : QEntry) (f : State → QEntry → VOut) : VOut :=
  match f s e with
  | .done s' =>
    if e.push?.isSome ∧ 0 < e.bytes then .more (s'.updThread slot (·.queueRun e.seq { e.run with fin := true })) 0 else .done s'
  | .fault s' i x =>
    .fault (s'.updThread slot (·.queueRun e.seq (if e.pops.isEmpty then .fresh else e.run))) i x
  | o => o

/-- One step of an instruction that runs whole: an element group of its sources, with the last of which `f` computes the
result; then an element group to the ring of its push register. -/
def State.wholeStep (s : State) (slot : Nat) (e : QEntry) (f : State → QEntry → VOut) : VOut :=
  let c := cellOf slot
  if e.run.fin then
    let n := Nat.min 64 (e.bytes - e.run.put)
    match s.pushBlocks c e n with
    | some r => .ring s r
    | none =>
      let s1 := s.pushOut slot e e.run.put n
      if e.bytes ≤ e.run.put + n then .done s1
      else .more (s1.updThread slot (·.queueRun e.seq { e.run with put := e.run.put + n })) 0
  else if (s.thread slot).wholeSteps e ≤ e.run.steps then s.wholeEnd slot e f
  else
    match s.popBlocks c e (e.groupBytes e.run.steps) with
    | some r => .ring s r
    | none =>
      let g := s.takeGroup slot e
      if g.2.steps < (s.thread slot).wholeSteps e then .more (g.1.updThread slot (·.queueRun e.seq g.2)) 0
      else (g.1.updThread slot (·.queueRun e.seq g.2)).wholeEnd slot { e with run := g.2 } f

/-- All elements of a permute or of an instruction whose destination overlaps a source. -/
def State.vElemAll (s : State) (slot : Nat) (e : QEntry) : VOut :=
  let t := s.thread slot
  let src := e.wholeSrc t
  let r := vRun e (t.vActs e) (s.vPois (cellOf slot) t e src 0) (t.vVal e src) 0 e.count t
  match r.trap with
  | some (i, k) =>
    if e.atomicRun then .fault (s.setThread slot (t.csrSet csrFPFLG (r.t.csrGet csrFPFLG))) i 0
    else .fault (s.setThread slot r.t) i (BitVec.ofNat 64 k)
  | none => .done (s.setThread slot r.t)

/-! ### Reductions, extraction and masks -/

/-- State of a reduction: accumulator, flags raised, trap. DEDUCED (log 45). -/
structure VRed where
  acc : Nat
  fl : Flags
  trap : Option TrapInfo

/-- One step of a reduction at element value `x` (R329). -/
def redOp (k : VKind) (w : Nat) (rm : RoundMode) (acc x : Nat) : Nat × Flags :=
  let f := ewFmt false w
  match k with
  | .vredsum => ((acc + x) % 2 ^ w, 0)
  | .vredmin => (if signedElem w acc ≤ signedElem w x then acc else x, 0)
  | .vredmax => (if signedElem w acc ≤ signedElem w x then x else acc, 0)
  | .vredminu => (Nat.min acc x, 0)
  | .vredmaxu => (Nat.max acc x, 0)
  | .vfredsum => f.add rm acc x
  | .vfredmin => f.minMax false acc x
  | _ => f.minMax true acc x

/-- Whether a reduction's result is sign-extended (R329). -/
def redSigned : VKind → Bool
  | .vredsum | .vredmin | .vredmax => true
  | _ => false

/-- The scalar result of a reduction, extraction, population count or find (R327 to R329). DESIGN CHOICE (log 43). -/
def State.vScalar (s : State) (slot : Nat) (e : QEntry) : VOut :=
  let c := cellOf slot
  let t := s.thread slot
  let w := e.w
  if e.len = 0 then .done s
  else
      let src : VSrc := ⟨(e.wholeSrc t).a, 0⟩
      let m := (t.readM e.a).toNat % 2 ^ e.len
      let fin := fun (t : Thread) (x : Word) => VOut.done (s.setThread slot (t.writeS (BitVec.ofNat 5 e.d) x))
      match e.kind with
      | .mpopc => fin t (BitVec.ofNat 64 ((List.range e.len).filter (m.testBit ·)).length)
      | .mfirst => fin t (BitVec.ofNat 64 (((List.range e.len).find? (m.testBit ·)).getD e.len))
      | .vext =>
        let k := e.sb.toNat
        if k < e.len then
          match s.vPois c t e src 0 k with
          | some r => .fault s { code := 0x0B, tval := BitVec.ofNat 64 r, telem := telemElem k } 0
          | none => fin t (BitVec.ofNat 64 (elemGet src.a w k))
        else fin t 0
      | _ =>
        let r := (t.activeList e).foldl (fun (r : VRed) i =>
          if r.trap.isSome then r
          else match s.vPois c t e src 0 i with
            | some q => { r with trap := some { code := 0x0B, tval := BitVec.ofNat 64 q, telem := telemElem i } }
            | none =>
              let v := redOp e.kind w (fpRmOf e.fpctl) r.acc (elemGet src.a w i)
              if v.2 &&& fpEnOf e.fpctl = 0 then ⟨v.1, r.fl ||| v.2, none⟩
              else ⟨r.acc, r.fl ||| v.2, some { code := 0x06, tval := v.2.setWidth 64, telem := telemElem i }⟩)
          ⟨e.sb.toNat % 2 ^ w, 0, none⟩
        let t1 := t.raise r.fl
        match r.trap with
        | some i => .fault (s.setThread slot t1) i 0
        | none =>
          let x : Word := BitVec.ofNat 64 r.acc
          fin t1 (if redSigned e.kind then sext w x else x)

/-- A mask operation that writes a mask (R327). -/
def State.vMask (s : State) (slot : Nat) (e : QEntry) : VOut :=
  .done (s.updThread slot fun t =>
    let a := t.readM e.a
    let b := t.readM e.b
    let lim : BitVec 1024 := BitVec.ofNat 1024 (2 ^ e.len - 1)
    let r := match e.kind with
      | .mand => a &&& b
      | .mor => a ||| b
      | .mxor => a ^^^ b
      | .mandn => a &&& ~~~b
      | .mnot => ~~~a
      | _ => BitVec.allOnes 1024
    t.writeM e.d ((t.readM e.d &&& ~~~lim) ||| (r &&& lim)))

end Sys2Proof.Machine
end

