-- ==== Sys2Proof/Machine/VecMem.lean ====
section
/-! DEFINITION. Execution of queued vector instructions that touch memory: loads and stores in
all addressing forms, first-fault loads, lane atomics, spill and fill (R29, R30, R59, R60,
R319, R330 to R335). -/

namespace Sys2Proof.Machine

/-! ### Accesses of queued instructions -/

/-- The thread of the slot waits in its comb's replay queue (R37). -/
def State.inReplay (s : State) (slot : Nat) : Bool :=
  (Sparse.getD s.replays (combOf (cellOf slot)) []).any fun r => r.slots.elem slot

/-- An access of the slot's queue finds a migrating page (R37): it enters the replay queue, and the thread waits. -/
def State.queueMigrate (s : State) (slot page asid : Nat) : State :=
  (s.enterReplay (combOf (cellOf slot)) asid page (.thread slot)).updThread slot fun t =>
    { t with park := if t.park = .running ∨ t.park = .stalled then .replay else t.park }

/-- Where an access of a queued instruction stops. -/
inductive VStop
  | fault (f : AccFault)
  | poison (va : Word)
  | wait

/-- The locations of `n` bytes at `va` for the queue of `slot`. -/
def State.vReach (s : State) (slot : Nat) (x : Xlate) (path : Nat) (k : AccKind) (va : Word) (n : Nat) :
    Except (State × VStop) (State × List Loc) :=
  match s.access slot x path k va n with
  | .fault s' f => .error (s', .fault f)
  | .migrate s' p => .error (s'.queueMigrate slot p x.asid, .wait)
  | .wait s' => .error (s', .wait)
  | .ok s' ls => .ok (s', ls)

/-- A read of `n` bytes at `va` on the LS path by queued instruction `seq` of `slot`; with `noDev` a DEVICE element counts as one
that cannot be read (R29, R332). -/
def State.vRead (s : State) (slot seq : Nat) (x : Xlate) (va : Word) (n : Nat) (noDev : Bool) :
    Except (State × VStop) (Nat × Bool × State) :=
  match s.vReach slot x pathLS .read va n with
  | .error e => .error e
  | .ok (s', ls) =>
    if noDev && ls.any (·.isDev) then .error (s', .poison va)
    else match s'.holdRead slot (some seq) ls with
      | some s'' => .error (s'', .wait)
      | none => .ok (s'.readLocs slot true x.mode ls)

/-- The locations of a write of `n` bytes at `va` on the LS path by queued instruction `seq` of `slot`. -/
def State.vWrite (s : State) (slot seq : Nat) (x : Xlate) (va : Word) (n : Nat) : Except (State × VStop) (State × List Loc) :=
  match s.vReach slot x pathLS .write va n with
  | .error e => .error e
  | .ok (s', ls) =>
    match s'.holdWrite slot (some seq) ls with
    | some s'' => .error (s'', .wait)
    | none => .ok (s', ls)

/-- The first bytes at the addresses of an element group that overlap a live range of the scoreboard: the group waits,
and the groups before it have proceeded (R56). -/
def State.groupBlocked (s : State) (slot seq : Nat) (x : Xlate) (k : AccKind) (n : Nat) (vas : List Word) : Option (List Loc) :=
  if (s.cell (cellOf slot)).rsb.isEmpty then none
  else vas.findSome? fun va => match s.resolve (cellOf slot) x pathLS k va n with
    | .ok _ ls => if s.rsbBlocks slot (some seq) ls then some ls else none
    | _ => none

/-- Addresses reached one after another: the locations of each, and the stop of the first that cannot be reached. -/
structure Reached where
  s : State
  ok : List (List Loc)
  stop : Option VStop

/-- Accesses of several pieces (address, bytes) are translated and checked in order. -/
def State.reachAll (s : State) (slot : Nat) (x : Xlate) (k : AccKind) (ps : List (Word × Nat)) : Reached :=
  ps.foldl (fun r p =>
    if r.stop.isSome then r
    else match r.s.vReach slot x pathLS k p.1 p.2 with
      | .error (s', st) => { r with s := s', stop := some st }
      | .ok (s', ls) => { r with s := s', ok := r.ok ++ [ls] }) ⟨s, [], none⟩

/-- The state in which several reads wait, if some cannot be performed yet: each has been asked for. -/
def State.holdReads (s : State) (slot seq : Nat) (l : List (List Loc)) : Option State :=
  let r := l.foldl (fun (a : State × Bool) ls => match a.1.holdRead slot (some seq) ls with | some s' => (s', true) | none => a) (s, false)
  if r.2 then some r.1 else none

/-- Pieces (group, locations, value, poison) are written in order, up to the first group that the scoreboard
holds (R56); the second part says that one is held. -/
def State.putAll (s : State) (slot seq : Nat) (m : Mode) (ps : List (Nat × List Loc × Nat × Bool)) : State × Bool :=
  ps.foldl (fun (a : State × Bool) p =>
    if a.2 then a
    else match ps.find? fun q => decide (q.1 = p.1) && a.1.rsbBlocks slot (some seq) q.2.1 with
      | some q => (a.1.rsbNote slot (some seq) q.2.1, true)
      | none => (a.1.writeLocs slot true m p.2.1 p.2.2.1 p.2.2.2, false)) (s, false)

/-- The trap of a stop at element word `telem`. -/
def VStop.trap (st : VStop) (telem : Word) : Option TrapInfo :=
  match st with
  | .fault f => some { code := f.code, tval := f.tval, telem := telem, xlsyn := some f.xlsyn }
  | .poison va => some { code := 0x0B, tval := va, telem := telem }
  | .wait => none

/-! ### Addresses (R330, R333) -/

/-- The instruction moves rows (R333). -/
def VKind.is2d : VKind → Bool
  | .vld2d | .vst2d => true
  | _ => false

/-- Elements of a load or store: LEN, or ROWS x LEN. -/
def QEntry.elems (e : QEntry) : Nat := if e.kind.is2d then e.rows * e.len else e.len

/-- Address of element `i` (R330, R333, R335); `idx` is the index register's image. DEDUCED (log 49). -/
def QEntry.addr (e : QEntry) (idx : BitVec 8192) (i : Nat) : Word :=
  let nb := e.w / 8
  match e.kind with
  | .vldOffset | .vstOffset => e.sa + e.sb + BitVec.ofNat 64 (i * nb)
  | .vlds | .vsts => e.sa + BitVec.ofNat 64 i * e.sb
  | .vldx | .vstx | .vamoadd | .vamoswap | .vamomin | .vamomax | .vamominu | .vamomaxu | .vamoand | .vamoor | .vamoxor | .vamofadd =>
    e.sa + sext e.w (BitVec.ofNat 64 (elemGet idx e.w i))
  | .vld2d | .vst2d => e.sa + BitVec.ofInt 64 ((i / e.len : Nat) * e.pitch + (i % e.len * nb : Nat))
  | _ => e.sa + BitVec.ofNat 64 (i * nb)

/-- ESI and TELEM of element `i` (R218, R237, R333). -/
def QEntry.esiOf (e : QEntry) (i : Nat) : Word :=
  if e.kind.is2d ∧ e.len ≠ 0 then BitVec.ofNat 64 (i / e.len * 65536 + i % e.len) else BitVec.ofNat 64 i
def QEntry.telemOf (e : QEntry) (i : Nat) : Word :=
  if e.kind.is2d ∧ e.len ≠ 0 then telemRow (i / e.len) (i % e.len) else telemElem i

/-- The element that an ESI value names. -/
def QEntry.elemOf (e : QEntry) (esi : Word) : Nat :=
  if e.kind.is2d then bits esi 16 16 * e.len + bits esi 0 16 else bits esi 0 16

/-- The instruction waits, to go on at element `i`. -/
def Thread.progress (t : Thread) (seq : Nat) (esi : Word) : Thread :=
  { t with vq := t.vq.map fun (q : QEntry) => if q.seq = seq then { q with prog := some esi } else q }
def State.holdAt (s : State) (slot : Nat) (e : QEntry) (i : Nat) : VOut := .wait (s.updThread slot (·.progress e.seq (e.esiOf i)))

/-! ### Loads and stores (R331, R332) -/

/-- Progress within a group: the state, elements loaded, bytes to be stored with their value, and the stop with its
element. -/
structure VMem where
  s : State
  wr : List Nat
  out : List Loc
  val : Nat
  stop : Option (VStop × Nat)

/-- The first active element. -/
def Thread.firstActive (t : Thread) (e : QEntry) : Option Nat := (List.range e.elems).find? (t.vActive e)

/-- One element of a load (R331, R332). -/
def vLoadElem (slot : Nat) (e : QEntry) (idx : BitVec 8192) (idxPois : Nat → Bool) (m : VMem) (i : Nat) : VMem :=
  let t := m.s.thread slot
  if m.stop.isSome ∨ !t.vActive e i then m
  else if idxPois i then { m with stop := some (.poison (BitVec.ofNat 64 e.b), i) }
  else
    let va := e.addr idx i
    match m.s.vRead slot e.seq e.xl va (e.w / 8) (decide (e.kind = .vldff ∧ t.firstActive e ≠ some i)) with
    | .error (s', st) => { m with s := s', stop := some (st, i) }
    | .ok (v, p, s') =>
      if p then { m with s := s', stop := some (.poison va, i) }
      else { m with s := s'.updThread slot fun t => t.writeV e.d (elemSet (t.readV e.d) e.w i v), wr := i :: m.wr }

/-- One element of a store (R331): it is stored with the others of its step. -/
def vStoreElem (slot : Nat) (e : QEntry) (idx : BitVec 8192) (idxPois : Nat → Bool) (m : VMem) (i : Nat) : VMem :=
  let t := m.s.thread slot
  if m.stop.isSome ∨ !t.vActive e i then m
  else if idxPois i then { m with stop := some (.poison (BitVec.ofNat 64 e.b), i) }
  else if t.wordPoisoned e.d (i * e.w) then { m with stop := some (.poison (BitVec.ofNat 64 e.d), i) }
  else match m.s.vWrite slot e.seq e.xl (e.addr idx i) (e.w / 8) with
    | .error (s', st) => { m with s := s', stop := some (st, i) }
    | .ok (s', ls) =>
      { m with s := s', out := m.out ++ ls, val := m.val + elemGet (t.readV e.d) e.w i * 2 ^ (8 * m.out.length) }

/-- The instruction stores. -/
def VKind.stores : VKind → Bool
  | .vst | .vstOffset | .vsts | .vstx | .vst2d => true
  | _ => false

/-- Loads and stores. -/
def VKind.isMem : VKind → Bool
  | .vld | .vldOffset | .vlds | .vldx | .vldff | .vld2d => true
  | k => k.stores

/-- The elements of a step: those from `lo` to `hi` - 1, and none behind the first that reaches DEVICE memory (R29) or, while
each is a step of its own, behind the first active one (R126). -/
def State.vMemElems (s : State) (slot : Nat) (e : QEntry) (idx : BitVec 8192) (lo hi : Nat) : List Nat :=
  let els := (List.range (hi - lo)).map (· + lo)
  let dev := fun (i : Nat) => (s.thread slot).vActive e i && (s.apart ||
    match s.resolve (cellOf slot) e.xl pathLS (if e.kind.stores then .write else .read) (e.addr idx i) (e.w / 8) with
      | .ok _ ls => ls.any (·.isDev)
      | _ => false)
  match els.find? dev with
  | some i => els.filter (decide <| · ≤ i)
  | none => els

/-- FFI of a first-fault load (R332). -/
def State.setFfi (s : State) (slot : Nat) (e : QEntry) (i : Nat) : State :=
  if e.kind = .vldff then s.updThread slot fun t => t.csrSet csrFFI (BitVec.ofNat 64 i) else s

/-- The elements `els` of group `k`, up to element `hi`, are accessed; behind the last of the group its ring bytes move.
DESIGN CHOICE (log 124). -/
def State.vMemGroup (s : State) (slot : Nat) (e : QEntry) (idx : BitVec 8192) (idxPois : Nat → Bool) (k hi : Nat)
    (els : List Nat) : VOut :=
  let t := s.thread slot
  let step := if e.kind.stores then vStoreElem slot e idx idxPois else vLoadElem slot e idx idxPois
  let m := els.foldl step ⟨s, [], [], 0, none⟩
  let s1 := if e.kind.stores then m.s.writeLocs slot true e.xl.mode m.out m.val false
    else m.s.updThread slot (·.cleanWords e.d e.w m.wr)
  match m.stop with
  | some (st, i) =>
    match st.trap (e.telemOf i) with
    | none => s1.holdAt slot e i
    | some f =>
      if e.kind = .vldff ∧ t.firstActive e ≠ some i then
        if e.push?.isSome then
          .more ((s1.setFfi slot e i).updThread slot (·.queueRun e.seq { e.run with fin := true })) (e.esiOf (k * (512 / e.w)))
        else .done (s1.setFfi slot e i)
      else .fault s1 f (e.esiOf i)
  | none =>
    let next := els.getLast?.elim hi (· + 1)
    if next < hi then .more s1 (e.esiOf next)
    else
      let s2 := s1.ringCommit slot e (64 * k) (e.groupBytes k)
      let next := (s2.thread slot).skipTo e (512 / e.w) e.elems hi
      if e.elems ≤ next then .done (s2.setFfi slot e e.len) else .more s2 (e.esiOf next)

/-- One step of a load or store: an element group, or what is left of the push of a first-fault load that has stopped. -/
def State.vMemStep (s : State) (slot : Nat) (e : QEntry) (esi : Nat) : VOut :=
  let c := cellOf slot
  let t := s.thread slot
  let lo := t.skipTo e (512 / e.w) e.elems esi
  if e.elems ≤ lo then .done (if e.len ≠ 0 then s.setFfi slot e e.len else s)
  else
    let k := lo / (512 / e.w)
    let hi := Nat.min e.elems ((k + 1) * (512 / e.w))
    let n := e.groupBytes k
    match s.ringBlocks c e n with
    | some r => .ring s r
    | none =>
      if e.run.fin then
        let s1 := s.pushOut slot e (64 * k) n
        if e.elems ≤ hi then .done s1 else .more s1 (e.esiOf hi)
      else
        let idx := if e.kind.use.b then s.vImage c t e e.b (64 * k) n else 0
        let idxPois := fun (i : Nat) => e.kind.use.b && s.srcPoisoned c t e (64 * k) e.b true (i * e.w) e.w
        let els := s.vMemElems slot e idx lo hi
        match s.groupBlocked slot e.seq e.xl (if e.kind.stores then .write else .read) (e.w / 8)
            ((els.filter (t.vActive e)).map (e.addr idx)) with
        | some ls => (s.rsbNote slot (some e.seq) ls).holdAt slot e lo
        | none => s.vMemGroup slot e idx idxPois k hi els

/-! ### Lane atomics (R334, R335) -/

/-- The operation of a lane atomic (R334). -/
def VKind.amoOp : VKind → AmoOp
  | .vamoadd => .add
  | .vamoswap => .swap
  | .vamomin => .min
  | .vamomax => .max
  | .vamominu => .minu
  | .vamomaxu => .maxu
  | .vamoand => .and
  | .vamoor => .or
  | .vamoxor => .xor
  | _ => .fadd

/-- Lane atomics. -/
def VKind.isLaneAtomic : VKind → Bool
  | .vamoadd | .vamoswap | .vamomin | .vamomax | .vamominu | .vamomaxu | .vamoand | .vamoor | .vamoxor | .vamofadd => true
  | _ => false

/-- Checked elements of a lane atomic: the state, elements with their locations, and the failure. -/
structure LaneChk where
  s : State
  ok : List (Nat × List Loc)
  bad : Option (TrapInfo × Nat)

/-- R335 step 1 for one active element. -/
def laneCheck (slot : Nat) (e : QEntry) (idx : BitVec 8192) (idxPois : Nat → Bool) (m : LaneChk) (i : Nat) : LaneChk :=
  let t := m.s.thread slot
  let n := e.w / 8
  if m.bad.isSome ∨ !t.vActive e i then m
  else
    let va := e.addr idx i
    let stop := fun (s : State) (v : VStop) => { m with s := s, bad := (v.trap (telemElem i)).map fun f => (f, i) }
    if idxPois i then stop m.s (.poison (BitVec.ofNat 64 e.b))
    else if t.wordPoisoned e.d (i * e.w) then stop m.s (.poison (BitVec.ofNat 64 e.d))
    else if windowOf va ≠ some false then stop m.s (.fault (mkFault pathLA .near 0 10 va))
    else match m.s.resolve (cellOf slot) e.xl pathLA .near va n with
      | .ok s' ls =>
        if va.toNat % n ≠ 0 then { m with s := s', bad := some ({ code := 0x02, tval := va, telem := telemElem i }, i) }
        else { m with s := s', ok := m.ok ++ [(i, ls)] }
      | .fault s' f => stop s' (.fault f)
      | .migrate s' _ => stop s' .wait
      | .wait s' => stop s' .wait

/-- R335 steps 2 and 3 for one checked element. -/
def laneApply1 (slot : Nat) (e : QEntry) (idx : BitVec 8192) (m : VMem) (p : Nat × List Loc) : VMem × Option (TrapInfo × Nat) :=
  let t := m.s.thread slot
  let old := m.s.readLocs slot true e.xl.mode p.2
  if old.2.1 then (m, some ({ code := 0x0B, tval := e.addr idx p.1, telem := telemElem p.1 }, p.1))
  else
    let r := amoApply e.kind.amoOp e.w (fpRmOf e.fpctl) old.1 (elemGet (t.readV e.d) e.w p.1) 0
    let s1 := old.2.2.updThread slot (·.raise r.2.1)
    if r.2.1 &&& fpEnOf e.fpctl = 0 then
      let s2 := s1.writeLocs slot true e.xl.mode p.2 r.1 false
      ({ m with s := s2.updThread slot fun t => t.writeV e.d (elemSet (t.readV e.d) e.w p.1 old.1), wr := p.1 :: m.wr }, none)
    else ({ m with s := s1 }, some ({ code := 0x06, tval := r.2.1.setWidth 64, telem := telemElem p.1 }, p.1))

/-- The element group of a lane atomic from element `lo` to `hi` - 1 (R335): all its elements from `lo` on are checked, and
those of the group below the lowest failure are applied, or the first of them (R126), unless the scoreboard holds one of
them (R56). -/
def State.laneGroup (s : State) (slot : Nat) (e : QEntry) (idx : BitVec 8192) (idxPois : Nat → Bool) (lo end_ : Nat) : VOut :=
  let hi := if s.apart then lo + 1 else end_
  let chk := ((List.range (e.len - lo)).map (· + lo)).foldl (laneCheck slot e idx idxPois) ⟨s, [], none⟩
  let now := chk.ok.filter fun (p : Nat × List Loc) => decide (p.1 < hi)
  match now.find? fun p => chk.s.rsbBlocks slot (some e.seq) p.2 with
  | some p => (chk.s.rsbNote slot (some e.seq) p.2).holdAt slot e lo
  | none =>
    let r := now.foldl (fun (a : VMem × Option (TrapInfo × Nat)) p =>
      if a.2.isSome then a else laneApply1 slot e idx a.1 p) (⟨chk.s, [], [], 0, none⟩, none)
    let s1 := r.1.s.updThread slot (·.cleanWords e.d e.w r.1.wr)
    match r.2.or (chk.bad.filter fun b => decide (b.2 < hi)) with
    | some (f, k) => .fault s1 f (BitVec.ofNat 64 k)
    | none =>
      if hi < end_ then .more s1 (BitVec.ofNat 64 hi) else
      let k := lo / (512 / e.w)
      let s2 := s1.pushOut slot e (64 * k) (e.groupBytes k)
      let next := (s2.thread slot).skipTo e (512 / e.w) e.len hi
      if e.len ≤ next then .done s2 else .more s2 (BitVec.ofNat 64 next)

/-- One step of a lane atomic: its index ring supplies an element group, or an element group is performed; no interrupt is
taken between them (R315, R335). -/
def State.laneStep (s : State) (slot : Nat) (e : QEntry) (esi : Nat) : VOut :=
  let c := cellOf slot
  let t := s.thread slot
  let lo := t.skipTo e (512 / e.w) e.len esi
  if e.len ≤ lo then .done s
  else if !e.pops.isEmpty ∧ e.run.steps < e.groups then
    match s.popBlocks c e (e.groupBytes e.run.steps) with
    | some r => .ring s r
    | none =>
      let g := s.takeGroup slot e
      .more (g.1.updThread slot (·.queueRun e.seq g.2)) (BitVec.ofNat 64 esi)
  else
    match s.pushBlocks c e (e.groupBytes (lo / (512 / e.w))) with
    | some r => .ring s r
    | none =>
      let idx := (e.wholeSrc t).b
      let idxPois := fun (i : Nat) =>
        if (e.popRing e.b).isSome then NatSet.has e.run.pois (i * e.w / 64 * 2 + 1) else t.wordPoisoned e.b (i * e.w)
      s.laneGroup slot e idx idxPois lo (Nat.min e.len ((lo / (512 / e.w) + 1) * (512 / e.w)))

/-! ### Spill and fill (R59, R60, R319) -/

/-- Registers that VMASK names, ascending. -/
def maskRegs (m : Nat) : List Nat := (List.range 32).filter (m.testBit ·)

/-- Bytes of one register block of a frame (R59). -/
def spillBlock (len w : Nat) : Nat := 16 * ((len * w + 127) / 128)

/-- The header of a frame as a number of 16 bytes (R59). -/
def spillHeader (len ewc rlen vmask size : Nat) : Nat :=
  len % 65536 + ewc * 2 ^ 16 + rlen / 128 * 2 ^ 24 + vmask % 2 ^ 32 * 2 ^ 32 + size * 2 ^ 64 + 2 ^ 96

/-- The 8-byte words of a frame: value and poison (R59, R63). -/
def Thread.spillWords (t : Thread) (e : QEntry) : List (Nat × Bool) :=
  let vm := e.sb.toNat % 2 ^ 32
  let blk := spillBlock e.len e.w
  let rs := maskRegs vm
  let h := spillHeader e.len (ewCode e.ew) e.rlen vm (16 + rs.length * blk)
  [(h % 2 ^ 64, false), (h / 2 ^ 64, false)] ++
    rs.flatMap fun r =>
      let x := (t.readV r).toNat % 2 ^ (e.len * e.w)
      (List.range (blk / 8)).map fun j =>
        (x / 2 ^ (64 * j) % 2 ^ 64, decide (64 * j < e.len * e.w) && t.wordPoisoned r (64 * j))

/-- The 8-byte words from `va`. -/
def framePieces (va : Word) (n : Nat) : List (Word × Nat) := (List.range n).map fun j => (va + BitVec.ofNat 64 (8 * j), 8)

/-- A stop of an instruction that runs again whole, at element `i`. -/
def VStop.out (st : VStop) (s : State) (i : Nat) : VOut :=
  match st.trap (telemElem i) with
  | some i => .fault s i 0
  | none => .wait s

/-- The element of a register block that word `j` of a frame holds, zero in the header. -/
def QEntry.frameElem (e : QEntry) (j : Nat) : Nat :=
  let per := spillBlock e.len e.w / 8
  if j < 2 ∨ per = 0 then 0 else (j - 2) % per * 64 / e.w

/-- VSPILL (R319). It is not interrupted once it has written (R315). While each element is a step of its own (R126), one
word of the frame is written. -/
def State.spillStep (s : State) (slot : Nat) (e : QEntry) : VOut :=
  let t := s.thread slot
  if e.sa.toNat % 16 ≠ 0 then .fault s { code := 0x02, tval := e.sa } 0
  else if 2 ^ 32 ≤ e.sb.toNat then .fault s { code := 0x02, tval := e.sb } 0
  else
    let ws := t.spillWords e
    let g := s.reachAll slot e.xl .write (framePieces e.sa ws.length)
    match g.stop with
    | some st => st.out g.s (e.frameElem g.ok.length)
    | none =>
      if g.ok.any (·.any (·.isDev)) then .fault g.s { code := 0x02, tval := e.sa } 0
      else
        let ps := (g.ok.zip ws).mapIdx fun j p => (j / 8, p.1, p.2.1, p.2.2)
        if s.apart then
          let r := g.s.putAll slot e.seq e.xl.mode ((ps.drop e.run.steps).take 1)
          if r.2 then .wait r.1
          else if e.run.steps + 1 < ps.length then
            .more (r.1.updThread slot (·.queueRun e.seq { e.run with steps := e.run.steps + 1 })) 0
          else .done r.1
        else
          let r := g.s.putAll slot e.seq e.xl.mode ps
          if r.2 then .wait (r.1.updThread slot (·.queueRun e.seq { e.run with steps := 1 })) else .done r.1

/-- Words of a frame in the run of a fill: the values one above the other, the poisoned ones. -/
def WholeRun.frameWords (r : WholeRun) (n : Nat) : List (Nat × Bool) :=
  (List.range n).map fun j => (r.a / 2 ^ (64 * j) % 2 ^ 64, NatSet.has r.pois j)

/-- The first `n` words of a frame: read, or the outcome of the step that cannot read them yet; `el` gives the element of a
word. While each element is a step of its own (R126), they are read one by one. -/
def State.frameRead (s : State) (slot : Nat) (e : QEntry) (n : Nat) (el : Nat → Nat) : Except VOut (State × List (Nat × Bool)) :=
  let g := s.reachAll slot e.xl .read (framePieces e.sa n)
  let read := fun (s : State) (l : List (List Loc)) => l.foldl (fun (a : State × List (Nat × Bool)) ls =>
    let r := a.1.readLocs slot true e.xl.mode ls
    (r.2.2, a.2 ++ [(r.1, r.2.1)])) (s, [])
  let now := if s.apart then (g.ok.drop e.run.steps).take 1 else g.ok
  match g.stop with
  | some st => .error (st.out g.s (el g.ok.length))
  | none =>
    if g.ok.any (·.any (·.isDev)) then .error (.fault g.s { code := 0x02, tval := e.sa } 0)
    else if s.apart ∧ n ≤ e.run.steps then .ok (g.s, e.run.frameWords n)
    else match g.s.holdReads slot e.seq now with
      | some s' => .error (.wait s')
      | none =>
        let r := read g.s now
        if !s.apart then .ok r
        else
          let w := r.2.getD 0 (0, false)
          let j := e.run.steps
          .error (.more (r.1.updThread slot (·.queueRun e.seq
            { e.run with steps := j + 1, a := e.run.a + w.1 * 2 ^ (64 * j), pois := if w.2 then NatSet.add j e.run.pois else e.run.pois })) 0)

/-- One register of a frame: its words, cut at `nb` bits, zeroes above (R60). -/
def Thread.fillReg (t : Thread) (r nb : Nat) (ws : List (Nat × Bool)) : Thread :=
  let x := ws.reverse.foldl (fun v p => v * 2 ^ 64 + p.1) 0
  let t1 := t.writeV r (BitVec.ofNat 8192 (x % 2 ^ nb))
  let clean := t1.poison.filter fun p => decide (p / 128 ≠ r)
  let mark := fun (ps : NatSet) (j : Nat) => if (ws.getD j (0, false)).2 ∧ 64 * j < nb then NatSet.add (r * 128 + j) ps else ps
  { t1 with poison := (List.range ws.length).foldl mark clean }

/-- VFILL (R60, R319). DESIGN CHOICE (log 126): the spec leaves open what a poisoned header word does, since VFILL carries
poison without trapping (R63); its stored bytes are taken. -/
def State.fillStep (s : State) (slot : Nat) (e : QEntry) : VOut :=
  let bad := fun (s : State) => VOut.fault s { code := 0x02, tval := e.sa } 0
  if e.sa.toNat % 16 ≠ 0 then bad s
  else match s.frameRead slot e 2 fun _ => 0 with
    | .error o => o
    | .ok h =>
      let w0 := (h.2.getD 0 (0, false)).1
      let w1 := (h.2.getD 1 (0, false)).1
      let len := w0 % 65536
      let ewc := w0 / 2 ^ 16 % 256
      let rl := w0 / 2 ^ 24 % 256
      let vm := w0 / 2 ^ 32
      if w1 / 2 ^ 32 % 65536 ≠ 1 ∨ 3 < ewc ∨ rl = 0 ∨ 64 < rl ∨ rl * 128 / (8 * 2 ^ ewc) < len then bad h.1
      else
        let w := 8 * 2 ^ ewc
        let blk := spillBlock len w
        let rs := maskRegs vm
        match h.1.frameRead slot e (2 + rs.length * (blk / 8)) fun j => if j < 2 then 0 else (j - 2) % (blk / 8) * 64 / w with
        | .error o => o
        | .ok d =>
          let new := Nat.min len (e.rlen / w)
          .done (d.1.updThread slot fun t =>
            ((List.range rs.length).foldl
              (fun t k => t.fillReg (rs.getD k 0) (new * w) ((d.2.drop (2 + k * (blk / 8))).take (blk / 8))) t
              |>.csrSet csrLEN (BitVec.ofNat 64 new)).csrSet csrEW (BitVec.ofNat 64 ewc))

end Sys2Proof.Machine
end

