-- ==== Sys2Proof/Machine/Geom.lean ====
section
/-! DEFINITION. Exact geometric predicates (R390 to R400): signs of determinants over exact
values, symbolic perturbation, segment intersection, stages and ordered commits. -/

namespace Sys2Proof.Machine

/-! ### Exact polynomials in the perturbation -/

/-- A polynomial in ε with integer coefficients: (exponent, nonzero coefficient), ascending. -/
abbrev Poly := List (Nat × Int)

/-- A constant. -/
def polyConst (x : Int) : Poly := if x = 0 then [] else [(0, x)]

/-- One term is added. -/
def polyAddTerm (p : Poly) (t : Nat × Int) : Poly :=
  let v := Sparse.getD p t.1 0 + t.2
  if v = 0 then Sparse.erase t.1 p else Sparse.set t.1 v p

/-- Sum, negation and product. -/
def polyAdd (p q : Poly) : Poly := q.foldl polyAddTerm p
def polyNeg (p : Poly) : Poly := p.map fun t => (t.1, -t.2)
def polyMul (p q : Poly) : Poly :=
  p.foldl (fun r a => q.foldl (fun r b => polyAddTerm r (a.1 + b.1, a.2 * b.2)) r) []

/-- The determinant by expansion along the first row; the first argument is the order. -/
def polyDet : Nat → List (List Poly) → Poly
  | 0, _ => polyConst 1
  | n + 1, rows =>
    match rows with
    | [] => polyConst 1
    | r :: rest =>
      (List.range r.length).foldl (fun acc j =>
        let m := polyMul (r.getD j []) (polyDet n (rest.map fun x => x.eraseIdx j))
        polyAdd acc (if j % 2 = 0 then m else polyNeg m)) []

/-- The sign of the coefficient of the lowest power (R394). -/
def polySign (p : Poly) : Int :=
  match p with
  | [] => 0
  | (_, c) :: _ => if c < 0 then -1 else if 0 < c then 1 else 0

/-! ### Shapes (R390) -/

/-- Points, dimensions and whether |p|² stands in the rows. -/
structure GeomShape where
  p : Nat
  d : Nat
  lift : Bool
  seg : Bool
  keys : Bool
  fn : Nat
  deriving DecidableEq, Repr

/-- The shape of a predicate (R390). -/
def VKind.geom : VKind → Option GeomShape
  | .vorient2 => some ⟨3, 2, false, false, false, 0⟩
  | .vorient3 => some ⟨4, 3, false, false, false, 1⟩
  | .vincirc => some ⟨4, 2, true, false, false, 2⟩
  | .vinsph => some ⟨5, 3, true, false, false, 3⟩
  | .vsegx => some ⟨4, 2, false, true, false, 4⟩
  | .vorient2t => some ⟨3, 2, false, false, true, 8⟩
  | .vorient3t => some ⟨4, 3, false, false, true, 9⟩
  | .vincirct => some ⟨4, 2, true, false, true, 10⟩
  | .vinspht => some ⟨5, 3, true, false, true, 11⟩
  | _ => none

/-- Registers of the group (R390). -/
def GeomShape.group (g : GeomShape) : Nat := g.d * g.p + (if g.keys then g.p else 0)

/-! ### Determinants (R392, R394) -/

/-- The sign of the determinant over points whose coordinates are polynomials: rows (x, y, [z,]
[|p|²,] 1). -/
def geomSign (g : GeomShape) (pts : List (List Poly)) : Int :=
  let rows := pts.map fun c =>
    c ++ (if g.lift then [c.foldl (fun s x => polyAdd s (polyMul x x)) []] else []) ++ [polyConst 1]
  polySign (polyDet rows.length rows)

/-- Rank of each key: the number of smaller keys (R394). -/
def keyRanks (ks : List Nat) : List Nat := ks.map fun k => (ks.filter (· < k)).length

/-- Keys are pairwise distinct. -/
def keysDistinct (ks : List Nat) : Bool := decide ks.Nodup

/-- A coordinate of the point of rank `r` plus ε^(3^(D r + c)), at scale 2^k (R394). -/
def perturb (d k r : Nat) (pt : List Int) : List Poly :=
  (List.range pt.length).map fun c => polyAdd (polyConst (pt.getD c 0)) [(3 ^ (d * r + c), (2 : Int) ^ k)]

/-! ### Segments (R393) -/

/-- Orientation of three points. -/
def orient (a b c : List Int) : Int :=
  geomSign ⟨3, 2, false, false, false, 0⟩ ([a, b, c].map fun p => p.map polyConst)

/-- The four component orientations of VSEGX (R397). -/
def segOrients (pts : List (List Int)) : List Int :=
  let q := fun i => pts.getD i []
  [orient (q 0) (q 1) (q 2), orient (q 0) (q 1) (q 3), orient (q 2) (q 3) (q 0), orient (q 2) (q 3) (q 1)]

/-- VSEGX (R393). -/
def segCross (pts : List (List Int)) : Nat :=
  let o := segOrients pts
  let o0 := o.getD 0 0; let o1 := o.getD 1 0; let o2 := o.getD 2 0; let o3 := o.getD 3 0
  if o0 = 0 ∧ o1 = 0 ∧ o2 = 0 ∧ o3 = 0 then
    let x := fun (i c : Nat) => (pts.getD i []).getD c 0
    let c := if x 0 0 = x 1 0 ∧ x 0 0 = x 2 0 ∧ x 0 0 = x 3 0 then 1 else 0
    let lo := max (min (x 0 c) (x 1 c)) (min (x 2 c) (x 3 c))
    let hi := min (max (x 0 c) (x 1 c)) (max (x 2 c) (x 3 c))
    if hi < lo then 0 else if lo < hi then 3 else 2
  else if 0 < o0 * o1 ∨ 0 < o2 * o3 then 0
  else if o0 ≠ 0 ∧ o1 ≠ 0 ∧ o2 ≠ 0 ∧ o3 ≠ 0 then 1 else 2

/-! ### Stages (R397) -/

/-- 3·2^-53 + 2^-102 in binary64. -/
def orientBound : Nat := (fmtD.roundFP .rne (.fin false (3 * 2 ^ 49 + 1) (-102))).1

/-- Stage A of VORIENT2 settles the element: |det| exceeds the bound, each quantity in binary64
with RNE (R397). `v` holds ax, ay, bx, by, cx, cy as binary64. -/
def orientSettled (v : List Nat) : Bool :=
  let g := fun i => v.getD i 0
  let sub := fun a b => (fmtD.sub .rne a b).1
  let mul := fun a b => (fmtD.mul .rne a b).1
  let abs := fun a => fmtD.withSign a false
  let t1 := mul (sub (g 0) (g 4)) (sub (g 3) (g 5))
  let t2 := mul (sub (g 1) (g 5)) (sub (g 2) (g 4))
  decide ((fmtD.relation false (abs (sub t1 t2)) (mul orientBound (fmtD.add .rne (abs t1) (abs t2)).1)).1 = 4)

/-- The stage, 0 to 2, that settles a finite element with a nonzero sign (R397). The bounds other
than stage A of VORIENT2 are the part's own: free values. -/
def settledAt (g : GeomShape) (w : Nat) (coords : List Nat) : Nat :=
  let f := ewFmt false w
  let ws := coords.map (BitVec.ofNat 64)
  let a := if g.fn = 0 then orientSettled (coords.map fun x => (fmtD.roundFP .rne (f.decode x)).1)
    else Config.settles 0 g.fn w ws
  if a then 0 else if Config.settles 1 g.fn w ws then 1 else 2

/-! ### One element (R395, R396) -/

/-- What an element evaluates to: the result, flags, degenerate, and its stage if it is finite. -/
structure GeomRes where
  r : Int
  fl : Flags
  deg : Bool
  stage : Option Nat
  deriving DecidableEq, Repr

/-- The element with coordinate encodings `coords` (point by point) and keys `ks`. -/
def geomEval (g : GeomShape) (w : Nat) (coords ks : List Nat) : GeomRes :=
  let vs := coords.map (ewFmt false w).decode
  if vs.any (fun v => v.isNan || v.isInf) then ⟨0, flPD, false, none⟩
  else
    let parts := vs.map fun v => match v with
      | .fin n m e => (signedM n m, e)
      | _ => ((0 : Int), (0 : Int))
    let emin := parts.foldl (fun a p => min a p.2) 0
    let ints := parts.map fun p => p.1 * 2 ^ (p.2 - emin).toNat
    let pts := (List.range g.p).map fun p => (List.range g.d).map fun c => ints.getD (g.d * p + c) 0
    if g.seg then
      let r := segCross pts
      ⟨r, 0, decide (r = 2 ∨ r = 3), some (if (segOrients pts).any (· == 0) then 2 else settledAt g w coords)⟩
    else
      let s := geomSign g (pts.map fun p => p.map polyConst)
      let r := if s = 0 ∧ g.keys ∧ keysDistinct ks then
          geomSign g ((List.range g.p).map fun p => perturb g.d (-emin).toNat ((keyRanks ks).getD p 0) (pts.getD p []))
        else s
      ⟨r, 0, decide (r = 0), some (if s = 0 then 2 else settledAt g w coords)⟩

/-- The evaluation of element `i` of a queued predicate. -/
def Thread.geomElem (t : Thread) (e : QEntry) (g : GeomShape) (i : Nat) : GeomRes :=
  let get := fun r => elemGet (t.readV (e.a + r)) e.w i
  geomEval g e.w ((List.range (g.d * g.p)).map get)
    (if g.keys then (List.range g.p).map fun p => get (g.d * g.p + p) % 2 ^ 32 else [])

/-- The register of the group whose word of element `i` is poisoned (R396). -/
def Thread.geomPois (t : Thread) (e : QEntry) (g : GeomShape) (i : Nat) : Option Nat :=
  ((List.range g.group).map (e.a + ·)).find? fun r => t.wordPoisoned r (i * e.w)

/-- The element's stage is counted (R400). -/
def Thread.countStage (t : Thread) (st : Option Nat) : Thread :=
  match st with
  | some n => t.csrSet (csrSTAGECNT0 + n) (satAdd (t.csrGet (csrSTAGECNT0 + n)) 0 32 1)
  | none => t

/-- Element `i` is evaluated and committed (R396, R399). -/
def Thread.geomCommit (t : Thread) (e : QEntry) (g : GeomShape) (i : Nat) : VRun :=
  if !t.vActive e i then ⟨t, [], none⟩
  else match t.geomPois e g i with
    | some r => ⟨t, [], some ({ code := 0x0B, tval := BitVec.ofNat 64 r, telem := telemElem i }, i)⟩
    | none =>
      let v := t.geomElem e g i
      let t1 := (t.vNote e i (v.deg || decide (v.fl &&& e.xsel.setWidth 7 ≠ 0 ∨ v.fl &&& fpEnOf e.fpctl ≠ 0))).raise v.fl
      if v.fl &&& fpEnOf e.fpctl = 0 then
        ⟨(t1.vPut e i (wrapInt e.w v.r)).countStage v.stage, [i], none⟩
      else ⟨t1, [], some ({ code := 0x06, tval := v.fl.setWidth 64, telem := telemElem i }, i)⟩

/-- Stage A leaves element `i` to the escalation engine (R398). -/
def Thread.geomEscalates (t : Thread) (e : QEntry) (g : GeomShape) (i : Nat) : Bool :=
  t.vActive e i && (t.geomPois e g i).isNone &&
    (match (t.geomElem e g i).stage with | some n => decide (n ≠ 0) | none => false)

/-- Elements are committed in ascending order from `lo` to `hi` - 1. -/
def Thread.geomRun (t : Thread) (e : QEntry) (g : GeomShape) (lo hi : Nat) : VRun :=
  ((List.range (hi - lo)).map (· + lo)).foldl (fun (a : VRun) i =>
    if a.trap.isSome then a
    else
      let r := a.t.geomCommit e g i
      ⟨r.t, r.wr ++ a.wr, r.trap⟩) ⟨t, [], none⟩

/-- The lowest active element at or above `i` that is not committed: what ESI names (R399). -/
def Thread.geomNext (t : Thread) (e : QEntry) (i : Nat) : Nat :=
  (((List.range (e.len - i)).map (· + i)).find? (t.vActive e)).getD e.len

/-- Elements from `esi` to `hi` - 1 of a predicate are settled and committed. -/
def State.geomCommits (s : State) (slot : Nat) (e : QEntry) (g : GeomShape) (esi hi : Nat) : VOut :=
  let r := (s.thread slot).geomRun e g esi hi
  let s1 := s.setThread slot (r.t.cleanWords e.d e.w r.wr)
  match r.trap with
  | some (i, k) => .fault s1 i (BitVec.ofNat 64 k)
  | none =>
    let n := (s1.thread slot).geomNext e hi
    if e.len ≤ n then .done s1 else .more s1 (BitVec.ofNat 64 n)

/-- One element group of a predicate, every element settled in its turn. -/
def State.geomStep (s : State) (slot : Nat) (e : QEntry) (g : GeomShape) (esi : Nat) : VOut :=
  if e.len ≤ esi then .done s
  else s.geomCommits slot e g esi (Nat.min e.len (esi / (512 / e.w) * (512 / e.w) + 512 / e.w))

/-! ### The clusters of a running predicate (R398, R399) -/

/-- The predicate as its clusters have it; afresh from `esi` when the entry has not begun. -/
def Thread.predOf (t : Thread) (e : QEntry) : Pred :=
  match t.pred with
  | some p => if p.seq = e.seq then p else ⟨e.seq, [], [], []⟩
  | none => ⟨e.seq, [], [], []⟩

/-- The cluster of element `i` among `n` enabled ones (R212). -/
def QEntry.clusterOf (e : QEntry) (n i : Nat) : Nat := i * e.w / 128 % 4 % n

/-- Elements of a group that fall to cluster `c` of `n`: its share. -/
def QEntry.share (e : QEntry) (n c : Nat) : Nat := (List.range (512 / e.w)).countP fun i => decide (e.clusterOf n i = c)

/-- Element groups of a predicate from `esi` on that hold an active element, ascending (R317). -/
def Thread.geomGroups (t : Thread) (e : QEntry) (esi : Nat) : List Nat :=
  let gr := 512 / e.w
  (List.range (ceilDiv e.len gr)).filter fun k => (List.range gr).any fun j =>
    decide (k * gr + j < e.len ∧ esi ≤ k * gr + j) && t.vActive e (k * gr + j)

/-- The next group of stage A at cluster `c`: none when it has run them all, or when its escalation queue has no room for
the whole share (R398). -/
def State.stageNext (s : State) (slot : Nat) (e : QEntry) (c : Nat) : Option Nat :=
  let t := s.thread slot
  let p := t.predOf e
  let esi := bits (e.prog.getD (t.csrGet csrESI)) 0 16
  let done := Sparse.getD p.groups c 0
  if 16 < (Sparse.getD p.queues c []).length + e.share (s.cell (cellOf slot)).clusters c then none
  else (t.geomGroups e esi).find? fun k => decide (done ≤ k)

/-- Stage A of cluster `c` on its share of group `k`: what it does not settle enters its escalation queue. -/
def State.stageA (s : State) (slot : Nat) (e : QEntry) (g : GeomShape) (c k : Nat) : State :=
  let n := (s.cell (cellOf slot)).clusters
  let gr := 512 / e.w
  s.updThread slot fun t =>
    let p := t.predOf e
    let esi := bits (e.prog.getD (t.csrGet csrESI)) 0 16
    let mine := ((List.range gr).map (· + k * gr)).filter fun i =>
      decide (i < e.len ∧ esi ≤ i ∧ e.clusterOf n i = c) && t.vActive e i
    let up := mine.filter (t.geomEscalates e g)
    { t with pred := some { p with
        groups := Sparse.set c (k + 1) p.groups
        queues := Sparse.set c (Sparse.getD p.queues c [] ++ up) p.queues
        settled := (mine.filter fun i => !up.elem i).foldl (fun m i => NatSet.add i m) p.settled } }

/-- The settled elements that follow `esi` without an unsettled active one between: the end of what can be committed. -/
def Thread.geomReach (t : Thread) (e : QEntry) (p : Pred) (esi : Nat) : Nat :=
  (((List.range (e.len - esi)).map (· + esi)).find? fun i => t.vActive e i && !NatSet.has p.settled i).getD e.len

/-- Every settled element whose lower active elements are all committed is committed (R399); with nothing new, the entry
waits. -/
def State.geomFlush (s : State) (slot : Nat) (e : QEntry) (g : GeomShape) : VOut :=
  let t := s.thread slot
  let esi := bits (e.prog.getD (t.csrGet csrESI)) 0 16
  let hi := t.geomReach e (t.predOf e) esi
  if hi ≤ esi ∧ esi < e.len then .wait s else s.geomCommits slot e g esi hi

/-- The escalation engine of cluster `c` settles the element at the head of its queue. -/
def Thread.settleHead (t : Thread) (e : QEntry) (c : Nat) : Thread :=
  let p := t.predOf e
  match Sparse.getD p.queues c [] with
  | i :: rest => { t with pred := some { p with queues := Sparse.set c rest p.queues, settled := NatSet.add i p.settled } }
  | [] => t

/-- Clusters with an element under escalation. -/
def Pred.busy (p : Pred) : List Nat := (p.queues.filter fun q => !q.2.isEmpty).map (·.1)

end Sys2Proof.Machine
end

