-- ==== Sys2Proof/Machine/TileExec.lean ====
section
/-! DEFINITION. Execution of queued tile and matrix instructions (R214, R230, R245, R340 to
R354). -/

namespace Sys2Proof.Machine

/-! ### Shapes and bytes -/

/-- FMT, ROWS and RBYTES of a tile or accumulator. -/
structure Shape where
  fmt : Nat
  rows : Nat
  rb : Nat
  deriving DecidableEq, Repr

/-- The shape of a register. -/
def Thread.shape (t : Thread) (acc : Bool) (n : Nat) : Shape :=
  let w := t.csrGet (cfgCsr acc n)
  ⟨cfgFmt w, cfgRows w, cfgBytes w⟩

/-- A CB format (R224). -/
def isCb (f : Nat) : Bool := decide (8 ≤ f ∧ f ≤ 10)

/-- Blocks of a CB row, and elements of a row (R341, R352). -/
def Shape.nb (h : Shape) : Nat := h.rb / (cbBytes h.fmt + 4)
def Shape.elems (h : Shape) : Nat := if isCb h.fmt then 32 * h.nb else h.rb / fmtBytes h.fmt

/-- Bytes of a register image as a number, and their replacement. -/
def tileBytes (x : BitVec 32768) (off n : Nat) : Nat := x.toNat / 2 ^ (8 * off) % 2 ^ (8 * n)
def tileSet (x : BitVec 32768) (off n v : Nat) : BitVec 32768 :=
  let m : BitVec 32768 := BitVec.ofNat 32768 ((2 ^ (8 * n) - 1) * 2 ^ (8 * off))
  (x &&& ~~~m) ||| BitVec.ofNat 32768 (v % 2 ^ (8 * n) * 2 ^ (8 * off))

/-- Magnitude bits of a CB format (R224). -/
def cbMag (f : Nat) : Nat := if f = 8 then 7 else if f = 9 then 5 else 3

/-- The column of byte `off` of a row (R350). -/
def tileCol (h : Shape) (off : Nat) : Nat :=
  if isCb h.fmt then
    if h.nb * cbBytes h.fmt ≤ off then 32 * ((off - h.nb * cbBytes h.fmt) / 4)
    else 32 * (off / cbBytes h.fmt) + off % cbBytes h.fmt * 8 / (cbMag h.fmt + 1)
  else off / fmtBytes h.fmt

/-- Poison of the words that hold `n` bytes from `off` (R63). -/
def Thread.tilePoisoned (t : Thread) (acc : Bool) (n off len : Nat) : Bool :=
  let lo := ((if acc then 8 else 0) + n) * 512
  t.tpoison.any fun p => decide (lo + off / 8 ≤ p ∧ p < lo + (off + len + 7) / 8)

/-- The trap of poison among `len` bytes from `off`: TELEM names the row and column of the first poisoned byte (R63, R238). -/
def Thread.tilePoison (t : Thread) (h : Shape) (acc : Bool) (n off len : Nat) : Option TrapInfo :=
  let lo := ((if acc then 8 else 0) + n) * 512
  match (List.range ((off + len + 7) / 8 - off / 8)).find? fun i => NatSet.has t.tpoison (lo + off / 8 + i) with
  | some i =>
    let o := Nat.max off (8 * (off / 8 + i))
    some { code := 0x0B, tval := tileName acc n, telem := telemRow (o / h.rb) (tileCol h (o % h.rb)) }
  | none => none

/-- Bytes are written: the register becomes dirty and whole words lose their poison (R63, R246). -/
def Thread.tileWrite (t : Thread) (acc : Bool) (n off len v : Nat) : Thread :=
  let lo := ((if acc then 8 else 0) + n) * 512
  { ((t.tilePut acc n (tileSet (t.tileGet acc n) off len v)).markDirty acc n) with
    tpoison := t.tpoison.filter fun p => !decide (lo + (off + 7) / 8 ≤ p ∧ p < lo + (off + len) / 8) }

/-- The trap of a tile-side operand check (R342). -/
def tileTrap (v : Word) : TrapInfo := { code := 0x02, tval := v }

/-- The kind of a queued tile instruction. -/
def VKind.isTile : VKind → Bool
  | .tcfg | .acfg | .tzero | .azero | .tgetr | .tsetr | .agetr | .asetr | .ttrans | .acvt | .tld | .tst | .ald | .ast
  | .tmmaD | .tmmaHf | .tmmaBf | .tmmaE4e4 | .tmmaE4e5 | .tmmaE5e4 | .tmmaE5e5 | .tmmaI8 | .tmmaC8 | .tmmaC6
  | .tmmaC4 => true
  | _ => false

/-! ### Control, zeroing and row moves (R343, R344) -/

/-- TCFG and ACFG: the value is checked, then the register is configured and zeroed. -/
def State.cfgStep (s : State) (slot : Nat) (e : QEntry) (acc : Bool) : VOut :=
  if shapeOk acc ((s.cell (cellOf slot)).tileCap acc) e.sa then
    .done (s.updThread slot fun t => { (t.configure acc e.d e.sa) with tcfgSeen := t.tcfgSeen })
  else
    .fault (s.updThread slot fun t => { t with tcfgSeen := if acc then t.tcfgSeen else Sparse.erase e.d t.tcfgSeen })
      (tileTrap e.sa) 0

/-- TZERO and AZERO. -/
def State.zeroStep (s : State) (slot : Nat) (e : QEntry) (acc : Bool) : VOut :=
  .done (s.updThread slot fun t =>
    let h := t.shape acc e.d
    if h.rows * h.rb = 0 then t.markDirty acc e.d else t.tileWrite acc e.d 0 (h.rows * h.rb) 0)

/-- A row move: `get` to the vector register, otherwise from it. -/
def State.rowStep (s : State) (slot : Nat) (e : QEntry) (acc get : Bool) : VOut :=
  let t := s.thread slot
  let h := t.shape acc e.d
  if h.rows = 0 then .fault s (tileTrap (tileName acc e.d)) 0
  else if h.rows ≤ e.g then .fault s (tileTrap (BitVec.ofNat 64 e.g)) 0
  else if e.rlen / 8 < h.rb then .fault s (tileTrap (BitVec.ofNat 64 h.rb)) 0
  else if get then
    match t.tilePoison h acc e.d (e.g * h.rb) h.rb with
    | some i => .fault s i 0
    | none =>
      let m : BitVec 8192 := BitVec.ofNat 8192 (2 ^ (8 * h.rb) - 1)
      let x : BitVec 8192 := BitVec.ofNat 8192 (tileBytes (t.tileGet acc e.d) (e.g * h.rb) h.rb)
      .done (s.setThread slot
        ((t.writeV e.k ((t.readV e.k &&& ~~~m) ||| x)).cleanWords e.k 64 (List.range (h.rb / 8))))
  else
    match (List.range ((h.rb + 7) / 8)).find? fun j => t.wordPoisoned e.k (64 * j) with
    | some j => .fault s { code := 0x0B, tval := BitVec.ofNat 64 e.k, telem := telemElem (64 * j / e.w) } 0
    | none => .done (s.setThread slot (t.tileWrite acc e.d (e.g * h.rb) h.rb (t.readV e.k).toNat))

/-! ### TTRANS and ACVT (R345, R346) -/

/-- TTRANS (R345). -/
def State.transStep (s : State) (slot : Nat) (e : QEntry) : VOut :=
  let t := s.thread slot
  let d := t.shape false e.d
  let m := t.shape false e.a
  let bad := fun (n : Nat) => VOut.fault s (tileTrap (tileName false n)) 0
  if d.rows = 0 then bad e.d
  else if m.rows = 0 then bad e.a
  else if e.d = e.a ∨ d.fmt ≠ m.fmt ∨ isCb m.fmt ∨ d.rows ≠ m.elems ∨ d.elems ≠ m.rows then bad e.d
  else match t.tilePoison m false e.a 0 (m.rows * m.rb) with
  | some i => .fault s i 0
  | none =>
    let sz := fmtBytes m.fmt
    let src := t.tileGet false e.a
    let v := (List.range d.rows).foldl (fun x r =>
      (List.range d.elems).foldl (fun x c => tileSet x (r * d.rb + c * sz) sz (tileBytes src (c * m.rb + r * sz) sz)) x)
      (t.tileGet false e.d)
    .done (s.setThread slot (t.tileWrite false e.d 0 (d.rows * d.rb) (tileBytes v 0 (d.rows * d.rb))))

/-- Permitted pairs of ACVT (R346). -/
def acvtOk (a t : Nat) : Bool :=
  if a = 0 then decide (t ≤ 3)
  else if a = 1 then decide ((1 ≤ t ∧ t ≤ 5) ∨ (8 ≤ t ∧ t ≤ 10))
  else if a = 7 then decide (t = 7 ∨ t = 6)
  else false

/-- A block and its scale record as numbers (R224). -/
def packBlock (mw : Nat) (b : CombBlock) : Nat × Nat :=
  ((List.range 32).foldl (fun v i =>
      v + ((if b.s.getD i false then 2 ^ mw else 0) + b.mag.getD i 0) * 2 ^ ((mw + 1) * i)) 0,
    b.e + 2 ^ 8 * (List.range 8).foldl (fun v j => v + b.q.getD j 0 * 2 ^ (2 * j)) 0)

/-- One converted piece of a row: where its bytes go, and its column. -/
structure CvtPiece where
  col : Nat
  parts : List (Nat × Nat × Nat)   -- (offset, bytes, value)
  fl : Flags

/-- The pieces of row `r`, in ascending order (R346). -/
def acvtRow (acc : BitVec 32768) (a d : Shape) (rm : RoundMode) (satn : Bool) (r : Nat) : List CvtPiece :=
  let get := fun c => tileBytes acc (r * a.rb + c * fmtBytes a.fmt) (fmtBytes a.fmt)
  if isCb d.fmt then
    (List.range d.nb).map fun n =>
      let x := toCB rm (cbMag d.fmt) ((List.range 32).map fun i => fmtS.decode (get (32 * n + i)))
      let p := packBlock (cbMag d.fmt) x.1
      ⟨32 * n, [(n * cbBytes d.fmt, cbBytes d.fmt, p.1), (d.nb * cbBytes d.fmt + 4 * n, 4, p.2)], x.2⟩
  else
    let sz := fmtBytes d.fmt
    (List.range d.elems).map fun c =>
      let v : Nat × Flags :=
        if d.fmt = 7 then (get c, 0)
        else if d.fmt = 6 then clampInt 8 true (signedElem 32 (get c))
        else (fmtOfCode d.fmt).narrow rm satn ((fmtOfCode a.fmt).decode (get c))
      ⟨c, [(c * sz, sz, v.1)], v.2⟩

/-- Rows `r` and on of ACVT: stops at the first enabled flag, and before a row that is poisoned (R63, R346). -/
def Thread.acvtRun (t : Thread) (e : QEntry) (a d : Shape) (lo : Nat) : Thread × Option (TrapInfo × Nat) :=
  ((List.range (a.rows - lo)).map (· + lo)).foldl (fun (x : Thread × Option (TrapInfo × Nat)) r =>
    if x.2.isSome then x
    else match x.1.tilePoison a true e.a (r * a.rb) a.rb with
    | some i => (x.1, some (i, r))
    | none =>
      let ps := acvtRow (x.1.tileGet true e.a) a d (fpRmOf e.fpctl) (fpSatnOf e.fpctl) r
      let pre := ps.takeWhile fun p => decide (p.fl &&& fpEnOf e.fpctl = 0)
      let t1 := pre.foldl (fun t p => t.raise p.fl) x.1
      match ps.drop pre.length with
      | p :: _ => (t1.raise p.fl, some ({ code := 0x06, tval := p.fl.setWidth 64, telem := telemRow r p.col }, r))
      | [] =>
        let img := ps.foldl (fun v p => p.parts.foldl (fun v q => tileSet v (r * d.rb + q.1) q.2.1 q.2.2) v) (t1.tileGet false e.d)
        (t1.tileWrite false e.d (r * d.rb) d.rb (tileBytes img (r * d.rb) d.rb), none))
    (t, none)

/-- ACVT (R346). -/
def State.acvtStep (s : State) (slot : Nat) (e : QEntry) (esi : Word) : VOut :=
  let t := s.thread slot
  let d := t.shape false e.d
  let a := t.shape true e.a
  let bad := fun (v : Word) => VOut.fault s (tileTrap v) 0
  if d.rows = 0 then bad (tileName false e.d)
  else if a.rows = 0 then bad (tileName true e.a)
  else if d.rows ≠ a.rows ∨ d.elems ≠ a.elems ∨ !acvtOk a.fmt d.fmt then bad (tileName false e.d)
  else
    let r := t.acvtRun e a d (bits esi 16 16)
    match r.2 with
    | some (i, k) => .fault (s.setThread slot r.1) i (BitVec.ofNat 64 (k * 65536))
    | none => .done (s.setThread slot r.1)

/-! ### Tile loads and stores (R347 to R350) -/

/-- The pieces of row `r`: address, register byte, bytes, scale record (R347, R348). -/
def tileSpans (e : QEntry) (h : Shape) (r : Nat) : List (Word × Nat × Nat × Bool) :=
  let at_ := fun (k : Int) => e.sa + BitVec.ofInt 64 k
  if isCb h.fmt then
    let bb := cbBytes h.fmt
    (List.range h.nb).map (fun n => (at_ (r * e.pitch + (n * bb : Nat)), n * bb, bb, false)) ++
      (List.range h.nb).map fun (n : Nat) =>
        (e.sb + BitVec.ofInt 64 (4 * ((r : Int) * (e.pitch / (bb : Int)) + (n : Int))), (h.nb * bb + 4 * n : Nat), (4 : Nat), true)
  else [(at_ (r * e.pitch), 0, h.rb, false)]

/-- Pieces of at most 8 bytes of a span, elements whole: (address, register byte, bytes). -/
def tilePieces (h : Shape) (p : Word × Nat × Nat × Bool) : List (Word × Nat × Nat) :=
  let sz := if p.2.2.2 then 4 else if isCb h.fmt then 1 else fmtBytes h.fmt
  (List.range (p.2.2.1 / sz)).map fun j => (p.1 + BitVec.ofNat 64 (j * sz), p.2.1 + j * sz, sz)

/-- What a tile load or store meets at one address before it starts: a refusal, or a walk that it waits for. -/
inductive TileMeet
  | refused (va : Word)
  | waits (s : State)

/-- The refusals of R349 for row `r`: misaligned, or DEVICE. -/
def State.tileRefuses (s : State) (slot : Nat) (e : QEntry) (h : Shape) (k : AccKind) (r : Nat) : Option TileMeet :=
  (tileSpans e h r).findSome? fun p =>
    let sz := if p.2.2.2 then 4 else if isCb h.fmt then 1 else fmtBytes h.fmt
    if p.1.toNat % sz ≠ 0 then some (.refused p.1)
    else
      let last := p.1 + BitVec.ofNat 64 (p.2.2.1 - sz)
      [p.1, last].findSome? fun a =>
        match s.resolve (cellOf slot) e.xl pathLS k a sz with
        | .ok _ ls => if ls.any (·.isDev) then some (.refused p.1) else none
        | .fault _ f => if f.xlsyn.toNat % 16 = 13 then some (.refused p.1) else none
        | .wait s' => some (.waits s')
        | .migrate _ _ => none

/-- Progress of a row. -/
structure TileRow where
  s : State
  img : BitVec 32768
  stop : Option (VStop × Nat)

/-- One piece of a row of TLD or ALD is read at its locations. -/
def tileLoadPiece (slot : Nat) (e : QEntry) (h : Shape) (base : Nat) (x : TileRow) (p : (Word × Nat × Nat) × List Loc) : TileRow :=
  if x.stop.isSome then x
  else
    let r := x.s.readLocs slot true e.xl.mode p.2
    if r.2.1 then { x with s := r.2.2, stop := some (.poison p.1.1, tileCol h p.1.2.1) }
    else
      let rec_ := isCb h.fmt && decide (h.nb * cbBytes h.fmt ≤ p.1.2.1)
      { x with s := r.2.2, img := tileSet x.img (base + p.1.2.1) p.1.2.2 (if rec_ then r.1 % 2 ^ 24 else r.1) }

/-- Where a row stops, when one of its pieces cannot be reached. -/
def Reached.tileStop (g : Reached) (h : Shape) (ps : List (Word × Nat × Nat)) : Option (VStop × Nat) :=
  g.stop.map fun st => (st, tileCol h (ps.getD g.ok.length (0, 0, 0)).2.1)

/-- A row of TLD or ALD: it is read once all of it can be. -/
def State.tileLoadRow (s : State) (slot : Nat) (e : QEntry) (acc : Bool) (h : Shape) (r : Nat) : TileRow :=
  let ps := (tileSpans e h r).flatMap (tilePieces h)
  let g := s.reachAll slot e.xl .read (ps.map fun p => (p.1, p.2.2))
  let img := (s.thread slot).tileGet acc e.d
  match g.s.holdReads slot e.seq g.ok with
  | some s' => ⟨s', img, some (.wait, 0)⟩
  | none =>
    match g.stop with
    | some .wait => ⟨g.s, img, some (.wait, 0)⟩
    | _ =>
      let x := (ps.zip g.ok).foldl (tileLoadPiece slot e h (r * h.rb)) ⟨g.s, img, none⟩
      { x with stop := x.stop.or (g.tileStop h ps) }

/-- A row of TST or AST, by groups of 64 bytes (R56). -/
def State.tileStoreRow (s : State) (slot : Nat) (e : QEntry) (acc : Bool) (h : Shape) (r : Nat) : TileRow :=
  let ps := (tileSpans e h r).flatMap (tilePieces h)
  let g := s.reachAll slot e.xl .write (ps.map fun p => (p.1, p.2.2))
  let img := (s.thread slot).tileGet acc e.d
  let w := g.s.putAll slot e.seq e.xl.mode ((ps.zip g.ok).map fun p =>
    let v := tileBytes img (r * h.rb + p.1.2.1) p.1.2.2
    (p.1.2.1 / 64, p.2, if isCb h.fmt && decide (h.nb * cbBytes h.fmt ≤ p.1.2.1) then v % 2 ^ 24 else v, false))
  ⟨w.1, img, if w.2 then some (.wait, 0) else g.tileStop h ps⟩

/-- The next piece of a row, while each element is a step of its own (R126): its progress, whether the row is complete, and where it
stops. -/
def State.tilePieceStep (s : State) (slot : Nat) (e : QEntry) (acc store : Bool) (h : Shape) (r : Nat) : State × WholeRun × Bool × Option (VStop × Nat) :=
  let ps := (tileSpans e h r).flatMap (tilePieces h)
  let p := ps.getD e.run.steps (0, 0, 0)
  let img := (s.thread slot).tileGet acc e.d
  let last := decide (ps.length ≤ e.run.steps + 1)
  let record := isCb h.fmt && decide (h.nb * cbBytes h.fmt ≤ p.2.1)
  match s.vReach slot e.xl pathLS (if store then .write else .read) p.1 p.2.2 with
  | .error (s', st) => (s', e.run, false, some (st, tileCol h p.2.1))
  | .ok (s', ls) =>
    if store then
      let v := tileBytes img (r * h.rb + p.2.1) p.2.2
      let w := s'.putAll slot e.seq e.xl.mode [(0, ls, if record then v % 2 ^ 24 else v, false)]
      (w.1, { e.run with steps := e.run.steps + 1 }, last, if w.2 then some (.wait, 0) else none)
    else match s'.holdRead slot (some e.seq) ls with
      | some s'' => (s'', e.run, false, some (.wait, 0))
      | none =>
        let x := s'.readLocs slot true e.xl.mode ls
        if x.2.1 then (x.2.2, e.run, false, some (.poison p.1, tileCol h p.2.1))
        else
          (x.2.2, { e.run with steps := e.run.steps + 1, a := e.run.a + (if record then x.1 % 2 ^ 24 else x.1) * 2 ^ (8 * p.2.1) }, last, none)

/-- One row of TLD, TST, ALD or AST, after the checks of the whole instruction (R347 to R350). -/
def State.tileMemStep (s : State) (slot : Nat) (e : QEntry) (acc store : Bool) (esi : Word) : VOut :=
  let t := s.thread slot
  let h := t.shape acc e.d
  let row := bits esi 16 16
  let k := if store then AccKind.write else AccKind.read
  let esiOf := fun (r : Nat) => (BitVec.ofNat 64 (r * 65536) : Word)
  if h.rows = 0 then .fault s (tileTrap (tileName acc e.d)) 0
  else if !acc ∧ h.fmt ≠ e.g then .fault s (tileTrap (tileName acc e.d)) 0
  else if isCb h.fmt ∧ (e.pitch = 0 ∨ e.pitch % (cbBytes h.fmt : Nat) ≠ 0) then
    .fault s (tileTrap (BitVec.ofInt 64 e.pitch)) 0
  else if h.rows ≤ row then .done s
  else match ((List.range (h.rows - row)).map (· + row)).findSome? (s.tileRefuses slot e h k) with
    | some (.refused va) => .fault s (tileTrap va) (esiOf row)
    | some (.waits s') => .wait s'
    | none =>
      match (if store then t.tilePoison h acc e.d (row * h.rb) h.rb else none) with
      | some i => .fault s i (esiOf row)
      | none =>
        let next := fun (s : State) (v : Nat) =>
          let s1 := if store then s else s.updThread slot fun t => t.tileWrite acc e.d (row * h.rb) h.rb v
          if row + 1 = h.rows then .done s1 else .more (s1.updThread slot (·.queueRun e.seq { e.run with steps := 0, a := 0 })) (esiOf (row + 1))
        let stopped := fun (s : State) (st : VStop) (c : Nat) =>
          match st.trap (telemRow row c) with
          | some i => VOut.fault s i (esiOf row)
          | none => .wait s
        if s.apart then
          match s.tilePieceStep slot e acc store h row with
          | (s', _, _, some (st, c)) => stopped s' st c
          | (s', r, last, none) => if last then next s' r.a else .more (s'.updThread slot (·.queueRun e.seq r)) (esiOf row)
        else
          let x := if store then s.tileStoreRow slot e acc h row else s.tileLoadRow slot e acc h row
          match x.stop with
          | some (st, c) => stopped x.s st c
          | none => next x.s (tileBytes x.img (row * h.rb) h.rb)

/-! ### Matrix multiply-accumulate (R230, R351 to R354) -/

/-- A format pair: A, B and accumulator formats, tensor scales, group length (R230, R351). -/
structure Pair where
  a : Nat
  b : Nat
  c : Nat
  scales : Bool
  n : Nat

/-- The pair of a mnemonic (R351). -/
def VKind.pair : VKind → Pair
  | .tmmaD => ⟨0, 0, 0, false, 1⟩
  | .tmmaHf => ⟨2, 2, 1, false, 1⟩
  | .tmmaBf => ⟨3, 3, 1, false, 1⟩
  | .tmmaE4e4 => ⟨4, 4, 1, true, 4⟩
  | .tmmaE4e5 => ⟨4, 5, 1, true, 4⟩
  | .tmmaE5e4 => ⟨5, 4, 1, true, 4⟩
  | .tmmaE5e5 => ⟨5, 5, 1, true, 4⟩
  | .tmmaI8 => ⟨6, 6, 7, false, 1⟩
  | .tmmaC8 => ⟨8, 8, 1, true, 32⟩
  | .tmmaC6 => ⟨9, 9, 1, true, 32⟩
  | _ => ⟨10, 10, 1, true, 32⟩

/-- A quiet NaN as an intermediate value. -/
def qnan : FVal := .nan false true 0 0

/-- Exact product of two values with its invalid flag (R230, R353). -/
def matMul (x y : FVal) : FVal × Flags :=
  if x.isNan || y.isNan then (qnan, if x.isSNan || y.isSNan then flNV else 0)
  else match x.mul y with
    | some p => (p, 0)
    | none => (qnan, flNV)

/-- Exact sum of two values (R222, R230). -/
def matAdd (rm : RoundMode) (x y : FVal) : FVal × Flags :=
  if x.isNan || y.isNan then (qnan, if x.isSNan || y.isSNan then flNV else 0)
  else match x, y with
    | .inf a, .inf b => if a = b then (.inf a, 0) else (qnan, flNV)
    | .inf a, _ => (.inf a, 0)
    | _, .inf b => (.inf b, 0)
    | .fin na ma ea, .fin nb mb eb =>
      let r := dyAdd (signedM na ma) ea (signedM nb mb) eb
      if r.1 = 0 then
        (.fin (if ma = 0 ∧ mb = 0 ∧ na = nb then na else decide (rm = .rdn)) 0 0, 0)
      else (.fin (decide (r.1 < 0)) r.1.natAbs r.2, 0)
    | _, _ => (qnan, 0)

/-- The element `c` of row `r` of a tile as an exact value (R224, R341). -/
def tileVal (x : BitVec 32768) (h : Shape) (r c : Nat) : FVal :=
  if isCb h.fmt then
    let bb := cbBytes h.fmt
    let mw := cbMag h.fmt
    let blk := tileBytes x (r * h.rb + c / 32 * bb) bb
    let rec_ := tileBytes x (r * h.rb + h.nb * bb + 4 * (c / 32)) 4
    let el := blk / 2 ^ ((mw + 1) * (c % 32)) % 2 ^ (mw + 1)
    if rec_ % 256 = 255 then qnan
    else combValue mw (rec_ % 256) (rec_ / 256 / 2 ^ (2 * (c % 32 / 4)) % 4) (decide (2 ^ mw ≤ el)) (el % 2 ^ mw)
  else if h.fmt = 6 then fvalOfInt (signedElem 8 (tileBytes x (r * h.rb + c) 1))
  else (fmtOfCode h.fmt).decode (tileBytes x (r * h.rb + c * fmtBytes h.fmt) (fmtBytes h.fmt))

/-- One step of the accumulation: the new accumulator encoding and the flags (R230). -/
def matStep (p : Pair) (rm : RoundMode) (sa sb : FVal) (xs : List (FVal × FVal)) (cur : Nat) : Nat × Flags :=
  let f := fmtOfCode p.c
  let prods := xs.map fun q => matMul q.1 q.2
  let g := match prods with
    | [] => (FVal.fin false 0 0, (0 : Flags))
    | q :: t => t.foldl (fun (a : FVal × Flags) q => let r := matAdd .rne a.1 q.1; (r.1, a.2 ||| q.2 ||| r.2)) q
  let g1 := if p.scales then
      let u := matMul g.1 sa
      let v := matMul u.1 sb
      (v.1, g.2 ||| u.2 ||| v.2)
    else g
  let s := matAdd rm (f.decode cur) g1.1
  if s.1.isNan then (f.canonicalNan, g1.2 ||| s.2)
  else
    let r := f.roundFP rm s.1
    (r.1, g1.2 ||| s.2 ||| r.2)

/-- Progress of a TMMA: the accumulator image, the flags, and the first trapping rounding. -/
structure MatRun where
  c : BitVec 32768
  fl : Flags
  first : Option (Nat × Nat × Nat × Flags)

/-- Element (i, j) of the accumulator (R230, R354). -/
def matElem (p : Pair) (rm : RoundMode) (en : Flags) (sa sb : FVal) (ha hb hc : Shape) (a b : BitVec 32768)
    (x : MatRun) (ij : Nat × Nat) : MatRun :=
  let k := ha.elems
  let off := ij.1 * hc.rb + ij.2 * fmtBytes hc.fmt
  let sz := fmtBytes hc.fmt
  let va := fun q => tileVal a ha ij.1 q
  let vb := fun q => tileVal b hb ij.2 q
  if p.c = 7 then
    let byte := fun (h : Shape) (img : BitVec 32768) (r q : Nat) => signedElem 8 (tileBytes img (r * h.rb + q) 1)
    let s := (List.range k).foldl (fun (s : Int) q => s + byte ha a ij.1 q * byte hb b ij.2 q) (tileBytes x.c off 4 : Int)
    { x with c := tileSet x.c off 4 (wrapInt 32 s) }
  else
    let r := (List.range ((k + p.n - 1) / p.n)).foldl (fun (z : Nat × Flags × Option (Nat × Nat × Nat × Flags)) g =>
      let q := matStep p rm sa sb
        ((List.range (Nat.min p.n (k - g * p.n))).map fun i => (va (g * p.n + i), vb (g * p.n + i))) z.1
      (q.1, z.2.1 ||| q.2,
        if z.2.2.isNone ∧ q.2 &&& en ≠ 0 then some (ij.1, ij.2, g * p.n, q.2) else z.2.2))
      (tileBytes x.c off sz, x.fl, x.first)
    ⟨tileSet x.c off sz r.1, r.2.1, r.2.2⟩

/-- A TMMA, performed whole (R245, R352, R354). -/
def State.tmmaStep (s : State) (slot : Nat) (e : QEntry) : VOut :=
  let t := s.thread slot
  let p := e.kind.pair
  let hc := t.shape true e.d
  let ha := t.shape false e.a
  let hb := t.shape false e.b
  let bad := fun (acc : Bool) (n : Nat) => VOut.fault s (tileTrap (tileName acc n)) 0
  if hc.rows = 0 ∨ hc.fmt ≠ p.c then bad true e.d
  else if ha.rows = 0 ∨ ha.fmt ≠ p.a then bad false e.a
  else if hb.rows = 0 ∨ hb.fmt ≠ p.b then bad false e.b
  else if ha.rows ≠ hc.rows then bad true e.d
  else if ha.elems ≠ hb.elems then bad false e.b
  else if hb.rows ≠ hc.elems then bad true e.d
  else match ((t.tilePoison ha false e.a 0 (ha.rows * ha.rb)).or (t.tilePoison hb false e.b 0 (hb.rows * hb.rb))).or
      (t.tilePoison hc true e.d 0 (hc.rows * hc.rb)) with
  | some i => .fault s i 0
  | none =>
    let rm := if p.c = 0 then fpRmOf e.fpctl else .rne
    let sa := fmtS.decode (bits e.sa 0 32)
    let sb := fmtS.decode (bits e.sa 32 32)
    let ijs := (List.range hc.rows).flatMap fun i => (List.range hc.elems).map fun j => (i, j)
    let r := ijs.foldl (matElem p rm (fpEnOf e.fpctl) sa sb ha hb hc (t.tileGet false e.a) (t.tileGet false e.b))
      ⟨t.tileGet true e.d, 0, none⟩
    let t1 := t.raise r.fl
    match r.first with
    | some (i, j, k, fl) =>
      .fault (s.setThread slot t1)
        { code := 0x06, tval := fl.setWidth 64, telem := BitVec.ofNat 64 (3 * 2 ^ 60 + i * 2 ^ 32 + j * 2 ^ 16 + k) } 0
    | none => .done (s.setThread slot ((t1.tilePut true e.d r.c).markDirty true e.d))

/-- One step of a tile-queue head. -/
def State.tileStep (s : State) (slot : Nat) (e : QEntry) (esi : Word) : VOut :=
  match e.kind with
  | .tcfg => s.cfgStep slot e false
  | .acfg => s.cfgStep slot e true
  | .tzero => s.zeroStep slot e false
  | .azero => s.zeroStep slot e true
  | .tgetr => s.rowStep slot e false true
  | .tsetr => s.rowStep slot e false false
  | .agetr => s.rowStep slot e true true
  | .asetr => s.rowStep slot e true false
  | .ttrans => s.transStep slot e
  | .acvt => s.acvtStep slot e esi
  | .tld => s.tileMemStep slot e false false esi
  | .tst => s.tileMemStep slot e false true esi
  | .ald => s.tileMemStep slot e true false esi
  | .ast => s.tileMemStep slot e true true esi
  | _ => s.tmmaStep slot e

end Sys2Proof.Machine
end

