-- ==== Sys2Proof/Machine/Queues.lean ====
section
/-! DEFINITION. The vector and tile queues of a thread: issue into them with its checks and pending
registers, the steps of their heads, traps of queued instructions, the vector arbiter and the
matrix unit (R195, R200 to R207, R239 to R241, R311, R313, R340, R348). -/

namespace Sys2Proof.Machine

open Host (Outcome)

/-! ### Steps of queue heads -/

/-- One step of the vector-queue head `e` from `esi`. -/
def State.vecStep (s : State) (slot : Nat) (e : QEntry) (esi : Word) : VOut :=
  match e.kind.geom with
  | some g => s.geomStep slot e g (bits esi 0 16)
  | none =>
    if e.kind.isMem then s.vMemStep slot e (e.elemOf esi)
    else if e.kind.isLaneAtomic then s.laneStep slot e (bits esi 0 16)
    else match e.kind with
      | .vspill => s.spillStep slot e
      | .vfill => s.fillStep slot e
      | .vext | .mpopc | .mfirst | .vredsum | .vredmin | .vredmax | .vredminu | .vredmaxu | .vfredsum | .vfredmin | .vfredmax =>
        s.wholeStep slot e fun s e => s.vScalar slot e
      | .mand | .mor | .mxor | .mandn | .mnot | .mset => s.wholeStep slot e fun s e => s.vMask slot e
      | _ => if e.whole then s.wholeStep slot e fun s e => s.vElemAll slot e else s.vElemStep slot e (bits esi 0 16)

/-- Flags that an instruction can raise (R240). -/
def VKind.canRaise : VKind → Flags
  | .vorient2 | .vorient3 | .vincirc | .vinsph | .vsegx | .vorient2t | .vorient3t | .vincirct | .vinspht => flPD
  | .vsadd | .vsaddu | .vssub | .vssubu => flSAT
  | .vfadd | .vfsub | .vfmul | .vfdiv | .vfsqrt | .vfmin | .vfmax | .vbadd | .vbsub | .vbmul | .vfcvtw | .vfcvtn | .vfcvti
  | .vicvtf | .vfcvtiu | .viucvtf | .vfmadd | .vfmsub | .vfnmadd | .vfnmsub | .vbfmadd | .vfwma | .vbfwma | .vfdot2
  | .vbfdot2 | .vfcmpeq | .vfcmplt | .vfcmple | .vfredsum | .vfredmin | .vfredmax | .vamofadd | .acvt | .tmmaD | .tmmaHf
  | .tmmaBf | .tmmaE4e4 | .tmmaE4e5 | .tmmaE5e4 | .tmmaE5e5 | .tmmaC8 | .tmmaC6 | .tmmaC4 => ~~~flPD
  | _ => 0

/-- The elements of a memory instruction that are not done are translated and checked (R240): none would fault. An
instruction whose addresses a ring or a frame supplies is checked when it completes. -/
def State.checked (s : State) (slot : Nat) (e : QEntry) : Bool :=
  let t := s.thread slot
  let esi := e.prog.getD (t.csrGet csrESI)
  let good := fun (k : AccKind) (ps : List (Word × Nat)) => ps.all fun p =>
    match s.resolve (cellOf slot) e.xl pathLS k p.1 p.2 with | .ok _ _ => true | _ => false
  if e.kind.isMem then
    (!e.kind.use.b || (e.popRing e.b).isNone) &&
      good (if e.kind.stores then .write else .read)
        (((List.range e.elems).filter fun i => decide (e.elemOf esi ≤ i) && t.vActive e i).map fun i =>
          (e.addr (if e.kind.use.b then t.readV e.b else 0) i, e.w / 8))
  else match e.kind with
    | .vspill => good .write (framePieces e.sa (t.spillWords e).length)
    | .tld | .tst | .ald | .ast =>
      let acc := decide (e.kind = .ald ∨ e.kind = .ast)
      let k := if e.kind = .tst ∨ e.kind = .ast then AccKind.write else .read
      let h := t.shape acc e.d
      good k (((List.range h.rows).filter fun r => decide (bits esi 16 16 ≤ r)).flatMap fun r =>
        ((tileSpans e h r).flatMap (tilePieces h)).map fun p => (p.1, p.2.2))
    | _ =>
      e.kind.isLaneAtomic && (e.popRing e.b).isNone &&
        (((List.range (e.len - bits esi 0 16)).map (· + bits esi 0 16)).foldl
          (laneCheck slot e (t.readV e.b) fun i => t.wordPoisoned e.b (i * e.w)) ⟨s, [], none⟩).bad.isNone

/-- The instruction has passed its fault horizon (R240). DEDUCED (log 44). -/
def State.pastHorizon (s : State) (slot : Nat) (e : QEntry) : Bool :=
  decide (e.kind.canRaise &&& fpEnOf e.fpctl = 0) &&
    ((match e.lsSpan with | .nothing => !e.kind.isLaneAtomic | _ => false) || s.checked slot e)

/-- An older entry `o` of the other queue holds `e` back: before its fault horizon (R240), and to its completion when both
have events on the LS path (R130, R349). -/
def State.heldBy (s : State) (slot : Nat) (e o : QEntry) : Bool :=
  decide (o.seq < e.seq) && ((e.lsEvents && o.lsEvents) || !s.pastHorizon slot o)

/-- The marker of a thread ends when nothing is pending any more (R196). -/
def Thread.unmark (t : Thread) : Thread :=
  if t.park = .marker ∧ !t.anyPending then { t with park := .running } else t

/-- The queue entry `seq` is complete: it leaves its queue and its registers are pending no more. -/
def Thread.queueDone (t : Thread) (seq : Nat) : Thread :=
  ({ t with
      vq := t.vq.filter fun e => decide (e.seq ≠ seq)
      tq := t.tq.filter fun e => decide (e.seq ≠ seq)
      pend := t.pend.filter fun p => decide (p.seq ≠ some seq)
      ringSince := none
      pred := none } : Thread).unmark.csrSet csrESI 0

/-- The entry `seq` has come as far as `esi`. -/
def Thread.queueAt (t : Thread) (seq : Nat) (esi : Word) : Thread :=
  let f := fun (e : QEntry) => if e.seq = seq then { e with prog := some esi } else e
  { t with vq := t.vq.map f, tq := t.tq.map f }

/-- The entry `seq` is the one that ESI names. -/
def Thread.queueOwn (t : Thread) (seq : Nat) : Thread :=
  let f := fun (e : QEntry) => if e.seq = seq then { e with run := { e.run with own := true } } else e
  { t with vq := t.vq.map f, tq := t.tq.map f }

/-- A queue head yields because it is blocked on ring `q`, which is as `r` (R204). It stays ineligible while
the ring's head and tail do not change; a yield after a change is counted, and the time without progress goes
on while the ring is the same. -/
def Thread.ringBlock (t : Thread) (now q : Nat) (r : Ring) : Thread :=
  let since := match t.ringSince with
    | some w => if w.ring = q then w.since else now
    | none => now
  let w : RingWait := ⟨q, since, r.head, r.tail⟩
  if t.ringSince = some w then t
  else { t with ringSince := some w, csr := Sparse.set csrISSUESTAT (satAdd (t.csrGet csrISSUESTAT) 0 16 1) t.csr }

/-- The ring that vector register `r` names in entry `e`. -/
def QEntry.ringOf (e : QEntry) (r : Nat) : Nat := (e.rings.getD (r - 28) none).getD 0

/-- The outcome of a step of entry `e` of the slot, and whether the queue went on. -/
def State.applyOut (s : State) (slot : Nat) (e : QEntry) : VOut → State × Bool
  | .done s' => (s'.updThread slot (·.queueDone e.seq), true)
  | .more s' x => (s'.updThread slot fun t => { (t.queueAt e.seq x) with ringSince := none }, true)
  | .fault s' i x =>
    let s0 := s'.updThread slot fun t => (t.queueAt e.seq x).queueOwn e.seq
    let s1 := if (s0.cell (cellOf slot)).unit = some slot then s0.updCellAt (cellOf slot) fun c => { c with unit := none } else s0
    (s1.trapAt slot i e.pc (s1.thread slot).pc, true)
  | .ring s' r =>
    (s'.updThread slot fun t =>
      (t.queueAt e.seq (e.prog.getD (t.csrGet csrESI))).ringBlock s.cycle (e.ringOf r) ((s'.cell (cellOf slot)).ring (e.ringOf r)), false)
  | .wait s' => (s', false)

/-- The head of a queue of `slot` that may run, if there is one. -/
def State.qHead (s : State) (slot : Nat) (tile : Bool) : Option QEntry :=
  let t := s.thread slot
  let unit := (s.cell (cellOf slot)).unit
  match (if tile then t.tq else t.vq) with
  | [] => none
  | e :: _ =>
    if t.stopped ∨ s.inReplay slot ∨ (if tile then t.vq else t.tq).any (s.heldBy slot e) ∨
        (tile ∧ unit.isSome ∧ unit ≠ some slot) then none
    else some e

/-- One step of the head of a queue of `slot`; the second part says whether it went on. -/
def State.qStep (s : State) (slot : Nat) (tile : Bool) : State × Bool :=
  match s.qHead slot tile with
  | none => (s, false)
  | some e =>
    let esi := e.prog.getD ((s.thread slot).csrGet csrESI)
    s.applyOut slot e (if tile then s.tileStep slot e esi else s.vecStep slot e esi)

/-- Both queues of a slot run as far as they can, older heads first. -/
def State.drainQueues (s : State) (slot : Nat) : Nat → State
  | 0 => s
  | n + 1 =>
    let t := s.thread slot
    let tileFirst := match t.tq, t.vq with
      | a :: _, b :: _ => decide (a.seq < b.seq)
      | _, [] => true
      | [], _ => false
    let r := s.qStep slot tileFirst
    if r.2 then r.1.drainQueues slot n
    else
      let q := r.1.qStep slot (!tileFirst)
      if q.2 then q.1.drainQueues slot n else q.1

/-- Enough steps for two full queues. -/
def drainFuel : Nat := 4096

/-- The scalar side waits behind the thread's queues (R241, R245, R319). -/
def Thread.held (t : Thread) : Bool :=
  (decide (bits (t.csrGet csrHZCTL) 1 1 = 1) && (!t.vq.isEmpty || !t.tq.isEmpty)) ||
    t.vq.any (fun e => decide (e.kind = .vfill)) || t.tq.any (fun e => e.kind.isTmma && decide (fpEnOf e.fpctl ≠ 0))

/-! ### Registers of a vector instruction -/

/-- Vector registers read. -/
def QEntry.vReads (e : QEntry) : List Nat :=
  let u := e.kind.use
  (if u.a then [e.a] else []) ++ (if u.b then [e.b] else []) ++
    (if u.d then (if e.kind.widens then [e.d, e.d + 1] else [e.d]) else []) ++
    (match e.kind.geom with | some g => (List.range g.group).map (e.a + ·) | none => []) ++
    (if e.kind = .vspill then maskRegs (e.sb.toNat % 2 ^ 32) else [])

/-- Vector registers written. -/
def QEntry.vWrites (e : QEntry) : List Nat :=
  match e.kind.use.dst with
  | .vec => [e.d]
  | .pair => [e.d, e.d + 1]
  | _ => []

/-- Mask registers read or written (R260). -/
def QEntry.masks (e : QEntry) : List Nat :=
  (if e.x then [0, e.k] else if e.k = 31 then [] else [e.k]) ++ (if e.kind.use.dst = .mask then [e.d] else []) ++
    (match e.kind with
      | .mand | .mor | .mxor | .mandn => [e.a, e.b]
      | .mnot | .mpopc | .mfirst => [e.a]
      | _ => [])

/-- A register under way for all instructions that a vector instruction names, outside its own
queue (R195): TVAL of the hazard. -/
def Thread.vecHazard (t : Thread) (reads writes : List Nat) : Option Word :=
  let mine := fun (p : Pend) => match p.seq with | some n => t.vq.any (fun e => decide (e.seq = n)) | none => false
  let bad := fun (wr : Bool) (r : Nat) => t.pend.any fun p =>
    decide (p.reg = r) && !mine p && decide (p.cls ≠ .mask) &&
      (match p.who with | .all => true | .writers => wr | .scalarSide => false)
  match reads.find? (bad false) with
  | some r => some (BitVec.ofNat 64 (256 + r))
  | none => (writes.find? (bad true)).map fun r => BitVec.ofNat 64 (256 + r)

/-! ### Issue of vector instructions (R311, R313) -/

/-- The rings bound to v28 to v31 (R337). -/
def Thread.ringBindings (t : Thread) : List (Option Nat) :=
  (List.range 4).map fun i =>
    let w := t.csrGet (csrRINGB0 + i)
    if w.getLsbD 63 then some (bits w 59 3) else none

/-- The entry of an instruction, with everything latched at issue (R216, R311, R340). DEDUCED (log 44). -/
def State.queueEntry (s : State) (kind : VKind) (d a b k : Nat) (x : Bool) (g : Nat) (sa sb : Word) (cb : Bool) : QEntry :=
  let t := s.thr
  { seq := t.seq
    pc := t.pc
    kind := kind
    d := d
    a := a
    b := b
    k := k
    x := x
    g := g
    sa := sa
    sb := sb
    len := t.lenNow
    ew := t.ewNow
    rlen := s.cl.rlen
    fpctl := t.csrGet csrFPCTL
    xsel := t.csrGet csrXSEL
    rows := bits (t.csrGet csrROWS) 0 11
    pitch := ((t.csrGet csrPITCH).setWidth 32).toInt
    ringEn := (t.csrGet csrRINGCTL).getLsbD 0
    ringTo := bits (t.csrGet csrRINGCTL) 32 32
    rings := t.ringBindings
    xl := t.xlate
    cb := cb
    prog := none
    run := .fresh }

/-- The operand checks made at issue (R313, R323, R333, R334, R391): the TVAL of a refusal. -/
def QEntry.refused (e : QEntry) : Option Word :=
  if !vEwOk e.kind e.ew then some (BitVec.ofNat 64 (ewCode e.ew))
  else if (e.kind = .vfcvtw ∨ e.kind = .vfcvtn) ∧ e.w ≤ (fmtOfCode e.g).width then some (BitVec.ofNat 64 e.g)
  else if e.kind.is2d ∧ e.rlen / e.w < e.rows * e.len then some (BitVec.ofNat 64 e.rows)
  else none

/-- Registers that a queued vector instruction makes pending (R195). -/
def QEntry.pends (e : QEntry) : List Pend :=
  if e.kind.use.dst = .scalar then
    (if e.d = 31 then [] else [⟨.scalar, e.d, .all, none, false, 0, none, some e.seq, 0, none⟩])
  else
    (e.vReads ++ e.vWrites).map (fun r => ⟨.vector, r, .scalarSide, none, false, 0, none, some e.seq, 0, none⟩) ++
      e.masks.map fun r => ⟨.mask, r, .scalarSide, none, false, 0, none, some e.seq, 0, none⟩

/-- The queues go on at once unless they run by events of their own. -/
def State.runQueues (s : State) : State := if s.ahead then s else s.drainQueues s.cur drainFuel

/-- Entry into the vector queue (R207, R311); `sa` and `sb` are the scalar registers read, where
index 31 of an offset is LOFF (R330). -/
def State.vIssue (s : State) (mk : Bool) (kind : VKind) (d a b k : Nat) (x : Bool) (g : Nat) (sa sb : Option Reg) : State :=
  s.guarded (sa.toList ++ sb.toList) [] fun s =>
    let val := fun (r : Option Reg) => match r with | some q => s.rs q | none => 0
    let off := if (kind = .vldOffset ∨ kind = .vstOffset) ∧ sb = some 31 then s.thr.csrGet csrLOFF else val sb
    let e := s.queueEntry kind d a b k x g (val sa) off false
    match s.thr.vecHazard e.vReads (if kind.use.dst = .scalar then [] else e.vWrites) with
    | some v => s.hazardAt v
    | none =>
      match (if kind.use.dst = .scalar ∧ d ≠ 31 then s.thr.vecHazard [] [d] else none) with
      | some _ => s.hazardStop (BitVec.ofNat 5 d)
      | none =>
        match e.refused with
        | some v => s.badOperand v
        | none =>
          if s.cl.laneNext.isSome ∨ 16 ≤ s.thr.vq.length then s.stall
          else
            ((s.upd fun t => { t with vq := t.vq ++ [e], pend := t.pend ++ e.pends, seq := t.seq + 1 }).advance mk).runQueues

/-- An instruction with vector fields only, vd, va, vb, mk and X (R260). -/
def State.vec (s : State) (mk : Bool) (kind : VKind) (d a b k : Reg) (x : Bool) : State :=
  s.vIssue mk kind d.toNat a.toNat b.toNat k.toNat x 0 none none

/-! ### Issue of tile instructions (R340) -/

/-- The first named register that is out of range, or the first when tile state is unavailable. -/
def State.tileGuard (s : State) (regs : List (Bool × Nat)) : Option State :=
  match regs.find? (fun r => decide (s.cl.tileCount r.1 s.ct ≤ r.2)) with
  | some r => some (s.trap { code := 0x03, tval := tileName r.1 r.2 })
  | none =>
    match regs with
    | r :: _ => if s.thr.tileUnavailable then some (s.trap { code := 0x0C, tval := tileName r.1 r.2 }) else none
    | [] => none

/-- Whether vector register `r` is pending for a tile instruction that reads or writes it (R195). -/
def Thread.tileVecHazard (t : Thread) (r : Nat) (wr : Bool) : Bool :=
  t.pend.any fun p => decide (p.reg = r) && decide (p.cls ≠ .mask) &&
    (match p.who with | .writers => wr | _ => true)

/-- What a queued tile instruction makes pending (R195, R344). -/
def QEntry.tilePends (e : QEntry) : List Pend :=
  match e.kind with
  | .tgetr | .agetr => [⟨.vector, e.k, .all, none, false, 0, none, some e.seq, 0, none⟩]
  | .tsetr | .asetr => [⟨.vector, e.k, .writers, none, false, 0, none, some e.seq, 0, none⟩]
  | _ => []

/-- Entry into the tile queue. `sr` is the scalar register read, `vr` the vector register moved. -/
def State.tIssue (s : State) (mk : Bool) (kind : VKind) (regs : List (Bool × Nat)) (d a b : Nat) (sr : Option Reg)
    (vr : Option (Nat × Bool)) (g : Nat) : State :=
  match s.tileGuard regs with
  | some s' => s'
  | none =>
    match (match vr with | some (r, wr) => if s.thr.tileVecHazard r wr then some r else none | none => none) with
    | some r => s.hazardAt (BitVec.ofNat 64 (256 + r))
    | none =>
      s.guarded sr.toList [] fun s =>
        let seen := Sparse.getD s.thr.tcfgSeen d (s.thr.csrGet (csrTCFG0 + d))
        let ls := decide (kind = .tld ∨ kind = .tst)
        let cb := ls && isCb (cfgFmt seen)
        let sreg := sr.getD 31
        if cb ∧ (sreg.toNat % 2 = 1 ∨ 28 < sreg.toNat) then s.badOperand (sreg.setWidth 64)
        else s.guarded (if cb then [sreg + 1] else []) [] fun s =>
          if 8 ≤ s.thr.tq.length then s.stall
          else
            let sa := match sr with | some r => s.rs r | none => 0
            let e := s.queueEntry kind d a b (match vr with | some (r, _) => r | none => 31) false
              (if ls then cfgFmt seen else g) sa (if cb then s.rs (sreg + 1) else 0) cb
            ((s.upd fun t =>
                { t with
                  tq := t.tq ++ [e]
                  pend := t.pend ++ e.tilePends
                  seq := t.seq + 1
                  tcfgSeen := if kind = .tcfg then Sparse.set d sa t.tcfgSeen else t.tcfgSeen }).advance mk).runQueues

/-! ### Events of the lanes and the matrix unit -/

/-- Instructions that are lane barriers (R203). -/
def QEntry.barrier (e : QEntry) : Bool :=
  e.kind.permutes || e.kind.reduces || e.kind.geom.isSome || decide (e.kind = .vext ∨ e.kind = .vspill ∨ e.kind = .vfill)

/-- Element-group steps that an entry has still to run (R200): groups without an active element are skipped (R317). -/
def State.stepsLeft (s : State) (slot : Nat) (e : QEntry) : Nat :=
  let t := s.thread slot
  let total := if e.kind.isMem ∨ e.kind.isLaneAtomic then e.elems else e.count
  let g := if e.kind.isMem ∨ e.kind.isLaneAtomic then 512 / e.w else e.group
  let esi := e.elemOf (e.prog.getD 0)
  let ring := !e.pops.isEmpty || e.push?.isSome
  if e.kind = .vspill ∨ e.kind = .vfill then 1
  else if e.whole then
    t.wholeSteps e - e.run.steps + (if e.push?.isSome then ceilDiv (e.bytes - e.run.put) 64 else 0)
  else
    ((List.range (ceilDiv total g)).filter fun k => decide (esi < (k + 1) * g) &&
      (ring || (List.range g).any fun j => decide (k * g + j < total ∧ esi ≤ k * g + j) && t.vActive e (k * g + j))).length +
      (if e.kind.isLaneAtomic ∧ !e.pops.isEmpty then e.groups - e.run.steps else 0)

/-- Steps of the slot's vector queue before its next lane barrier, or those of a barrier at its head (R202, R203). -/
def State.stepsReady (s : State) (slot : Nat) : Nat :=
  match (s.thread slot).vq with
  | e :: rest =>
    s.stepsLeft slot e + (if e.barrier then 0 else ((rest.takeWhile fun o => !o.barrier).map (s.stepsLeft slot)).sum)
  | [] => 0

/-- Steps that cluster `c` has run ahead of what every cluster has run (R202). -/
def Thread.leadAt (t : Thread) (c : Nat) : Nat := Sparse.getD t.lead c 0

/-- P(c) of a predicate, in groups of stage A (R398). -/
def Thread.stageDone (t : Thread) (e : QEntry) (esi c : Nat) : Nat :=
  ((t.geomGroups e esi).filter fun k => decide (k < Sparse.getD (t.predOf e).groups c 0)).length

/-- Cluster `c` is within the thread's slip, and the queue has an element group ready for it (R200, R202): P(c) is at most
SLIP steps beyond the cluster that has come least far. -/
def State.slipOk (s : State) (slot c : Nat) : Bool :=
  let t := s.thread slot
  let slip := bits (t.csrGet csrHZCTL) 8 3
  let cs := List.range (s.cell (cellOf slot)).clusters
  match t.vq with
  | e :: _ =>
    if e.kind.geom.isSome then
      let p := t.stageDone e (bits (e.prog.getD (t.csrGet csrESI)) 0 16)
      (s.stageNext slot e c).isSome && cs.all fun d => decide (p c ≤ p d + slip)
    else decide (t.leadAt c < s.stepsReady slot) && cs.all fun d => decide (t.leadAt c ≤ t.leadAt d + slip)
  | [] => false

/-- Threads of a cell whose queue head can run an element group (R200). -/
def State.laneReady (s : State) (cell : Nat) : List Nat :=
  (List.range (s.cell cell).nthr).filter fun t => (s.qStep (cell * 4 + t) false).2

/-- The arbiter's choice at cluster `c` of a cell among the threads `ready`: the first set of R201 that is
not empty. -/
def State.laneChoice (s : State) (ready : List Nat) (cell c : Nat) : Option (Nat × Nat) :=
  let x := s.cell cell
  let elig := ready.filter fun t => s.slipOk (cell * 4 + t) c
  let mc := fun t => Sparse.getD x.mcredit (c * 4 + t) 0
  let pc := fun t => Sparse.getD x.pcredit (c * 4 + t) 0
  let after := fun (l : List Nat) =>
    let p := Sparse.getD x.ptr c 3
    ((List.range 4).map fun k => (p + 1 + k) % 4).find? fun t => l.elem t
  match after (elig.filter fun t => decide (0 < mc t)) with
  | some t => some (t, 0)
  | none =>
    match after (elig.filter fun t => decide (0 < pc t)) with
    | some t => some (t, 1)
    | none => (after elig).map fun t => (t, 2)

/-- A choice of cluster `c` is charged to the thread's credit there and moves its PTR. -/
def Cell.charge (x : Cell) (c t : Nat) : Cell :=
  let k := c * 4 + t
  let m := Sparse.getD x.mcredit k 0
  let p := Sparse.getD x.pcredit k 0
  { x with
    ptr := Sparse.set c t x.ptr
    mcredit := if 0 < m then Sparse.set k (m - 1) x.mcredit else x.mcredit
    pcredit := if m = 0 ∧ 0 < p then Sparse.set k (p - 1) x.pcredit else x.pcredit }

/-- Enabled clusters whose arbiters choose the slot's thread (R201). -/
def State.lanesFor (s : State) (slot : Nat) : List Nat :=
  let ready := s.laneReady (cellOf slot)
  (List.range (s.cell (cellOf slot)).clusters).filter fun c =>
    decide ((s.laneChoice ready (cellOf slot) c).map (·.1) = some (threadOf slot))

/-- Each of the clusters `cs` runs one step of the slot's queue head. -/
def State.laneSteps (s : State) (slot : Nat) (cs : List Nat) : State :=
  (s.updCellAt (cellOf slot) fun x => cs.foldl (fun x c => x.charge c (threadOf slot)) x).updThread slot fun t =>
    { t with lead := cs.foldl (fun l c => Sparse.set c (Sparse.getD l c 0 + 1) l) t.lead }

/-- Every enabled cluster of the slot's cell has run the next group of its queue head. -/
def State.groupDone (s : State) (slot : Nat) : Bool :=
  (List.range (s.cell (cellOf slot)).clusters).all fun c => decide (0 < (s.thread slot).leadAt c)

/-- The next group of the queue head is complete at every cluster: its elements are written. -/
def State.groupStep (s : State) (slot : Nat) : State :=
  if s.groupDone slot then
    ((s.updThread slot fun t => { t with lead := t.lead.filterMap fun e => if e.2 ≤ 1 then none else some (e.1, e.2 - 1) }).qStep slot
      false).1
  else s

/-- Stage A of a predicate runs at the clusters `cs`, and what is settled is committed in order (R398, R399). -/
def State.stageSteps (s : State) (slot : Nat) (e : QEntry) (g : GeomShape) (cs : List Nat) : State :=
  let s1 := (cs.foldl (fun s c => match s.stageNext slot e c with | some k => s.stageA slot e g c k | none => s) s).updCellAt
    (cellOf slot) fun x => cs.foldl (fun x c => x.charge c (threadOf slot)) x
  (s1.applyOut slot e (s1.geomFlush slot e g)).1

/-- Cluster 0 loses a cycle in which the thread's scalar side has used the ports of lane 0 (R316). -/
def State.portSlip (s : State) (slot : Nat) (cs : List Nat) : State × List Nat :=
  if cs.elem 0 && decide ((s.thread slot).issuedAt = some s.cycle) then
    (s.updThread slot fun t => t.csrSet csrISSUESTAT (satAdd (t.csrGet csrISSUESTAT) 32 32 1), cs.filter (· ≠ 0))
  else (s, cs)

/-- The queue head `e` has no element group to run: it ends without a step (R317). -/
def State.noGroups (s : State) (slot : Nat) (e : QEntry) : Bool :=
  if e.kind.geom.isSome then
    ((s.thread slot).geomGroups e (bits (e.prog.getD ((s.thread slot).csrGet csrESI)) 0 16)).isEmpty
  else decide (s.stepsLeft slot e = 0)

/-- VECTOR_STEP: the clusters whose arbiters choose the slot's thread run one element group of its queue
each (R200 to R202); when no thread can go on, a ring that blocks the head is noted (R204). DESIGN CHOICE (log 43). -/
def execVectorStep (slot : Nat) (st : State) : Outcome State Fault Refusal :=
  .next (
    match st.qHead slot false with
    | none => st
    | some e =>
      if st.noGroups slot e then (st.qStep slot false).1
      else
        match st.lanesFor slot with
        | [] => if (st.qStep slot false).2 then st else (st.qStep slot false).1
        | cs =>
          let p := st.portSlip slot cs
          match e.kind.geom with
          | some g => p.1.stageSteps slot e g p.2
          | none => (p.1.laneSteps slot p.2).groupStep slot)

/-- VECTOR_CREDIT_ROUND: a cluster's credits are granted anew (R201). -/
def execVectorCreditRound (cell cluster : Nat) (st : State) : Outcome State Fault Refusal :=
  .next (st.updCellAt cell fun x =>
    (List.range x.nthr).foldl (fun (x : Cell) t =>
      let th := st.thread (cell * 4 + t)
      let gmin := bits (th.csrGet csrLEASE) 16 5
      { x with
        mcredit := Sparse.set (cluster * 4 + t) gmin x.mcredit
        pcredit := Sparse.set (cluster * 4 + t) (th.leasePref - gmin) x.pcredit })
      { x with rounds := Sparse.set cluster (st.cycle / 16) x.rounds })

/-- RING_STALL: the queue head has been blocked on a ring for more than TIMEOUT cycles (R204). -/
def execRingStall (slot : Nat) (st : State) : Outcome State Fault Refusal :=
  .next (
    let t := st.thread slot
    match t.ringSince, t.vq with
    | some w, e :: _ =>
      if e.ringTo ≠ 0 ∧ w.since + e.ringTo < st.cycle ∧ !(st.qStep slot false).2 then
        let esi := e.prog.getD 0
        let reg := match st.ringBlocks (cellOf slot) e 1 with | some r => r | none => if e.push?.isSome then e.d else e.a
        st.trapAt slot { code := 0x0D, tval := BitVec.ofNat 64 reg, telem := BitVec.ofNat 64 (2 ^ 60 + bits esi 0 16) } e.pc t.pc
      else st
    | _, _ => st)

/-- LANECTL_WRITE: a lane change takes effect once the cell's vector queues are empty, and its
thread goes on behind the instruction that wrote it (R61). -/
def execLanectlWrite (cell : Nat) (st : State) : Outcome State Fault Refusal :=
  .next (
    match (st.cell cell).laneNext with
    | some (slot, v, d, old, mk) =>
      if st.lanesIdle cell then
        (st.laneApply cell v).updThread slot fun t => (t.writeS (BitVec.ofNat 5 d) old).stepPc.mark mk
      else st
    | none => st)

/-- TILE_INSTRUCTION_START: the head of the slot's tile queue, other than a matrix instruction, goes on in the unit that has
taken it, which serves it until it leaves the queue (R205, R340). -/
def execTileInstructionStart (slot : Nat) (st : State) : Outcome State Fault Refusal :=
  .next (
    match (st.thread slot).tq with
    | e :: _ =>
      if e.kind.isTmma ∨ (st.cell (cellOf slot)).unit ≠ some slot then st
      else
        let s1 := (st.qStep slot true).1
        if ((s1.thread slot).tq.head?.map (·.seq)) = some e.seq then s1
        else s1.updCellAt (cellOf slot) fun x => { x with unit := none }
    | [] => st)

/-- A matrix instruction at the head of the slot's tile queue that its operand checks refuse traps when it comes to the unit
(R342, R352); one that the unit takes completes (R239). -/
def State.tmmaRefused (s : State) (slot : Nat) : Bool :=
  match s.qHead slot true with
  | some e => e.kind.isTmma && (match s.tmmaStep slot e with | .fault _ i _ => decide (i.code ≠ 0x06) | _ => false)
  | none => false

/-- MATRIX_ARBITER_SELECT: the free matrix unit takes the next non-empty tile queue (R205). -/
def execMatrixArbiterSelect (cell : Nat) (st : State) : Outcome State Fault Refusal :=
  .next (
    let x := st.cell cell
    if x.unit.isSome then st
    else
      match ((List.range 4).map fun k => (x.mlast + 1 + k) % 4).find? fun t => !(st.thread (cell * 4 + t)).tq.isEmpty with
      | some t =>
        if st.tmmaRefused (cell * 4 + t) then (st.setCell cell { x with mlast := t }).qStep (cell * 4 + t) true |>.1
        else st.setCell cell { x with unit := some (cell * 4 + t), mlast := t }
      | none => st)

/-- TMMA_COMPLETE: the matrix instruction in the unit is performed (R245, R354). -/
def execTmmaComplete (cell : Nat) (st : State) : Outcome State Fault Refusal :=
  .next (
    match (st.cell cell).unit with
    | some slot =>
      match (st.thread slot).tq with
      | e :: _ =>
        if e.kind.isTmma then
          let r := st.qStep slot true
          if r.2 then r.1.updCellAt cell fun x => { x with unit := none } else r.1
        else st
      | [] => st.updCellAt cell fun x => { x with unit := none }
    | none => st)

/-- A stop comes to the slot's predicate (R399): an element under escalation that ESI names is settled and committed with the
settled ones behind it; the rest is discarded. -/
def State.escalationSettle (s : State) (slot : Nat) : State :=
  let t := s.thread slot
  match t.vq, t.pred with
  | e :: _, some p =>
    let esi := bits (e.prog.getD (t.csrGet csrESI)) 0 16
    let s1 :=
      match e.kind.geom, p.busy.find? fun c => decide ((Sparse.getD p.queues c []).head? = some esi) with
      | some g, some c =>
        let s0 := s.updThread slot (·.settleHead e c)
        (s0.applyOut slot e (s0.geomFlush slot e g)).1
      | _, _ => s
    s1.updThread slot fun t => { t with pred := none }
  | _, _ => s

/-- ESCALATION_SETTLE: the escalation engine of one cluster settles the head of its queue, and what is settled is committed in
order (R397 to R399). DEDUCED (log 58). -/
def execEscalationSettle (slot : Nat) (st : State) : Outcome State Fault Refusal :=
  .next (
    let t := st.thread slot
    match t.vq, t.pred with
    | e :: _, some p =>
      match e.kind.geom, p.busy[st.cycle / 2 % p.busy.length]? with
      | some g, some c =>
        if p.seq = e.seq then
          let s1 := st.updThread slot (·.settleHead e c)
          (s1.applyOut slot e (s1.geomFlush slot e g)).1
        else st
      | _, _ => st
    | _, _ => st)

end Sys2Proof.Machine
end

