-- ==== Sys2Proof/Machine/System.lean ====
section
/-! DEFINITION. System operations of one thread: TRAP, BKPT, TRET, IDLE, IFENCE, TFENCE with its
broadcast and acknowledgements, and interrupts (R34 to R36, R47, R235, R241 to R244, R302 to R306). -/

namespace Sys2Proof.Machine

open Host (Outcome)

/-- A system operation (R302): not in a loop body, and in S or M where `priv` is set. -/
def State.sysOp (s : State) (mk priv : Bool) (op : BitVec 12) (d a : Reg) (f : State → State) : State :=
  let w := wordC mk d a op 7
  s.notInBody w fun s => if priv then s.privileged w f else f s

/-- TRAP (R303): the environment call. -/
def execTrap (s : Bool) (a : Reg) (st : State) : Outcome State Fault Refusal :=
  .next (st.sysOp s false 0 0 a fun t => t.guarded [a] [] fun t =>
    t.trapAt t.cur { code := 0x15, tval := t.rs a } t.thr.pc (t.thr.pc + 4))

/-- BKPT (R303). -/
def execBkpt (s : Bool) (st : State) : Outcome State Fault Refusal :=
  .next (st.sysOp s false 9 0 0 fun t => t.trap { code := 0x16 })

/-! ### Interrupts (R235, R243, R244) -/

/-- An interrupt of code `n` is deliverable: its summary and its enable bit are set (R244). -/
def Thread.deliverable (t : Thread) (n : Nat) : Bool :=
  decide (bits (t.csrGet csrIPEND) n 1 = 1 ∧ bits (t.csrGet csrIENB) n 1 = 1)

/-- The mode and IE allow an interrupt of code `n` (R235). -/
def Thread.allowsInt (t : Thread) (n : Nat) : Bool :=
  if bits (t.csrGet csrDELEG) (32 + n) 1 = 1 then
    decide (t.mode ≠ .machine) || decide (bits (t.csrGet csrMPSTATE) 0 1 = 1)
  else
    decide (t.mode = .user) || (decide (t.mode = .supervisor) && decide (bits (t.csrGet csrPSTATE) 0 1 = 1))

/-- The interrupt that is taken next: lowest code first. -/
def Thread.intCode (t : Thread) : Option Nat := [1, 2, 3].find? fun n => t.deliverable n && t.allowsInt n

/-- Some interrupt is pending for the thread, whatever IE holds (R305). -/
def Thread.anyInt (t : Thread) : Bool := [1, 2, 3].any t.deliverable

/-- TVAL of an interrupt (R238). -/
def Thread.intTval (t : Thread) (n : Nat) : Word :=
  let p := t.csrGet csrIPEND
  let lowest := fun (lo len : Nat) =>
    match (List.range len).find? fun i => p.getLsbD (lo + i) with
    | some i => BitVec.ofNat 64 i
    | none => (0 : Word)
  if n = 1 then lowest 12 9
  else if n = 2 then (if p.getLsbD 21 then 0x100 else lowest 22 9)
  else BitVec.ofNat 64 (bits (t.csrGet csrISWVAL) 0 56)

/-- An instruction that is not interrupted once it has started, and has (R315, R335). -/
def QEntry.partWay (e : QEntry) : Bool :=
  ((e.whole && (e.atomicRun || !e.kind.use.a || e.kind.use.dst = .scalar)) || e.kind.isLaneAtomic || decide (e.kind = .vspill)) &&
    (decide (e.prog.getD 0 ≠ 0 ∨ e.run.steps ≠ 0) || e.run.fin)

/-- The unit executes a checked matrix instruction of the slot's thread, which may still trap (R245). -/
def State.unitChecks (s : State) (slot : Nat) : Bool := (s.inUnit slot).any fun e => decide (fpEnOf e.fpctl ≠ 0)

/-- The thread stands at a boundary where an interrupt may be taken (R302): not inside an operation of class S, not before
its first instruction, not part-way through an instruction of R315 or a misaligned store, and not behind a DEVICE read that
has been sent (R29). -/
def Thread.interruptible (t : Thread) : Bool :=
  t.live && !t.stopped && decide (t.park ≠ .tfence ∧ t.park ≠ .starting ∧ t.park ≠ .system) && !t.vq.any (·.partWay) &&
    !t.reads.any (·.dev) && !t.part.any (·.wr)

/-- IDLE completes (R305). -/
def Thread.idleDone (t : Thread) : Thread :=
  if t.park = .idle then { t.stepPc with park := .running } else t

/-- The thread in `slot` takes interrupt `n` at an instruction boundary. An element under
escalation is settled first (R399). DEDUCED (log 39). -/
def State.takeInterrupt (s : State) (slot : Nat) : State :=
  let s1 := s.escalationSettle slot
  let t := s1.thread slot
  if t.interruptible && !s1.unitChecks slot then
    match t.intCode with
    | some n =>
      let s2 := s1.updThread slot (·.idleDone)
      let t2 := s2.thread slot
      s2.trapAt slot { int := true, code := n, tval := t2.intTval n } t2.pc t2.pc
    | none => s1
  else s1

/-- INTERRUPT: the slot takes its deliverable interrupt of lowest code, if one is allowed. -/
def execInterrupt (slot : Nat) (st : State) : Outcome State Fault Refusal := .next (st.takeInterrupt slot)

/-- IDLE (R305). -/
def execIdle (s : Bool) (st : State) : Outcome State Fault Refusal :=
  .next (st.sysOp s true 2 0 0 fun t => if t.thr.anyInt then t.advance s else t.parkAs .idle)

/-! ### TRET (R241, R295, R304) -/

/-- A saved loop record becomes the loop again: the slot is read again, and a record that no longer
fits leaves straight-line code (R295). -/
def Thread.reinstate (t : Thread) (l : LoopRec) : Thread :=
  match t.slotPat l.p with
  | some p =>
    if patCount p < 2 ^ 32 ∧ l.pass < patCount p then { t.setLoopRegs p l.pass with loop := some { l with pat := p } }
    else { t.clearLoopRegs with loop := none }
  | none => { t.clearLoopRegs with loop := none }

/-- The saved record of mode `x`, with the save cleared. -/
def Thread.restoreLoop (t : Thread) (x : Mode) : Thread :=
  match (if x = .machine then t.loopM else t.loopS) with
  | some l =>
    let t1 := if x = .machine then { t with loopM := none } else { t with loopS := none }
    t1.reinstate l
  | none => t

/-- The entry of a remainder that ESI names, or else its head, goes on from ESI; a predicate takes FPCTL.EN as it stands now
(R396). DEDUCED (log 37). -/
def resumeAt (esi fpctl : Word) (q : List QEntry) : List QEntry :=
  let at_ := ((esiEntry q).or q.head?).map (·.seq)
  q.map fun e =>
    let f := if e.kind.geom.isSome then (e.fpctl &&& ~~~(0x7F : Word)) ||| (fpctl &&& 0x7F) else e.fpctl
    { e with
      prog := if some e.seq = at_ then some esi else e.prog
      fpctl := f
      run := { e.run with own := false } }

/-- The remainder of mode `x` returns to the queues, and its registers are pending again. DEDUCED (log 37). -/
def Thread.resumeQueues (t : Thread) (x : Mode) : Thread :=
  let n := trapCsr x csrPSTATE
  if bits (t.csrGet n) 8 1 = 1 then
    let q := resumeAt (t.csrGet csrESI) (t.csrGet csrFPCTL) (if x = .machine then t.remM else t.remS)
    let t1 := if x = .machine then { t with remM := [] } else { t with remS := [] }
    { t1 with
      vq := q.filter (fun e => !e.kind.isTile)
      tq := q.filter (fun e => e.kind.isTile)
      pend := t1.pend ++ q.flatMap fun e => if e.kind.isTile then e.tilePends else e.pends
      csr := Sparse.set n (setBits (t.csrGet n) 8 1 0) t.csr }
  else t

/-- Return from a trap of mode `x` (R304): the mode and IE as saved, PIE 1, PPRV 0, then the loop
record and the remainder, and the pc. -/
def Thread.trapReturn (t : Thread) (x : Mode) : Thread :=
  let n := trapCsr x csrPSTATE
  let w := t.csrGet n
  let m := Mode.ofCode (bits w 4 2)
  let w1 := setBits (setBits (setBits w 0 1 (bits w 1 1)) 1 1 1) 4 2 0
  let st := bits (t.csrGet (trapCsr x csrCAUSE)) 62 1 = 1
  let pc := if st then t.csrGet (trapCsr x csrEPC) + 4 else t.csrGet (trapCsr x csrSEPC)
  let t1 := ((t.csrSet n w1).restoreLoop x).resumeQueues x
  { t1 with mode := m, pc := pc, park := .running }

/-- TRET (R304). An interrupt that may be taken comes before any returned instruction (R310). DEDUCED (log 38). -/
def execTret (s : Bool) (st : State) : Outcome State Fault Refusal :=
  .next (st.sysOp s true 1 0 0 fun t =>
    let x := t.thr.mode
    if x = .supervisor ∧ bits (t.thr.csrGet csrPSTATE) 4 2 = 3 then t.illegal (wordC s 0 0 1 7)
    else if !t.thr.vq.isEmpty ∨ !t.thr.tq.isEmpty then t.parkAs .system
    else
      let t1 := t.upd fun u => (u.trapReturn x).mark s
      if t1.thr.interruptible && t1.thr.intCode.isSome then t1.takeInterrupt t1.cur else t1.runQueues)

/-! ### Fences (R34 to R36, R306) -/

/-- IFENCE (R47, R164, R306). -/
def execIfence (s : Bool) (st : State) : Outcome State Fault Refusal :=
  .next (st.sysOp s false 4 0 0 fun t =>
    ((t.updCell fun c => { c with icache := [] }).upd (·.detach false)).advance s)

/-- A fence word that R34 refuses. -/
def tfenceBad (b : Word) : Bool := decide (bits b 53 11 ≠ 0 ∨ bits b 50 3 = 0 ∨ 5 ≤ bits b 50 3)

/-- A buffered entry matches the fence `a`, `b` (R34). -/
def TlbEntry.fenced (e : TlbEntry) (a b : Word) : Bool :=
  let p := bits a 16 39
  let n := bits b 0 32
  let inRange := decide (n = 0) || decide (e.page < p + n ∧ p < e.page + e.pages)
  inRange && (if e.glob then b.getLsbD 49 else b.getLsbD 48 || decide (e.asid = bits b 32 16))

/-- Combs in the fence's scope (R34): the issuing comb, its frame, or all. -/
def tfenceCombs (comb : Nat) (b : Word) : List Nat :=
  if bits b 50 3 = 1 then [comb]
  else if bits b 50 3 = 2 then (List.range Config.combs).filter fun c => decide (frameOfComb c = frameOfComb comb)
  else List.range Config.combs

/-- Other modules in the fence's scope, as combs that acknowledge. -/
def State.tfencePeers (s : State) (b : Word) : List Nat := if bits b 50 3 = 4 then s.peers.map (farComb · 0) else []

/-- A stall inside an operation of class S takes no interrupt (R302). -/
def State.inSystem (s : State) : State := if s.thr.park = .stalled then s.parkAs .system else s

/-- TFENCE (R35): the release, then the fence waits for its acknowledgements. -/
def execTfence (s : Bool) (b a : Reg) (st : State) : Outcome State Fault Refusal :=
  .next (st.sysOp s true 3 b a fun t => t.guarded [a, b] [] fun t =>
    match t.fences.find? (fun f => decide (f.slot = t.cur)) with
    | some f =>
      if f.sent ∧ f.waiting.isEmpty then
        ({ t with fences := t.fences.filter fun f => decide (f.slot ≠ t.cur) }).advance s
      else t.parkAs .tfence
    | none =>
      if tfenceBad (t.rs b) then t.trap { code := 0x01, tval := t.rs b }
      else (t.released psLS .module fun t =>
        ({ t with fences := t.fences ++ [TFence.mk t.cur (t.rs a) (t.rs b) false [] []] } : State).parkAs .tfence).inSystem)

/-- The rectangle of combs in the fence's scope (R34, R83). -/
def tfenceRect (comb : Nat) (b : Word) : Nat × Nat × Nat × Nat :=
  if bits b 50 3 = 1 then combRect comb else if bits b 50 3 = 2 then frameRect (frameOfComb comb) else wholeMesh

/-- TFENCE_BROADCAST: the slot's fence goes out to every comb in its scope (R35, R83). -/
def execTfenceBroadcast (slot : Nat) (st : State) : Outcome State Fault Refusal :=
  .next (
    let comb := combOf (cellOf slot)
    match st.fences.find? fun f => decide (f.slot = slot) && !f.sent with
    | some f =>
      let far := st.tfencePeers f.word
      far.foldl (fun s m =>
          s.inject comb (physOf (cellOf slot)) (gatewayComb (s.hivePort (nodeOf m) 0)) epHive 7 (.mgmt (.fence slot)))
        (({ st with
          fences := st.fences.replace f { f with sent := true, waiting := tfenceCombs comb f.word ++ far } } : State).broadcast
            comb (physOf (cellOf slot)) (tfenceRect comb f.word) (.fence slot))
    | none => st)

/-- The number under which this module holds a fence of another module's slot, and that module. -/
def peerFence (node slot : Nat) : Nat := 131072 * (node + 1) + slot % 131072
def fenceNode (slot : Nat) : Option Nat := if slot < 131072 then none else some (slot / 131072 - 1)

/-- The router that takes the acknowledgements of a fence: its issuer's, or the gateway it came by. -/
def State.fenceHome (s : State) (slot : Nat) : Nat :=
  match fenceNode slot with | some m => gatewayComb (s.hivePort m 0) | none => combOf (cellOf slot)

/-- A comb's acknowledgement has come back to the issuer; a fence of another module that every comb has acknowledged is
acknowledged there (R35). -/
def State.fenceAcked (s : State) (slot comb : Nat) : State :=
  let s1 : State :=
    { s with fences := s.fences.map fun f => if f.slot = slot then { f with waiting := f.waiting.filter (· ≠ comb) } else f }
  match fenceNode slot with
  | some m =>
    if s1.fences.any fun f => decide (f.slot = slot) && f.waiting.isEmpty then
      ({ s1 with fences := s1.fences.filter fun f => f.slot ≠ slot } : State).inject (s.fenceHome slot) epMgmt
        (gatewayComb (s.hivePort m 0)) epHive 7 (.mgmt (.ack slot 0))
    else s1
  | none => s1

/-- A comb acts on a fence (R35): matching entries leave its buffer and its cells' buffers, and
stores that used them are performed. -/
def State.combFence (s : State) (comb : Nat) (a b : Word) : State :=
  let s1 := (List.range 17).foldl
    (fun s p =>
      let c := comb * 17 + p
      if (s.cell c).wcb.isEmpty ∧ (s.cell c).tlb.isEmpty then s
      else (s.drainAll c).updCellAt c fun x => { x with tlb := x.tlb.filter fun e => !e.fenced a b }) s
  match Sparse.find? comb s1.combTlb with
  | some l => { s1 with combTlb := Sparse.set comb (l.filter fun e => !e.fenced a b) s1.combTlb }
  | none => s1

/-- A fence has come to a comb, which applies it in the order of arrival (R36). -/
def State.fenceHere (s : State) (slot comb : Nat) : State :=
  match s.fences.find? fun f => decide (f.slot = slot) && f.waiting.elem comb with
  | some f => ({ s with fences := s.fences.replace f { f with here := f.here ++ [comb] } } : State).combFence comb f.addr f.word
  | none => s

/-- The comb of an issuer. -/
def Issuer.comb : Issuer → Nat
  | .scalar t | .queue t | .stream t _ => combOf (cellOf t)
  | .buffer c => combOf c
  | .walker c => c
  | .sched c _ => c
  | .peer _ | .host => Config.combs

/-- Requests of a comb's cells and walker that homes have not performed. -/
def State.combBusy (s : State) (comb : Nat) : Bool :=
  s.accepted.any (fun a => decide (a.comb = comb)) ||
    s.openPkts.any fun p =>
      match p.nc with | some o => decide (o.who.comb = comb ∧ p.op ≠ .ncrsp) | none => false

/-- A dispatched stream command of the comb goes on with a translation that the fence removes (R35, R122), unless it
waits itself for a migrating page. -/
def State.combStreams (s : State) (comb : Nat) (a b : Word) : Bool :=
  s.cells.any fun e => decide (combOf e.1 = comb) && e.2.stream.any fun k => k.mig.isNone && k.held.any (·.fenced a b)

/-- Commands of the comb lose the translations that the fence removes. -/
def State.combForget (s : State) (comb : Nat) (a b : Word) : State :=
  (s.cells.filter fun e => decide (combOf e.1 = comb) && e.2.stream.any fun k => k.held.any (·.fenced a b)).foldl (fun s e =>
    s.updCellAt e.1 fun x =>
      { x with stream := x.stream.map fun k => { k with held := k.held.filter fun (t : TlbEntry) => !t.fenced a b } }) s

/-- TFENCE_ACK: a comb that has applied the slot's fence acknowledges once every access made with an old translation
is performed at its home or target (R35). -/
def execTfenceAck (comb slot : Nat) (st : State) : Outcome State Fault Refusal :=
  .next (
    match st.fences.find? fun f => decide (f.slot = slot) && f.here.elem comb with
    | some f =>
      if st.combBusy comb || st.combStreams comb f.addr f.word then st
      else
        let s1 := st.combForget comb f.addr f.word
        ({ s1 with
          fences := s1.fences.map fun g => if g.slot = slot then { g with here := g.here.filter (· ≠ comb) } else g } : State).sendMgmt
            comb epMgmt (st.fenceHome slot) (.ack slot comb)
    | none => st)

end Sys2Proof.Machine
end

