-- ==== Sys2Proof/Machine/Stream.lean ====
section
/-! DEFINITION. The stream engine: pattern and stream words, SPAT, SCMD, SSEAL, SWAITB, SCLOSE, SSTAT,
SCANCEL, dispatch and execution of commands, fabric routes, multicasts and page releases
(R55 to R57, R80, R81, R108, R121, R206, R242, R364 to R378, R385). -/

namespace Sys2Proof.Machine

open Host (Outcome)

/-- A gang changes. -/
def State.updGang (s : State) (g : Nat) (f : Gang → Gang) : State :=
  match Sparse.find? g s.gangs with
  | some x => { s with gangs := Sparse.set g (f x) s.gangs }
  | none => s

/-! ### Reading a vector register on the scalar side -/

/-- A stream instruction reads vector register `r` as plain bits at issue (R195, R197, R63). -/
def State.readPlain (s : State) (r : Reg) (f : State → BitVec 256 → State) : State :=
  let t := s.thr
  if t.pend.any (fun p => decide (p.reg = r.toNat) && decide (p.cls ≠ .mask ∧ p.who ≠ .writers)) then
    s.hazardAt (BitVec.ofNat 64 (256 + r.toNat))
  else
    match (List.range 4).find? fun i => NatSet.has t.poison (r.toNat * 128 + i) with
    | some i => s.trap { code := 0x0B, tval := BitVec.ofNat 64 r.toNat, telem := BitVec.ofNat 64 (2 ^ 60 + i) }
    | none => f s ((t.readV r.toNat).setWidth 256)

/-- SPAT (R369). -/
def execSpat (s : Bool) (p : BitVec 5) (a : Reg) (st : State) : Outcome State Fault Refusal :=
  .next (
    if 16 ≤ p.toNat then st.illegal (wordA s 0x33 p a 0 0)
    else st.readPlain a fun t w =>
      if t.cl.rlen < 256 then t.badOperand (BitVec.ofNat 64 t.cl.rlen)
      else if !patOk w then t.badOperand (elem64 w 3)
      else (t.upd fun th => { th with slots := Sparse.set p.toNat w th.slots }).advance s)

/-! ### SCMD (R55, R370) -/

/-- The physical cell of gang cell `d` of the slot's gang. -/
def State.gangCell (s : State) (slot d : Nat) : Option Nat :=
  match (s.thread slot).gang with
  | some g => (Sparse.find? g s.gangs).bind fun x => x.cells[d]?
  | none => none

/-- The scratchpad spans of this cell that a command of the slot names by offset: first byte, end, and the element
of the stream word that holds the offset; and whether it is the source. -/
def State.cmdSpans (s : State) (slot : Nat) (w p : BitVec 256) (k : CmdKind) : List (Int × Int × Nat × Bool) :=
  let n := patCount p
  let d := swDense w p k
  let sp : Int := swSpoff w
  let dsp : Int := swDspoff w
  match k with
  | .get => if swRv w then [] else [(sp, sp + n * d, 3, false)]
  | .put => if swRv w then [] else [(sp, sp + n * d, 3, true)]
  | .copy => [(sp + patLo p, sp + patHi p, 3, true), (dsp, dsp + n * d, 2, false)]
  | .send =>
    (if swRv w then [] else [(sp + patLo p, sp + patHi p, 3, true)]) ++
      (if s.gangCell slot (swDcell w) = some (cellOf slot) then [(dsp, dsp + n * d, 2, false)] else [])
  | .mcopy | .mcast => []

/-- R367: the ring of a command with RV = 1 is defined with PORT and the thread does not bind the
side that the command uses. -/
def State.ringFree (s : State) (w : BitVec 256) (k : CmdKind) : Bool :=
  match Sparse.find? (swRing w) s.cl.rings with
  | some r =>
    r.port && !((List.range 4).any fun i =>
      decide (s.thr.ringBindings.getD i none = some (swRing w)) && (if k = .get then decide (2 ≤ i) else decide (i < 2)))
  | none => false

/-- The element of the word that an SCMD reports, if a check of R370 fails. DEDUCED (log 62). -/
def State.cmdRefused (s : State) (w : BitVec 256) : Option Nat :=
  if bits256 w 252 4 ≠ 2 then some 3
  else if bits256 w 0 52 ≠ 0 then some 0
  else
    match s.thr.slotPat (swSlot w) with
    | none => some 3
    | some p =>
      if 2 ^ 32 ≤ patCount p then some 3
      else
        match swKind w with
        | none => some 3
        | some k =>
          let n := match s.thr.gang with
            | some g => match Sparse.find? g s.gangs with | some x => x.desc.n | none => 0
            | none => 0
          if !swUnusedZero w k ∨ (swRv w ∧ (swSpoff w ≠ 0 ∨ !s.ringFree w k)) then some 3
          else if k = .send ∧ n ≤ swDcell w then some 3
          else if k = .send ∧ swDspoff w % 128 ≠ 0 then some 2
          else if !swCvtOk w p k then some 3
          else
            (s.cmdSpans s.cur w p k).findSome? fun r =>
              if r.1 < 0 ∨ (s.cl.spadBytes : Int) < r.2.1 then some r.2.2.1 else none

/-- A command joins the open batch and the cell's queue, with its scoreboard entry. -/
def State.enqueueCmd (s : State) (k : Cmd) (spans : List (Int × Int × Nat × Bool)) : State :=
  let span := fun (src : Bool) =>
    (spans.find? (fun r => r.2.2.2 == src)).map fun r => (r.1.toNat, (r.2.1 - 1).toNat)
  let s1 := s.upd fun t =>
    { t with openCmds := t.openCmds ++ [⟨k.id, false, .ok, [], 0, none, 0, none⟩], seq := t.seq + 1 }
  s1.updCell fun c =>
    { c with
      stream := c.stream ++ [k]
      rsb := if spans.isEmpty then c.rsb else c.rsb ++ [⟨k.slot, k.id, span true, span false, false⟩] }

/-- The stall of a full stream queue or scoreboard. -/
def State.cmdFull (s : State) (spans : List (Int × Int × Nat × Bool)) : Bool :=
  decide (32 ≤ s.cl.stream.length) || (!spans.isEmpty && decide (16 ≤ s.cl.rsb.length))

/-- SCMD (R370). -/
def execScmd (s : Bool) (a : Reg) (st : State) : Outcome State Fault Refusal :=
  .next (st.readPlain a fun t w =>
    if t.cl.rlen < 256 then t.badOperand (BitVec.ofNat 64 t.cl.rlen)
    else
      match t.cmdRefused w with
      | some i => t.badOperand (elem64 w i)
      | none =>
        let p := (t.thr.slotPat (swSlot w)).getD 0
        let k := (swKind w).getD .get
        let spans := t.cmdSpans t.cur w p k ++ cmdWindows w p k
        if t.cmdFull spans then t.stall
        else
          (t.enqueueCmd
            { slot := t.cur, id := t.thr.seq, port := swPort w, word := w, pat := p, xl := t.thr.xlate,
              fpctl := t.thr.csrGet csrFPCTL, pc := t.thr.pc, mcast := none, running := false, elem := 0, mig := none, held := [], ending := false }
            spans).advance s)

/-! ### Batches (R374 to R376) -/

/-- Sealed batches that are finished: those before the first with a command under way. -/
def Thread.finishedBatches (t : Thread) : List Batch := t.batches.takeWhile fun b => b.cmds.all (·.done)

/-- Number of sealed batches not finished. -/
def Thread.unfinished (t : Thread) : Nat := t.batches.length - t.finishedBatches.length

/-- Batches that need not be kept: finished, observed, without a held fault, beyond the last 16.
DEDUCED (log 69). -/
def pruneBatches (l : List Batch) : List Batch :=
  let old := l.take (l.length - 16)
  old.filter (fun b => !(b.observed && b.cmds.all (fun c => c.held.isNone))) ++ l.drop (l.length - 16)

/-- A held access goes on: with `late`, as timed out. -/
def Thread.unheld (t : Thread) (late : Bool) (page : Nat) : Thread :=
  { t with
    migTimeout := if late then some page else t.migTimeout
    park := if t.park = .replay then .running else t.park }

/-- An entry leaves a comb's replay queue and its accesses go on (R37, R38): with `late`, as timed out. -/
def State.leaveEntry (s : State) (comb : Nat) (late : Bool) (r : Replay) : State :=
  let s1 : State := { s with replays := Sparse.set comb ((Sparse.getD s.replays comb []).erase r) s.replays }
  let s2 := r.slots.foldl (fun s i => s.updThread i (·.unheld late r.page)) s1
  let s3 := r.gangs.foldl (fun s g => s.updGang g fun x => { x with mig := if late then some (r.page, true) else none }) s2
  r.cmds.foldl (fun s c => s.updCellAt (cellOf c.1) fun x =>
    { x with stream := x.stream.map fun k =>
        if k.slot = c.1 ∧ k.id = c.2 then { k with mig := if late then some (r.page, true) else none } else k }) s3

/-- A page release comes to a comb (R38): the held accesses of the page go back to the walker. DEDUCED (log 67).
DESIGN CHOICE (log 116): only accesses under the releasing ASID go on, also for a page whose leaf has G = 1. -/
def State.releaseAt (s : State) (comb asid page : Nat) : State :=
  ((Sparse.getD s.replays comb []).filter fun r => decide (r.asid = asid ∧ r.page = page)).foldl (fun s r => s.leaveEntry comb false r) s

/-- Some write of the slot's commands `ids` has not been performed at its home. -/
def State.writesOf (s : State) (slot : Nat) (ids : List Nat) : Bool :=
  s.openPkts.any fun p =>
    match p.nc with
    | some o => (match o.who with | .stream t id => decide (t = slot ∧ p.op ≠ .ncrsp) && ids.elem id && s.inReach .module p.line | _ => false)
    | none => false

/-- Page releases whose batches' writes are all performed leave (R121, R378): each is broadcast to every comb of the
module (R38). -/
def State.flushRels (s : State) : State :=
  let due := s.pageRels.filter fun r => !s.writesOf r.slot r.cmds
  if due.isEmpty then s
  else due.foldl (fun s r => s.broadcast r.comb r.ep wholeMesh (.release r.asid r.page))
    { s with pageRels := s.pageRels.filter fun r => s.writesOf r.slot r.cmds }

/-- The page releases of the thread's sealed batches whose commands are all complete are due (R121, R378). -/
def State.batchReleases (s : State) (slot : Nat) : State :=
  let t := s.thread slot
  let ready := fun (b : Batch) => b.cmds.any (·.rel.isSome) && b.cmds.all (·.done)
  if t.batches.any ready then
    let rels := (t.batches.filter ready).flatMap fun b => b.cmds.filterMap fun c =>
      c.rel.map fun r => (⟨combOf (cellOf slot), physOf (cellOf slot), slot, b.cmds.map (·.id), r.1, r.2⟩ : PageRel)
    let clear := fun (b : Batch) => if ready b then { b with cmds := b.cmds.map fun c => { c with rel := none } } else b
    ({ s.setThread slot { t with batches := t.batches.map clear } with pageRels := s.pageRels ++ rels } : State).flushRels
  else s.flushRels

/-- SSEAL (R374). -/
def execSseal (s : Bool) (d : Reg) (st : State) : Outcome State Fault Refusal :=
  .next (st.guarded [] [d] fun t =>
    if 16 ≤ t.thr.unfinished then t.stall
    else
      let b : Batch := ⟨t.thr.nextBatch, t.thr.openCmds, false⟩
      let t1 := t.upd fun th =>
        { th with batches := pruneBatches (th.batches ++ [b]), openCmds := [], nextBatch := (th.nextBatch + 1) % 65536 }
      ((t1.ws d (BitVec.ofNat 64 b.num)).batchReleases t1.cur).advance s)

/-- The first command of a batch that is not OK, with its index (R376). DEDUCED (log 65). -/
def Batch.firstBad (b : Batch) : Option (Nat × CmdRec) :=
  (b.cmds.zipIdx.find? fun c => decide (c.1.status ≠ .ok)).map fun c => (c.2, c.1)

/-- STATUS of a batch (R376). -/
def Batch.status (b : Batch) : CmdStatus := match b.firstBad with | some c => c.2.status | none => .ok

def CmdStatus.code : CmdStatus → Nat
  | .ok => 0 | .poisoned => 1 | .truncated => 2 | .cancelled => 3 | .fault => 4

/-- SWAITB's summary of newly observed batches (R375). -/
def waitSummary (l : List Batch) : Word :=
  let bad := l.filter fun b => decide (b.status ≠ .ok)
  let has := fun (c : CmdStatus) => if l.any (fun b => decide (b.status = c)) then 1 else 0
  BitVec.ofNat 64 ((match bad.head? with | some b => b.num * 2 ^ 48 + 2 ^ 37 | none => 0) +
    Nat.min l.length 16 * 2 ^ 32 + has .cancelled * 4 + has .truncated * 2 + has .poisoned)

/-- The held fault of a batch, its first in issue order. -/
def Batch.heldFault (b : Batch) : Option HeldFault := b.cmds.findSome? (·.held)

/-- SWAITB (R242, R375). -/
def execSwaitb (s : Bool) (d : Reg) (n : BitVec 5) (st : State) : Outcome State Fault Refusal :=
  .next (
    if 17 ≤ n.toNat then st.illegal (wordA s 0x33 d 0 n 3)
    else st.guarded [] [d] fun t =>
      if n.toNat < t.thr.unfinished then t.stall
      else
        let fin := t.thr.finishedBatches
        let new := fin.filter fun b => !b.observed
        let fl := new.foldl (fun (f : BitVec 7) b => b.cmds.foldl (fun f c => f ||| c.flags) f) 0
        let seen := fin.map (fun b => { b with observed := true }) ++ t.thr.batches.drop fin.length
        let t1 := (t.upd fun th => ({ th with batches := seen } : Thread).raise fl).ws d (waitSummary new)
        match seen.find? (fun b => b.observed && b.heldFault.isSome) with
        | some b =>
          match b.heldFault with
          | some h =>
            let drop := fun (x : Batch) =>
              if x.num = b.num then { x with cmds := x.cmds.map fun c => { c with held := none } } else x
            (t1.upd fun th => { th with batches := th.batches.map drop }).trapAt t1.cur
              { st := true, batch := b.num, code := h.cause, tval := h.tval,
                telem := BitVec.ofNat 64 (4 * 2 ^ 60 + h.off), xlsyn := some h.xlsyn } t1.thr.pc h.pc
          | none => t1.advance s
        | none => (t1.upd fun th => { th with batches := pruneBatches th.batches }).advance s)

/-- SSTAT (R376). -/
def execSstat (s : Bool) (d a : Reg) (st : State) : Outcome State Fault Refusal :=
  .next (st.guarded [a] [d] fun t =>
    if bits (t.rs a) 16 48 ≠ 0 then t.badOperand (t.rs a)
    else
      let th := t.thr
      let last := th.batches.drop (th.batches.length - 16)
      let fin := th.finishedBatches.map (·.num)
      let v : Nat := match last.find? fun b => decide (b.num = (t.rs a).toNat) with
        | none => 0
        | some b =>
          let cnt := b.cmds.foldl (fun n c => n + c.pois.length) 0
          (if !fin.elem b.num then 1 else if b.observed then 2 else 3) * 2 ^ 62 + b.status.code * 2 ^ 59 +
            (match b.firstBad with | some c => Nat.min c.1 31 * 2 ^ 54 + c.2.off % 2 ^ 32 | none => 0) +
            Nat.min cnt (2 ^ 22 - 1) * 2 ^ 32
      (t.ws d (BitVec.ofNat 64 v)).advance s)

/-! ### Completion and routes -/

/-- A command's record in the thread's open batch or in a sealed one. -/
def Thread.updCmd (t : Thread) (id : Nat) (f : CmdRec → CmdRec) : Thread :=
  let g := fun (c : CmdRec) => if c.id = id then f c else c
  { t with openCmds := t.openCmds.map g, batches := t.batches.map fun b => { b with cmds := b.cmds.map g } }

/-- A status joins a command: the first that applies of FAULT, CANCELLED, TRUNCATED and POISONED (R376). -/
def CmdRec.join (c : CmdRec) (x : CmdStatus) (off : Nat) : CmdRec :=
  if c.status.code < x.code then { c with status := x, off := if x = .fault ∨ x = .poisoned then off else c.off } else c

/-- The command leaves its queue, its scoreboard entry retires and it is recorded as complete. -/
def State.cmdDone (s : State) (cell : Nat) (k : Cmd) : State :=
  let mine := fun (r : Range) => decide (r.slot = k.slot ∧ r.cmd = k.id)
  let s1 := (s.leaveReplay (combOf cell) (.cmd k.slot k.id)).updCellAt cell fun c =>
    let c1 : Cell := { c with
      stream := c.stream.filter fun q => decide (¬ (q.slot = k.slot ∧ q.id = k.id))
      rsb := c.rsb.filter fun r => !mine r }
    if c.rsb.any mine then c1.rsbSettle s.cycle else c1
  (s1.updThread k.slot (·.updCmd k.id fun c => { c with done := true })).batchReleases k.slot

/-- The command changes in its queue. -/
def State.updQueued (s : State) (cell : Nat) (k : Cmd) (f : Cmd → Cmd) : State :=
  s.updCellAt cell fun c => { c with stream := c.stream.map fun q => if q.slot = k.slot ∧ q.id = k.id then f q else q }

/-- A stream packet with data of a slot, and of a command that satisfies `p`, is on its way. -/
def State.flying (s : State) (slot : Nat) (p : Nat → Bool) : Bool :=
  s.allFlits.any fun f => match f.load with
    | .route r => decide (r.slot = slot ∧ r.n ≠ 0) && p r.cmd
    | .cast c => decide (c.slot = slot) && p c.cmd
    | _ => false
def State.cmdFlying (s : State) (k : Cmd) : Bool := s.flying k.slot fun c => decide (c = k.id)
def State.slotFlying (s : State) (slot : Nat) : Bool := s.flying slot fun _ => true

/-- Writes of the command to memory that homes have not accepted yet (R371). -/
def State.cmdInFlight (s : State) (k : Cmd) : Bool :=
  s.packets.any fun p => match p.nc with | some o => decide (o.who = .stream k.slot k.id ∧ p.op = .ncwr) | none => false

/-- The command stops: it ends at once, or when its writes that are under way have landed (R55, R377). -/
def State.endCmd (s : State) (cell : Nat) (k : Cmd) : State :=
  if s.cmdFlying k || s.cmdInFlight k then
    (s.leaveReplay (combOf cell) (.cmd k.slot k.id)).updQueued cell k fun q => { q with ending := true, mig := none }
  else s.cmdDone cell k

/-- A flit of the route of a fabric port leaves the cell (R80): its own channel into the router, in the class that the
route took when it opened (R77). -/
def State.routeFlit (s : State) (cell : Nat) (r : Route) (f : RouteFlit) : State :=
  s.newFlit (combOf cell) (Flit.of (combOf cell) (physOf cell) (32 + 4 * physOf cell + f.port) r.tc (combOf r.cell) (physOf r.cell) (.route f))

/-- A marker ends the route that a port holds (R80): TAG carries the number of its flits modulo 512. -/
def State.endRoute (s : State) (cell port : Nat) (r : Route) (op : RouteOp) : State :=
  (s.updCellAt cell fun c => { c with ports := Sparse.erase port c.ports }).routeFlit cell r
    ⟨op, cell, port, r.flits % 512, r.cell, 0, 0, 0, [], 0, r.slot, 0, 0⟩

/-- Routes that the slot holds end with a truncation marker (R81, R372). -/
def State.truncRoutes (s : State) (slot : Nat) : State :=
  ((s.cell (cellOf slot)).ports.filter fun e => decide (e.2.slot = slot)).foldl
    (fun s e => s.endRoute (cellOf slot) e.1 e.2 .trunc) s

/-- Every command of the slot that satisfies `p` and has not stopped yet stops with a status. -/
def State.stopCmds (s : State) (slot : Nat) (p : Cmd → Bool) (x : CmdStatus) : State :=
  ((s.cell (cellOf slot)).stream.filter fun k => decide (k.slot = slot) && !k.ending && p k).foldl
    (fun s k => (s.updThread slot (·.updCmd k.id (·.join x 0))).endCmd (cellOf slot) k) s

/-- SCANCEL (R377): it waits until each command has stopped, with its writes under way landed. -/
def execScancel (s : Bool) (st : State) : Outcome State Fault Refusal :=
  let s1 := (st.stopCmds st.cur (fun _ => true) .cancelled).truncRoutes st.cur
  .next (if s1.cl.stream.any fun k => decide (k.slot = s1.cur) then s1.stall else s1.advance s)

/-- SCLOSE (R372). -/
def execSclose (s : Bool) (p : BitVec 5) (st : State) : Outcome State Fault Refusal :=
  .next (
    if 4 ≤ p.toNat then st.illegal (wordA s 0x33 0 0 p 4)
    else if st.cl.stream.any (fun k => decide (k.slot = st.cur ∧ k.port = p.toNat)) then st.stall
    else (st.updCell fun c =>
      { c with ports := c.ports.map fun r =>
          if r.1 = p.toNat ∧ r.2.slot = st.cur ∧ r.2.due.isNone then (r.1, { r.2 with due := some false }) else r }).advance s)

/-! ### Execution of commands (R371 to R373) -/

/-- The running command of a port that has not stopped. -/
def Cell.runningCmd (c : Cell) (port : Nat) : Option Cmd :=
  c.stream.find? fun k => decide (k.port = port) && k.running && !k.ending

/-- An element that was read. -/
structure SrcElem where
  s : State
  val : Nat
  pois : Bool
  /-- Poisoned 128-byte source lines. -/
  lines : NatSet

/-- Outcome of an element access. -/
inductive ElemOut (α : Type)
  | ok (x : α)
  | fault (s : State) (f : AccFault)
  /-- The page migrates. -/
  | held (s : State) (page : Nat)
  /-- The ring has too few bytes or too little room. -/
  | ring
  /-- A walk waits. -/
  | wait (s : State)

/-- A command still in its cell's queue. -/
def State.queuedCmd (s : State) (slot id : Nat) : Option Cmd :=
  (s.cell (cellOf slot)).stream.find? fun k => decide (k.slot = slot ∧ k.id = id)

/-- The cell's translation buffer in the state of an outcome becomes `f` of it. -/
def State.setTlb (s : State) (c : Nat) (f : List TlbEntry → List TlbEntry) : State :=
  s.updCellAt c fun x => { x with tlb := f x.tlb }
def Xl.mapState {α : Type} (f : State → State) : Xl α → Xl α
  | .fault s e => .fault (f s) e
  | .migrate s p => .migrate (f s) p
  | .wait s => .wait (f s)
  | .ok s x => .ok (f s) x

/-- An access of a command (R122): a page that migrates does not hold it while it has a translation of that page from
before. -/
def State.resolveCmd (s : State) (cell : Nat) (k : Cmd) (a : AccKind) (va : Word) (n : Nat) : Xl (List Loc) :=
  let held := ((s.queuedCmd k.slot k.id).map (·.held)).getD []
  match s.resolve cell k.xl pathST a va n with
  | .migrate s' p =>
    if held.any (·.hits k.xl.asid p) then
      let own := (s'.cell cell).tlb
      ((s'.setTlb cell fun l => held ++ l).resolve cell k.xl pathST a va n).mapState (·.setTlb cell fun _ => own)
    else .migrate s' p
  | r => r

/-- The command keeps the translation that its access at `va` has used (R122). -/
def State.holdXlate (s : State) (cell : Nat) (k : Cmd) (va : Word) : State :=
  let hit := fun (t : TlbEntry) => t.hits k.xl.asid (bits va 16 39)
  match (if k.xl.mode = .machine ∨ (windowOf va).isSome then none else (s.cell cell).tlb.find? hit) with
  | some t => s.updQueued cell k fun q => if q.held.any hit then q else { q with held := q.held ++ [t] }
  | none => s

/-- A line of another module that an element reads and that the comb's slice does not hold: the slice asks its home for it
(R95). DESIGN CHOICE (log 34). -/
def State.askFar (s : State) (cell : Nat) (a : AccKind) (ls : List Loc) : Option State :=
  if a.writes then none
  else
    ((memLines ls).find? fun l => decide (homeNode l ≠ s.node) && !s.sliceHas (combOf cell) l).map fun l =>
      s.localRead (combOf cell) l

/-- The locations of an element at `va` (R37, R38): an access whose page timed out in the replay queue faults. One whose
path crosses a failed link waits (R71, R403). -/
def State.elemLocs (s : State) (cell : Nat) (k : Cmd) (a : AccKind) (va : Word) (n : Nat) : ElemOut (State × List Loc) :=
  let late := match k.mig with
    | some (p, true) => decide (p = bits va 16 39 ∨ p = bits (va + BitVec.ofNat 64 (n - 1)) 16 39)
    | _ => false
  if late then .fault s (mkFault pathST a 0 4 va)
  else
    match s.resolveCmd cell k a va n with
    | .fault s' f => .fault s' f
    | .migrate s' p => .held s' p
    | .wait s' => .wait s'
    | .ok s' ls =>
      let s1 := (s'.holdXlate cell k va).holdXlate cell k (va + BitVec.ofNat 64 (n - 1))
      if !s.routesOpen cell ls then .wait s1
      else match s1.askFar cell a ls with
      | some s2 => .wait s2
      | none => .ok (s1, ls)

/-- The pool range of a ring's next element, at its first byte. -/
def ringLocs (r : Ring) (k n : Nat) : List Loc := (List.range n).map fun j => .own (r.offset (k + j))

/-- Where element `e` is written. -/
def State.dstLocs (s : State) (cell : Nat) (k : Cmd) (e n : Nat) : ElemOut (State × List Loc) :=
  match k.kind with
  | .get =>
    if swRv k.word then
      let r := (s.cell cell).ring (swRing k.word)
      if r.room < n then .ring else .ok (s, ringLocs r r.tail n)
    else .ok (s, locsFrom (.own (swSpoff k.word + e * n)) n)
  | .copy => .ok (s, locsFrom (.own (swDspoff k.word + e * n)) n)
  | .put => s.elemLocs cell k .write (swVa k.word + BitVec.ofInt 64 (patOffset k.pat e)) n
  | .mcopy => s.elemLocs cell k .write (swDva k.word + BitVec.ofNat 64 (e * n)) n
  | .send | .mcast => .ok (s, [])

/-- Where element `e` is read. -/
def State.srcLocs (s : State) (cell : Nat) (k : Cmd) (e n : Nat) : ElemOut (State × List Loc) :=
  let off : Int := patOffset k.pat e
  match k.kind with
  | .get | .mcopy => s.elemLocs cell k .read (swVa k.word + BitVec.ofInt 64 off) n
  | .put | .send =>
    if swRv k.word then
      let r := (s.cell cell).ring (swRing k.word)
      if r.used < n then .ring else .ok (s, ringLocs r r.head n)
    else if k.kind = .put then .ok (s, locsFrom (.own (swSpoff k.word + e * n)) n)
    else .ok (s, locsFrom (.own ((swSpoff k.word : Int) + off).toNat) n)
  | .copy => .ok (s, locsFrom (.own ((swSpoff k.word : Int) + off).toNat) n)
  | .mcast => .ok (s, [])

/-- The pool words that a read finds with a correctable error are corrected (R62). -/
def State.correctLocs (s : State) (cell : Nat) (ls : List Loc) : State :=
  ls.foldl (fun s l => match l with | .own o => s.poolCorrect cell o 1 | .peer d o _ => s.poolCorrect d o 1 | _ => s) s

/-- The line of a location, as one number. -/
def Loc.lineKey : Loc → Nat
  | .mem pa _ => pa / 128
  | .rom pa => pa / 128
  | .own o => 2 ^ 60 + o / 128
  | .peer d o _ => 2 ^ 61 + d * 2048 + o / 128
  | .host a _ _ => 2 ^ 62 + a / 128
  | .dev o => 2 ^ 63 + o / 128

/-- The poisoned lines among the locations (R108). -/
def State.poisLines (s : State) (cell : Nat) (ls : List Loc) : NatSet :=
  ls.foldl (fun m l =>
    if (match l with | .mem pa _ => (s.coherent (pa / 128)).1 | _ => (s.placeByte cell l).2) then NatSet.add l.lineKey m else m) []

/-- An element is read at its source (R124): in memory at the home or the owning slice, in a pool, or popped from a
ring. -/
def State.readElem (s : State) (cell : Nat) (k : Cmd) (e n : Nat) : ElemOut SrcElem :=
  match s.srcLocs cell k e n with
  | .fault s' f => .fault s' f
  | .held s' p => .held s' p
  | .ring => .ring
  | .wait s' => .wait s'
  | .ok (s', ls) =>
    let r := s'.unitRead cell k.xl.mode ls
    let s1 := r.2.2.correctLocs cell ls
    .ok ⟨if swRv k.word ∧ (k.kind = .put ∨ k.kind = .send) then s1.ringPop cell (swRing k.word) n else s1, r.1, r.2.1, if r.2.1 then s'.poisLines cell ls else []⟩

/-- The value an element is written with, and its flags (R368). -/
def Cmd.convert (k : Cmd) (v : Nat) (pois : Bool) : Nat × Flags :=
  if swCvt k.word then
    if pois then (0, 0)
    else
      (fmtOfCode (swDfmt k.word)).narrow (fpRmOf k.fpctl) (fpSatnOf k.fpctl) ((fmtOfCode (swSfmt k.word)).decode v)
  else (v, 0)

/-- Bytes gathered for a line of memory: data, mask, poison, DEVICE, first byte and number of bytes. -/
structure LineOut where
  data : BitVec 1024
  mask : BitVec 128
  pois : Bool
  dev : Bool
  addr : Nat
  n : Nat

/-- Progress of a command over the elements of one destination line. -/
structure Run where
  s : State
  elem : Nat
  out : Sparse LineOut
  /-- The line that the run writes. -/
  key : Option Nat
  stop : Bool
  /-- The command has faulted. -/
  finished : Bool

/-- The destination line of an element, as one number; a DEVICE element stands alone (R29). -/
def dstKey (e : Nat) (ls : List Loc) : Nat :=
  if ls.any (·.isDev) then 2 ^ 70 + e else match ls with | l :: _ => l.lineKey | [] => 2 ^ 70 + e

/-- One run of an element's bytes is written: at once in a pool, behind the host aperture and in a device; into the
line's packet in memory. -/
def State.elemPut (s : State) (cell : Nat) (m : Mode) (out : Sparse LineOut) (l : Loc) (n v : Nat) (pois : Bool) :
    State × Sparse LineOut :=
  match l with
  | .own o => (s.poolPut cell o n v pois, out)
  | .peer d o _ => (s.poolPut d o n v pois, out)
  | .rom _ => (s, out)
  | .host a _ _ => (s.hostWrite a n v pois, out)
  | .dev o =>
    (s.devWrite m (o / 8 * 8) (BitVec.ofNat 64 (v * 2 ^ (8 * (o % 8)))) (BitVec.ofNat 64 ((2 ^ (8 * n) - 1) * 2 ^ (8 * (o % 8)))), out)
  | .mem pa t =>
    let x := Sparse.getD out (pa / 128) ⟨0, 0, false, false, pa, 0⟩
    (s, Sparse.set (pa / 128)
      { x with
        data := putBytes x.data (pa % 128) n v
        mask := x.mask ||| byteMask (pa % 128) n
        pois := x.pois || pois
        dev := x.dev || decide (t = .device)
        n := x.n + n } out)

/-- Element `v` is written at its locations. -/
def State.writeElem (s : State) (cell : Nat) (k : Cmd) (out : Sparse LineOut) (ls : List Loc) (v : Nat) (pois : Bool) :
    State × Sparse LineOut :=
  let r := (locRuns ls).foldl (fun (a : (State × Sparse LineOut) × Nat) l =>
    (a.1.1.elemPut cell k.xl.mode a.1.2 l.1 l.2 (a.2 % 2 ^ (8 * l.2)) pois, a.2 / 2 ^ (8 * l.2))) ((s, out), v)
  if k.kind = .get ∧ swRv k.word then
    (r.1.1.updCellAt cell fun x =>
      let q := x.ring (swRing k.word)
      { x with rings := Sparse.set (swRing k.word) { q with tail := q.tail + ls.length } x.rings }, r.1.2)
  else r.1

/-- The fault of a command is held with its batch (R242, R373). DEDUCED (log 64). -/
def State.cmdFault (s : State) (k : Cmd) (off : Nat) (cause : Nat) (tval xlsyn : Word) : State :=
  s.updThread k.slot (·.updCmd k.id fun c =>
    { c.join .fault off with held := if c.held.isSome then c.held else some ⟨cause, tval, xlsyn, off, k.pc⟩ })

/-- The command waits for a migrating page in the comb's replay queue (R37). DEDUCED (log 66). -/
def State.cmdHeld (s : State) (cell : Nat) (k : Cmd) (page : Nat) : State :=
  (s.enterReplay (combOf cell) k.xl.asid page (.cmd k.slot k.id)).updQueued cell k fun q => { q with mig := some (page, false) }

/-- One element of a memory or copy command: its destination is reached first, so that a source is read once (R29). -/
def State.runElem (cell : Nat) (k : Cmd) (r : Run) (e : Nat) : Run :=
  if r.stop ∨ r.finished then r
  else
    let kd := k.kind
    let off := e * swDense k.word k.pat kd
    let fault := fun (s : State) (f : AccFault) => { r with s := s.cmdFault k off f.code f.tval f.xlsyn, finished := true }
    match r.s.dstLocs cell k e (swDstSize k.word k.pat) with
    | .fault s f => fault s f
    | .held s p => { r with s := s.cmdHeld cell k p, stop := true }
    | .ring => { r with stop := true }
    | .wait s => { r with s := s, stop := true }
    | .ok (s, ls) =>
      let key := dstKey e ls
      if (r.key.isSome ∧ r.key ≠ some key) ∨ (ls.any (·.isDev) ∧ s.streamDevice k.slot .system) then { r with stop := true }
      else
        match s.readElem cell k e (swSrcSize k.word k.pat) with
        | .fault s f => fault s f
        | .held s p => { r with s := s.cmdHeld cell k p, stop := true }
        | .ring => { r with stop := true }
        | .wait s => { r with s := s, stop := true }
        | .ok x =>
          let v := k.convert x.val x.pois
          let w := x.s.writeElem cell k r.out ls v.1 x.pois
          { r with
            s := w.1.updThread k.slot (·.updCmd k.id fun c =>
              let c1 := { c with flags := c.flags ||| v.2 }
              if x.pois then { c1.join .poisoned off with pois := x.lines.foldl (fun m l => NatSet.add l m) c1.pois } else c1)
            elem := e + 1
            out := w.2
            key := some key }

/-- The packets of a run leave for the homes of their lines. -/
def State.sendLines (s : State) (cell : Nat) (k : Cmd) (out : Sparse LineOut) : State :=
  out.foldl (fun s e => s.sendNc (combOf cell) .ncwr e.1 e.2.pois
    { NcOp.new (.stream k.slot k.id) with addr := e.2.addr, n := e.2.n, dev := e.2.dev, data := e.2.data, mask := e.2.mask }) s

/-- A memory or copy command runs over the elements of its next destination line, or over one of them (R126), and completes when every write has
been accepted (R371). DEDUCED (log 63). -/
def State.runCmd (s : State) (cell : Nat) (k : Cmd) : State :=
  if (match k.mig with | some (_, false) => true | _ => false) then s
  else
    let n := patCount k.pat
    if n ≤ k.elem then (if s.cmdInFlight k then s else s.cmdDone cell k)
    else
      let r := (List.range (if s.apart then 1 else Nat.min (n - k.elem) 128)).foldl (fun r i => State.runElem cell k r (k.elem + i))
        ⟨s, k.elem, [], none, false, false⟩
      let s1 := (r.s.sendLines cell k r.out).updQueued cell k fun q => { q with elem := r.elem }
      if r.finished then s1.endCmd cell k else s1

/-! ### Fabric packets (R80, R372, R373) -/

/-- Dense bytes and packets of a fabric command. -/
def Cmd.denseBytes (k : Cmd) : Nat :=
  match k.mcast with
  | some (w, _) => (bits w 18 7 + 1) * 128
  | none => patCount k.pat * swDstSize k.word k.pat
def Cmd.packets (k : Cmd) : Nat := (k.denseBytes + 127) / 128

/-- What a packet carries. -/
structure Packet where
  s : State
  val : Nat
  /-- Poisoned 8-byte words. -/
  words : NatSet
  flags : Flags
  lines : NatSet
  firstBad : Option Nat
  short : Bool

/-- The bytes of packet `j` of a send, read and converted element by element. -/
def State.sendPacket (s : State) (cell : Nat) (k : Cmd) (j : Nat) : Packet :=
  let d := swDstSize k.word k.pat
  let per := 128 / d
  let first := j * per
  (List.range (Nat.min per (patCount k.pat - first))).foldl (fun (p : Packet) i =>
    if p.short then p
    else
      match p.s.readElem cell k (first + i) (swSrcSize k.word k.pat) with
      | .ok x =>
        let v := k.convert x.val x.pois
        { p with
          s := x.s
          val := p.val + v.1 % 2 ^ (8 * d) * 2 ^ (8 * d * i)
          words := if x.pois then NatSet.add (i * d / 8) p.words else p.words
          flags := p.flags ||| v.2
          lines := x.lines.foldl (fun m l => NatSet.add l m) p.lines
          firstBad := if x.pois ∧ p.firstBad.isNone then some ((first + i) * d) else p.firstBad }
      | _ => { p with short := true }) ⟨s, 0, [], 0, [], none, false⟩

/-- The bytes of packet `j` of a multicast. -/
def State.castPacket (s : State) (cell : Nat) (w : Word) (j : Nat) : Packet :=
  let o := bits w 0 18 + 128 * j
  let bad := (List.range 16).filter fun i => s.poolPoisoned cell (o + 8 * i) 8
  ⟨s.poolCorrect cell o 128, s.poolRead cell o 128, bad, 0, if bad.isEmpty then [] else [2 ^ 60 + o / 128],
    bad.head?.map fun i => 128 * j + 8 * i, false⟩

/-- A packet lands at offset `o` of a cell's scratchpad and is then counted (R149); a packet beyond
the user scratchpad is discarded, and the second part is false. -/
def State.landPacket (s : State) (from_ cell o n val : Nat) (words : NatSet) (mc : Nat) : State × Bool :=
  if (s.cell cell).spadBytes < o + n then (s, false)
  else
    let s1 := words.foldl (fun s i => s.poolPoison cell (o + 8 * i) 1) (s.poolWrite cell o n val)
    (s1.mcIncrement cell mc (scopeOf from_ cell), true)

/-- What a packet's poison and flags leave with its command. -/
def State.notePacket (s : State) (k : Cmd) (p : Packet) : State :=
  s.updThread k.slot (·.updCmd k.id fun c =>
    let c1 := { c with flags := c.flags ||| p.flags, pois := p.lines.foldl (fun m l => NatSet.add l m) c.pois }
    match p.firstBad with | some o => c1.join .poisoned o | none => c1)

/-- XLSYN of a packet beyond the receiver's scratchpad (R373): reason window bound, ST, write. -/
def landSyn : Word := BitVec.ofNat 64 (1 * 2 ^ 13 + 1 * 2 ^ 11 + 12)

/-- A packet of a command has been discarded at its receiver (R373): the command ends with the fault. -/
def State.landFault (s : State) (slot id pos o : Nat) : State :=
  match s.queuedCmd slot id with
  | some k => (s.cmdFault k pos 0x07 (BitVec.ofNat 64 o) landSyn).endCmd (cellOf slot) k
  | none => s

/-- A flit of a route reaches its cell (R80, R149, R372, R373): a packet is performed and counted, a marker is not.
After a discarded packet the sender ends the route with a truncation marker. -/
def State.routeLands (s : State) (f : RouteFlit) : State :=
  match f.op with
  | .close | .trunc => s
  | _ =>
    let l := s.landPacket f.cell f.dcell f.off f.n f.val f.words f.mc
    if l.2 then l.1
    else
      (l.1.landFault f.slot f.cmd f.pos f.off).updCellAt f.cell fun c =>
        { c with ports := c.ports.map fun r => if r.1 = f.port then (r.1, { r.2 with due := some true }) else r }

/-- A multicast packet reaches a cell (R82, R385): not its sender's, and with a rank mask only a cell with a rank in
it. -/
def State.castLands (s : State) (cell : Nat) (f : CastFlit) : State :=
  let wanted := match f.ranks, (s.cell cell).gang with
    | some m, some g =>
      (match Sparse.find? g s.gangs with
        | some x => (List.range x.desc.k).any fun t => m.getLsbD (x.cells.idxOf cell * x.desc.k + t)
        | none => false)
    | some _, none => false
    | none, _ => true
  if cell = f.cell ∨ !wanted then s
  else
    let l := s.landPacket f.cell cell f.off 128 f.val f.words f.mc
    if l.2 then l.1 else l.1.landFault f.slot f.cmd f.pos f.off

/-- The next packet of a send goes out on the port's route `r`, as its opening flit or as data. -/
def State.sendNext (s : State) (cell port : Nat) (k : Cmd) (r : Route) (op : RouteOp) : State :=
  let j := k.elem
  let p := s.sendPacket cell k j
  if p.short ∨ k.packets ≤ j then s
  else
    let n := Nat.min 128 (k.denseBytes - 128 * j)
    let r1 := { r with flits := r.flits + 1 }
    let s1 := (p.s.notePacket k p).updCellAt cell fun c => { c with ports := Sparse.set port r1 c.ports }
    (s1.routeFlit cell r1 ⟨op, cell, port, r1.flits % 512, r.cell, swDspoff k.word + 128 * j, n, p.val, p.words, swDmc k.word,
      k.slot, k.id, 128 * j⟩).updQueued cell k fun q => { q with elem := j + 1 }

/-! ### Events of the stream engine -/

/-- What a command touches: a place (0 memory, else 1 + cell), first byte, and number of bytes. Virtual ranges count by
the places that the tables give them; a range too long to look through counts as all of memory. -/
def State.cmdFeet (s : State) (cell : Nat) (k : Cmd) : List (Nat × Int × Nat) :=
  match k.mcast with
  | some (w, _) =>
    let g := match (s.thread k.slot).gang.bind fun g => Sparse.find? g s.gangs with | some g => g.cells | none => []
    (cell :: g).eraseDups.map fun d => (1 + d, (bits w 0 18 : Int), k.denseBytes)
  | none =>
    let spans := (s.cmdSpans k.slot k.word k.pat k.kind ++ cmdWindows k.word k.pat k.kind).map fun r =>
      (1 + cell, r.1, (r.2.1 - r.1).toNat)
    let long := (cmdVas k.word k.pat k.kind).any fun r => decide (2 ^ 28 < r.2.1)
    let vas := if long then [(0, (0 : Int), 2 ^ 52)] else (s.cmdPlaces k).map fun q =>
      match s.physLoc q.1 q.2.1 false with
      | some (.peer d o _) => (1 + d, (o : Int), q.2.2.1)
      | _ => (0, (q.1 : Int), q.2.2.1)
    let out := if k.kind = .send then
        match s.gangCell k.slot (swDcell k.word) with
        | some d => [(1 + d, (swDspoff k.word : Int), k.denseBytes)]
        | none => []
      else []
    spans ++ vas ++ out

/-- Two commands may touch the same bytes. -/
def feetMeet (a b : List (Nat × Int × Nat)) : Bool :=
  a.any fun x => b.any fun y => decide (x.1 = y.1 ∧ x.2.1 < y.2.1 + y.2.2 ∧ y.2.1 < x.2.1 + x.2.2)

/-- The command may start (R55, R121, R130, R135, R137, R152): accesses issued before it by its thread are performed,
among them those of queue remainders; older commands of the thread that may touch the same bytes, or DEVICE memory as
it does, are complete; and with REL the thread's earlier events have come as far as a `.module` release asks.
DEDUCED (log 68). -/
def State.mayStart (s : State) (cell : Nat) (k : Cmd) : Bool :=
  let t := s.thread k.slot
  let older := (s.cell cell).stream.filter fun q => decide (q.slot = k.slot ∧ q.id < k.id)
  let mine := s.cmdFeet cell k
  !(t.vq ++ t.tq ++ t.remS ++ t.remM).any (fun e => decide (e.seq < k.id) && e.hasEvents) &&
    !older.any (fun q => feetMeet (s.cmdFeet cell q) mine || (s.cmdDevice q && s.cmdDevice k)) &&
    (!(swRel k.word && k.mcast.isNone) ||
      (older.isEmpty && !s.relWaits k.slot (psLS ||| psLA ||| psFA ||| psMS) .module &&
        !s.writesOf k.slot (List.range k.id)))

/-- STREAM_DISPATCH: the first command of a free port starts (R206); with REL once the drain of its release is
over. -/
def execStreamDispatch (cell port : Nat) (st : State) : Outcome State Fault Refusal :=
  .next (
    match (st.cell cell).stream.find? (fun k => decide (k.port = port)) with
    | some k =>
      if k.running || k.ending || !st.mayStart cell k then st
      else
        let go := fun (s : State) => s.updQueued cell k fun q => { q with running := true }
        if swRel k.word ∧ k.mcast.isNone then
          let s1 := st.relDrain k.slot psAll .module
          if s1.relOpen k.slot psAll .module then s1
          else (go s1).updThread k.slot
            (·.updCmd k.id fun c => { c with rel := some (k.xl.asid, bits (swVa k.word) 16 39) })
        else go st
    | none => st)

/-- STREAM_COMMAND_COMPLETE: the running command of a port performs its next elements, or completes; one that has
stopped ends when its writes have landed (R55). -/
def execStreamCommandComplete (cell port : Nat) (st : State) : Outcome State Fault Refusal :=
  .next (
    match (st.cell cell).stream.find? fun k => decide (k.port = port) && k.running with
    | some k =>
      if k.ending then (if st.cmdFlying k || st.cmdInFlight k then st else st.cmdDone cell k)
      else match k.kind with
      | .send | .mcast => if k.packets ≤ k.elem ∧ !st.cmdFlying k then st.cmdDone cell k else st
      | _ => st.runCmd cell k
    | none => st)

/-- OPEN: a send opens its route with its first packet (R80); the route keeps the thread's STRTC (R77). -/
def execOpenRoute (cell port : Nat) (st : State) : Outcome State Fault Refusal :=
  .next (
    match (st.cell cell).runningCmd port, Sparse.find? port (st.cell cell).ports with
    | some k, none =>
      match st.gangCell k.slot (swDcell k.word) with
      | some d =>
        if k.kind = .send then
          st.sendNext cell port k ⟨k.slot, swDcell k.word, d, bits ((st.thread k.slot).csrGet csrNETCTL) 0 2, 0, none⟩ .opening
        else st
      | none => st
    | _, _ => st)

/-- DATA: the next packet of a send on its held route. -/
def execDataFlit (cell port : Nat) (st : State) : Outcome State Fault Refusal :=
  .next (
    match (st.cell cell).runningCmd port, Sparse.find? port (st.cell cell).ports with
    | some k, some r =>
      if k.kind = .send ∧ r.slot = k.slot ∧ r.dcell = swDcell k.word ∧ r.due.isNone then st.sendNext cell port k r .data else st
    | _, _ => st)

/-- CLOSE: a closing marker releases the route, when SCLOSE asked for it or the port's next command
needs another route (R372). -/
def execCloseRoute (cell port : Nat) (st : State) : Outcome State Fault Refusal :=
  .next (
    match Sparse.find? port (st.cell cell).ports with
    | some r =>
      let other := match (st.cell cell).runningCmd port with
        | some k => decide (r.slot ≠ k.slot ∨ r.dcell ≠ swDcell k.word)
        | none => false
      if r.due = some false ∨ (r.due.isNone ∧ other = true) then st.endRoute cell port r .close else st
    | none => st)

/-- TRUNC: a truncation marker releases the route (R80, R81). -/
def execTruncRoute (cell port : Nat) (st : State) : Outcome State Fault Refusal :=
  .next (
    match Sparse.find? port (st.cell cell).ports with
    | some r => if r.due = some true then st.endRoute cell port r .trunc else st
    | none => st)

/-- The port number under which multicasts queue. -/
def castPort : Nat := 8

/-- MCAST: the next packet of the cell's running multicast leaves for the root of its gang's tree (R82, R385). -/
def execMcast (cell : Nat) (st : State) : Outcome State Fault Refusal :=
  .next (
    match (st.cell cell).runningCmd castPort with
    | some k =>
      match k.mcast, (st.thread k.slot).gang.bind fun g => Sparse.find? g st.gangs with
      | some (w, m), some g =>
        if k.packets ≤ k.elem then st
        else
          let p := st.castPacket cell w k.elem
          let f : CastFlit := ⟨g.tree, cell, bits w 0 18 + 128 * k.elem, p.val, p.words, bits w 26 6,
            if w.getLsbD 32 then some m else none, k.slot, k.id, 128 * k.elem⟩
          ((p.s.notePacket k p).newFlit (combOf cell) (Flit.of (combOf cell) (physOf cell) (128 + physOf cell)
            (bits ((st.thread k.slot).csrGet csrNETCTL) 0 2) g.root epMgmt (.cast f))).updQueued cell k fun q => { q with elem := q.elem + 1 }
      | _, _ => st
    | none => st)

/-- GMCAST (R385). -/
def execGmcast (s : Bool) (a b : Reg) (st : State) : Outcome State Fault Refusal :=
  .next (st.guarded [a, b] [] fun t =>
    let w := t.rs a
    let lvl := match t.thr.gang with
      | some g => match Sparse.find? g t.gangs with | some x => x.desc.level | none => 0
      | none => 0
    let o := bits w 0 18
    let n := (bits w 18 7 + 1) * 128
    if bits w 33 31 ≠ 0 ∨ bits w 25 1 ≠ 0 ∨ o % 128 ≠ 0 ∨ t.cl.spadBytes < o + n ∨ lvl = 0 ∨ (w.getLsbD 32 ∧ 2 < lvl) then
      t.badOperand w
    else
      let spans : List (Int × Int × Nat × Bool) := [((o : Int), (o : Int) + n, 0, true)]
      if t.cmdFull spans then t.stall
      else
        (t.enqueueCmd
          { slot := t.cur, id := t.thr.seq, port := castPort, word := 0, pat := 0, xl := t.thr.xlate,
            fpctl := t.thr.csrGet csrFPCTL, pc := t.thr.pc, mcast := some (w, t.rs b), running := false, elem := 0, mig := none, held := [], ending := false }
          spans).advance s)

end Sys2Proof.Machine
end

