-- ==== Sys2Proof/Machine/Sync.lean ====
section
/-! DEFINITION. Barriers of a cell and of a gang, mailboxes, messages, YIELD and GINFO, and the
delivery of pending results (R82, R146 to R148, R165, R195, R209, R358, R379 to R386). -/

namespace Sys2Proof.Machine

open Host (Outcome)

/-- LS, LA and MS: the paths of barriers (R146). -/
def psBar : BitVec 5 := psLS ||| psLA ||| psMS

/-- The gang of a slot's thread. -/
def State.gangOf (s : State) (slot : Nat) : Option Gang :=
  match (s.thread slot).gang with
  | some g => Sparse.find? g s.gangs
  | none => none

/-- The scope of a gang level (R1, R156). -/
def levelScope (n : Nat) : Scope :=
  if n = 1 then .cell else if n = 2 then .comb else if n = 3 then .frame else if n = 4 then .module else .system

/-! ### Cell barriers (R379, R380) -/

/-- Barrier `id` of a cell. -/
def Cell.bar (c : Cell) (id : Nat) : NBar := Sparse.getD c.bars id .initial

/-- Barrier `id` of the executing cell becomes `b`. -/
def State.setBar (s : State) (id : Nat) (b : NBar) : State :=
  s.updCell fun c => { c with bars := Sparse.set id b c.bars }

/-- BINIT (R379). -/
def execBinit (s : Bool) (a b : Reg) (st : State) : Outcome State Fault Refusal :=
  .next (st.guarded [a, b] [] fun t =>
    let id := (t.rs a).toNat
    let n := (t.rs b).toNat
    let x := t.cl.bar id
    if 512 ≤ id then t.badOperand (t.rs a)
    else if n = 0 ∨ 65535 < n then t.badOperand (t.rs b)
    else if x.bind = .gang ∨ (x.bind = .cell ∧ x.arr ≠ 0) then t.badOperand (t.rs a)
    else (t.setBar id { x with bind := .cell, exp := n, arr := 0, owner := t.ct }).advance s)

/-- A cell barrier operation: the id in `a` names a cell-bound barrier (R380). -/
def State.cellBar (s : State) (a : Reg) (f : State → Nat → NBar → State) : State :=
  let id := (s.rs a).toNat
  if 512 ≤ id ∨ (s.cl.bar id).bind ≠ .cell then s.badOperand (s.rs a) else f s id (s.cl.bar id)

/-- One arrival at a cell barrier. -/
def NBar.arrive (b : NBar) : NBar :=
  if b.arr + 1 = b.exp then { b with arr := 0, gen := (b.gen + 1) % 65536 } else { b with arr := b.arr + 1 }

/-- BARRIVE (R380). -/
def execBarrive (s : Bool) (d a : Reg) (st : State) : Outcome State Fault Refusal :=
  .next (st.guarded [a] [d] fun t => t.cellBar a fun t id b =>
    t.released psBar .cell fun t => ((t.setBar id b.arrive).deliver d (BitVec.ofNat 64 b.gen) false).advance s)

/-- BWAIT (R380). -/
def execBwait (s : Bool) (a b : Reg) (st : State) : Outcome State Fault Refusal :=
  .next (st.guarded [a, b] [] fun t => t.cellBar a fun t id x =>
    if (t.rs b).toNat = x.gen then t.parkAs (.bwait id x.gen) else (t.acquire t.cur psBar .cell).advance s)

/-- The arrival that the thread has already made at its pc for barrier `id`. -/
def Thread.arrived (t : Thread) (id : Nat) : Option WaitToken := t.tokens.find? fun w => decide (w.pc = t.pc ∧ w.id = id)

/-- The arrival is used up. -/
def Thread.useToken (t : Thread) (id : Nat) : Thread :=
  { t with tokens := t.tokens.filter fun w => decide (¬ (w.pc = t.pc ∧ w.id = id)) }

/-- BSYNC (R380): the arrival is made once, then the thread waits for the generation's end. -/
def execBsync (s : Bool) (a : Reg) (st : State) : Outcome State Fault Refusal :=
  .next (st.guarded [a] [] fun t => t.cellBar a fun t id x =>
    match t.thr.arrived id with
    | some w =>
      if x.gen = w.gen then t.parkAs (.bwait id w.gen)
      else ((t.upd (·.useToken id)).acquire t.cur psBar .cell).advance s
    | none =>
      t.released psBar .cell fun t =>
        let t1 := t.setBar id x.arrive
        if x.arrive.gen = x.gen then
          (t1.upd fun th => { th with tokens := th.tokens ++ [⟨th.pc, id, x.gen⟩] }).parkAs (.bwait id x.gen)
        else (t1.acquire t1.cur psBar .cell).advance s)

/-! ### Gang barriers (R82, R384) -/

/-- State of gang barrier `id` of gang `g`. -/
def State.gbar (s : State) (g id : Nat) : GBar := Sparse.getD s.gbars (g * 512 + id) ⟨0, 0, [], [], [], [], 0⟩
def State.setGbar (s : State) (g id : Nat) (b : GBar) : State := { s with gbars := Sparse.set (g * 512 + id) b s.gbars }

/-- The generation that the next arrival counts for: the first whose arrivals have not all been made. -/
def GBar.genNow (b : GBar) : Nat := (b.gen + b.came.length / b.exp) % 65536

/-- A router and a generation as one number. -/
def genAt (gen comb : Nat) : Nat := gen * 1024 + comb

/-- The first gang instruction on an unbound id binds it to the gang (R384); `f` gets the barrier as
the cell holds it. An id bound to the cell is refused. -/
def State.gangBar (s : State) (a : Reg) (f : State → Nat → NBar → Gang → State) : State :=
  let id := (s.rs a).toNat
  match s.thr.gang, s.gangOf s.cur with
  | some g, some x =>
    if 512 ≤ id ∨ (s.cl.bar id).bind = .cell then s.badOperand (s.rs a)
    else if (s.cl.bar id).bind = .gang then f s id (s.cl.bar id) x
    else
      let b : NBar := ⟨.gang, x.desc.n * x.desc.k, 0, (s.gbar g id).gen, s.ct, g⟩
      let s1 := s.setBar id b
      let s2 := if (Sparse.find? (g * 512 + id) s1.gbars).isSome then s1
        else s1.setGbar g id ⟨x.desc.n * x.desc.k, 0, [], [], [], [], 0⟩
      f s2 id b x
  | _, _ => s.badOperand (s.rs a)

/-- An arrival of the executing thread enters its comb's router (R82, R147). DESIGN CHOICE (log 128): the combined arrival
and the completion carry the traffic class of the thread that arrived last. -/
def State.gangArrive (s : State) (id : Nat) (b : NBar) (rejoin : Bool) : State :=
  let x := s.gbar b.gid id
  let k := genAt x.genNow (combOf s.cc)
  s.setGbar b.gid id
    { x with
      came := x.came ++ [s.thr.rank]
      below := Sparse.set k (Sparse.getD x.below k 0 + 1) x.below
      joins := if rejoin then Sparse.set s.thr.rank (x.genNow * 2 ^ 64 + s.thr.pc.toNat) x.joins else x.joins
      tc := bits (s.thr.csrGet csrNETCTL) 2 2 }

/-- A member may go on past a wait for generation `g`: it is none of those from the one delivered to the cell to the one
that arrivals count for now (R384). -/
def State.gangPassed (s : State) (id : Nat) (b : NBar) (g : Nat) : Bool :=
  decide (((s.gbar b.gid id).genNow + 65536 - b.gen) % 65536 < (g + 65536 - b.gen) % 65536 ∨ 65536 ≤ g)

/-- GARRIVE (R384). -/
def execGarrive (s : Bool) (d a : Reg) (st : State) : Outcome State Fault Refusal :=
  .next (st.guarded [a] [d] fun t => t.gangBar a fun t id b x =>
    t.released psBar (levelScope x.desc.level) fun t =>
      ((t.gangArrive id b false).deliver d (BitVec.ofNat 64 (t.gbar b.gid id).genNow) false).advance s)

/-- GWAITB (R384). -/
def execGwaitb (s : Bool) (a b : Reg) (st : State) : Outcome State Fault Refusal :=
  .next (st.guarded [a, b] [] fun t => t.gangBar a fun t id x g =>
    if t.gangPassed id x (t.rs b).toNat then (t.acquire t.cur psBar (levelScope g.desc.level)).advance s
    else t.parkAs (.gwait id (t.rs b).toNat))

/-- GBAR and GBARJ (R165, R384). -/
def State.gangSync (s : State) (mk rejoin : Bool) (a : Reg) : State :=
  s.guarded [a] [] fun s => s.gangBar a fun s id b g =>
    match s.thr.arrived id with
    | some w =>
      if s.gangPassed id b w.gen then
        ((s.upd (·.useToken id)).acquire s.cur psBar (levelScope g.desc.level)).advance mk
      else s.parkAs (.gwait id w.gen)
    | none =>
      s.released psBar (levelScope g.desc.level) fun s =>
        let n := (s.gbar b.gid id).genNow
        ((s.gangArrive id b rejoin).upd fun th => { th with tokens := th.tokens ++ [⟨th.pc, id, n⟩] }).parkAs (.gwait id n)

/-- GBAR (R384). -/
def execGbar (s : Bool) (a : Reg) (st : State) : Outcome State Fault Refusal := .next (st.gangSync s false a)

/-- GBARJ (R165, R384). -/
def execGbarj (s : Bool) (a : Reg) (st : State) : Outcome State Fault Refusal := .next (st.gangSync s true a)

/-- The router one step nearer to a tree's root: the path from the root runs along x, then y (R82). -/
def treeParent (root c : Nat) : Option Nat :=
  if c / 32 < root / 32 then some (c + 32)
  else if root / 32 < c / 32 then some (c - 32)
  else if c % 32 < root % 32 then some (c + 1)
  else if root % 32 < c % 32 then some (c - 1)
  else none

/-- Routers from `c` up to the root. -/
def treePath (root c : Nat) : Nat → List Nat
  | 0 => [c]
  | n + 1 => match treeParent root c with | some p => c :: treePath root p n | none => [c]

/-- Ranks of the members below router `c`. -/
def Gang.subtree (g : Gang) (c : Nat) : List Nat :=
  (List.range (g.desc.n * g.desc.k)).filter fun r =>
    (treePath g.root (combOf (g.cells.getD (r / g.desc.k) 0)) 64).elem c

/-- Routers next below `c` that lead to combs of the gang. -/
def Gang.children (g : Gang) (c : Nat) : List Nat :=
  let all := g.combs.flatMap fun x => treePath g.root x 64
  ([c - 32, c + 32, c - 1, c + 1].filter fun n => decide (n ≠ c ∧ treeParent g.root n = some c) && all.elem n).eraseDups

/-- The members that rejoin at the completion of a generation (R165): those that reached it where the leader did. -/
def State.rejoinAll (s : State) (g : Gang) (b : GBar) : State :=
  match (if g.desc.fwd then Sparse.find? 0 b.joins else none) with
  | some w =>
    if w / 2 ^ 64 ≠ b.gen then s
    else b.joins.foldl (fun s e =>
      if e.2 = w then
        s.updThread (g.slots.getD e.1 0) fun t =>
          if t.fwd = .none then { t with fwd := if e.1 = 0 then .leader else .follower, fwdBuf := [] } else t
      else s) s
  | none => s

/-- A barrier flit leaves router `comb` by a mesh port, over one link (R82). -/
def State.barrierFlit (s : State) (comb port tc : Nat) (l : Load) : State :=
  match meshNext comb port with
  | some c => s.newFlit comb { Flit.of comb epMgmt epMgmt tc c epMgmt l with out := some port }
  | none => s

/-- A router's combining unit sinks `n` arrivals (R74, R82). -/
def State.sinkArrivals (s : State) (gang id comb gen n : Nat) : State :=
  match Sparse.find? (gang * 512 + id) s.gbars with
  | some b => s.setGbar gang id { b with below := Sparse.set (genAt gen comb) (Sparse.getD b.below (genAt gen comb) 0 + n) b.below }
  | none => s

/-- A router sinks a completion, to deliver it and to send it on. -/
def State.sinkCompletion (s : State) (gang id comb gen : Nat) : State :=
  match Sparse.find? (gang * 512 + id) s.gbars with
  | some b => s.setGbar gang id { b with down := b.down ++ [genAt gen comb] }
  | none => s

/-- The gang's entry in the multicast tree table of a router (R82). -/
def State.treeAt (s : State) (g : Gang) (comb : Nat) : Word := s.dev (treeReg comb g.tree)

/-- Router `a` lies strictly below router `c` in the tree. -/
def Gang.under (g : Gang) (c a : Nat) : Bool := decide (a ≠ c) && (treePath g.root a 64).elem c

/-- Arrivals of a generation are still on their way to router `comb`: held by routers below it, or on links. -/
def State.arrivalsBelow (s : State) (gang id : Nat) (g : Gang) (b : GBar) (comb gen : Nat) : Bool :=
  b.below.any (fun e => decide (e.1 / 1024 = gen) && g.under comb (e.1 % 1024)) ||
    s.flits.any fun e => g.under comb e.1 && e.2.any fun f => match f.load with
      | .arrive x i n _ => decide (x = gang ∧ i = id ∧ n = gen)
      | _ => false

/-- All that a router expects of a generation have reached it (R82): one arrival of each member below it, or every arrival
of a generation that is full. -/
def State.combined (s : State) (gang id : Nat) (g : Gang) (b : GBar) (comb gen n : Nat) : Bool :=
  decide ((g.subtree comb).length ≤ n) || (decide (b.genNow ≠ gen) && !s.arrivalsBelow gang id g b comb gen)

/-- BARRIER_ARRIVAL: the router of a comb sends its combined arrivals of a generation up the tree, once all that it
expects have reached it; at the root they complete the generation (R82, R384). -/
def execBarrierArrival (gang id comb : Nat) (st : State) : Outcome State Fault Refusal :=
  .next (
    match Sparse.find? gang st.gangs, Sparse.find? (gang * 512 + id) st.gbars with
    | some g, some b =>
      let e := st.treeAt g comb
      let up := bits e 36 4
      let goes := fun (x : Nat × Nat) => decide (x.1 % 1024 = comb) &&
        (if up = 0 then decide (x.1 / 1024 = b.gen ∧ b.exp ≤ x.2) else st.combined gang id g b comb (x.1 / 1024) x.2)
      match List.find? goes b.below with
      | some (k, n) =>
        if !e.getLsbD 63 then st
        else if up ≠ 0 then
          (st.setGbar gang id { b with below := Sparse.erase k b.below }).barrierFlit comb (up - 1) b.tc (.arrive gang id (k / 1024) n)
        else
          let next := (b.gen + 1) % 65536
          (st.rejoinAll g b).setGbar gang id
            { b with
              gen := next
              came := b.came.drop b.exp
              below := Sparse.erase k b.below
              down := b.down ++ [genAt next comb]
              joins := b.joins.filter fun j => decide (j.2 / 2 ^ 64 ≠ b.gen) }
      | none => st
    | _, _ => st)

/-- BARRIER_COMPLETION: a router delivers a completion to its cells and sends it on down the tree. -/
def execBarrierCompletion (gang id comb : Nat) (st : State) : Outcome State Fault Refusal :=
  .next (
    match Sparse.find? gang st.gangs, Sparse.find? (gang * 512 + id) st.gbars with
    | some g, some b =>
      match b.down.find? fun k => decide (k % 1024 = comb) with
      | some k =>
        let e := st.treeAt g comb
        let s1 := st.setGbar gang id { b with down := b.down.erase k }
        let s2 := (List.range 4).foldl
          (fun s p => if e.getLsbD (32 + p) then s.barrierFlit comb p b.tc (.complete gang id (k / 1024)) else s) s1
        ((List.range 17).filter (e.getLsbD ·)).foldl (fun s p =>
          let c := comb * 17 + p
          let x := (s.cell c).bar id
          if x.bind = .gang ∧ x.gid = gang then
            s.updCellAt c fun y => { y with bars := Sparse.set id { x with gen := k / 1024 } y.bars }
          else s) s2
      | none => st
    | _, _ => st)

/-! ### Mailboxes and messages (R381 to R383) -/

/-- MWAIT (R381): waiters are served in the order in which they began to wait; the acquire has the narrowest
scope that holds the cell and the senders counted so far (R146). DEDUCED (log 71). -/
def execMwait (s : Bool) (d a : Reg) (n : BitVec 6) (st : State) : Outcome State Fault Refusal :=
  .next (st.guarded [a] [d] fun t =>
    let mc := n.toNat
    let need := (t.rs a).toNat
    let v := t.mcAt t.cc mc
    let q := Sparse.getD t.cl.waiters mc []
    let fin := fun (t : State) =>
      (((t.updCell fun c => { c with mc := Sparse.set mc (v - need) c.mc }).acquire t.cur psAll (scopeOfCode (Sparse.getD t.cl.mcScope mc 0))).ws d
        (BitVec.ofNat 64 v)).advance s
    if bits (t.rs a) 32 32 ≠ 0 then t.badOperand (t.rs a)
    else if need = 0 then fin t
    else
      let q1 := if q.elem t.ct then q else q ++ [t.ct]
      if q1.head? = some t.ct ∧ need ≤ v then
        fin (t.updCell fun c => { c with waiters := Sparse.set mc (q1.filter (· ≠ t.ct)) c.waiters })
      else (t.updCell fun c => { c with waiters := Sparse.set mc q1 c.waiters }).parkAs (.mwait mc need))

/-- MSEND (R382). -/
def execMsend (s : Bool) (a b : Reg) (st : State) : Outcome State Fault Refusal :=
  .next (st.guarded [a, b] [] fun t =>
    let w := t.rs b
    let r := bits w 0 19
    match t.gangOf t.cur with
    | some g =>
      if bits w 28 36 ≠ 0 ∨ g.desc.n * g.desc.k ≤ r then t.badOperand w
      else
        let slot := g.slots.getD r 0
        t.released (psLS ||| psMS) (scopeOf t.cc (cellOf slot)) fun t =>
          (t.inject (combOf t.cc) (physOf t.cc) (combOf (cellOf slot)) (physOf (cellOf slot)) (bits (t.thr.csrGet csrNETCTL) 2 2)
            (.msg ⟨t.cur, slot, t.rs a, bits w 19 2, bits w 21 6, w.getLsbD 27⟩)).advance s
    | none => t.badOperand w)

/-- DEPOSIT: the `n`-th message that has reached its cell is performed, unless an earlier one from the same cell to
the same cell still waits (R73, R382). DESIGN CHOICE (log 70). -/
def execDeposit (n : Nat) (st : State) : Outcome State Fault Refusal :=
  .next (
    match st.msgs[n]? with
    | some m =>
      if (st.msgs.take n).any fun o => decide (cellOf o.from_ = cellOf m.from_ ∧ cellOf o.slot = cellOf m.slot) then st
      else ({ st with msgs := st.msgs.eraseIdx n } : State).deposit m.slot m.word m.mb m.mc m.nodep
        (scopeOf (cellOf m.from_) (cellOf m.slot))
    | none => st)

/-- MRD (R383). -/
def execMrd (s : Bool) (d : Reg) (n : BitVec 2) (st : State) : Outcome State Fault Refusal :=
  .next (st.guarded [] [d] fun t => (t.ws d (t.thr.readMb n.toNat)).advance s)

/-- MWR (R383). -/
def execMwr (s : Bool) (a : Reg) (n : BitVec 2) (st : State) : Outcome State Fault Refusal :=
  .next (st.guarded [a] [] fun t =>
    (t.upd fun th => { th with mb := Sparse.set n.toNat (th.readS a) th.mb, mbWrote := some (n.toNat, t.cycle) }).advance s)

/-- YIELD (R383). -/
def execYield (s : Bool) (a : Reg) (st : State) : Outcome State Fault Refusal :=
  .next (st.guarded [a] [] fun t =>
    if bits (t.rs a) 16 48 ≠ 0 then t.badOperand (t.rs a)
    else if t.rs a = 0 then t.advance s
    else t.parkAs (.yield (t.cycle + (t.rs a).toNat) s))

/-- YIELD_END: the slot's YIELD has waited its cycles. -/
def execYieldEnd (slot : Nat) (st : State) : Outcome State Fault Refusal :=
  .next (
    match (st.thread slot).park with
    | .yield till mk => if till ≤ st.cycle then st.updThread slot fun t => t.stepPc.mark mk else st
    | _ => st)

/-- GINFO (R386). -/
def execGinfo (s : Bool) (d : Reg) (n : BitVec 6) (st : State) : Outcome State Fault Refusal :=
  .next (
    if 10 ≤ n.toNat then st.illegal (wordA s 0x35 d 0 0 (4#4 ++ n))
    else st.guarded [] [d] fun t =>
      let v : Nat := match t.gangOf t.cur with
        | none => 0
        | some g =>
          let c := t.thr.rank / g.desc.k
          if n = 0 then t.thr.rank
          else if n = 1 then g.desc.n * g.desc.k
          else if n = 2 then g.desc.n
          else if n = 3 then g.desc.k
          else if n = 4 then g.desc.level
          else if n = 5 then c
          else if n = 6 then g.w * 65536 + g.h
          else if n = 7 then (if g.desc.level ≤ 2 then 0 else c / 16)
          else if n = 8 then g.desc.ctx
          else if g.desc.fwd then 1 else 0
      (t.ws d (BitVec.ofNat 64 v)).advance s)

/-! ### Pending results (R195, R196, R358) -/

/-- The oldest near result that is under way arrives at the slot: the value, or poison, is written
and its flags join FPFLG; a poisoned atomic without destination is reported later (R358, R362). -/
def Thread.resultArrives (t : Thread) (p : Pend) : Thread :=
  let t1 := { t with pend := t.pend.erase p }
  let d := BitVec.ofNat 5 p.reg
  let t2 :=
    match p.value with
    | some x =>
      if p.poisoned then
        if d = 31 then { t1 with deferred := t1.deferred ++ [p.va] }
        else { t1.writeS d x with poison := NatSet.add (p.reg * 128) t1.poison }
      else t1.writeS d x
    | none => t1
  (t2.raise p.flags).unmark

/-- A pending result of the slot arrives; the line of a near atomic leaves the L1 (R53). -/
def State.resultAt (s : State) (slot : Nat) (p : Pend) : State :=
  (match p.line with | some l => s.l1Drop (cellOf slot) l | none => s).updThread slot (·.resultArrives p)

/-- RESULT_WRITTEN: the oldest pending near result of the slot is written. -/
def execResultWritten (slot : Nat) (st : State) : Outcome State Fault Refusal :=
  .next (
    match (st.thread slot).pend.find? fun p => p.value.isSome && p.far.isNone with
    | some p => st.resultAt slot p
    | none => st)

end Sys2Proof.Machine
end

