-- ==== Sys2Proof/Machine/Task.lean ====
section
/-! DEFINITION. The task unit: TKINIT, TKDEC, TKPOP, TKSTAT and the events of its queues
(R159, R186 to R192, R387). -/

namespace Sys2Proof.Machine

open Host (Outcome)

/-- Frame of a thread (R1). -/
def State.frameOf (s : State) : Nat := frameOfComb (combOf s.cc)

/-- Counter `id` of a frame's task unit, and its replacement. -/
def State.ctr (s : State) (f id : Nat) : Counter := Sparse.getD s.ctrs (f * 65536 + id) .initial
def State.setCtr (s : State) (f id : Nat) (c : Counter) : State := { s with ctrs := Sparse.set (f * 65536 + id) c s.ctrs }

/-- A released task enters its ready queue (R188). -/
def State.enqueueTask (s : State) (f : Nat) (r : Ready) : State :=
  s.setReadyQ f r.prio (insertReady { r with since := s.cycle } (s.readyQ f r.prio))

/-- Launches held on counter `id` of frame `f` are released (R159, step 2). -/
def State.releaseLaunches (s : State) (f id : Nat) : State :=
  { s with queues := s.queues.map fun e =>
      (e.1, e.2.map fun l =>
        if l.desc.wv ∧ l.desc.wframe = f ∧ l.desc.wctr = id then { l with desc := { l.desc with wv := false } } else l) }

/-- A counter is released (R188, R189): disarmed, and its task queued, or held while its queue is
full or earlier tasks of its priority are held. -/
def State.releaseCounter (s : State) (f id : Nat) : State :=
  let c := { s.ctr f id with count := 0, armed := false }
  let s1 := (s.setCtr f id c).releaseLaunches f id
  let r : Ready := ⟨id, c.prio, s.cycle, s.cycle, c.task, c.lv, c.pref, c.min⟩
  if (s1.readyQ f c.prio).length < readyCap ∧ (s1.heldTasks f c.prio).isEmpty then s1.enqueueTask f r
  else s1.setCtr f id { c with held := c.held ++ [r] }

/-- The frame and counter that a counter word names (R387): `none` for a nonzero reserved bit. -/
def State.ctrWord (s : State) (w : Word) : Option (Nat × Nat) :=
  if bits w 20 44 ≠ 0 then none
  else some (if w.getLsbD 19 then bits w 16 3 else s.frameOf, bits w 0 16)

/-- The frame of a frame word (R387). -/
def State.frameWord (s : State) (w : Word) : Option Nat :=
  if bits w 4 60 ≠ 0 then none else some (if w.getLsbD 3 then bits w 0 3 else s.frameOf)

/-- A coherent read by the scalar side whose poison is consumed at once (R63). -/
def State.lsReadClean (s : State) (va : Word) (n : Nat) (f : State → Nat → State) : State :=
  s.lsRead va n fun s v p => if p then s.trap { code := 0x0B, tval := va } else f s v

/-- TKINIT (R186, R187, R387). DEDUCED (log 42). -/
def execTkinit (s : Bool) (d a b : Reg) (st : State) : Outcome State Fault Refusal :=
  .next (st.guarded [d, a, b] [] fun t =>
    if bits (t.rs d) 16 48 ≠ 0 then t.badOperand (t.rs d)
    else match t.ctrWord (t.rs a) with
    | none => t.badOperand (t.rs a)
    | some (f, id) =>
      if (t.rs b).toNat % 64 ≠ 0 then t.badOperand (t.rs b)
      else t.released psAll .module fun t => t.lsReadClean (t.rs b) 8 fun t v =>
        let w : Word := BitVec.ofNat 64 v
        if bits w 16 48 ≠ 0 ∨ bits w 10 2 ≠ 0 then t.badOperand w
        else if (t.ctr f id).count ≠ 0 then t.trap { code := 0x0F, tval := BitVec.ofNat 64 id }
        else
          let n := (t.rs d).toNat
          let c : Counter := ⟨n, true, t.rs b, bits w 13 3, w.getLsbD 12, bits w 5 5, bits w 0 5, (t.ctr f id).held⟩
          let t1 := t.setCtr f id c
          (if n = 0 then t1.releaseCounter f id else t1).advance s)

/-- TKDEC (R188, R387). -/
def execTkdec (s : Bool) (a : Reg) (st : State) : Outcome State Fault Refusal :=
  .next (st.guarded [a] [] fun t =>
    match t.ctrWord (t.rs a) with
    | none => t.badOperand (t.rs a)
    | some (f, id) =>
      t.released psAll .module fun t =>
        let c := t.ctr f id
        if c.count = 0 then
          (t.bumpDev (combReg (frameComb f) 0xB_0008) 48 16).trap { code := 0x0E, tval := BitVec.ofNat 64 id }
        else
          (if c.count = 1 then t.releaseCounter f id else t.setCtr f id { c with count := c.count - 1 }).advance s)

/-- The task that leaves a frame's ready queues next (R189). -/
def State.nextTask (s : State) (f : Nat) : Option Ready := [7, 6, 5, 4, 3, 2, 1, 0].findSome? fun p => (s.readyQ f p).head?

/-- The executing thread receives task `r` (R190). -/
def State.receiveTask (s : State) (f : Nat) (d : Reg) (r : Ready) : State :=
  let s1 := (s.setReadyQ f r.prio ((s.readyQ f r.prio).drop 1)).acquire s.cur psAll .module
  let s2 : State := { s1 with pops := Sparse.set f ((Sparse.getD s1.pops f []).filter (· ≠ s1.cur)) s1.pops }
  let s3 := if r.lv then s2.upd fun t =>
      t.csrSet csrLEASE (setBits (setBits (t.csrGet csrLEASE) 8 5 r.pref) 0 5 r.min) else s2
  s3.ws d r.task

/-- TKPOP (R190, R387): waiting pops are served in the order in which they reached the task unit.
DEDUCED (log 41). -/
def execTkpop (s : Bool) (d a : Reg) (st : State) : Outcome State Fault Refusal :=
  .next (st.guarded [a] [d] fun t =>
    match t.frameWord (t.rs a) with
    | none => t.badOperand (t.rs a)
    | some f =>
      let q := Sparse.getD t.pops f []
      let q1 := if q.elem t.cur then q else q ++ [t.cur]
      match t.nextTask f with
      | some r =>
        if q1.head? = some t.cur then (t.receiveTask f d r).advance s
        else ({ t with pops := Sparse.set f q1 t.pops } : State).parkAs (.tkpop f d.toNat)
      | none => ({ t with pops := Sparse.set f q1 t.pops } : State).parkAs (.tkpop f d.toNat))

/-- TKSTAT (R387): class P. -/
def execTkstat (s : Bool) (d a : Reg) (st : State) : Outcome State Fault Refusal :=
  .next (st.guarded [a] [d] fun t =>
    match t.ctrWord (t.rs a) with
    | none => t.badOperand (t.rs a)
    | some (f, id) =>
      let c := t.ctr f id
      let v := (if c.armed then 2 ^ 63 else 0) + (if !c.held.isEmpty then 2 ^ 62 else 0) + c.prio * 65536 + c.count
      (t.deliver d (BitVec.ofNat 64 v) false).advance s)

/-- The held task that enters its queue first (R189). -/
def firstHeld (l : List Ready) : Option Ready := (l.foldl (fun q r => insertReady r q) []).head?

/-- TASK_ENQUEUE: a released, unqueued task of the frame enters its queue where there is space,
in its order (R189). -/
def execTaskEnqueue (frame : Nat) (st : State) : Outcome State Fault Refusal :=
  .next (
    match [7, 6, 5, 4, 3, 2, 1, 0].findSome? fun p =>
      if (st.readyQ frame p).length < readyCap then firstHeld (st.heldTasks frame p) else none with
    | some r =>
      let c := st.ctr frame r.ctr
      (st.setCtr frame r.ctr { c with held := c.held.erase r }).enqueueTask frame r
    | none => st)

/-- TASK_AGING: overdue tasks of the frame move up by one priority (R191). -/
def execTaskAging (frame : Nat) (st : State) : Outcome State Fault Refusal := .next (st.ageTasks frame)

/-- TUCTL_WRITE: firmware writes TUCTL of the frame (R191, R192). -/
def execTuctlWrite (frame : Nat) (v : Word) (st : State) : Outcome State Fault Refusal :=
  .next (st.devWrite .machine (combReg (frameComb frame) 0xB_0000) v (BitVec.allOnes 64))

end Sys2Proof.Machine
end

