-- ==== Sys2Proof/Machine/Vector.lean ====
section
/-! DEFINITION. Vector instructions (R311 to R338, R390): what each names, and its way into the
vector queue; SETVL, VSETLI and RINGCFG, which act on the scalar side. -/

namespace Sys2Proof.Machine

open Host (Outcome)

/-- VADD (R314, R320). -/
def execVadd (s : Bool) (d : Reg) (a : Reg) (b : Reg) (k : Reg) (st : State) : Outcome State Fault Refusal :=
  .next (st.vec s .vadd d a b k false)

/-- VSUB (R314, R320). -/
def execVsub (s : Bool) (d : Reg) (a : Reg) (b : Reg) (k : Reg) (st : State) : Outcome State Fault Refusal :=
  .next (st.vec s .vsub d a b k false)

/-- VMUL (R314, R320). -/
def execVmul (s : Bool) (d : Reg) (a : Reg) (b : Reg) (k : Reg) (st : State) : Outcome State Fault Refusal :=
  .next (st.vec s .vmul d a b k false)

/-- VMULH (R314, R320). -/
def execVmulh (s : Bool) (d : Reg) (a : Reg) (b : Reg) (k : Reg) (st : State) : Outcome State Fault Refusal :=
  .next (st.vec s .vmulh d a b k false)

/-- VMULHU (R314, R320). -/
def execVmulhu (s : Bool) (d : Reg) (a : Reg) (b : Reg) (k : Reg) (st : State) : Outcome State Fault Refusal :=
  .next (st.vec s .vmulhu d a b k false)

/-- VAND (R314, R320). -/
def execVand (s : Bool) (d : Reg) (a : Reg) (b : Reg) (k : Reg) (st : State) : Outcome State Fault Refusal :=
  .next (st.vec s .vand d a b k false)

/-- VOR (R314, R320). -/
def execVor (s : Bool) (d : Reg) (a : Reg) (b : Reg) (k : Reg) (st : State) : Outcome State Fault Refusal :=
  .next (st.vec s .vor d a b k false)

/-- VXOR (R314, R320). -/
def execVxor (s : Bool) (d : Reg) (a : Reg) (b : Reg) (k : Reg) (st : State) : Outcome State Fault Refusal :=
  .next (st.vec s .vxor d a b k false)

/-- VSLL (R314, R320). -/
def execVsll (s : Bool) (d : Reg) (a : Reg) (b : Reg) (k : Reg) (st : State) : Outcome State Fault Refusal :=
  .next (st.vec s .vsll d a b k false)

/-- VSRL (R314, R320). -/
def execVsrl (s : Bool) (d : Reg) (a : Reg) (b : Reg) (k : Reg) (st : State) : Outcome State Fault Refusal :=
  .next (st.vec s .vsrl d a b k false)

/-- VSRA (R314, R320). -/
def execVsra (s : Bool) (d : Reg) (a : Reg) (b : Reg) (k : Reg) (st : State) : Outcome State Fault Refusal :=
  .next (st.vec s .vsra d a b k false)

/-- VMIN (R314, R320). -/
def execVmin (s : Bool) (d : Reg) (a : Reg) (b : Reg) (k : Reg) (st : State) : Outcome State Fault Refusal :=
  .next (st.vec s .vmin d a b k false)

/-- VMAX (R314, R320). -/
def execVmax (s : Bool) (d : Reg) (a : Reg) (b : Reg) (k : Reg) (st : State) : Outcome State Fault Refusal :=
  .next (st.vec s .vmax d a b k false)

/-- VMINU (R314, R320). -/
def execVminu (s : Bool) (d : Reg) (a : Reg) (b : Reg) (k : Reg) (st : State) : Outcome State Fault Refusal :=
  .next (st.vec s .vminu d a b k false)

/-- VMAXU (R314, R320). -/
def execVmaxu (s : Bool) (d : Reg) (a : Reg) (b : Reg) (k : Reg) (st : State) : Outcome State Fault Refusal :=
  .next (st.vec s .vmaxu d a b k false)

/-- VSADD (R314, R321). -/
def execVsadd (s : Bool) (d : Reg) (a : Reg) (b : Reg) (k : Reg) (x : Bool) (st : State) : Outcome State Fault Refusal :=
  .next (st.vec s .vsadd d a b k x)

/-- VSADDU (R314, R321). -/
def execVsaddu (s : Bool) (d : Reg) (a : Reg) (b : Reg) (k : Reg) (x : Bool) (st : State) : Outcome State Fault Refusal :=
  .next (st.vec s .vsaddu d a b k x)

/-- VSSUB (R314, R321). -/
def execVssub (s : Bool) (d : Reg) (a : Reg) (b : Reg) (k : Reg) (x : Bool) (st : State) : Outcome State Fault Refusal :=
  .next (st.vec s .vssub d a b k x)

/-- VSSUBU (R314, R321). -/
def execVssubu (s : Bool) (d : Reg) (a : Reg) (b : Reg) (k : Reg) (x : Bool) (st : State) : Outcome State Fault Refusal :=
  .next (st.vec s .vssubu d a b k x)

/-- VABS (R314, R321). -/
def execVabs (s : Bool) (d : Reg) (a : Reg) (k : Reg) (st : State) : Outcome State Fault Refusal :=
  .next (st.vIssue s .vabs d.toNat a.toNat 0 k.toNat false 0 none none)

/-- VSPLAT (R314, R321). -/
def execVsplat (s : Bool) (d : Reg) (a : Reg) (k : Reg) (st : State) : Outcome State Fault Refusal :=
  .next (st.vIssue s .vsplat d.toNat 0 0 k.toNat false 0 (some a) none)

/-- VIOTA (R314, R321). -/
def execViota (s : Bool) (d : Reg) (k : Reg) (st : State) : Outcome State Fault Refusal :=
  .next (st.vIssue s .viota d.toNat 0 0 k.toNat false 0 none none)

/-- VMV (R314, R321). -/
def execVmv (s : Bool) (d : Reg) (a : Reg) (k : Reg) (st : State) : Outcome State Fault Refusal :=
  .next (st.vIssue s .vmv d.toNat a.toNat 0 k.toNat false 0 none none)

/-- VSEXT (R314, R321). -/
def execVsext (s : Bool) (d : Reg) (a : Reg) (k : Reg) (st : State) : Outcome State Fault Refusal :=
  .next (st.vIssue s .vsext d.toNat a.toNat 0 k.toNat false 0 none none)

/-- VZEXT (R314, R321). -/
def execVzext (s : Bool) (d : Reg) (a : Reg) (k : Reg) (st : State) : Outcome State Fault Refusal :=
  .next (st.vIssue s .vzext d.toNat a.toNat 0 k.toNat false 0 none none)

/-- VFADD (R314, R322). -/
def execVfadd (s : Bool) (d : Reg) (a : Reg) (b : Reg) (k : Reg) (x : Bool) (st : State) : Outcome State Fault Refusal :=
  .next (st.vec s .vfadd d a b k x)

/-- VFSUB (R314, R322). -/
def execVfsub (s : Bool) (d : Reg) (a : Reg) (b : Reg) (k : Reg) (x : Bool) (st : State) : Outcome State Fault Refusal :=
  .next (st.vec s .vfsub d a b k x)

/-- VFMUL (R314, R322). -/
def execVfmul (s : Bool) (d : Reg) (a : Reg) (b : Reg) (k : Reg) (x : Bool) (st : State) : Outcome State Fault Refusal :=
  .next (st.vec s .vfmul d a b k x)

/-- VFDIV (R314, R322). -/
def execVfdiv (s : Bool) (d : Reg) (a : Reg) (b : Reg) (k : Reg) (x : Bool) (st : State) : Outcome State Fault Refusal :=
  .next (st.vec s .vfdiv d a b k x)

/-- VFSQRT (R314, R322). -/
def execVfsqrt (s : Bool) (d : Reg) (a : Reg) (k : Reg) (x : Bool) (st : State) : Outcome State Fault Refusal :=
  .next (st.vIssue s .vfsqrt d.toNat a.toNat 0 k.toNat x 0 none none)

/-- VFMIN (R314, R322). -/
def execVfmin (s : Bool) (d : Reg) (a : Reg) (b : Reg) (k : Reg) (x : Bool) (st : State) : Outcome State Fault Refusal :=
  .next (st.vec s .vfmin d a b k x)

/-- VFMAX (R314, R322). -/
def execVfmax (s : Bool) (d : Reg) (a : Reg) (b : Reg) (k : Reg) (x : Bool) (st : State) : Outcome State Fault Refusal :=
  .next (st.vec s .vfmax d a b k x)

/-- VFCPSGN (R314, R322). -/
def execVfcpsgn (s : Bool) (d : Reg) (a : Reg) (b : Reg) (k : Reg) (st : State) : Outcome State Fault Refusal :=
  .next (st.vec s .vfcpsgn d a b k false)

/-- VFNEG (R314, R322). -/
def execVfneg (s : Bool) (d : Reg) (a : Reg) (k : Reg) (st : State) : Outcome State Fault Refusal :=
  .next (st.vIssue s .vfneg d.toNat a.toNat 0 k.toNat false 0 none none)

/-- VFABS (R314, R322). -/
def execVfabs (s : Bool) (d : Reg) (a : Reg) (k : Reg) (st : State) : Outcome State Fault Refusal :=
  .next (st.vIssue s .vfabs d.toNat a.toNat 0 k.toNat false 0 none none)

/-- VFXSGN (R314, R322). -/
def execVfxsgn (s : Bool) (d : Reg) (a : Reg) (b : Reg) (k : Reg) (st : State) : Outcome State Fault Refusal :=
  .next (st.vec s .vfxsgn d a b k false)

/-- VBADD (R314, R323). -/
def execVbadd (s : Bool) (d : Reg) (a : Reg) (b : Reg) (k : Reg) (x : Bool) (st : State) : Outcome State Fault Refusal :=
  .next (st.vec s .vbadd d a b k x)

/-- VBSUB (R314, R323). -/
def execVbsub (s : Bool) (d : Reg) (a : Reg) (b : Reg) (k : Reg) (x : Bool) (st : State) : Outcome State Fault Refusal :=
  .next (st.vec s .vbsub d a b k x)

/-- VBMUL (R314, R323). -/
def execVbmul (s : Bool) (d : Reg) (a : Reg) (b : Reg) (k : Reg) (x : Bool) (st : State) : Outcome State Fault Refusal :=
  .next (st.vec s .vbmul d a b k x)

/-- VFCLASS (R314, R323). -/
def execVfclass (s : Bool) (d : Reg) (a : Reg) (k : Reg) (st : State) : Outcome State Fault Refusal :=
  .next (st.vIssue s .vfclass d.toNat a.toNat 0 k.toNat false 0 none none)

/-- VFCVTW (R314, R323). -/
def execVfcvtw (s : Bool) (d : Reg) (a : Reg) (g : BitVec 5) (k : Reg) (x : Bool) (st : State) : Outcome State Fault Refusal :=
  .next (st.vIssue s .vfcvtw d.toNat a.toNat 0 k.toNat x g.toNat none none)

/-- VFCVTN (R314, R323). -/
def execVfcvtn (s : Bool) (d : Reg) (a : Reg) (g : BitVec 5) (k : Reg) (x : Bool) (st : State) : Outcome State Fault Refusal :=
  .next (st.vIssue s .vfcvtn d.toNat a.toNat 0 k.toNat x g.toNat none none)

/-- VFCVTI (R314, R323). -/
def execVfcvti (s : Bool) (d : Reg) (a : Reg) (k : Reg) (x : Bool) (st : State) : Outcome State Fault Refusal :=
  .next (st.vIssue s .vfcvti d.toNat a.toNat 0 k.toNat x 0 none none)

/-- VICVTF (R314, R323). -/
def execVicvtf (s : Bool) (d : Reg) (a : Reg) (k : Reg) (x : Bool) (st : State) : Outcome State Fault Refusal :=
  .next (st.vIssue s .vicvtf d.toNat a.toNat 0 k.toNat x 0 none none)

/-- VFCVTIU (R314, R323). -/
def execVfcvtiu (s : Bool) (d : Reg) (a : Reg) (k : Reg) (x : Bool) (st : State) : Outcome State Fault Refusal :=
  .next (st.vIssue s .vfcvtiu d.toNat a.toNat 0 k.toNat x 0 none none)

/-- VIUCVTF (R314, R323). -/
def execViucvtf (s : Bool) (d : Reg) (a : Reg) (k : Reg) (x : Bool) (st : State) : Outcome State Fault Refusal :=
  .next (st.vIssue s .viucvtf d.toNat a.toNat 0 k.toNat x 0 none none)

/-- VFMADD (R324, R325). -/
def execVfmadd (s : Bool) (d : Reg) (a : Reg) (b : Reg) (k : Reg) (x : Bool) (st : State) : Outcome State Fault Refusal :=
  .next (st.vec s .vfmadd d a b k x)

/-- VFMSUB (R324, R325). -/
def execVfmsub (s : Bool) (d : Reg) (a : Reg) (b : Reg) (k : Reg) (x : Bool) (st : State) : Outcome State Fault Refusal :=
  .next (st.vec s .vfmsub d a b k x)

/-- VFNMADD (R324, R325). -/
def execVfnmadd (s : Bool) (d : Reg) (a : Reg) (b : Reg) (k : Reg) (x : Bool) (st : State) : Outcome State Fault Refusal :=
  .next (st.vec s .vfnmadd d a b k x)

/-- VFNMSUB (R324, R325). -/
def execVfnmsub (s : Bool) (d : Reg) (a : Reg) (b : Reg) (k : Reg) (x : Bool) (st : State) : Outcome State Fault Refusal :=
  .next (st.vec s .vfnmsub d a b k x)

/-- VBFMADD (R324, R325). -/
def execVbfmadd (s : Bool) (d : Reg) (a : Reg) (b : Reg) (k : Reg) (x : Bool) (st : State) : Outcome State Fault Refusal :=
  .next (st.vec s .vbfmadd d a b k x)

/-- VFWMA (R324, R325). -/
def execVfwma (s : Bool) (d : Reg) (a : Reg) (b : Reg) (k : Reg) (x : Bool) (st : State) : Outcome State Fault Refusal :=
  .next (st.vec s .vfwma d a b k x)

/-- VBFWMA (R324, R325). -/
def execVbfwma (s : Bool) (d : Reg) (a : Reg) (b : Reg) (k : Reg) (x : Bool) (st : State) : Outcome State Fault Refusal :=
  .next (st.vec s .vbfwma d a b k x)

/-- VFDOT2 (R324, R325). -/
def execVfdot2 (s : Bool) (d : Reg) (a : Reg) (b : Reg) (k : Reg) (x : Bool) (st : State) : Outcome State Fault Refusal :=
  .next (st.vec s .vfdot2 d a b k x)

/-- VBFDOT2 (R324, R325). -/
def execVbfdot2 (s : Bool) (d : Reg) (a : Reg) (b : Reg) (k : Reg) (x : Bool) (st : State) : Outcome State Fault Refusal :=
  .next (st.vec s .vbfdot2 d a b k x)

/-- VDOT4 (R324, R325). -/
def execVdot4 (s : Bool) (d : Reg) (a : Reg) (b : Reg) (k : Reg) (st : State) : Outcome State Fault Refusal :=
  .next (st.vec s .vdot4 d a b k false)

/-- VDOT4U (R324, R325). -/
def execVdot4u (s : Bool) (d : Reg) (a : Reg) (b : Reg) (k : Reg) (st : State) : Outcome State Fault Refusal :=
  .next (st.vec s .vdot4u d a b k false)

/-- VMACC (R324, R325). -/
def execVmacc (s : Bool) (d : Reg) (a : Reg) (b : Reg) (k : Reg) (st : State) : Outcome State Fault Refusal :=
  .next (st.vec s .vmacc d a b k false)

/-- VCMPEQ (R326). -/
def execVcmpeq (s : Bool) (d : Reg) (a : Reg) (b : Reg) (k : Reg) (st : State) : Outcome State Fault Refusal :=
  .next (st.vec s .vcmpeq d a b k false)

/-- VCMPNE (R326). -/
def execVcmpne (s : Bool) (d : Reg) (a : Reg) (b : Reg) (k : Reg) (st : State) : Outcome State Fault Refusal :=
  .next (st.vec s .vcmpne d a b k false)

/-- VCMPLT (R326). -/
def execVcmplt (s : Bool) (d : Reg) (a : Reg) (b : Reg) (k : Reg) (st : State) : Outcome State Fault Refusal :=
  .next (st.vec s .vcmplt d a b k false)

/-- VCMPLE (R326). -/
def execVcmple (s : Bool) (d : Reg) (a : Reg) (b : Reg) (k : Reg) (st : State) : Outcome State Fault Refusal :=
  .next (st.vec s .vcmple d a b k false)

/-- VCMPLTU (R326). -/
def execVcmpltu (s : Bool) (d : Reg) (a : Reg) (b : Reg) (k : Reg) (st : State) : Outcome State Fault Refusal :=
  .next (st.vec s .vcmpltu d a b k false)

/-- VCMPLEU (R326). -/
def execVcmpleu (s : Bool) (d : Reg) (a : Reg) (b : Reg) (k : Reg) (st : State) : Outcome State Fault Refusal :=
  .next (st.vec s .vcmpleu d a b k false)

/-- VFCMPEQ (R326). -/
def execVfcmpeq (s : Bool) (d : Reg) (a : Reg) (b : Reg) (k : Reg) (x : Bool) (st : State) : Outcome State Fault Refusal :=
  .next (st.vec s .vfcmpeq d a b k x)

/-- VFCMPLT (R326). -/
def execVfcmplt (s : Bool) (d : Reg) (a : Reg) (b : Reg) (k : Reg) (x : Bool) (st : State) : Outcome State Fault Refusal :=
  .next (st.vec s .vfcmplt d a b k x)

/-- VFCMPLE (R326). -/
def execVfcmple (s : Bool) (d : Reg) (a : Reg) (b : Reg) (k : Reg) (x : Bool) (st : State) : Outcome State Fault Refusal :=
  .next (st.vec s .vfcmple d a b k x)

/-- VWHILE (R326). -/
def execVwhile (s : Bool) (d : Reg) (a : Reg) (b : Reg) (k : Reg) (st : State) : Outcome State Fault Refusal :=
  .next (st.vIssue s .vwhile d.toNat 0 0 k.toNat false 0 (some a) (some b))

/-- VSLIDEUP (R328). -/
def execVslideup (s : Bool) (d : Reg) (a : Reg) (b : Reg) (k : Reg) (st : State) : Outcome State Fault Refusal :=
  .next (st.vIssue s .vslideup d.toNat a.toNat 0 k.toNat false 0 none (some b))

/-- VSLIDEDN (R328). -/
def execVslidedn (s : Bool) (d : Reg) (a : Reg) (b : Reg) (k : Reg) (st : State) : Outcome State Fault Refusal :=
  .next (st.vIssue s .vslidedn d.toNat a.toNat 0 k.toNat false 0 none (some b))

/-- VGATHER (R328). -/
def execVgather (s : Bool) (d : Reg) (a : Reg) (b : Reg) (k : Reg) (st : State) : Outcome State Fault Refusal :=
  .next (st.vec s .vgather d a b k false)

/-- VCOMPRESS (R328). -/
def execVcompress (s : Bool) (d : Reg) (a : Reg) (k : Reg) (st : State) : Outcome State Fault Refusal :=
  .next (st.vIssue s .vcompress d.toNat a.toNat 0 k.toNat false 0 none none)

/-- VEXT (R328). -/
def execVext (s : Bool) (d : Reg) (a : Reg) (b : Reg) (st : State) : Outcome State Fault Refusal :=
  .next (st.vIssue s .vext d.toNat a.toNat 0 31 false 0 none (some b))

/-- VINS (R328). -/
def execVins (s : Bool) (d : Reg) (a : Reg) (b : Reg) (st : State) : Outcome State Fault Refusal :=
  .next (st.vIssue s .vins d.toNat 0 0 31 false 0 (some a) (some b))

/-- VREV (R328). -/
def execVrev (s : Bool) (d : Reg) (a : Reg) (k : Reg) (st : State) : Outcome State Fault Refusal :=
  .next (st.vIssue s .vrev d.toNat a.toNat 0 k.toNat false 0 none none)

/-- VREDSUM (R329). -/
def execVredsum (s : Bool) (d : Reg) (a : Reg) (b : Reg) (k : Reg) (st : State) : Outcome State Fault Refusal :=
  .next (st.vIssue s .vredsum d.toNat a.toNat 0 k.toNat false 0 none (some b))

/-- VREDMIN (R329). -/
def execVredmin (s : Bool) (d : Reg) (a : Reg) (b : Reg) (k : Reg) (st : State) : Outcome State Fault Refusal :=
  .next (st.vIssue s .vredmin d.toNat a.toNat 0 k.toNat false 0 none (some b))

/-- VREDMAX (R329). -/
def execVredmax (s : Bool) (d : Reg) (a : Reg) (b : Reg) (k : Reg) (st : State) : Outcome State Fault Refusal :=
  .next (st.vIssue s .vredmax d.toNat a.toNat 0 k.toNat false 0 none (some b))

/-- VREDMINU (R329). -/
def execVredminu (s : Bool) (d : Reg) (a : Reg) (b : Reg) (k : Reg) (st : State) : Outcome State Fault Refusal :=
  .next (st.vIssue s .vredminu d.toNat a.toNat 0 k.toNat false 0 none (some b))

/-- VREDMAXU (R329). -/
def execVredmaxu (s : Bool) (d : Reg) (a : Reg) (b : Reg) (k : Reg) (st : State) : Outcome State Fault Refusal :=
  .next (st.vIssue s .vredmaxu d.toNat a.toNat 0 k.toNat false 0 none (some b))

/-- VFREDSUM (R329). -/
def execVfredsum (s : Bool) (d : Reg) (a : Reg) (b : Reg) (k : Reg) (st : State) : Outcome State Fault Refusal :=
  .next (st.vIssue s .vfredsum d.toNat a.toNat 0 k.toNat false 0 none (some b))

/-- VFREDMIN (R329). -/
def execVfredmin (s : Bool) (d : Reg) (a : Reg) (b : Reg) (k : Reg) (st : State) : Outcome State Fault Refusal :=
  .next (st.vIssue s .vfredmin d.toNat a.toNat 0 k.toNat false 0 none (some b))

/-- VFREDMAX (R329). -/
def execVfredmax (s : Bool) (d : Reg) (a : Reg) (b : Reg) (k : Reg) (st : State) : Outcome State Fault Refusal :=
  .next (st.vIssue s .vfredmax d.toNat a.toNat 0 k.toNat false 0 none (some b))

/-- VLD (R330, R331). -/
def execVld (s : Bool) (d : Reg) (a : Reg) (k : Reg) (st : State) : Outcome State Fault Refusal :=
  .next (st.vIssue s .vld d.toNat 0 0 k.toNat false 0 (some a) none)

/-- VLD_OFFSET (R330, R331). -/
def execVldOffset (s : Bool) (d : Reg) (a : Reg) (b : Reg) (k : Reg) (st : State) : Outcome State Fault Refusal :=
  .next (st.vIssue s .vldOffset d.toNat 0 0 k.toNat false 0 (some a) (some b))

/-- VLDS (R330, R331). -/
def execVlds (s : Bool) (d : Reg) (a : Reg) (b : Reg) (k : Reg) (st : State) : Outcome State Fault Refusal :=
  .next (st.vIssue s .vlds d.toNat 0 0 k.toNat false 0 (some a) (some b))

/-- VLDX (R330, R331). -/
def execVldx (s : Bool) (d : Reg) (a : Reg) (b : Reg) (k : Reg) (st : State) : Outcome State Fault Refusal :=
  .next (st.vIssue s .vldx d.toNat 0 b.toNat k.toNat false 0 (some a) none)

/-- VLDFF (R332). -/
def execVldff (s : Bool) (d : Reg) (a : Reg) (k : Reg) (st : State) : Outcome State Fault Refusal :=
  .next (st.vIssue s .vldff d.toNat 0 0 k.toNat false 0 (some a) none)

/-- VLD2D (R333). -/
def execVld2d (s : Bool) (d : Reg) (a : Reg) (k : Reg) (st : State) : Outcome State Fault Refusal :=
  .next (st.vIssue s .vld2d d.toNat 0 0 k.toNat false 0 (some a) none)

/-- VST (R330, R331). -/
def execVst (s : Bool) (d : Reg) (a : Reg) (k : Reg) (st : State) : Outcome State Fault Refusal :=
  .next (st.vIssue s .vst d.toNat 0 0 k.toNat false 0 (some a) none)

/-- VST_OFFSET (R330, R331). -/
def execVstOffset (s : Bool) (d : Reg) (a : Reg) (b : Reg) (k : Reg) (st : State) : Outcome State Fault Refusal :=
  .next (st.vIssue s .vstOffset d.toNat 0 0 k.toNat false 0 (some a) (some b))

/-- VSTS (R330, R331). -/
def execVsts (s : Bool) (d : Reg) (a : Reg) (b : Reg) (k : Reg) (st : State) : Outcome State Fault Refusal :=
  .next (st.vIssue s .vsts d.toNat 0 0 k.toNat false 0 (some a) (some b))

/-- VSTX (R330, R331). -/
def execVstx (s : Bool) (d : Reg) (a : Reg) (b : Reg) (k : Reg) (st : State) : Outcome State Fault Refusal :=
  .next (st.vIssue s .vstx d.toNat 0 b.toNat k.toNat false 0 (some a) none)

/-- VST2D (R333). -/
def execVst2d (s : Bool) (d : Reg) (a : Reg) (k : Reg) (st : State) : Outcome State Fault Refusal :=
  .next (st.vIssue s .vst2d d.toNat 0 0 k.toNat false 0 (some a) none)

/-- VAMOADD (R334, R335). -/
def execVamoadd (s : Bool) (d : Reg) (a : Reg) (b : Reg) (k : Reg) (st : State) : Outcome State Fault Refusal :=
  .next (st.vIssue s .vamoadd d.toNat 0 b.toNat k.toNat false 0 (some a) none)

/-- VAMOSWAP (R334, R335). -/
def execVamoswap (s : Bool) (d : Reg) (a : Reg) (b : Reg) (k : Reg) (st : State) : Outcome State Fault Refusal :=
  .next (st.vIssue s .vamoswap d.toNat 0 b.toNat k.toNat false 0 (some a) none)

/-- VAMOMIN (R334, R335). -/
def execVamomin (s : Bool) (d : Reg) (a : Reg) (b : Reg) (k : Reg) (st : State) : Outcome State Fault Refusal :=
  .next (st.vIssue s .vamomin d.toNat 0 b.toNat k.toNat false 0 (some a) none)

/-- VAMOMAX (R334, R335). -/
def execVamomax (s : Bool) (d : Reg) (a : Reg) (b : Reg) (k : Reg) (st : State) : Outcome State Fault Refusal :=
  .next (st.vIssue s .vamomax d.toNat 0 b.toNat k.toNat false 0 (some a) none)

/-- VAMOMINU (R334, R335). -/
def execVamominu (s : Bool) (d : Reg) (a : Reg) (b : Reg) (k : Reg) (st : State) : Outcome State Fault Refusal :=
  .next (st.vIssue s .vamominu d.toNat 0 b.toNat k.toNat false 0 (some a) none)

/-- VAMOMAXU (R334, R335). -/
def execVamomaxu (s : Bool) (d : Reg) (a : Reg) (b : Reg) (k : Reg) (st : State) : Outcome State Fault Refusal :=
  .next (st.vIssue s .vamomaxu d.toNat 0 b.toNat k.toNat false 0 (some a) none)

/-- VAMOAND (R334, R335). -/
def execVamoand (s : Bool) (d : Reg) (a : Reg) (b : Reg) (k : Reg) (st : State) : Outcome State Fault Refusal :=
  .next (st.vIssue s .vamoand d.toNat 0 b.toNat k.toNat false 0 (some a) none)

/-- VAMOOR (R334, R335). -/
def execVamoor (s : Bool) (d : Reg) (a : Reg) (b : Reg) (k : Reg) (st : State) : Outcome State Fault Refusal :=
  .next (st.vIssue s .vamoor d.toNat 0 b.toNat k.toNat false 0 (some a) none)

/-- VAMOXOR (R334, R335). -/
def execVamoxor (s : Bool) (d : Reg) (a : Reg) (b : Reg) (k : Reg) (st : State) : Outcome State Fault Refusal :=
  .next (st.vIssue s .vamoxor d.toNat 0 b.toNat k.toNat false 0 (some a) none)

/-- VAMOFADD (R334, R335). -/
def execVamofadd (s : Bool) (d : Reg) (a : Reg) (b : Reg) (k : Reg) (st : State) : Outcome State Fault Refusal :=
  .next (st.vIssue s .vamofadd d.toNat 0 b.toNat k.toNat false 0 (some a) none)

/-- VORIENT2 (R390 to R400). -/
def execVorient2 (s : Bool) (d : Reg) (a : Reg) (k : Reg) (x : Bool) (st : State) : Outcome State Fault Refusal :=
  .next (st.vIssue s .vorient2 d.toNat a.toNat 0 k.toNat x 0 none none)

/-- VORIENT3 (R390 to R400). -/
def execVorient3 (s : Bool) (d : Reg) (a : Reg) (k : Reg) (x : Bool) (st : State) : Outcome State Fault Refusal :=
  .next (st.vIssue s .vorient3 d.toNat a.toNat 0 k.toNat x 0 none none)

/-- VINCIRC (R390 to R400). -/
def execVincirc (s : Bool) (d : Reg) (a : Reg) (k : Reg) (x : Bool) (st : State) : Outcome State Fault Refusal :=
  .next (st.vIssue s .vincirc d.toNat a.toNat 0 k.toNat x 0 none none)

/-- VINSPH (R390 to R400). -/
def execVinsph (s : Bool) (d : Reg) (a : Reg) (k : Reg) (x : Bool) (st : State) : Outcome State Fault Refusal :=
  .next (st.vIssue s .vinsph d.toNat a.toNat 0 k.toNat x 0 none none)

/-- VSEGX (R390 to R400). -/
def execVsegx (s : Bool) (d : Reg) (a : Reg) (k : Reg) (x : Bool) (st : State) : Outcome State Fault Refusal :=
  .next (st.vIssue s .vsegx d.toNat a.toNat 0 k.toNat x 0 none none)

/-- VORIENT2T (R390 to R400). -/
def execVorient2t (s : Bool) (d : Reg) (a : Reg) (k : Reg) (x : Bool) (st : State) : Outcome State Fault Refusal :=
  .next (st.vIssue s .vorient2t d.toNat a.toNat 0 k.toNat x 0 none none)

/-- VORIENT3T (R390 to R400). -/
def execVorient3t (s : Bool) (d : Reg) (a : Reg) (k : Reg) (x : Bool) (st : State) : Outcome State Fault Refusal :=
  .next (st.vIssue s .vorient3t d.toNat a.toNat 0 k.toNat x 0 none none)

/-- VINCIRCT (R390 to R400). -/
def execVincirct (s : Bool) (d : Reg) (a : Reg) (k : Reg) (x : Bool) (st : State) : Outcome State Fault Refusal :=
  .next (st.vIssue s .vincirct d.toNat a.toNat 0 k.toNat x 0 none none)

/-- VINSPHT (R390 to R400). -/
def execVinspht (s : Bool) (d : Reg) (a : Reg) (k : Reg) (x : Bool) (st : State) : Outcome State Fault Refusal :=
  .next (st.vIssue s .vinspht d.toNat a.toNat 0 k.toNat x 0 none none)

/-- MAND (R327). -/
def execMand (s : Bool) (d : Reg) (a : Reg) (b : Reg) (st : State) : Outcome State Fault Refusal :=
  .next (st.vIssue s .mand d.toNat a.toNat b.toNat 31 false 0 none none)

/-- MOR (R327). -/
def execMor (s : Bool) (d : Reg) (a : Reg) (b : Reg) (st : State) : Outcome State Fault Refusal :=
  .next (st.vIssue s .mor d.toNat a.toNat b.toNat 31 false 0 none none)

/-- MXOR (R327). -/
def execMxor (s : Bool) (d : Reg) (a : Reg) (b : Reg) (st : State) : Outcome State Fault Refusal :=
  .next (st.vIssue s .mxor d.toNat a.toNat b.toNat 31 false 0 none none)

/-- MANDN (R327). -/
def execMandn (s : Bool) (d : Reg) (a : Reg) (b : Reg) (st : State) : Outcome State Fault Refusal :=
  .next (st.vIssue s .mandn d.toNat a.toNat b.toNat 31 false 0 none none)

/-- MNOT (R327). -/
def execMnot (s : Bool) (d : Reg) (a : Reg) (st : State) : Outcome State Fault Refusal :=
  .next (st.vIssue s .mnot d.toNat a.toNat 0 31 false 0 none none)

/-- MPOPC (R327). -/
def execMpopc (s : Bool) (d : Reg) (a : Reg) (st : State) : Outcome State Fault Refusal :=
  .next (st.vIssue s .mpopc d.toNat a.toNat 0 31 false 0 none none)

/-- MFIRST (R327). -/
def execMfirst (s : Bool) (d : Reg) (a : Reg) (st : State) : Outcome State Fault Refusal :=
  .next (st.vIssue s .mfirst d.toNat a.toNat 0 31 false 0 none none)

/-- MSET (R327). -/
def execMset (s : Bool) (d : Reg) (st : State) : Outcome State Fault Refusal :=
  .next (st.vIssue s .mset d.toNat 0 0 31 false 0 none none)

/-- VSPILL (R59, R319: the frame address and VMASK). -/
def execVspill (s : Bool) (a : Reg) (b : Reg) (st : State) : Outcome State Fault Refusal :=
  .next (st.vIssue s .vspill 0 0 0 31 false 0 (some a) (some b))

/-- VFILL (R60, R319). -/
def execVfill (s : Bool) (a : Reg) (st : State) : Outcome State Fault Refusal :=
  .next (st.vIssue s .vfill 0 0 0 31 false 0 (some a) none)

/-! ### SETVL (R318) -/

/-- LEASE.MIN and LEASE.PREF as they act (R168). -/
def leaseMinOf (w : Word) : Nat := Nat.min (bits w 0 5) 16
def leasePrefOf (w : Word) : Nat := Nat.max (Nat.min (bits w 8 5) 16) (leaseMinOf w)

/-- The sum of GMIN of the other active threads of the executing cell (R169). -/
def State.otherGmin (s : State) : Nat :=
  (List.range s.cl.nthr).foldl (fun n i =>
    let t := s.thread (s.cc * 4 + i)
    if i = s.ct ∨ !t.live then n else n + bits (t.csrGet csrLEASE) 16 5) 0

/-- A strip boundary: the lease takes effect (R168, R169). -/
def State.stripBoundary (s : State) : State :=
  let w := s.thr.csrGet csrLEASE
  let g := Nat.min (leaseMinOf w) (16 - s.otherGmin)
  s.upd fun t => { (t.csrSet csrLEASE (setBits w 16 5 g)) with leaseMin := leaseMinOf w, leasePref := leasePrefOf w }

/-- The effect of SETVL for operand `n` and width `e` (R318). -/
def State.setvl (s : State) (d : Reg) (n : Int) (e : EW) : State :=
  let len := (min (max n 0) ((s.cl.rlen / ewBits e : Nat) : Int)).toNat
  let s1 := s.upd fun t => (t.csrSet csrEW (BitVec.ofNat 64 (ewCode e))).csrSet csrLEN (BitVec.ofNat 64 len)
  (s1.ws d (BitVec.ofNat 64 len)).stripBoundary

/-- SETVL (R318). -/
def execSetvl (s : Bool) (d a : Reg) (e : EW) (st : State) : Outcome State Fault Refusal :=
  .next (st.guarded [a] [d] fun t => (t.setvl d (t.rs a).toInt e).advance s)

/-- VSETLI (R270): SETVL with an immediate count, counted as deprecated. -/
def execVsetli (s : Bool) (d : Reg) (e : EW) (i : BitVec 10) (st : State) : Outcome State Fault Refusal :=
  .next (st.guarded [] [d] fun t => ((t.setvl d i.toNat e).countDeprecated).advance s)

/-! ### RINGCFG (R336) -/

/-- First byte and end of the ring carve-out (R43). -/
def Cell.carveLo (c : Cell) : Nat := (c.spg - bits c.partw 49 4) * 4096
def Cell.carveHi (c : Cell) : Nat := c.spg * 4096

/-- Every binding of the executing cell: (thread, register, ring). -/
def State.cellBindings (s : State) : List (Nat × Nat × Nat) :=
  (List.range 4).flatMap fun i =>
    let t := s.thread (s.cc * 4 + i)
    (List.range 4).filterMap fun v =>
      match t.ringBindings.getD v none with
      | some q => if t.live then some (i, 28 + v, q) else none
      | none => none

/-- Register `v` is on the pop side. -/
def isPop (v : Nat) : Bool := decide (v < 30)

/-- The refusals of R336 for binding register `v` of the executing thread to ring `q` with PORT. -/
def State.bindRefused (s : State) (v q : Nat) (port : Bool) : Bool :=
  let others := s.cellBindings.filter fun b => decide (b.2.2 = q ∧ ¬ (b.1 = s.ct ∧ b.2.1 = v))
  let role := s.cl.role s.ct
  others.any (fun b => isPop b.2.1 == isPop v) || (port && others.any fun b => isPop b.2.1 != isPop v) ||
    (decide (role = 1) && isPop v && !port) || (decide (role = 3) && !isPop v && !port)

/-- RINGBn of register `v` of the executing thread becomes `w`. -/
def State.setBinding (s : State) (v : Nat) (w : Word) : State := s.upd fun t => t.csrSet (csrRINGB0 + (v - 28)) w

/-- The stored bits of a binding to ring `q`. -/
def bindingWord (q : Nat) : Word := setBits (setBits 0 63 1 1) 59 3 q

/-- RINGCFG (R336). -/
def execRingcfg (s : Bool) (d a : Reg) (st : State) : Outcome State Fault Refusal :=
  .next (st.guarded [a] [] fun t =>
    if !t.thr.vq.isEmpty then t.stall
    else
      let w := t.rs a
      let op := bits w 62 2
      let q := bits w 48 3
      let v := d.toNat
      let base := bits w 32 11
      let size := bits w 16 9
      let port := decide (bits w 61 1 = 1)
      let bad := t.badOperand w
      if op = 3 ∨ bits w 51 10 ≠ 0 ∨ bits w 43 5 ≠ 0 ∨ bits w 25 7 ≠ 0 ∨ bits w 0 16 ≠ 0 ∨ v < 28 then bad
      else if op = 0 then (t.setBinding v 0).advance s
      else if op = 2 then
        if t.cellBindings.any (fun b => decide (b.2.2 = q)) ∨ size = 0 ∨ 480 < size ∨ base * 128 < t.cl.carveLo ∨
            t.cl.carveHi < (base + size) * 128 ∨ t.bindRefused v q port then bad
        else
          ((t.updCell fun c => { c with rings := Sparse.set q ⟨port, base, size, 0, 0⟩ c.rings }).setBinding v (bindingWord q)).advance s
      else
        match Sparse.find? q t.cl.rings with
        | none => bad
        | some r => if t.bindRefused v q r.port then bad else (t.setBinding v (bindingWord q)).advance s)

end Sys2Proof.Machine
end

