-- ==== Sys2Proof/Machine/Image.lean ====
section
/-! DEFINITION. The context table and context images: what an image holds, how it is written and
checked, and what restoring one leaves in a slot (R250 to R254, R419). -/

namespace Sys2Proof.Machine

open Host (Outcome)

/-! ### The context table (R250) -/

/-- A valid entry of the context table. -/
structure CtxEntry where
  pre : Bool
  asid : Nat
  save : Nat
  stride : Nat
  bar : Nat
  utbase : Word
  stbase : Word
  tvec : Word

/-- Physical address of the table's entry for a context (R250). -/
def State.ctxAddr (s : State) (ctx : Nat) : Nat := bits (s.dev (combReg 0 0xC_0010)) 22 30 * 2 ^ 22 + 64 * ctx

/-- The valid entry of a context (R250): `none` when the table is not in use or V = 0. DESIGN CHOICE (log 126): an
entry in a poisoned line is not valid. -/
def State.ctxEntry (s : State) (ctx : Nat) : Option CtxEntry :=
  let a := s.ctxAddr ctx
  let w := fun (i : Nat) => (BitVec.ofNat 64 (s.memRead (a + 8 * i) 8) : Word)
  if (s.dev (combReg 0 0xC_0010)).getLsbD 0 ∧ (w 0).getLsbD 63 ∧ !(s.coherent (a / 128)).1 then
    some ⟨(w 0).getLsbD 62, bits (w 0) 0 16, bits (w 1) 0 52, bits (w 2) 0 32, bits (w 3) 0 52, w 4, w 5, w 6⟩
  else none

/-- What a coherent read of `n` bytes by a unit of the module finds on its way (R102, R107). -/
def State.touch (s : State) (pa n : Nat) : State := (linePieces pa n).foldl (fun s p => (s.coherent p.1).2) s

/-- What the read of a context's entry finds. -/
def State.touchCtx (s : State) (ctx : Nat) : State :=
  if (s.dev (combReg 0 0xC_0010)).getLsbD 0 then s.touch (s.ctxAddr ctx) 64 else s

/-- The home location of a rank's image (R250). -/
def CtxEntry.home (c : CtxEntry) (rank : Nat) : Nat := c.save + rank * c.stride

/-! ### Words of an image -/

/-- An 8-byte word of an image with its poison (R63). -/
abbrev IWord := Nat × Bool

/-- A word without poison. -/
def iw (w : Word) : IWord := (w.toNat, false)
def inat (n : Nat) : IWord := (n % 2 ^ 64, false)

/-- A section with its head, padded to 16 bytes (R251). -/
def section_ (id fbit : Nat) (ws : List IWord) : List IWord :=
  let body := if ws.length % 2 = 0 then ws else ws ++ [(0, false)]
  inat (id + fbit * 2 ^ 16 + (16 + 8 * body.length) * 2 ^ 32) :: (0, false) :: body

/-- The two words of a loop record (R295). -/
def loopWords : Option LoopRec → List IWord
  | some l => [inat (2 ^ 63 + (l.n - 1) * 2 ^ 58 + l.p * 2 ^ 54 + bits l.start 2 53), inat (l.pass % 2 ^ 32)]
  | none => [(0, false), (0, false)]

/-- A loop record from its words; the pattern is read again from its slot when it is reinstated. -/
def loopOf (w0 w1 : Nat) : Option LoopRec :=
  if w0 / 2 ^ 63 % 2 = 1 then
    some ⟨sext 55 (BitVec.ofNat 64 (w0 % 2 ^ 53 * 4)), w0 / 2 ^ 58 % 32 + 1, w0 / 2 ^ 54 % 16, 0, w1 % 2 ^ 32, []⟩
  else none

/-- Numbers of the control registers of thread scope (R217). -/
def threadCsrs : List Nat :=
  (List.range 0x184).filter fun n =>
    (csrInfo n).isSome && decide (n ≠ csrPARTW ∧ n ≠ csrCELLERR ∧ n ≠ csrRSBSTAT ∧ n ≠ csrLANECTL ∧ n ≠ csrDEPCNT ∧ n < csrDEVID)

/-- Default LEASE of a role (R167). -/
def roleLease (r : Nat) : Word := if r = 0 then 0x400 else if r = 2 then 0xC08 else 0x202

/-- The reset value of a control register in a slot of role `r` (R217). -/
def roleReset (r n : Nat) : Word := if n = csrLEASE then roleLease r else csrReset n

/-- Records of section 1: registers that differ from their reset value, the mode record, and at
the home location always FPFLG, with the value given there (R251, R252). `role` is the slot's. -/
def Thread.csrRecords (t : Thread) (role : Nat) (home : Option Word) : List IWord :=
  let val := fun (n : Nat) => if n = csrFPFLG then home.getD (t.csrGet n) else t.csrGet n
  (threadCsrs.flatMap fun n =>
    if val n ≠ roleReset role n ∨ (n = csrFPFLG ∧ home.isSome) then [inat n, iw (val n)] else []) ++
  (if t.mode = .user then [] else [inat 0xFFF, inat t.mode.code])

/-- Section 1 (R251). -/
def Thread.scalarSection (t : Thread) (role : Nat) (home : Option Word) : List IWord :=
  section_ 1 0xFF
    (((List.range 31).map fun i => (((t.vreg i).lo).toNat, NatSet.has t.poison (i * 128))) ++ [iw t.pc] ++
      loopWords t.loop ++ loopWords t.loopS ++ loopWords t.loopM ++ t.csrRecords role home)

/-- A spill entry that names the registers written, at the thread's LEN and EW. -/
def Thread.spillEntry (t : Thread) (rlen : Nat) : QEntry :=
  { seq := 0, pc := 0, kind := .vspill, d := 0, a := 0, b := 0, k := 31, x := false, g := 0, sa := 0,
    sb := BitVec.ofNat 64 (t.written.foldl (fun n r => n ||| 2 ^ r) 0), len := t.lenNow, ew := t.ewNow, rlen := rlen,
    fpctl := 0, xsel := 0, rows := 0, pitch := 0, ringEn := false, ringTo := 0, rings := [], xl := ⟨.machine, 0, 0, 0⟩, cb := false, prog := none, run := .fresh }

/-- Section 2: a spill frame (R59, R251). -/
def Thread.vectorSection (t : Thread) (rlen : Nat) : List IWord := section_ 2 0xFF (t.spillWords (t.spillEntry rlen))

/-- Section 3: the masks, omitted if all are zero. `n` is the number of words of a mask. -/
def Thread.maskSection (t : Thread) (n : Nat) : List IWord :=
  if (List.range 24).all fun i => decide (t.readM i = 0) then []
  else section_ 3 0xFF ((List.range 24).flatMap fun i => (List.range n).map fun j => inat ((t.readM i).toNat / 2 ^ (64 * j)))

/-- The optional number that a word holds. -/
def natOpt (n : Nat) : Option Nat := if n = 0 then none else some (n - 1)

/-- `n` words of a number, lowest first. -/
def natWords (v n : Nat) : List Nat := (List.range n).map fun i => v / 2 ^ (64 * i) % 2 ^ 64

/-- The number that words hold. -/
def wordsNat (l : List Nat) : Nat := l.foldr (fun w v => w % 2 ^ 64 + 2 ^ 64 * v) 0

/-- Words of what an instruction that runs whole has come to: none before it starts. -/
def WholeRun.words (r : WholeRun) : List Nat :=
  if r = .fresh then []
  else [r.steps, (if r.fin then 1 else 0) + (if r.own then 2 else 0), r.put] ++ natWords r.a 128 ++ natWords r.b 128 ++
    natWords (r.pois.foldl (fun n i => n + 2 ^ i) 0) 4
def runOf (w : List Nat) : WholeRun :=
  let n := fun (i : Nat) => w.getD i 0
  if w.isEmpty then .fresh
  else ⟨n 0, decide (n 1 % 2 = 1), n 2, wordsNat ((w.drop 3).take 128), wordsNat ((w.drop 131).take 128),
    (List.range 256).filter (wordsNat ((w.drop 259).take 4)).testBit, decide (n 1 / 2 % 2 = 1)⟩

/-- Words of a queue entry in section 4; `l` says which list holds it. A fill starts again whole. -/
def QEntry.words (l : Nat) (e : QEntry) : List Nat :=
  let run := if e.kind = .vfill then [] else e.run.words
  [l, e.seq, e.pc.toNat, e.kind.ctorIdx, e.d, e.a, e.b, e.k, if e.x then 1 else 0, e.g, e.sa.toNat, e.sb.toNat, e.len,
   ewCode e.ew, e.rlen, e.fpctl.toNat, e.xsel.toNat, e.rows, (BitVec.ofInt 64 e.pitch).toNat, (if e.ringEn then 1 else 0) + 2 * e.ringTo,
   optNat (e.rings.getD 0 none) + 16 * optNat (e.rings.getD 1 none) + 256 * optNat (e.rings.getD 2 none) +
     4096 * optNat (e.rings.getD 3 none),
   e.xl.mode.code, e.xl.utbase.toNat, e.xl.stbase.toNat, e.xl.asid, if e.cb then 1 else 0,
   if e.prog.isSome then 1 else 0, (e.prog.getD 0).toNat, run.length] ++ run

/-- Words of a queue entry before those of its run, and the entry that words hold. -/
def entryWords : Nat := 29
def entryOf (w : List Nat) : Nat × QEntry :=
  let n := fun (i : Nat) => w.getD i 0
  let r := n 20
  (n 0,
   { seq := n 1, pc := BitVec.ofNat 64 (n 2), kind := VKind.ofNat (n 3), d := n 4, a := n 5, b := n 6, k := n 7,
     x := decide (n 8 = 1), g := n 9, sa := BitVec.ofNat 64 (n 10), sb := BitVec.ofNat 64 (n 11), len := n 12,
     ew := ewOfNat (n 13), rlen := n 14, fpctl := BitVec.ofNat 64 (n 15), xsel := BitVec.ofNat 64 (n 16), rows := n 17,
     pitch := (BitVec.ofNat 64 (n 18)).toInt, ringEn := decide (n 19 % 2 = 1), ringTo := n 19 / 2,
     rings := [natOpt (r % 16), natOpt (r / 16 % 16), natOpt (r / 256 % 16), natOpt (r / 4096 % 16)],
     xl := ⟨Mode.ofCode (n 21), BitVec.ofNat 64 (n 22), BitVec.ofNat 64 (n 23), n 24⟩, cb := decide (n 25 = 1),
     prog := if n 26 = 1 then some (BitVec.ofNat 64 (n 27)) else none, run := runOf (w.drop entryWords) })

/-- The `k` entries that words hold. -/
def entriesOf : Nat → List Nat → List (Nat × QEntry)
  | 0, _ => []
  | k + 1, ws =>
    let n := entryWords + ws.getD 28 0
    entryOf (ws.take n) :: entriesOf k (ws.drop n)

/-- Section 4: the queue remainder, tagged with REVID; omitted when there is none (R251, R419).
DESIGN CHOICE (log 83). -/
def Thread.queueSection (t : Thread) : List IWord :=
  let es := t.vq.map (·.words 0) ++ t.tq.map (·.words 1) ++ t.remS.map (·.words 2) ++ t.remM.map (·.words 3)
  if es.isEmpty then [] else section_ 4 15 (iw Config.revid :: inat es.length :: es.flatMap fun e => e.map inat)

/-- Tile state that section 5 saves: TSTAT.LIVE = 1 with OWNER = CTX. -/
def Thread.ownsTiles (t : Thread) : Bool :=
  let w := t.csrGet csrTSTAT
  w.getLsbD 16 && decide (bits w 48 16 = bits (t.csrGet csrPSTATE) 48 16)

/-- One register of section 5: its index, its configuration and its bytes. -/
def Thread.tileWords (t : Thread) (acc : Bool) (n : Nat) : List IWord :=
  let cfg := t.csrGet (cfgCsr acc n)
  let k := (cfgRows cfg * cfgBytes cfg + 15) / 16 * 2
  inat (n + if acc then 8 else 0) :: iw cfg ::
    (List.range k).map fun i =>
      (((t.tileGet acc n).extractLsb' (64 * i) 64).toNat, NatSet.has t.tpoison (((if acc then 8 else 0) + n) * 512 + i))

/-- Section 5: every dirty tile and accumulator. -/
def Thread.tileSection (t : Thread) : List IWord :=
  if t.ownsTiles then
    let w := t.csrGet csrTSTAT
    section_ 5 1 ((List.range 16).flatMap fun i => if w.getLsbD i then t.tileWords (decide (8 ≤ i)) (i % 8) else [])
  else []

/-- Section 6: the 16 pattern slots; an invalid slot is a zero word. -/
def Thread.patternSection (t : Thread) : List IWord :=
  section_ 6 4 ((List.range 16).flatMap fun p =>
    let w := (t.slotPat p).getD 0
    (List.range 4).map fun i => iw (w.extractLsb' (64 * i) 64))

/-- Words of a command's record in section 7, and the record that they hold. -/
def CmdRec.words (c : CmdRec) : List IWord :=
  let h := c.held.getD ⟨0, 0, 0, 0, 0⟩
  [inat (c.status.code + 8 * c.flags.toNat + 1024 * c.pois.length + if c.held.isSome then 2 ^ 32 else 0), inat c.off,
   inat h.cause, iw h.tval, iw h.xlsyn, inat h.off, iw h.pc, inat c.id]
def statusOf (n : Nat) : CmdStatus :=
  if n = 0 then .ok else if n = 1 then .poisoned else if n = 2 then .truncated else if n = 3 then .cancelled else .fault
def cmdRecOf (w : List Nat) : CmdRec :=
  let n := fun (i : Nat) => w.getD i 0
  { id := n 7, done := true, status := statusOf (n 0 % 8), pois := List.range (n 0 / 1024 % 2 ^ 22), off := n 1, rel := none,
    flags := BitVec.ofNat 7 (n 0 / 8), held := if n 0 / 2 ^ 32 % 2 = 1 then
      some ⟨n 2, BitVec.ofNat 64 (n 3), BitVec.ofNat 64 (n 4), n 5, BitVec.ofNat 64 (n 6)⟩ else none }

/-- Section 7: the next batch number, and every batch not yet observed or with a fault still held,
the open batch first. -/
def Thread.batchSection (t : Thread) : List IWord :=
  let bs := t.batches.filter fun b => !b.observed || b.cmds.any (·.held.isSome)
  let one := fun (num : Nat) (l : List CmdRec) => inat num :: inat l.length :: l.flatMap CmdRec.words
  section_ 7 0xFF (inat t.nextBatch :: inat bs.length :: one 0 t.openCmds ++
    bs.flatMap fun b => one (b.num + if b.observed then 65536 else 0) b.cmds)

/-- Words of a barrier in section 8. -/
def NBar.words (id : Nat) (b : NBar) : List IWord :=
  [inat (id + (if b.bind = .gang then 1024 else 512)), inat (b.exp + b.arr * 65536 + b.gen * 2 ^ 32)]

/-- Section 8: the message registers, the owned counters and barriers, and arrivals already made by
an instruction that waits (R251). DEDUCED (log 72). -/
def State.mailSection (s : State) (slot : Nat) : List IWord :=
  let t := s.thread slot
  let c := s.cell (cellOf slot)
  let mcs := c.mc.filter fun e => decide (c.mcOwner e.1 = some (threadOf slot) ∧ e.2 ≠ 0)
  let bs := c.bars.filter fun e => decide (e.2.bind ≠ .unbound ∧ e.2.owner = threadOf slot)
  section_ 8 0xFF (((List.range 4).map fun i => iw (t.readMb i)) ++
    [inat mcs.length, inat bs.length, inat t.tokens.length, (0, false)] ++
    (mcs.flatMap fun e => [inat e.1, inat e.2]) ++ (bs.flatMap fun e => e.2.words e.1) ++
    t.tokens.flatMap fun k => [iw k.pc, inat (k.id + k.gen * 65536)])

/-- The ring word of R337 for a ring of the cell. -/
def Ring.word (q : Nat) (r : Ring) : Nat :=
  2 ^ 63 + (if r.port then 2 ^ 62 else 0) + q * 2 ^ 59 + r.base * 2 ^ 48 + r.size * 2 ^ 39 + r.tail % 2 ^ 17 * 2 ^ 17 + r.head % 2 ^ 17

/-- Section 9: the cell's user scratchpad and rings. -/
def State.poolSection (s : State) (c : Nat) : List IWord :=
  let x := s.cell c
  section_ 9 0xFF (((List.range (x.spadBytes / 8)).map fun i => (s.poolRead c (8 * i) 8, NatSet.has x.ppoison i)) ++
    (List.range 8).flatMap fun q => [match Sparse.find? q x.rings with | some r => inat (r.word q) | none => (0, false), (0, false)])

/-- LIVE (R419): features whose state differs from its reset default. -/
def State.imageLive (s : State) (slot : Nat) : Nat :=
  let t := s.thread slot
  let b := fun (n : Nat) (p : Bool) => if p then 2 ^ n else 0
  let cfgs := (List.range 16).map fun i => t.csrGet (csrTCFG0 + i)
  b 0 true + b 1 (t.ownsTiles || cfgs.any fun w => decide (w ≠ 0)) + b 2 (cfgs.any fun w => decide (8 ≤ cfgFmt w)) +
    b 3 ((List.range 3).any fun i => decide (t.csrGet (csrSTAGECNT0 + i) ≠ 0)) +
    b 4 (!t.slots.isEmpty || decide (t.nextBatch ≠ 0)) + b 5 (decide (t.csrGet csrFWDSTAT ≠ 0)) +
    b 6 ((List.range 4).any fun i => decide (t.csrGet (csrRINGB0 + i) ≠ 0)) +
    b 7 (t.loop.isSome || t.loopS.isSome || t.loopM.isSome) + b 15 (!t.queueSection.isEmpty)

/-- The slot is the lowest-ranked live member of its gang on its cell (R251). -/
def State.writesPool (s : State) (slot : Nat) : Bool :=
  let t := s.thread slot
  !(List.range (threadOf slot)).any fun i =>
    let u := s.thread (cellOf slot * 4 + i)
    u.live && decide (u.gang = t.gang)

/-- The image of a slot's thread (R251): `home` is the FPFLG value saved at the home location, with
LATE there. -/
def State.image (s : State) (slot : Nat) (home : Option Word) (late : Nat) : List IWord :=
  let t := s.thread slot
  let c := cellOf slot
  let rl := (s.cell c).rlenFull / 8 / 64
  let body := t.scalarSection ((s.cell c).role (threadOf slot)) home ++ t.vectorSection (s.cell c).rlen ++ t.maskSection (Nat.max rl 1) ++ t.queueSection ++
    t.tileSection ++ t.patternSection ++ t.batchSection ++ s.mailSection slot ++
    (if s.writesPool slot then s.poolSection c else []) ++ section_ 0 0xFF []
  let size := 64 + 8 * body.length
  [inat (0x5843_4D5A + 2 ^ 32 + 64 * 2 ^ 48), iw Config.features, inat (s.imageLive slot), inat size, inat late,
   inat (bits (t.csrGet csrPSTATE) 48 16), (0, false), (0, false)] ++ body

/-! ### Saving (R252) -/

/-- Consecutive words as one number. -/
def wordsVal (ws : List IWord) : Nat := ws.foldr (fun w n => w.1 + 2 ^ 64 * n) 0

/-- Words are written at a physical address by a unit of the module, line by line, with their poison (R63, R100). -/
def State.physPut (s : State) (pa : Nat) (ws : List IWord) : State :=
  if ws.isEmpty then s
  else (linePieces pa (8 * ws.length)).foldl (fun s p =>
    let o := p.1 * 128 + p.2.1 - pa
    let mine := (ws.drop (o / 8)).take ((o + p.2.2 - 1) / 8 - o / 8 + 1)
    s.coherentStore p.1 (putBytes 0 p.2.1 p.2.2 (wordsVal mine / 2 ^ (8 * (o % 8)))) (byteMask p.2.1 p.2.2)
      (mine.any (·.2))) s

/-- Far floating-point atomics of the thread whose flags are still outstanding (R252). -/
def State.lateCount (s : State) (slot : Nat) : Nat :=
  ((s.requests (.scalar slot)).filter fun o => o.2.fp && decide (o.2.gang = optNat (s.thread slot).gang)).length

/-- What saving a slot still waits for: results of pending registers that NCRSP returns, stream commands other
than those of fabric ports, which are truncated but whose packets fly on, and a queue whose head waits for neither a
ring nor a migrating page (R252). DEDUCED (log 85). -/
def State.saveWaits (s : State) (slot : Nat) : Bool :=
  let t := s.thread slot
  t.pend.any (fun p => p.far.isSome && decide (p.reg ≠ 31)) ||
    (s.cell (cellOf slot)).stream.any (fun k => decide (k.slot = slot ∧ 4 ≤ k.port)) ||
    ((!t.vq.isEmpty || !t.tq.isEmpty) && t.ringSince.isNone && !s.inReplay slot) || s.slotFlying slot

/-- The queues of a stopped thread run as far as they can; ESI follows them (R239, R252). -/
def State.drainStopped (s : State) (slot : Nat) : State :=
  let st := (s.thread slot).stopped
  let s1 := (s.updThread slot fun t => { t with stopped := false }).drainQueues slot drainFuel
  s1.updThread slot fun t =>
    let u := if (s.thread slot).vq.isEmpty && (s.thread slot).tq.isEmpty then t else t.csrSet csrESI (stopEsi (t.vq ++ t.tq))
    { u with stopped := st }

/-- Section 9 is read: correctable errors of the words are corrected and counted (R62). -/
def State.poolRead9 (s : State) (slot : Nat) : State :=
  if s.writesPool slot then s.poolCorrect (cellOf slot) 0 (s.cell (cellOf slot)).spadBytes else s

/-- The slot's queues have run as far as they can, its near results are written and its
fabric-port commands are truncated; the cell's write-combining buffer drains (R252). -/
def State.quiesce (s : State) (slot : Nat) : State :=
  let s1 := s.drainStopped slot
  let s2 := (List.range (s1.thread slot).pend.length).foldl (fun (s : State) _ =>
    match (s.thread slot).pend.find? fun p => p.value.isSome && p.far.isNone with
    | some p => s.resultAt slot p
    | none => s) s1
  ((s2.stopCmds slot (fun k => decide (k.port < 4)) .truncated).truncRoutes slot).drainAll (cellOf slot)

/-- CSAVE at the home location, from the single step of R252 on: the image with FPFLG and LATE, the
thread not resident, and TSTAT zero if section 5 was written. -/
def State.saveHome (s : State) (slot : Nat) (e : CtxEntry) : State :=
  let t := s.thread slot
  let s1 := (s.poolRead9 slot).physPut (e.home t.rank) (s.image slot (some (t.csrGet csrFPFLG)) (s.lateCount slot * 2 ^ 32))
  s1.updThread slot fun t =>
    let u := if t.ownsTiles then t.csrSet csrTSTAT 0 else t
    { u with resident := false }

/-! ### Restoring (R254) -/

/-- A section of an image: identity, feature bit and body. -/
structure Section where
  id : Nat
  fbit : Nat
  body : List IWord

/-- Sections of the words after a header; `none` for a layout that R254, step 1, refuses. -/
def parseSections : Nat → List IWord → Option (List Section)
  | 0, _ => none
  | fuel + 1, ws =>
    match ws with
    | [] => none
    | h :: rest =>
      let size := h.1 / 2 ^ 32
      let id := h.1 % 65536
      if size < 16 ∨ size % 16 ≠ 0 ∨ 8 * ws.length < size then none
      else if id = 0 then (if size = 8 * ws.length then some [] else none)
      else
        match parseSections fuel (ws.drop (size / 8)) with
        | some l => some (⟨id, h.1 / 2 ^ 16 % 256, (rest.drop 1).take (size / 8 - 2)⟩ :: l)
        | none => none

/-- The mode that section 1 names: U when it holds no mode record. -/
def Section.modeCode (x : Section) : Nat :=
  ((List.range ((x.body.length - 38) / 2)).findSome? fun i =>
    if (x.body.getD (38 + 2 * i) (0, false)).1 % 65536 = 0xFFF then some (x.body.getD (39 + 2 * i) (0, false)).1 else none).getD 0

/-- Why an image is refused: illegal operand, or a feature mismatch with the missing bits. -/
inductive ImageBad
  | operand
  | feature (missing : Nat)
  deriving DecidableEq, Repr

/-- Sections that this device applies: one whose FBIT it lacks, outside LIVE, is skipped. -/
def keptSections (live : Nat) (l : List Section) : List Section :=
  l.filter fun x => decide (x.fbit = 0xFF) || Config.features.getLsbD x.fbit || live.testBit x.fbit

/-- Registers of section 5: (accumulator, number, configuration, words). -/
def tileRecords : Nat → List IWord → List (Bool × Nat × Word × List IWord)
  | 0, _ => []
  | fuel + 1, ws =>
    match ws with
    | i :: c :: rest =>
      let cfg : Word := BitVec.ofNat 64 c.1
      let k := (cfgRows cfg * cfgBytes cfg + 15) / 16 * 2
      (decide (8 ≤ i.1), i.1 % 8, cfg, rest.take k) :: tileRecords fuel (rest.drop k)
    | _ => []

/-- Step 3 of R254: a section whose index or shape exceeds the slot's partition. -/
def State.sectionBad (s : State) (slot : Nat) (x : Section) : Bool :=
  let c := s.cell (cellOf slot)
  let n := fun (i : Nat) => (x.body.getD i (0, false)).1
  if x.id = 1 then decide (x.body.length < 38)
  else if x.id = 2 then
    let len := n 0 % 65536
    let ewc := n 0 / 2 ^ 16 % 256
    let rl := n 0 / 2 ^ 24 % 256
    decide (n 1 / 2 ^ 32 % 65536 ≠ 1 ∨ 3 < ewc ∨ rl = 0 ∨ 64 < rl ∨ rl * 128 / (8 * 2 ^ ewc) < len)
  else if x.id = 3 then decide (24 * Nat.max (c.rlenFull / 8 / 64) 1 < x.body.length)
  else if x.id = 5 then
    (tileRecords x.body.length x.body).any fun r =>
      decide (c.tileCount r.1 (threadOf slot) ≤ r.2.1) || !shapeOk r.1 (c.tileCap r.1) r.2.2.1
  else if x.id = 6 then decide (x.body.length ≠ 64)
  else if x.id = 8 then
    decide (x.body.length < 8) || (List.range (n 4)).any fun i => decide (c.mcOwner (n (8 + 2 * i)) ≠ some (threadOf slot))
  else if x.id = 9 then decide (c.spadBytes / 8 + 16 < x.body.length)
  else false

/-- The words of a header that R254 refuses. -/
def imageHeadBad (ws : List IWord) : Bool :=
  let n := fun (i : Nat) => (ws.getD i (0, false)).1
  let size := n 3 % 2 ^ 32
  decide (n 0 % 2 ^ 32 ≠ 0x5843_4D5A ∨ n 0 / 2 ^ 32 % 65536 ≠ 1 ∨ size < 80 ∨ size % 16 ≠ 0)

/-- R254: the check of an image. `noM` says that the restore was issued in S mode. DEDUCED (log 84). -/
def State.checkImage (s : State) (slot : Nat) (noM : Bool) (ws : List IWord) : Except ImageBad (List Section) :=
  let n := fun (i : Nat) => (ws.getD i (0, false)).1
  if imageHeadBad ws then .error .operand
  else
    match parseSections ws.length (ws.drop 8) with
    | none => .error .operand
    | some l =>
      if noM && l.any (fun x => decide (x.id = 1 ∧ x.modeCode = 3)) then .error .operand
      else
        let live := n 2
        let miss := (List.range 64).foldl (fun (m : Nat) i => if live.testBit i ∧ !Config.features.getLsbD i then m + 2 ^ i else m) 0
        let rem := l.any fun x => decide (x.id = 4 ∧ (x.body.getD 0 (0, false)).1 / 256 % 256 ≠ 1)
        let miss2 := if rem then miss ||| 2 ^ 15 else miss
        if miss2 ≠ 0 then .error (.feature miss2)
        else
          let k := keptSections live l
          if k.any (s.sectionBad slot) then .error .operand else .ok k

/-- Groups of `n` words of a list. -/
def groups (n : Nat) : Nat → List IWord → List (List IWord)
  | 0, _ => []
  | k + 1, ws => ws.take n :: groups n k (ws.drop n)

/-- Section 1 in a slot of role `role`: every register at its reset value, then the records. -/
def Thread.applyScalar (t : Thread) (role : Nat) (x : Section) (tiles : Bool) : Thread :=
  let n := fun (i : Nat) => (x.body.getD i (0, false)).1
  let t1 : Thread := ({ t with csr := if tiles then [] else [(csrTSTAT, t.csrGet csrTSTAT)] } : Thread).csrSet csrLEASE (roleLease role)
  let t2 := (groups 2 ((x.body.length - 38) / 2) (x.body.drop 38)).foldl (fun (t : Thread) r =>
    let k := (r.getD 0 (0, false)).1 % 65536
    if threadCsrs.elem k ∧ (k ≠ csrTSTAT ∨ tiles) then t.csrSet k (BitVec.ofNat 64 (r.getD 1 (0, false)).1) else t) t1
  { t2 with
    mode := Mode.ofCode x.modeCode
    pc := BitVec.ofNat 64 (n 31)
    loop := loopOf (n 32) (n 33)
    loopS := loopOf (n 34) (n 35)
    loopM := loopOf (n 36) (n 37) }

/-- The scalar registers of section 1. -/
def Thread.applyRegs (t : Thread) (x : Section) : Thread :=
  (List.range 31).foldl (fun (t : Thread) i =>
    let w := x.body.getD i (0, false)
    let u := t.writeS (BitVec.ofNat 5 i) (BitVec.ofNat 64 w.1)
    if w.2 then { u with poison := NatSet.add (i * 128) u.poison } else u) t

/-- The vector section, filled as by VFILL (R60). -/
def Thread.applyVector (t : Thread) (rlen : Nat) (x : Section) : Thread :=
  let n := fun (i : Nat) => (x.body.getD i (0, false)).1
  let w := 8 * 2 ^ (n 0 / 2 ^ 16 % 256)
  let len := n 0 % 65536
  let blk := spillBlock len w
  let rs := maskRegs (n 0 / 2 ^ 32)
  let new := Nat.min len (rlen / w)
  ((List.range rs.length).foldl (fun t k =>
      t.fillReg (rs.getD k 0) (new * w) ((x.body.drop (2 + k * (blk / 8))).take (blk / 8))) t).csrSet csrLEN (BitVec.ofNat 64 new)

/-- The mask section. -/
def Thread.applyMasks (t : Thread) (x : Section) : Thread :=
  let k := x.body.length / 24
  (List.range 24).foldl (fun (t : Thread) i =>
    t.writeM i (BitVec.ofNat 1024 (((x.body.drop (i * k)).take k).reverse.foldl (fun v p => v * 2 ^ 64 + p.1) 0))) t

/-- The queue remainder of section 4, with the registers that it makes pending. -/
def Thread.applyQueues (t : Thread) (x : Section) : Thread :=
  let es := entriesOf (Nat.min (x.body.getD 1 (0, false)).1 x.body.length) ((x.body.drop 2).map (·.1))
  let of := fun (l : Nat) => (es.filter fun e => decide (e.1 = l)).map (·.2)
  { t with
    vq := of 0
    tq := of 1
    remS := of 2
    remM := of 3
    pend := (es.filter fun e => decide (e.1 < 2)).flatMap fun e => if e.2.kind.isTile then e.2.tilePends else e.2.pends
    seq := es.foldl (fun n e => Nat.max n (e.2.seq + 1)) t.seq }

/-- The values that the thread's TCFGn have most recently received in program order (R348): those of its registers, then those
of the TCFG that its queues and remainders hold. -/
def Thread.lastTcfg (t : Thread) : Sparse Word :=
  let q := (t.remS ++ t.remM ++ t.tq).filter fun e => decide (e.kind = .tcfg)
  (List.range 8).map fun i =>
    (i, (q.foldl (fun (a : Nat × Word) e => if e.d = i ∧ a.1 ≤ e.seq then (e.seq, e.sa) else a) (0, t.csrGet (csrTCFG0 + i))).2)

/-- The tiles and accumulators of section 5. -/
def Thread.applyTiles (t : Thread) (x : Section) : Thread :=
  (tileRecords x.body.length x.body).foldl (fun (t : Thread) r =>
    let v := r.2.2.2.reverse.foldl (fun v p => v * 2 ^ 64 + p.1) 0
    let base := ((if r.1 then 8 else 0) + r.2.1) * 512
    let u := ((t.csrSet (cfgCsr r.1 r.2.1) r.2.2.1).tilePut r.1 r.2.1 (BitVec.ofNat 32768 v))
    { u with tpoison := r.2.2.2.zipIdx.foldl (fun p w => if w.1.2 then NatSet.add (base + w.2) p else NatSet.del (base + w.2) p) u.tpoison }) t

/-- The pattern slots of section 6. -/
def Thread.applyPatterns (t : Thread) (x : Section) : Thread :=
  { t with slots := (List.range 16).filterMap fun p =>
      let w : BitVec 256 := BitVec.ofNat 256 (((x.body.drop (4 * p)).take 4).reverse.foldl (fun v q => v * 2 ^ 64 + q.1) 0)
      if patOk w then some (p, w) else none }

/-- Batches of section 7 from their words. -/
def batchesOf : Nat → List IWord → List (Nat × List CmdRec)
  | 0, _ => []
  | k + 1, ws =>
    let n := (ws.getD 1 (0, false)).1
    ((ws.getD 0 (0, false)).1, (groups 8 n (ws.drop 2)).map fun g => cmdRecOf (g.map (·.1))) :: batchesOf k (ws.drop (2 + 8 * n))

/-- The batches of section 7. -/
def Thread.applyBatches (t : Thread) (x : Section) : Thread :=
  let l := batchesOf ((x.body.getD 1 (0, false)).1 + 1) (x.body.drop 2)
  { t with
    nextBatch := (x.body.getD 0 (0, false)).1
    openCmds := match l with | b :: _ => b.2 | [] => []
    batches := l.tail.map fun b => ⟨b.1 % 65536, b.2, decide (65536 ≤ b.1)⟩
    seq := l.foldl (fun n b => b.2.foldl (fun n c => Nat.max n (c.id + 1)) n) t.seq }

/-- Section 8 in a slot and its cell; barriers of the gang belong to gang `g`. -/
def State.applyMail (s : State) (slot : Nat) (x : Section) : State :=
  let n := fun (i : Nat) => (x.body.getD i (0, false)).1
  let g := (s.thread slot).gang.getD 0
  let mcs := groups 2 (n 4) (x.body.drop 8)
  let bs := groups 2 (n 5) (x.body.drop (8 + 2 * n 4))
  let ts := groups 2 (n 6) (x.body.drop (8 + 2 * n 4 + 2 * n 5))
  let at_ := fun (w : List IWord) (i : Nat) => (w.getD i (0, false)).1
  let s1 := s.updThread slot fun t =>
    { t with
      mb := (List.range 4).foldl (fun m i => Sparse.set i (BitVec.ofNat 64 (n i)) m) t.mb
      tokens := ts.map fun w => ⟨BitVec.ofNat 64 (at_ w 0), at_ w 1 % 65536, at_ w 1 / 65536⟩ }
  s1.updCellAt (cellOf slot) fun c =>
    { c with
      mc := mcs.foldl (fun m w => Sparse.set (at_ w 0) (at_ w 1) m) c.mc
      bars := bs.foldl (fun m w =>
        let gang := decide (1024 ≤ at_ w 0)
        Sparse.set (at_ w 0 % 512)
          (NBar.mk (if gang then .gang else .cell) (at_ w 1 % 65536) (at_ w 1 / 65536 % 65536) (at_ w 1 / 2 ^ 32 % 65536) (threadOf slot)
            (if gang then g else 0)) m) c.bars }

/-- Section 9 in a cell: the user scratchpad and the rings. -/
def State.applyPool (s : State) (c : Nat) (x : Section) : State :=
  let k := x.body.length - 16
  let s1 := (List.range k).foldl (fun (s : State) i =>
    let w := x.body.getD i (0, false)
    let s1 := s.poolWrite c (8 * i) 8 w.1
    if w.2 then s1.updCellAt c fun y => { y with ppoison := NatSet.add i y.ppoison } else s1) s
  s1.updCellAt c fun y =>
    { y with rings := (List.range 8).filterMap fun q =>
        let w := (x.body.getD (k + 2 * q) (0, false)).1
        if w / 2 ^ 63 % 2 = 1 then
          some (q, ⟨decide (w / 2 ^ 62 % 2 = 1), w / 2 ^ 48 % 2 ^ 11, w / 2 ^ 39 % 2 ^ 9, w % 2 ^ 17,
            -- the bytes in use are the difference of the two counters
            w % 2 ^ 17 + (w / 2 ^ 17 % 2 ^ 17 + 2 ^ 17 - w % 2 ^ 17) % 2 ^ 17⟩)
        else none }

/-- A checked image is restored into the slot (R254); the thread is not yet resident. -/
def State.restoreImage (s : State) (slot : Nat) (l : List Section) : State :=
  let get := fun (i : Nat) => l.find? fun x => decide (x.id = i)
  let rl := (s.cell (cellOf slot)).rlen
  let old := s.thread slot
  let on := fun (i : Nat) (f : Thread → Section → Thread) (t : Thread) => match get i with | some x => f t x | none => t
  let blank : Thread := { Thread.empty with
    live := true, gang := old.gang, rank := old.rank, stopped := old.stopped, park := old.park, tiles := old.tiles,
    accs := old.accs, tpoison := old.tpoison, csr := old.csr, seq := old.seq }
  let role := (s.cell (cellOf slot)).role (threadOf slot)
  let t1 := on 1 (fun t x => t.applyScalar role x (get 5).isSome) blank
  let len := t1.csrGet csrLEN
  let t2 := on 2 (fun t x => t.applyVector rl x) t1
  let t3 := t2.csrSet csrLEN (BitVec.ofNat 64 (Nat.min len.toNat (rl / ewBits t2.ewNow)))
  let t4 := on 7 Thread.applyBatches (on 6 Thread.applyPatterns (on 5 Thread.applyTiles (on 4 Thread.applyQueues
    (on 3 Thread.applyMasks (on 1 Thread.applyRegs t3)))))
  let seen := fun (t : Thread) => { t with
    tcfgSeen := t.lastTcfg
    leaseMin := leaseMinOf (t.csrGet csrLEASE)
    leasePref := leasePrefOf (t.csrGet csrLEASE)
    fwd := .none }
  let live := fun (t : Thread) => match t.loop with | some r => t.reinstate r | none => t
  let s1 := s.setThread slot (live (seen t4))
  let s2 := match get 8 with | some x => s1.applyMail slot x | none => s1
  match get 9 with | some x => s2.applyPool (cellOf slot) x | none => s2

/-- The last step of CRESTORE: LATE is exchanged with zero, its flags join FPFLG and the thread is
resident (R254). `pa` is the LATE word's address. -/
def State.takeLate (s : State) (slot pa : Nat) : State :=
  let v := s.memRead pa 8
  (s.memWrite pa 8 0).updThread slot fun t => { t.raise (BitVec.ofNat 7 v) with resident := true }

/-- A late flag set reaches the LATE word of its context and rank (R253): in one atomic step the flags
are ORed in and the count falls by 1. -/
def State.lateFlags (s : State) (ctx rank : Nat) (fl : BitVec 7) : State :=
  match s.ctxEntry ctx with
  | some e =>
    let pa := e.home rank + 32
    let w : Word := BitVec.ofNat 64 (s.memRead pa 8)
    let cnt := (bits w 32 32 + 2 ^ 32 - 1) % 2 ^ 32
    let s1 := (s.touchCtx ctx).touch pa 8
    -- R106: no atomic is performed on a poisoned line
    if (s.coherent (pa / 128)).1 then s1 else s1.memWrite pa 8 (setBits (w ||| fl.setWidth 64) 32 32 cnt).toNat
  | none => s

end Sys2Proof.Machine
end

