-- ==== Sys2Proof/Machine/Kernel.lean ====
section
/-! DEFINITION. Kernel descriptors, partition words, LAUNCH, TRIGGER, RETIRE and RELAY, and the
start of members and successors (R42, R44, R151, R155 to R177, R179, R388, R457). -/

namespace Sys2Proof.Machine

open Host (Outcome)

/-! ### Partition words (R41, R42) -/

/-- A cell with partition word `w`, for its fields. -/
def partCell (w : Word) : Cell := { Cell.initial with partw := w }

/-- Register granules and tile granules of a partition word. -/
def regGranules (w : Word) : Nat := ceilDiv ((partCell w).nthr * 4 * (partCell w).rlenFull) 4096
def tileGranules (w : Word) : Nat :=
  let c := partCell w
  ceilDiv ((List.range c.nthr).foldl (fun n t => n + c.ntile t * c.tcap + c.nacc t * c.acap) 0) 4096

/-- R42: a valid partition word. -/
def partOk (w : Word) : Bool :=
  let c := partCell w
  decide (bits w 59 5 = 0 ∧ bits w 47 2 ≤ 2 ∧ bits w 45 2 ≤ 2 ∧ bits w 2 3 ≤ 4) &&
    (List.range 4).all (fun t =>
      if t < c.nthr then decide (c.ntile t ≤ 8 ∧ c.nacc t ≤ 8) else decide (c.ntile t = 0 ∧ c.nacc t = 0 ∧ c.role t = 0)) &&
    decide (regGranules w + tileGranules w ≤ 56 ∧ c.spg = 56 - (regGranules w + tileGranules w) ∧ bits w 49 4 ≤ c.spg)

/-! ### Descriptors (R157, R158) -/

/-- The descriptor in the 32 words `w` at `addr`. -/
def descOf (addr : Word) (w : Nat → Word) : Desc :=
  { addr := addr
    entry := w 0
    partw := w 1
    ctx := bits (w 2) 40 16
    rscope := bits (w 2) 37 3
    prio := bits (w 2) 34 3
    trunc := (w 2).getLsbD 33
    fwd := (w 2).getLsbD 32
    k := bits (w 2) 24 2 + 1
    level := bits (w 2) 21 3
    n := bits (w 2) 0 18
    wctr := bits (w 3) 4 16
    wframe := bits (w 3) 1 3
    wv := (w 3).getLsbD 0
    args := w 4
    done := w 5
    accept := bits (w 6) 0 9
    trigs := (List.range 8).map fun i => w (8 + i) }

/-- Shapes w x h of `m` combs in the order of R181: ascending w + h, the lower h first. -/
def shapes (m wmax hmax : Nat) : List (Nat × Nat) :=
  (List.range (wmax + hmax + 1)).flatMap fun t =>
    (List.range (hmax + 1)).filterMap fun h =>
      if 1 ≤ h ∧ h < t ∧ t - h ≤ wmax ∧ (t - h) * h = m then some (t - h, h) else none

/-- Modules present: this one, and those that its links reach. -/
def State.modules (s : State) : Nat := ((List.range 8).filter s.nodePresent).length

/-- R156, R180: the shape of a gang lies within the limits of its level. -/
def State.shapeBad (s : State) (d : Desc) : Bool :=
  if d.level = 1 then decide (d.n ≠ 1)
  else if d.level = 2 then decide (d.n = 0 ∨ 16 < d.n)
  else if d.level = 3 then decide (d.n < 16 ∨ 2048 < d.n ∨ d.n % 16 ≠ 0) || (shapes (d.n / 16) 16 8).isEmpty
  else if d.level = 4 then decide (d.n < 16 ∨ 16384 < d.n ∨ d.n % 16 ≠ 0)
  else decide (d.n < 16 ∨ 16384 * s.modules < d.n ∨ d.n % 16 ≠ 0)

/-- R158, but for the partition word and the context table: an invalid descriptor. `user` holds the
context of a launching thread in user mode. -/
def State.descBad (s : State) (user : Option Nat) (d : Desc) (w : Nat → Word) : Bool :=
  decide (bits (w 2) 56 8 ≠ 1 ∨ bits (w 2) 26 6 ≠ 0 ∨ bits (w 2) 18 3 ≠ 0 ∨ bits (w 3) 20 44 ≠ 0 ∨ bits (w 6) 9 55 ≠ 0 ∨ w 7 ≠ 0 ∨
    6 ≤ d.rscope ∨ d.level = 0 ∨ 6 ≤ d.level) ||
  (List.range 8).any (fun i => decide (w (16 + i) ≠ 0)) || s.shapeBad d ||
  decide (d.k ≠ (partCell d.partw).nthr ∨ d.entry.toNat % 4 ≠ 0 ∨ 2 ^ 54 ≤ d.entry.toNat ∨ d.done.toNat % 8 ≠ 0) ||
  d.trigs.any (fun t => decide (t.toNat % 256 ≠ 0)) || (d.fwd && decide (2 < d.level)) ||
  (match user with | some c => decide (d.ctx ≠ c) | none => false)

/-- What a launch makes of a descriptor: accepted, or refused with a cause and its TVAL. -/
def State.descCheck (s : State) (user : Option Nat) (addr : Word) (w : Nat → Word) : Except (Nat × Word) Desc :=
  let d := descOf addr w
  if s.descBad user d w ∨ (s.ctxEntry d.ctx).isNone then .error (0x10, addr)
  else if !partOk d.partw then .error (0x11, d.partw)
  else .ok d

/-- The 32 words of a descriptor as bytes of a number. -/
def descWords (v : Nat) (i : Nat) : Word := BitVec.ofNat 64 (v / 2 ^ (64 * i))

/-- Locations that hold a descriptor in NORMAL memory (R158). -/
def descMemory (ls : List Loc) : Bool := ls.all fun l => match l with | .mem _ .normal => true | _ => false

/-- The executing thread reads and checks the descriptor at `a` (R158). DEDUCED (log 98). -/
def State.readDesc (s : State) (a : Word) (f : State → Desc → State) : State :=
  if a.toNat % 256 ≠ 0 then s.trap { code := 0x10, tval := a }
  else if s.thr.lsBusy a 256 then s.stall
  else s.reach pathLS .read a 1 fun s l =>
    let ls := locsFrom (l.headD (.own 0)) 256
    if !descMemory l then s.trap { code := 0x10, tval := a }
    else
      match s.waitRead ls with
      | some s' => s'.stall
      | none =>
        let r := s.readLocs s.cur false s.mode ls
        if r.2.1 then r.2.2.trap { code := 0x0B, tval := a }
        else
          let user := if s.mode = .user then some (bits (s.thr.csrGet csrPSTATE) 48 16) else none
          let s1 := r.2.2.touchCtx (descOf a (descWords r.1)).ctx
          match s1.descCheck user a (descWords r.1) with
          | .error (c, v) => s1.trap { code := c, tval := v }
          | .ok d => f s1 d

/-! ### Launch queues (R159, R179) -/

/-- The scheduler of a level: a frame's, or the module coordinator, number 8. -/
def unitOf (level frame : Nat) : Nat := if level ≤ 3 then frame else 8

/-- Launch queue of a scheduler and priority, its replacement, and its capacity. -/
def State.queue (s : State) (unit prio : Nat) : List Launch := Sparse.getD s.queues (unit * 8 + prio) []
def launchCap : Nat := 256

/-- A queue is replaced; a new head begins its wait (R184): the head differs, or the old one has left. -/
def State.setQueue (s : State) (unit prio : Nat) (q : List Launch) : State :=
  let k := unit * 8 + prio
  let old := s.queue unit prio
  let s1 := { s with queues := Sparse.set k q s.queues }
  if q.head? ≠ old.head? ∨ q.length < old.length then { s1 with headSince := Sparse.set k s.cycle s1.headSince } else s1

/-- A new launch. -/
def Launch.new (d : Desc) : Launch := ⟨d, false, [], [], false, [], none, [], 0, []⟩

/-- A launch enters its queue: held from then on if it waits for a counter that does not hold zero
(R159, step 2). -/
def State.enqueueLaunch (s : State) (unit : Nat) (l : Launch) : State :=
  let d := { l.desc with wv := l.desc.wv && decide ((s.ctr l.desc.wframe l.desc.wctr).count ≠ 0) }
  s.setQueue unit d.prio (s.queue unit d.prio ++ [{ l with desc := d }])

/-- A stopped gang re-enters the head of its queue, behind those stopped before it (R183, R308). DEDUCED (log 82). -/
def State.requeueLaunch (s : State) (unit : Nat) (l : Launch) : State :=
  let q := s.queue unit l.desc.prio
  let n := (q.takeWhile fun x => x.resumed && decide (x.since ≤ l.since)).length
  s.setQueue unit l.desc.prio (q.take n ++ l :: q.drop n)

/-- The descriptor that the instruction at the pc has already read (R158). -/
def Thread.descHeld (t : Thread) : Option Desc := (t.descRead.filter fun r => decide (r.pc = t.pc)).map (·.desc)

/-- The waiting instruction keeps the descriptor that it has read and checked (R158). -/
def State.holdDesc (s : State) (d : Desc) : State := s.upd fun t => { t with descRead := some ⟨t.pc, d⟩ }

/-- The last step of a LAUNCH (R159, R179): its descriptor, read once, enters the queue of its priority
when there is space. -/
def State.launchDesc (s : State) (mk : Bool) (d : Desc) : State :=
  let u := unitOf d.level s.frameOf
  if launchCap ≤ (s.queue u d.prio).length then (s.holdDesc d).stall
  else ((s.enqueueLaunch u (Launch.new d)).upd fun t => { t with descRead := none }).advance mk

/-- LAUNCH (R159, R179, R388). DEDUCED (log 74). -/
def execLaunch (s : Bool) (a : Reg) (st : State) : Outcome State Fault Refusal :=
  .next (st.notInBody (wordA s 0x37 0 a 0 0) fun t => t.guarded [a] [] fun t =>
    match t.thr.descHeld with
    | some d => t.launchDesc s d
    | none => t.released psAll .module fun t => t.readDesc (t.rs a) fun t d => t.launchDesc s d)

/-! ### Threads of a launch (R160, R457) -/

/-- Control registers at the first instruction of a member or successor (R160, R457). DESIGN CHOICE (log 130): when the
context's entry is no longer valid, the registers that it gives keep their reset values. -/
def State.launchCsrs (s : State) (d : Desc) (role : Nat) (t : Thread) : Thread :=
  let t1 := match s.ctxEntry d.ctx with
    | some e =>
      (((t.csrSet csrUTBASE e.utbase).csrSet csrSTBASE e.stbase).csrSet csrCTXASID (BitVec.ofNat 64 e.asid)).csrSet csrTVEC e.tvec
    | none => t
  let t2 := t1.csrSet csrPSTATE (setBits 0 48 16 d.ctx)
  let t3 := t2.csrSet csrMTVEC (s.dev (combReg 0 0xC_0018))
  let t4 := t3.csrSet csrDELEG (s.dev (combReg 0 0xC_0020))
  { (t4.csrSet csrLEASE (roleLease role)) with leaseMin := 0, leasePref := leasePrefOf (roleLease role) }

/-- The state of a launched member before its first instruction (R160). -/
def State.launchThread (s : State) (d : Desc) (gang rank role : Nat) : Thread :=
  let t : Thread := { Thread.empty with
    live := true, gang := some gang, rank := rank, pc := d.entry, mode := .user, park := .starting, resident := true }
  let t1 := (((t.writeS 0 d.args).writeS 1 (BitVec.ofNat 64 rank)).writeS 2 (BitVec.ofNat 64 (d.n * d.k))).writeS 3 d.addr
  s.launchCsrs d role t1

/-! ### The end of a thread (R161) -/

/-- A member's state in its gang, and for a rank that relayed or retired, in the gang's other
successors (R174). `heir` is the successor gang that the member relays into. -/
def State.endMember (s : State) (g rank : Nat) (m : Member) (heir : Option Nat) : State :=
  match Sparse.find? g s.gangs with
  | some x =>
    let s1 := s.updGang g fun x => { x with members := Sparse.set rank m x.members }
    x.heirs.foldl (fun s h =>
      if some h.2 = heir then s else s.updGang h.2 fun y => { y with members := Sparse.set rank .retired y.members }) s1
  | none => s

/-- Followers of the gang go on alone when their leader ends (R164). -/
def State.leaderEnds (s : State) (slot : Nat) : State :=
  let t := s.thread slot
  if t.fwd = .leader then
    match s.gangOf slot with
    | some g => g.slots.foldl (fun s x => if x = slot then s else s.updThread x (·.detach false)) s
    | none => s
  else s

/-- The pool clear engine takes 64 cycles a granule (R44). DEDUCED (log 80). -/
def clearCycles (granules : Nat) : Nat := 64 * granules

/-! ### Relay (R170 to R174) -/

/-- A sized component of the mask shrinks (R170, R171). -/
def relaySmaller (old new : Word) (t i : Nat) : Bool :=
  let o := partCell old
  let n := partCell new
  if i = 1 ∨ i = 2 then decide (n.rlenFull < o.rlenFull)
  else if i = 3 then decide (n.ntile t < o.ntile t ∨ n.tcap < o.tcap)
  else if i = 4 then decide (n.nacc t < o.nacc t ∨ n.acap < o.acap)
  else if i = 5 then decide (n.spg < o.spg)
  else false

/-- A configuration whose rows exceed a capacity keeps the rows that fit (R172). DEDUCED (log 56). -/
def cutConfig (cap : Nat) (w : Word) : Word :=
  if cfgBytes w ≠ 0 ∧ cap < cfgRows w * cfgBytes w then setBits w 16 7 (cap / cfgBytes w) else w

/-- Tiles or accumulators of the predecessor that the successor keeps (R170, R172). -/
def Thread.keepTiles (t old : Thread) (acc : Bool) (cnt cap : Nat) : Thread :=
  (List.range cnt).foldl (fun (t : Thread) n =>
    let x := (old.tileGet acc n) &&& BitVec.ofNat 32768 (2 ^ (8 * cap) - 1)
    let base := ((if acc then 8 else 0) + n) * 512
    let u := (t.csrSet (cfgCsr acc n) (cutConfig cap (old.csrGet (cfgCsr acc n)))).tilePut acc n x
    { u with
      tpoison := (old.tpoison.filter fun p => decide (base ≤ p ∧ p < base + cap / 8)).foldl (fun m p => NatSet.add p m) u.tpoison
      tcfgSeen := if acc then u.tcfgSeen else Sparse.set n (cutConfig cap (old.csrGet (cfgCsr acc n))) u.tcfgSeen }) t

/-- Dirty bits that a relay keeps. -/
def keptDirty (w : Word) (keep : Bool) (lo cnt : Nat) : Word :=
  (List.range 8).foldl (fun w n => if keep && decide (n < cnt) then w else setBits w (lo + n) 1 0) w

/-- The successor's thread state in `slot` (R160, R170, R172, R173): `rlen` is the effective RLEN under
the successor's word, `small` that it is smaller than the predecessor's. Bit 0 alone keeps the scalar
words of v0 to v30 only. DEDUCED (log 78). -/
def State.successorThread (s : State) (slot : Nat) (x : Successor) (rlen : Nat) (small : Bool) : Thread :=
  let old := s.thread slot
  let tn := threadOf slot
  let n := partCell x.desc.partw
  let bit := fun (i : Nat) => x.mask.testBit i
  let t0 := s.launchThread x.desc x.gang x.rank (n.role tn)
  let cut : BitVec 8192 := BitVec.ofNat 8192 (2 ^ rlen - 1)
  let mcut : BitVec 1024 := if small then BitVec.ofNat 1024 (2 ^ (rlen / ewBits old.ewNow) - 1) else BitVec.allOnes 1024
  let t1 :=
    if bit 1 then
      (({ t0 with
          v := old.v.map fun e => (e.1, VReg.ofFull (e.2.full &&& cut))
          written := old.written
          poison := old.poison.filter fun p => decide (64 * (p % 128) < rlen) } : Thread).csrSet csrLEN (BitVec.ofNat 64 (Nat.min old.lenNow (rlen / ewBits old.ewNow)))).csrSet csrEW
        (old.csrGet csrEW)
    else if bit 0 then
      { t0 with
        v := (old.v.filter fun e => decide (e.1 ≠ 31)).map fun e => (e.1, ⟨e.2.lo, 0⟩)
        poison := old.poison.filter fun p => decide (p % 128 = 0 ∧ p / 128 ≠ 31) }
    else t0
  let t2 := if bit 2 then { t1 with m := old.m.map fun e => (e.1, e.2 &&& mcut) } else t1
  let t3 := if bit 3 then t2.keepTiles old false (Nat.min (n.ntile tn) 8) n.tcap else t2
  let t4 := if bit 4 then t3.keepTiles old true (Nat.min (n.nacc tn) 8) n.acap else t3
  let ts := keptDirty (keptDirty (old.csrGet csrTSTAT) (bit 3) 0 (n.ntile tn)) (bit 4) 8 (n.nacc tn)
  let t5 := ((t4.csrSet csrTSTAT ts).csrSet csrFPFLG (old.csrGet csrFPFLG)).csrSet csrFPCTL (old.csrGet csrFPCTL)
  { t5 with
    mb := if bit 6 then old.mb else []
    slots := if bit 8 then old.slots else []
    seq := old.seq
    nextBatch := old.nextBatch
    openCmds := if old.openCmds.all (·.done) ∧ old.unfinished = 0 then [] else old.openCmds
    batches := old.batches.drop old.finishedBatches.length }

/-- Counters and barriers of the cell that a relay of thread `t` gives up (R170). -/
def Cell.scrubOwned (c : Cell) (t mask : Nat) : Cell :=
  { c with
    mc := if mask.testBit 6 then c.mc else c.mc.filter fun e => decide (c.mcOwner e.1 ≠ some t)
    mcScope := if mask.testBit 6 then c.mcScope else c.mcScope.filter fun e => decide (c.mcOwner e.1 ≠ some t)
    bars := if mask.testBit 7 then c.bars else c.bars.filter fun e => decide (e.2.owner ≠ t) }

/-- The cell under a new partition word (R170, R172): counters and barriers that no thread keeps, the
rings, and scratchpad that is not kept or is new become zero. -/
def Cell.repartition (c : Cell) (w : Word) (kept : List (Nat × Nat)) : Cell :=
  let n := partCell w
  let lim := if kept.any fun k => k.2.testBit 5 then Nat.min c.spg n.spg * 4096 else 0
  let keeps := fun (t i : Nat) => kept.any fun k => decide (k.1 = t) && k.2.testBit i
  { c with
    partw := w
    pool := c.pool.filter fun e => decide (e.1 < lim ∨ poolSup ≤ e.1)
    ppoison := c.ppoison.filter fun p => decide (8 * p < lim ∨ poolSup ≤ 8 * p)
    latent := c.latent.filter fun p => decide (8 * p < lim ∨ poolSup ≤ 8 * p)
    mc := c.mc.filter fun e => match c.mcOwner e.1 with | some t => keeps t 6 | none => false
    mcScope := c.mcScope.filter fun e => match c.mcOwner e.1 with | some t => keeps t 6 | none => false
    bars := c.bars.filter fun e => keeps e.2.owner 7
    rings := [] }

/-- The successor gang of a relay (R174): shared by the members that relay to one descriptor. DEDUCED (log 79). -/
def State.heirOf (s : State) (g : Nat) (x : Gang) (d : Desc) : Nat × State :=
  match x.heirs.find? fun h => decide (h.1 = d.addr) with
  | some h => (h.2, s)
  | none =>
    let id := s.nextGang
    let y : Gang := { x with
      desc := d
      members := x.members.map fun e => (e.1, if e.2 = .running then .running else .retired)
      triggered := []
      trigDone := false
      trigLeft := []
      trigDesc := none
      doneAdded := false
      doneSent := false
      doneBack := none
      rel := none
      mig := none
      stops := []
      saving := false
      heirs := []
      stopped := false
      victim := none
      late := false }
    (id, ({ s with gangs := Sparse.set id y s.gangs, nextGang := id + 1 } : State).updGang g
      fun x => { x with heirs := x.heirs ++ [(d.addr, id)] })

/-- The successor takes the slot (R172 to R174); `small` when its RLEN is below the predecessor's. -/
def State.placeSuccessor (s : State) (slot : Nat) (y : Successor) (small : Bool) : State :=
  let t := s.thread slot
  match t.gang, s.gangOf slot with
  | some g, some x =>
    let h := s.heirOf g x y.desc
    let s1 := h.2
    let s2 := s1.setThread slot (s1.successorThread slot { y with gang := h.1 } (s1.cell (cellOf slot)).rlen small)
    (s2.endMember g t.rank .relayed (some h.1)).updCellAt (cellOf slot) fun c => { c with gang := some h.1 }
  | _, _ => s

/-- The relay rendezvous of a cell is complete when every active thread has relayed or retired: the
word is loaded, kept state is placed and the rest scrubbed (R171, R172). DESIGN CHOICE (log 119): a successor that
has started, or is about to, counts as an active thread that has not relayed. -/
def State.rendezvousDone (s : State) (c : Nat) : State :=
  let x := s.cell c
  match x.rendez with
  | none => s
  | some w =>
    let live := (List.range 4).filter fun i => (s.thread (c * 4 + i)).live
    if live.isEmpty ∨ live.any (fun i => decide ((s.thread (c * 4 + i)).park ≠ .rendezvous)) then s
    else
      let kept := x.succ.map fun e => (e.1, e.2.mask)
      let s1 := s.setCell c
        { (x.repartition w kept) with rendez := none, clear := s.cycle + clearCycles 56 }
      live.foldl (fun s i =>
        match Sparse.find? i x.succ with
        | some y => s.placeSuccessor (c * 4 + i) y (relaySmaller x.partw w i 1)
        | none => s) s1

/-- The slot falls free (R161); a rendezvous that waited only for it goes on. -/
def State.freeSlot (s : State) (slot : Nat) : State :=
  let s1 : State := { s with threads := Sparse.erase slot s.threads }
  s1.rendezvousDone (cellOf slot)

/-- Near results that are under way are written before a thread ends. DEDUCED (log 77). -/
def State.settleResults (s : State) (slot : Nat) : State :=
  (List.range (s.thread slot).pend.length).foldl (fun (s : State) _ =>
    match (s.thread slot).pend.find? fun p => p.value.isSome && p.far.isNone with
    | some p => s.resultAt slot p
    | none => s) s

/-- RETIRE (R161, R388). -/
def execRetire (s : Bool) (st : State) : Outcome State Fault Refusal :=
  .next (st.notInBody (wordA s 0x37 0 0 0 3) fun st =>
    if !st.thr.vq.isEmpty ∨ !st.thr.tq.isEmpty then st.stall
    else st.released psAll .module fun t =>
      let slot := t.cur
      let th := t.thr
      let s1 := ((t.truncRoutes slot).leaderEnds slot).freeSlot slot
      match th.gang with
      | some g => s1.endMember g th.rank .retired none
      | none => s1)

/-- TRIGGER (R175, R388). -/
def execTrigger (s : Bool) (st : State) : Outcome State Fault Refusal :=
  .next (st.notInBody (wordA s 0x37 0 0 0 2) fun t => t.released psAll .module fun t =>
    let s1 := match t.thr.gang with
      | some g => t.updGang g fun x => { x with triggered := NatSet.add t.thr.rank x.triggered }
      | none => t
    s1.advance s)

/-- The scope that RSCOPE names (R157). -/
def rscopeOf (n : Nat) : Scope :=
  if n = 1 then .cell else if n = 2 then .comb else if n = 3 then .frame else if n = 5 then .system else .module

/-- Stream commands that the release of a relay does not wait for (R151): those with a destination, by offset or in the
local window, in scratchpad that the successor inherits, granules 0 upward to `spad` bytes, and no source there. -/
def State.cmdInherited (s : State) (k : Cmd) (mask : Nat) (spad : Nat) : Bool :=
  let spans := s.cmdSpans k.slot k.word k.pat k.kind ++ cmdWindows k.word k.pat k.kind
  mask.testBit 5 && !swRv k.word && decide (k.kind ≠ .send) && spans.any (fun r => !r.2.2.2) &&
    spans.all fun r => if r.2.2.2 then decide ((spad : Int) ≤ r.1) else decide (r.2.1 ≤ (spad : Int))

/-- The release of a relay has to wait (R145, R146, R151): for every command that R151 does not except, in any scope (R173). -/
def State.relayWaits (s : State) (mask spad : Nat) (c : Scope) : Bool :=
  s.relWaits s.cur (psLS ||| psLA ||| psFA ||| psMS) c || (decide (3 ≤ scopeCode c) && s.streamWrites s.cur c) ||
    s.cl.stream.any fun k => decide (k.slot = s.cur) && !s.cmdInherited k mask spad

/-- The checks of R171 that come before the release: the cause of the trap. DESIGN CHOICE (log 118): a thread that
belongs to no gang has no shape that a descriptor could match. -/
def State.relayCheck (s : State) (d : Desc) (m : Word) : Option Nat :=
  let mask := bits m 0 9
  if bits m 9 55 ≠ 0 ∨ d.ctx ≠ bits (s.thr.csrGet csrPSTATE) 48 16 ∨ mask &&& (511 - d.accept) ≠ 0 then some 0x13
  else
    match s.gangOf s.cur with
    | none => some 0x12
    | some g =>
      if d.level ≠ g.desc.level ∨ d.n ≠ g.desc.n ∨ d.k ≠ g.desc.k then some 0x12
      else if d.partw ≠ s.cl.partw ∧ s.cl.rendez.isSome ∧ s.cl.rendez ≠ some d.partw then some 0x12
      else if !d.trunc ∧ [1, 2, 3, 4, 5].any fun i => mask.testBit i && relaySmaller s.cl.partw d.partw s.ct i then some 0x12
      else none

/-- A RELAY whose checks have passed (R171): the release, with all entries of the buffer drained (R50), the second
look at the rendezvous word, and the relay itself. The leader's followers go on alone (R164). -/
def State.relayOn (s : State) (d : Desc) (mask : Nat) : State :=
  let c := rscopeOf d.rscope
  if !s.thr.vq.isEmpty ∨ !s.thr.tq.isEmpty ∨ s.relayWaits mask ((partCell d.partw).spg * 4096) c then (s.holdDesc d).stall
  else if (s.drainAll s.cc).relOpen s.cur psAll c then ((s.drainAll s.cc).holdDesc d).stall
  else
    let t1 := ((s.drainAll s.cc).truncRoutes s.cur).settleResults s.cur
    let y : Successor := ⟨d, mask, 0, t1.thr.rank⟩
    let tn := t1.ct
    if d.partw ≠ t1.cl.partw then
      if t1.cl.rendez.isSome ∧ t1.cl.rendez ≠ some d.partw then t1.trap { code := 0x12, tval := d.addr }
      else
        (((t1.leaderEnds t1.cur).updCell fun c => { c with rendez := some d.partw, succ := Sparse.set tn y c.succ }).parkAs
          .rendezvous).rendezvousDone t1.cc
    else
      let t2 := (t1.leaderEnds t1.cur).updCell fun c =>
        let c1 := c.scrubOwned tn mask
        { c1 with succ := Sparse.set tn y c1.succ, clear := t1.cycle + clearCycles (ceilDiv (4 * c.rlenFull) 4096) }
      t2.placeSuccessor t2.cur y false

/-- RELAY (R171, R388). -/
def execRelay (s : Bool) (a b : Reg) (st : State) : Outcome State Fault Refusal :=
  .next (st.notInBody (wordA s 0x37 0 a b 1) fun t => t.guarded [a, b] [] fun t =>
    match t.thr.descHeld with
    | some d => t.relayOn d (bits (t.rs b) 0 9)
    | none => t.readDesc (t.rs a) fun t d =>
      match t.relayCheck d (t.rs b) with
      | some c => t.trap { code := c, tval := t.rs a }
      | none => t.relayOn d (bits (t.rs b) 0 9))

/-- SUCCESSOR_START: a successor starts once the scrub has ended, with the acquire of its relay
scope (R173). -/
def execSuccessorStart (slot : Nat) (st : State) : Outcome State Fault Refusal :=
  .next (
    let c := st.cell (cellOf slot)
    let t := st.thread slot
    match Sparse.find? (threadOf slot) c.succ with
    | some x =>
      if t.live ∧ t.park = .starting ∧ !t.stopped ∧ c.clear ≤ st.cycle then
        let s1 := st.setCell (cellOf slot) { c with succ := Sparse.erase (threadOf slot) c.succ }
        (s1.acquire slot psAll (rscopeOf x.desc.rscope)).updThread slot fun t => { t with park := .running }
      else st
    | none => st)

/-- The LATE word of a thread's image at its home location. -/
def State.lateAddr (s : State) (slot : Nat) : Option Nat :=
  let t := s.thread slot
  (s.ctxEntry (bits (t.csrGet csrPSTATE) 48 16)).map fun e => e.home t.rank + 32

/-- MEMBER_START: a member starts at ENTRY, or a restored one goes on, once its cell is cleared (R159,
R249, R254): a restored thread waits for the count of late flags and takes them first. -/
def execMemberStart (slot : Nat) (st : State) : Outcome State Fault Refusal :=
  .next (
    let c := st.cell (cellOf slot)
    let t := st.thread slot
    let go := fun (s : State) => (s.acquire slot psAll .module).updThread slot fun t => { t with park := .running }
    if t.live ∧ t.park = .starting ∧ !t.stopped ∧ c.clear ≤ st.cycle ∧ (Sparse.find? (threadOf slot) c.succ).isNone then
      if t.resident then go st
      else
        match st.lateAddr slot with
        | some pa => if st.memRead (pa + 4) 4 = 0 then go ((st.touch pa 8).takeLate slot pa) else st.touch pa 8
        | none => go (st.updThread slot fun t => { t with resident := true })
    else st)

end Sys2Proof.Machine
end

