-- ==== Sys2Proof/Machine/Gang.lean ====
section
/-! DEFINITION. The gang schedulers: placement, completion, trigger lists, pre-emption, GSTOP,
GRESUME, CSAVE and CRESTORE (R82, R147, R162, R176, R179 to R185, R247 to R255, R307 to R310, R458). -/

namespace Sys2Proof.Machine

open Host (Outcome)

/-! ### Units and candidates (R180, R181) -/

/-- Combs of a frame, ascending, and combs in the module order of R181. -/
def frameCombs (f : Nat) : List Nat :=
  (List.range 8).flatMap fun y => (List.range 16).map fun x => 32 * (8 * (f / 2) + y) + 16 * (f % 2) + x
def moduleCombs : List Nat := (List.range 8).flatMap frameCombs

/-- A gang of level comb or wider reserves the comb, unless it is one of `gone`. -/
def State.reserved (s : State) (gone : List Nat) (comb : Nat) : Bool :=
  s.gangs.any fun e => decide (2 ≤ e.2.desc.level) && !gone.elem e.1 && e.2.combs.elem comb

/-- A cell can be placed on: it runs, and no thread lives there but members of the gangs `gone`.
DEDUCED (log 81). -/
def State.cellFree (s : State) (gone : List Nat) (c : Nat) : Bool :=
  s.running c && (match (s.cell c).gang with | some g => gone.elem g | none => true) &&
    (List.range 4).all fun i =>
      let t := s.thread (c * 4 + i)
      !t.live || (match t.gang with | some g => gone.elem g | none => false)

/-- Logical cells 0 to 15 of a comb, as cells. -/
def State.combCells (s : State) (comb : Nat) : List Nat := (List.range 16).map fun l => comb * 17 + s.physOfLogical comb l

/-- All 16 cells of a comb are free. -/
def State.combFree (s : State) (gone : List Nat) (comb : Nat) : Bool :=
  !s.reserved gone comb && (s.combCells comb).all (s.cellFree gone)

/-- Combs of a w x h rectangle of frame `f` with its north-west corner at column `x`, row `y`. -/
def rectCombs (f x y w h : Nat) : List Nat :=
  (List.range h).flatMap fun j => (List.range w).map fun i => 32 * (8 * (f / 2) + y + j) + 16 * (f % 2) + x + i

/-- Where a gang is placed: its cells, its combs and its torus (R182). -/
structure Place where
  cells : List Nat
  combs : List Nat
  w : Nat
  h : Nat

/-- The torus of a module or system gang (R182): the first shape of R181's frame order, or none. -/
def wideTorus (m : Nat) : Nat × Nat := (shapes m 32 32).headD (0, 0)

/-- The route table of a logical torus of `w` x `h` combs (R182): logical comb j lies at (j mod w, j div w);
its neighbours wrap around. No torus has no entries. DEDUCED (log 123). -/
def torusRoutes (w h : Nat) (combs : List Nat) : List (List Nat) :=
  let at_ := fun (x y : Nat) => combs.getD (y % h * w + x % w) 0
  (List.range (w * h)).map fun j =>
    let x := j % w
    let y := j / w
    [at_ x (y + h - 1), at_ (x + 1) y, at_ x (y + 1), at_ (x + w - 1) y]

/-- First-fit placement of R181 by scheduler `unit`, where the gangs `gone` count as free (R184). A system gang takes combs of
this module. DEDUCED (log 34). -/
def State.findPlace (s : State) (unit : Nat) (gone : List Nat) (d : Desc) : Option Place :=
  if d.level = 1 then
    (frameCombs unit).findSome? fun c =>
      if s.reserved gone c then none
      else ((s.combCells c).find? (s.cellFree gone)).map fun x => ⟨[x], [c], 0, 0⟩
  else if d.level = 2 then
    ((frameCombs unit).find? (s.combFree gone)).map fun c => ⟨(s.combCells c).take d.n, [c], 0, 0⟩
  else if d.level = 3 then
    (shapes (d.n / 16) 16 8).findSome? fun sh =>
      (List.range (9 - sh.2)).findSome? fun y =>
        (List.range (17 - sh.1)).findSome? fun x =>
          let cs := rectCombs unit x y sh.1 sh.2
          if cs.all (s.combFree gone) then some ⟨cs.flatMap s.combCells, cs, sh.1, sh.2⟩ else none
  else
    let free := moduleCombs.filter (s.combFree gone)
    let m := d.n / 16
    if m ≤ free.length then
      let cs := free.take m
      some ⟨cs.flatMap s.combCells, cs, (wideTorus m).1, (wideTorus m).2⟩
    else none

/-! ### Trees (R82) -/

/-- Mesh direction from router `a` to its neighbour `b`: 1 N, 2 E, 3 S, 4 W. -/
def direction (a b : Nat) : Nat := if b + 32 = a then 1 else if b = a + 1 then 2 else if b = a + 32 then 3 else 4

/-- Routers of a gang's tree. -/
def Gang.routers (g : Gang) : List Nat := (g.combs.flatMap fun c => treePath g.root c 64).eraseDups

/-- The table entry of router `c` (R82). DEDUCED (log 73). -/
def Gang.treeEntry (g : Gang) (c : Nat) : Word :=
  let up := match treeParent g.root c with | some p => direction c p | none => 0
  let down := (g.children c).foldl (fun n k => n + 2 ^ (direction c k - 1)) 0
  let cells := (g.cells.filter fun x => decide (combOf x = c)).foldl (fun n x => n + 2 ^ physOf x) 0
  BitVec.ofNat 64 (2 ^ 63 + g.desc.ctx * 2 ^ 40 + up * 2 ^ 36 + down * 2 ^ 32 + cells)

/-- The tree's entries are written, or cleared when the gang leaves. -/
def State.writeTree (s : State) (g : Gang) (on : Bool) : State :=
  g.routers.foldl (fun s c => s.setDev (treeReg c g.tree) (if on then g.treeEntry c else 0)) s

/-- The first entry that is free in every router of the gang's tree. -/
def State.freeTree (s : State) (g : Gang) : Nat :=
  ((List.range 64).find? fun i => g.routers.all fun c => !(s.dev (treeReg c i)).getLsbD 63).getD 63

/-! ### Placement (R159, R182, R183, R249) -/

/-- A cell is loaded with the gang's partition word and its user granules are zeroed (R44, R159). -/
def State.loadCell (s : State) (c g : Nat) (w : Word) : State :=
  s.updCellAt c fun x =>
    { x with
      gang := some g
      partw := w
      pool := x.pool.filter fun e => decide (poolSup ≤ e.1)
      ppoison := x.ppoison.filter fun p => decide (poolSup ≤ 8 * p)
      latent := x.latent.filter fun p => decide (poolSup ≤ 8 * p)
      mc := []
      mcScope := []
      bars := []
      rings := []
      waiters := []
      rendez := none
      succ := []
      clear := s.cycle + clearCycles 56 }

/-- The gang of a launch at a place, before its members exist. -/
def Launch.gangAt (l : Launch) (p : Place) (frame : Nat) : Gang :=
  let d := l.desc
  { desc := d
    frame := frame
    cells := p.cells
    combs := p.combs
    w := p.w
    h := p.h
    routes := torusRoutes p.w p.h p.combs
    tree := 0
    members := (List.range (d.n * d.k)).map fun r => (r, Sparse.getD l.done r .running)
    triggered := l.triggered
    trigDone := l.trigDone
    trigLeft := l.trigLeft
    trigDesc := l.trigDesc
    doneAdded := false
    doneSent := false
    doneBack := none
    rel := none
    mig := none
    stops := []
    saving := false
    heirs := l.heirs
    stopped := false
    victim := none
    late := false
    slots := (List.range (d.n * d.k)).map fun r => p.cells.getD (r / d.k) 0 * 4 + r % d.k }

/-- Ranks that still run. -/
def Gang.running (g : Gang) : List Nat := (g.members.filter fun e => decide (e.2 = .running)).map (·.1)

/-- Members of a gang get their slots in launch state (R160); rank 0 of a forwarded gang leads (R163). -/
def State.placeMembers (s : State) (id : Nat) (g : Gang) (fwd : Bool) : State :=
  g.running.foldl (fun s r =>
    let slot := g.slots.getD r 0
    let t := s.launchThread g.desc id r ((s.cell (cellOf slot)).role (threadOf slot))
    s.setThread slot { t with fwd := if fwd then (if r = 0 then .leader else .follower) else .none }) s

/-- The words of an image at a physical address: the size in its header says how many. -/
def State.imageWords (s : State) (pa : Nat) : State × List IWord :=
  let h := (List.range 4).map fun i => (s.memRead (pa + 8 * i) 8, false)
  let n := if imageHeadBad h then 8 else s.memRead (pa + 24) 4 / 8
  let r := (linePieces pa (8 * n)).foldl (fun (a : State × NatSet) p =>
    let x := a.1.coherent p.1
    (x.2, if x.1 then NatSet.add p.1 a.2 else a.2)) (s, [])
  (r.1, (List.range n).map fun i => (s.memRead (pa + 8 * i) 8, NatSet.has r.2 ((pa + 8 * i) / 128)))

/-- Every member of a resumed gang is restored from its home image (R249): the state, and the first
rank whose image is refused with the cause code. -/
def State.restoreMembers (s : State) (g : Gang) (e : CtxEntry) : State × Option (Nat × Nat) :=
  g.running.foldl (fun (a : State × Option (Nat × Nat)) r =>
    let slot := g.slots.getD r 0
    let x := a.1.imageWords (e.home r)
    match x.1.checkImage slot false x.2 with
    | .ok l => ((x.1.restoreImage slot l).updThread slot fun t => { t with resident := false }, a.2)
    | .error b => (x.1, if a.2.isSome then a.2 else some (r, if b = .operand then 0x02 else 0x14))) (s, none)

/-- Recorded barriers of a resumed gang are bound again on its cells (R248, R249), with the members that rejoin (R165).
DESIGN CHOICE (log 126): poisoned words of the area are taken as they are stored. -/
def State.rebindBarriers (s0 : State) (id : Nat) (g : Gang) (bar : Nat) (joins : Sparse (Sparse Nat)) : State :=
  let n := Nat.min (s0.memRead bar 4) 512
  let words := (g.desc.n * g.desc.k + 63) / 64
  (List.range n).foldl (fun s i =>
    let a := bar + 16 + 16 * i
    let w : Word := BitVec.ofNat 64 (s.memRead a 8)
    let arr := s.memRead (a + 8) 4
    let map := bar + 16 + 16 * n + 8 * words * i
    let ranks := (List.range (g.desc.n * g.desc.k)).filter fun r => (s.memRead (map + r / 8) 1).testBit (r % 8)
    let came := ranks ++ List.replicate (arr - ranks.length) (ranks.headD 0)
    let b := bits w 0 9
    let gen := bits w 16 16
    let s1 := s.setGbar id b
      { exp := bits w 32 32, gen := gen, came := came, below := if arr = 0 then [] else [(genAt gen g.root, arr)], down := [],
        joins := Sparse.getD joins b [], tc := 0 }
    g.cells.foldl (fun s c =>
      let own := ((List.range 4).find? fun t => (s.thread (c * 4 + t)).live).getD 0
      s.updCellAt c fun x =>
        { x with bars := Sparse.set b ⟨.gang, bits w 32 32, 0, gen, own, id⟩ x.bars }) s1) (s0.touch bar (16 + (16 + 8 * words) * n))

/-- A gang whose members could not all be restored stays on its cells, stopped in place (R249). -/
def State.leaveStopped (s : State) (id : Nat) (g : Gang) (l : Launch) (code addr : Nat) : State :=
  let s1 := g.running.foldl (fun s k => s.updThread (g.slots.getD k 0) fun t => { t with stopped := true }) s
  let s2 := s1.updGang id fun x => { x with stopped := true }
  ({ s2 with stopped := Sparse.set l.desc.ctx ⟨some id, l, g.slots⟩ s2.stopped } : State).postSched g.frame l.desc.ctx code 3
    (addr % 2 ^ 52)

/-- A launch is placed (R182, R183): a new gang's members wait in launch state for the pool clear; a
resumed gang's are restored (R249), or the gang stays stopped in place when an image is refused. DESIGN CHOICE (log 130):
it stays so too when its context's entry is no longer valid. -/
def State.place (s : State) (l : Launch) (p : Place) (frame : Nat) : State :=
  let id := s.nextGang
  let g0 := l.gangAt p frame
  let g := { g0 with tree := s.freeTree g0 }
  let s1 : State := { s with gangs := Sparse.set id g s.gangs, nextGang := id + 1 }
  let s2 := p.cells.foldl (fun s c => s.loadCell c id l.desc.partw) (s1.writeTree g true)
  let s3 := (s2.touchCtx l.desc.ctx).placeMembers id g (l.desc.fwd && !l.resumed)
  if !l.resumed then s3
  else
    match s3.ctxEntry l.desc.ctx with
    | some e =>
      let r := s3.restoreMembers g e
      let s4 := r.1.rebindBarriers id g e.bar l.joins
      match r.2 with
      | none => s4
      | some (rank, code) => s4.leaveStopped id g l code (e.home rank)
    | none => s3.leaveStopped id g l 0x02 0

/-- A head that may be placed: not held on its counter (R159, R183). -/
def Launch.ready (l : Launch) : Bool := !l.desc.wv || l.resumed

/-- GANG_PLACEMENT: a scheduler places the first queue head that fits, in descending priority (R183). -/
def execGangPlacement (unit : Nat) (st : State) : Outcome State Fault Refusal :=
  .next (
    match [7, 6, 5, 4, 3, 2, 1, 0].findSome? fun p =>
      match st.queue unit p with
      | l :: _ => if l.ready then (st.findPlace unit [] l.desc).map fun x => (p, l, x) else none
      | [] => none with
    | some (p, l, x) =>
      (st.setQueue unit p ((st.queue unit p).drop 1)).place l x (frameOfComb (x.combs.headD 0))
    | none => st)

/-! ### Completion and trigger lists (R162, R174 to R176) -/

/-- Every member has retired or relayed. -/
def Gang.complete (g : Gang) : Bool := g.running.isEmpty
/-- Every member has been triggered, has retired or has relayed. -/
def Gang.trigComplete (g : Gang) : Bool := g.running.all fun r => NatSet.has g.triggered r

/-- Translation registers of the scheduler's accesses in a gang's context (R162). DESIGN CHOICE (log 76). -/
def State.schedXlate (s : State) (ctx : Nat) : Xlate :=
  match s.ctxEntry ctx with
  | some e => ⟨.user, e.utbase, e.stbase, e.asid⟩
  | none => ⟨.user, 0, 0, 0⟩

/-- The scheduler's `.module` release for a gang (R145, R158, R162, R176) begins: what the slices of its combs have
accepted, and the first request made from now on. -/
def State.schedRelease (s : State) (id : Nat) (g : Gang) : State :=
  let combs := g.cells.map combOf
  s.updGang id fun x => { x with rel := some (s.nextTag, s.accepted.filter fun a => combs.elem a.comb && s.inReach .module a.line) }

/-- It is performed: those writes, and the writes that the gang's cells and stream commands had under way. -/
def State.schedPerformed (s : State) (g : Gang) : Bool :=
  match g.rel with
  | some (tag, acc) =>
    !s.accepted.any acc.elem && !s.openPkts.any fun p =>
      match p.nc with
      | some o => decide (o.tag < tag ∧ p.op ≠ .ncrsp) && s.inReach .module p.line &&
          (match o.who with | .buffer c => g.cells.elem c | .stream t _ => g.slots.elem t | _ => false)
      | none => false
  | none => false

/-- What the scheduler does for a gang behind its release. -/
def State.schedAfter {α : Type} (s : State) (id : Nat) (g : Gang) (idle : State → α) (f : State → α) : α :=
  if g.rel.isNone then idle (s.schedRelease id g) else if s.schedPerformed g then f s else idle s

/-- The translation of an access by the scheduler in a gang's context (R37, R38, R162, R176): an access to a migrating page
waits in the replay queue of the comb of the gang's first cell. -/
def State.schedReach (s : State) (id : Nat) (g : Gang) (path : Nat) (k : AccKind) (va : Word) (n : Nat) : Xl (List Loc) :=
  let c := g.cells.headD 0
  let x := s.schedXlate g.desc.ctx
  match g.mig with
  | some (_, true) => .fault (s.updGang id fun y => { y with mig := none }) (mkFault path k 0 4 va)
  | some (_, false) => .wait s
  | none =>
    match (s.touchCtx g.desc.ctx).resolve c x path k va n with
    | .migrate s' p =>
      .wait ((s'.enterReplay (combOf c) x.asid p (.gang id)).updGang id fun y => { y with mig := some (p, false) })
    | r => r

/-- Arrivals and completions under way of gang `a` are those of gang `b` from now on (R170). -/
def Load.renamed (a b : Nat) : Load → Load
  | .arrive g id gen n => .arrive (if g = a then b else g) id gen n
  | .complete g id gen => .complete (if g = a then b else g) id gen
  | l => l
def State.renameFlits (s : State) (a b : Nat) : State :=
  { s with flits := s.flits.map fun e => (e.1, e.2.map fun f => { f with load := f.load.renamed a b }) }

/-- The gang's cells are free, but those that a successor gang holds; barriers that its members kept
go on with the first successor, with what is under way of them. DEDUCED (log 79). -/
def State.freeGang (s : State) (id : Nat) (g : Gang) : State :=
  let heir := g.heirs.head?.map (·.2)
  let s1 := g.cells.foldl (fun s c =>
    s.updCellAt c fun x =>
      { x with
        gang := if x.gang = some id then none else x.gang
        bars := match heir with
          | some h => x.bars.map fun b => (b.1, if b.2.bind = .gang ∧ b.2.gid = id then { b.2 with gid := h } else b.2)
          | none => x.bars.filter fun b => decide (¬ (b.2.bind = .gang ∧ b.2.gid = id)) }) s
  let mine := s1.gbars.filter fun e => decide (e.1 / 512 = id)
  let rest := s1.gbars.filter fun e => decide (e.1 / 512 ≠ id)
  let s2 : State := { s1 with
    gbars := match heir with
      | some h => mine.foldl (fun m e =>
          if (Sparse.find? (h * 512 + e.1 % 512) m).isSome then m else Sparse.set (h * 512 + e.1 % 512) e.2 m) rest
      | none => rest }
  match heir with
  | some h => s2.renameFlits id h
  | none => s2.writeTree g false

/-- The gang is forgotten once its cells are free and its list is launched. -/
def State.dropGang (s : State) (id : Nat) : State :=
  match Sparse.find? id s.gangs with
  | some g => if g.doneAdded ∧ g.trigDone ∧ g.trigLeft.isEmpty then { s with gangs := Sparse.erase id s.gangs } else s
  | none => s

/-- The gang's end is complete: its cells are free (R162). -/
def State.gangDone (s : State) (id : Nat) (g : Gang) : State :=
  ((s.freeGang id g).updGang id fun x => { x with doneAdded := true, combs := [] }).dropGang id

/-- The far-atomic add of 1 to the completion word leaves for its home (R162); an add that faults is posted. -/
def State.sendDone (s : State) (id : Nat) (g : Gang) : State :=
  let d := g.desc
  match s.schedReach id g pathFA .far d.done 8 with
  | .migrate s' _ | .wait s' => s'
  | .fault s' f => (s'.postSched g.frame d.ctx f.code 0 (bits d.done 3 52)).gangDone id g
  | .ok s' ls =>
    match ls with
    | .mem pa _ :: _ =>
      let comb := combOf (g.cells.headD 0)
      (s'.sendNc comb .faop (pa / 128) false
        { NcOp.new (.sched comb id) with addr := pa, n := 8, aop := amoCode .add, val := 1 }).updGang id fun x => { x with doneSent := true }
    | _ => s'.gangDone id g

/-- GANG_COMPLETE: the DONE add after every member has ended and the scheduler's release is performed; the cells are
free when the add has come back (R162). A poisoned word is posted as a fault (R106). The trigger list comes before it (R177). -/
def execGangComplete (gang : Nat) (st : State) : Outcome State Fault Refusal :=
  .next (
    match Sparse.find? gang st.gangs with
    | some g =>
      if g.complete ∧ g.trigDone ∧ g.trigLeft.isEmpty ∧ !g.doneAdded then
        if g.desc.done = 0 then st.gangDone gang g
        else
          match g.doneBack with
          | some pois =>
            (if pois then st.postSched g.frame g.desc.ctx 0x0B 0 (bits g.desc.done 3 52) else st).gangDone gang g
          | none => if g.doneSent then st else st.schedAfter gang g id fun s => s.sendDone gang g
      else st
    | none => st)

/-- One entry of a trigger list is read once in the gang's context (R158, R176): the descriptor, or none when it is
refused and posted; nothing yet while its page migrates or its walk waits. DEDUCED (log 75). -/
def State.readTrigger (s : State) (id : Nat) (g : Gang) (a : Word) : State × Option (Option Desc) :=
  let ctx := g.desc.ctx
  let c := g.cells.headD 0
  let refuse := fun (s : State) (code : Nat) => (s.postSched g.frame ctx code 1 (bits a 3 52), some none)
  match s.schedReach id g pathLS .read a 1 with
  | .migrate s' _ | .wait s' => (s', none)
  | .fault s' f => refuse s' f.code
  | .ok s' l =>
    if !descMemory l then refuse s' 0x10
    else
      let v := s'.unitRead c .user (locsFrom (l.headD (.own 0)) 256)
      if v.2.1 then refuse v.2.2 0x0B
      else
        let s1 := v.2.2.touchCtx (descOf a (descWords v.1)).ctx
        match s1.descCheck (some ctx) a (descWords v.1) with
        | .error (code, _) => refuse s1 code
        | .ok d => (s1, some (some d))

/-- TRIGGER_LIST_LAUNCH: the next entry of a trigger-complete gang's list is read, and enters its queue
once there is a place (R176). -/
def execTriggerListLaunch (gang : Nat) (st : State) : Outcome State Fault Refusal :=
  .next (
    match Sparse.find? gang st.gangs with
    | some g =>
      if !g.trigDone then
        if g.trigComplete then
          st.updGang gang fun x => { x with trigDone := true, trigLeft := x.desc.trigs.filter fun t => decide (t ≠ 0) }
        else st
      else
        match g.trigLeft with
        | a :: rest =>
          let next := match g.trigDesc with
            | some d => (st, some (some d))
            | none => st.schedAfter gang g (fun s => (s, none)) fun s => s.readTrigger gang g a
          match next with
          | (s1, some (some d)) =>
            let u := unitOf d.level g.frame
            if launchCap ≤ (s1.queue u d.prio).length then s1.updGang gang fun x => { x with trigDesc := some d }
            else ((s1.enqueueLaunch u (Launch.new d)).updGang gang
              fun x => { x with trigLeft := rest, trigDesc := none, rel := none }).dropGang gang
          | (s1, some none) => (s1.updGang gang fun x => { x with trigLeft := rest, rel := none }).dropGang gang
          | (s1, none) => s1
        | [] => st.dropGang gang
    | none => st)

/-! ### Stopping a gang (R247, R248) -/

/-- A matrix instruction of the slot in the unit completes (R239). -/
def State.finishUnit (s : State) (slot : Nat) : State :=
  if s.inUnit slot = [] then s else (s.qStep slot true).1.updCellAt (cellOf slot) fun c => { c with unit := none }

/-- A member stops (R247): an element under escalation is settled, a deferred report is taken, waits are
withdrawn, IDLE completes, the queues stop with ESI set (R239), routes close with truncation markers and the cell's
buffer drains (R50). -/
def State.stopMember (s : State) (slot : Nat) : State :=
  let s1 := (s.finishUnit slot).escalationSettle slot
  let t := s1.thread slot
  let s2 := match t.deferred with
    | va :: rest =>
      (s1.updThread slot fun t => { t with deferred := rest }).trapAt slot
        { code := 0x0B, tval := va, telem := BitVec.ofNat 64 (5 * 2 ^ 60) } t.pc t.pc
    | [] => s1
  let s3 := (s2.withdraw slot).updThread slot fun t =>
    let u := t.idleDone.hazSettle s.cycle
    let q := u.vq ++ u.tq
    { u with
      csr := if q.isEmpty then u.csr else Sparse.set csrESI (stopEsi q) u.csr
      stopped := true
      pred := none
      ringSince := none
      descRead := none
      part := none
      park := if u.park = .marker ∨ u.park = .starting then u.park else .running }
  let s4 := s3.stopCmds slot
    (fun k => k.running && (s3.cell (cellOf slot)).ports.any fun r => decide (r.1 = k.port ∧ r.2.slot = slot)) .truncated
  (s4.truncRoutes slot).drainAll (cellOf slot)

/-- Slots of the members that still run. -/
def Gang.liveSlots (g : Gang) : List Nat := g.running.map fun r => g.slots.getD r 0

/-- Every member stops. -/
def State.stopGang (s : State) (id : Nat) (g : Gang) : State :=
  (g.liveSlots.foldl State.stopMember s).updGang id fun x => { x with stopped := true }

/-- The stop waits for a member (R29, R310, R315): it is inside an operation of class S, has sent a DEVICE read, or is part-way
through an instruction that is not interrupted. -/
def State.stopWaits (s : State) (g : Gang) : Bool :=
  g.liveSlots.any fun x =>
    let t := s.thread x
    decide (t.park = .tfence ∨ t.park = .system) || t.reads.any (·.dev) || t.vq.any (·.partWay)

/-- Gang barriers of a gang by id, ascending. -/
def State.gangBars (s : State) (id : Nat) : List (Nat × GBar) :=
  (s.gbars.filter fun e => decide (e.1 / 512 = id)).map fun e => (e.1 % 512, e.2)

/-- A barrier when the routers' state is collected (R147, R247): generations whose arrivals have all been made are complete. -/
def GBar.collected (b : GBar) : GBar :=
  { b with
    gen := b.genNow
    came := b.came.drop (b.came.length / b.exp * b.exp)
    joins := b.joins.filter fun j => decide (j.2 / 2 ^ 64 = b.genNow) }

/-- The barrier area of a stop (R248). -/
def State.writeBarArea (s : State) (id : Nat) (g : Gang) (bar : Nat) : State :=
  let bs := (s.gangBars id).map fun b => (b.1, b.2.collected)
  let n := g.desc.n * g.desc.k
  let words := (n + 63) / 64
  let head := [inat (bs.length + n * 2 ^ 32), (0, false)]
  let entries := bs.flatMap fun b =>
    [inat (b.1 + 2 ^ 15 + b.2.gen * 2 ^ 16 + b.2.exp * 2 ^ 32), inat b.2.came.length]
  let maps := bs.flatMap fun b =>
    (List.range words).map fun i => inat (b.2.came.foldl (fun v r => if r / 64 = i then v + 2 ^ (r % 64) else v) 0)
  s.physPut bar (head ++ entries ++ maps)

/-- The launch that a gang becomes that stops now. -/
def State.toLaunch (s : State) (id : Nat) (g : Gang) : Launch :=
  { desc := { g.desc with wv := false }
    resumed := true
    done := g.members.filter fun e => decide (e.2 ≠ .running)
    triggered := g.triggered
    trigDone := g.trigDone
    trigLeft := g.trigLeft
    trigDesc := g.trigDesc
    heirs := g.heirs
    since := s.cycle
    joins := (s.gangBars id).map fun b => (b.1, b.2.collected.joins) }

/-- Every member is saved at its home location and the gang's cells are freed (R252, R307). -/
def State.saveGang (s : State) (id : Nat) (g : Gang) (e : CtxEntry) : State :=
  let s1 := g.liveSlots.foldl (fun s x => s.saveHome x e) s
  let s2 := g.liveSlots.foldl (fun (s : State) x => { s with threads := Sparse.erase x s.threads }) s1
  let s3 := (s2.freeGang id { g with heirs := [] })
  { s3 with gangs := Sparse.erase id s3.gangs }

/-- The context already holds a stopped gang (R307): in place, saved, or saved and queued again. -/
def State.ctxStopped (s : State) (ctx : Nat) : Bool :=
  (Sparse.find? ctx s.stopped).isSome || (s.queues.any fun q => q.2.any fun l => l.resumed && decide (l.desc.ctx = ctx))

/-! ### GSTOP, GRESUME, CSAVE, CRESTORE (R307 to R309) -/

/-- The slot that a slot word names. -/
def State.slotOf (s : State) (w : Word) : Nat := s.cellOfLogical (bits w 2 14) * 4 + bits w 0 2

/-- The `GSTOP`s that wait for a gang's stop complete (R307, R310). -/
def State.endStops (s : State) (g : Gang) : State :=
  g.stops.foldl (fun s x => s.updThread x.1 fun t => ((t.writeS (BitVec.ofNat 5 x.2.1) 0).stepPc).mark x.2.2) s

/-- The gang stopped in place in this cycle (R184, R310). -/
def State.stoppedNow (s : State) (id ctx : Nat) : Bool :=
  match Sparse.find? ctx s.stopped with
  | some x => decide (x.inPlace = some id ∧ x.launch.since = s.cycle)
  | none => false

/-- A gang whose members have stopped is saved (R252, R307), as a victim to re-enter the head of its queue (R183, R184). -/
def State.saveStopped (s : State) (id : Nat) (g : Gang) : State :=
  match s.ctxEntry g.desc.ctx with
  | some e =>
    let l := s.toLaunch id g
    let s1 := (((s.touchCtx g.desc.ctx).writeBarArea id g e.bar).saveGang id g e).endStops g
    if g.victim.isSome then
      ({ s1 with stopped := Sparse.erase g.desc.ctx s1.stopped } : State).requeueLaunch (unitOf g.desc.level g.frame) l
    else { s1 with stopped := Sparse.set g.desc.ctx ⟨none, l, g.slots⟩ s1.stopped }
  | none => s

/-- A gang whose members have stopped stays in place (R307). -/
def State.keepStopped (s : State) (id : Nat) (g : Gang) : State :=
  let s1 := match s.ctxEntry g.desc.ctx with
    | some e => (s.touchCtx g.desc.ctx).writeBarArea id g e.bar
    | none => s
  let s2 : State := { s1 with stopped := Sparse.set g.desc.ctx ⟨some id, s1.toLaunch id g, g.slots⟩ s1.stopped }
  (s2.endStops g).updGang id fun x => { x with stops := [] }

/-- The stop of a gang goes on: its members stop once none has to be waited for; to be saved, the gang waits until nothing
is under way, and a victim while its context holds another stopped gang. -/
def State.stopStep (s : State) (id : Nat) (g : Gang) : State :=
  if s.stopWaits g then s
  else
    let s1 := if g.stopped then s else s.stopGang id g
    let g1 := (Sparse.find? id s1.gangs).getD g
    if !g.saving ∧ g.victim.isNone then s1.keepStopped id g1
    else
      let s2 := g.liveSlots.foldl State.quiesce s1
      if g.liveSlots.any s2.saveWaits then s2
      else if g.victim.isSome ∧ s2.ctxStopped g.desc.ctx ∧ !s2.stoppedNow id g.desc.ctx then s2
      else s2.saveStopped id ((Sparse.find? id s2.gangs).getD g)

/-- The executing `GSTOP` waits for the gang's stop, and it goes on. -/
def State.joinStop (s : State) (mk : Bool) (d : Reg) (save : Bool) (id : Nat) : State :=
  let s1 := (s.parkAs .system).updGang id fun g =>
    { g with
      stops := if g.stops.any (fun x => decide (x.1 = s.cur)) then g.stops else g.stops ++ [(s.cur, d.toNat, mk)]
      saving := g.saving || save }
  match Sparse.find? id s1.gangs with
  | some g => s1.stopStep id g
  | none => s1

/-- The slot's gang was stopped and saved in this cycle (R310). -/
def State.savedNow (s : State) (slot : Nat) : Bool :=
  s.stopped.any fun e => decide (e.2.inPlace = none ∧ e.2.launch.since = s.cycle ∧ slot ∈ e.2.slots)

/-- GSTOP (R247, R248, R307, R310). DESIGN CHOICE (log 131): a slot whose thread belongs to no gang is an illegal operand. -/
def execGstop (s : Bool) (d a : Reg) (st : State) : Outcome State Fault Refusal :=
  .next (st.sysOp s true 7 d a fun t => t.guarded [a] [d] fun t =>
    let w := t.rs a
    let save := w.getLsbD 16
    let slot := t.slotOf w
    let th := t.thread slot
    if bits w 17 47 ≠ 0 then t.badOperand w
    else if t.savedNow slot then (t.ws d 0).advance s
    else if !th.live then (t.ws d 1).advance s
    else
      match th.gang, t.gangOf slot with
      | some id, some g =>
        let ctx := g.desc.ctx
        let t1 := t.touchCtx ctx
        if t.thr.gang = some id ∨ (save ∧ (t.ctxEntry ctx).isNone) then t1.badOperand w
        else if g.victim.isSome ∨ !g.stops.isEmpty then t1.joinStop s d save id
        else if t.stoppedNow id ctx then (if save then t1.joinStop s d true id else (t1.ws d 0).advance s)
        else if t.ctxStopped ctx then t1.badOperand w
        else t1.joinStop s d save id
      | _, _ => t.badOperand w)

/-- GRESUME (R249, R308). DESIGN CHOICE (log 132): a saved gang of level cell, comb or frame enters the queue of the frame of
the issuing thread. -/
def execGresume (s : Bool) (d a : Reg) (st : State) : Outcome State Fault Refusal :=
  .next (st.sysOp s true 8 d a fun t => t.guarded [a] [d] fun t =>
    let w := t.rs a
    if bits w 16 48 ≠ 0 then t.badOperand w
    else
      match Sparse.find? w.toNat t.stopped with
      | none => (t.ws d 1).advance s
      | some x =>
        let t1 : State := { t with stopped := Sparse.erase w.toNat t.stopped }
        let t2 :=
          match x.inPlace with
          | some id =>
            match Sparse.find? id t1.gangs with
            | some g =>
              (g.liveSlots.foldl (fun (s : State) y => s.updThread y fun t => { t with stopped := false, fwd := .none, fwdBuf := [] }) t1).updGang
                id fun g => { g with stopped := false, saving := false }
            | none => t1
          | none => t1.requeueLaunch (unitOf x.launch.desc.level (frameOfComb (combOf t.cc))) x.launch
        (t2.ws d 0).advance s)

/-- A slot word of CSAVE and CRESTORE names a member of a gang stopped in place, other than the issuing
thread (R309). -/
def State.stoppedSlot (s : State) (w : Word) (f : State → Nat → State) : State :=
  let slot := s.slotOf w
  let t := s.thread slot
  let inPlace := match t.gang with
    | some id => s.stopped.any fun e => decide (e.2.inPlace = some id)
    | none => false
  if bits w 17 47 ≠ 0 ∨ !t.live ∨ !inPlace ∨ slot = s.cur then s.badOperand w else f s slot

/-- Locations of consecutive 8-byte words from `va`, or the stop of the access. -/
def State.wordLocs (s : State) (k : AccKind) (va : Word) (n : Nat) : State × Option (List (List Loc)) :=
  (List.range n).foldl (fun (a : State × Option (List (List Loc))) i =>
    match a.2 with
    | none => a
    | some l =>
      let x := va + BitVec.ofNat 64 (8 * i)
      match a.1.access a.1.cur a.1.thr.xlate pathLS k x 8 with
      | .ok s' ls => (s', some (l ++ [ls]))
      | .fault s' f => (s'.accTrap f, none)
      | .wait s' => (s'.stall, none)
      | .migrate s' p => (s'.onMigrate p, none)) (s, some [])

/-- The location of an image at the home location of the slot's thread. -/
def State.isHome (s : State) (slot : Nat) (ls : List Loc) : Option CtxEntry :=
  let t := s.thread slot
  match s.ctxEntry (bits (t.csrGet csrPSTATE) 48 16), ls with
  | some e, .mem pa _ :: _ => if pa = e.home t.rank then some e else none
  | _, _ => none

/-- The words of an image are performed at their homes (R309), and the cell's L1 keeps none of their lines. -/
def State.putImage (s : State) (ls : List (List Loc)) (img : List IWord) : State :=
  let s1 := (ls.zip img).foldl (fun (s : State) x => s.unitWrite s.cur s.mode x.1 x.2.1 x.2.2) s
  (memLines ls.flatten).foldl (fun s l => s.l1Drop s.cc l) s1

/-- CSAVE (R251, R252, R309): what its thread stored before is performed first. -/
def execCsave (s : Bool) (b a : Reg) (st : State) : Outcome State Fault Refusal :=
  .next (st.sysOp s true 5 b a fun t => t.guarded [a, b] [] fun t =>
    t.stoppedSlot (t.rs b) fun t slot =>
      let va := t.rs a
      if va.toNat % 128 ≠ 0 then t.badOperand va
      else (t.released psLS .module fun t =>
        let t1 := t.quiesce slot
        if t1.saveWaits slot then t1.stall
        else
          let img := t1.image slot none 0
          let r := t1.wordLocs .write va img.length
          match r.2 with
          | none => r.1
          | some ls =>
            let t2 := r.1.touchCtx (bits ((r.1.thread slot).csrGet csrPSTATE) 48 16)
            match t2.isHome slot (ls.headD []) with
            | some e => (t2.saveHome slot e).advance s
            | none => if t2.lateCount slot ≠ 0 then t2.stall else ((t2.poolRead9 slot).putImage ls img).advance s).inSystem)

/-- Words of an image by virtual address. -/
def State.readImage (s : State) (va : Word) (n : Nat) : State × Option (List IWord) :=
  let r := s.wordLocs .read va n
  match r.2 with
  | none => (r.1, none)
  | some ls =>
    let x := ls.foldl (fun (a : State × List IWord) l =>
      let y := a.1.unitRead a.1.cc a.1.mode l
      (y.2.2, (y.1, y.2.1) :: a.2)) (r.1, [])
    (x.1, some x.2.reverse)

/-- CRESTORE (R254, R309). -/
def execCrestore (s : Bool) (b a : Reg) (st : State) : Outcome State Fault Refusal :=
  .next (st.sysOp s true 6 b a fun t => t.guarded [a, b] [] fun t =>
    t.stoppedSlot (t.rs b) fun t slot =>
      let va := t.rs a
      if va.toNat % 128 ≠ 0 then t.badOperand va
      else (t.released psLS .module fun t =>
        let h := (t.acquire t.cur psLS .module).readImage va 4
        match h.2 with
        | none => h.1
        | some hd =>
          if imageHeadBad hd then h.1.badOperand va
          else
          let r := h.1.readImage va ((hd.getD 3 (0, false)).1 % 2 ^ 32 / 8)
          match r.2 with
          | none => r.1
          | some ws =>
            let t1 := r.1
            match t1.checkImage slot (decide (t1.mode = .supervisor)) ws with
            | .error .operand => t1.badOperand va
            | .error (.feature m) => t1.trap { code := 0x14, tval := BitVec.ofNat 64 m }
            | .ok l =>
              let ctx := match t1.gangOf slot with | some g => g.desc.ctx | none => 0
              if (ws.getD 5 (0, false)).1 % 65536 ≠ ctx then t1.badOperand va
              else
                let t2 := t1.restoreImage slot l
                t2.reach pathFA .far (va + 32) 8 fun t3 ls =>
                  let v := t3.unitRead t3.cc t3.mode ls
                  if v.1 / 2 ^ 32 ≠ 0 then v.2.2.parkAs .late
                  else
                    ((v.2.2.unitWrite t3.cur t3.mode ls 0 false).updThread slot fun t =>
                      { t.raise (BitVec.ofNat 7 v.1) with resident := true }).advance s).inSystem)

/-! ### Pre-emption (R184) -/

/-- A gang whose units count as free for a head of priority `p` (R184): of lower priority, and a victim that is already
stopping, or one that the scheduler may stop: pre-emption is permitted, and its context holds no stopped gang but itself,
stopped in this cycle. -/
def State.mayPreempt (s : State) (p id : Nat) (g : Gang) : Bool :=
  decide (g.desc.prio < p) && !g.complete && (g.victim.isSome ||
    ((!g.stopped && !s.ctxStopped g.desc.ctx) || s.stoppedNow id g.desc.ctx) &&
    (match s.ctxEntry g.desc.ctx with | some e => e.pre | none => false))

/-- GSCTL of a scheduler (R185). -/
def State.gsctl (s : State) (unit : Nat) : Word :=
  s.dev (if unit < 8 then combReg (frameComb unit) 0xC_0000 else combReg 0 0xC_0008)

/-- Gangs that a place for level `lv` overlaps: those that hold one of its cells or combs, and for a
place of whole combs those with a cell in them (R180). -/
def State.overlapping (s : State) (lv : Nat) (p : Place) : List Nat :=
  (s.gangs.filter fun e => !e.2.complete && (e.2.cells.any p.cells.elem ||
    (decide (2 ≤ e.2.desc.level ∨ 2 ≤ lv) && e.2.combs.any p.combs.elem))).map (·.1)

/-- PREEMPTION: victims that have stopped are saved; then the first head that has waited long enough
and does not fit chooses its victims (R184). DESIGN CHOICE (log 127): a head that is held on its counter chooses none. -/
def execPreemption (unit : Nat) (st : State) : Outcome State Fault Refusal :=
  .next (
    match (st.gangs.filter fun e => e.2.victim.isSome && !st.stopWaits e.2 &&
        !(e.2.stopped && st.ctxStopped e.2.desc.ctx && !st.stoppedNow e.1 e.2.desc.ctx)).head? with
    | some (id, g) => st.stopStep id g
    | none =>
      let w := st.gsctl unit
      if bits w 32 1 = 0 then st
      else
        match [7, 6, 5, 4, 3, 2, 1, 0].findSome? fun p =>
          match st.queue unit p with
          | l :: _ =>
            if l.ready ∧ bits w 0 32 ≤ st.cycle - Sparse.getD st.headSince (unit * 8 + p) 0 ∧
                (st.findPlace unit [] l.desc).isNone then
              (st.findPlace unit ((st.gangs.filter fun e => st.mayPreempt p e.1 e.2).map (·.1)) l.desc).map (st.overlapping l.desc.level)
            else none
          | [] => none with
        | some vs =>
          vs.foldl (fun s id =>
            match Sparse.find? id s.gangs with
            | some g =>
              if g.victim.isSome then s else s.updGang id fun x => { x with victim := some s.cycle }
            | none => s) (st.gangs.foldl (fun s e => s.touchCtx e.2.desc.ctx) st)
        | none => st)

/-- Cycles in which a victim has to stop (R184). -/
def victimLimit : Nat := 1048576

/-- VICTIM_STOP_TIMEOUT: a victim that has not stopped in time is reported once (R184). -/
def execVictimStopTimeout (gang : Nat) (st : State) : Outcome State Fault Refusal :=
  .next (
    match Sparse.find? gang st.gangs with
    | some g =>
      match g.victim with
      | some c =>
        if c + victimLimit ≤ st.cycle ∧ !g.late then
          (st.updGang gang fun x => { x with late := true }).postSched g.frame g.desc.ctx 0 2 (bits g.desc.addr 3 52)
        else st
      | none => st
    | none => st)

end Sys2Proof.Machine
end

