-- ==== Sys2Proof/Machine/Coherence.lean ====
section
/-! DEFINITION. The coherence protocol: slices, homes with their directory, and the packets between
them (R84 to R94, R100, R105, R106, R253). The bytes of a line are held once, at its home; packets
carry who holds a line and in which state. -/

namespace Sys2Proof.Machine

open Host (Outcome)

/-! ### Packets -/

/-- The `n`-th packet that has arrived, of operation `op`, is taken: no earlier packet of an ordered class has the
same two ends (R73), and a home takes its requests in the order in which its port has accepted them (R91, R105). -/
def State.takePkt (s : State) (n : Nat) (op : CohOp) (f : State → Pkt → State) : State :=
  match s.net[n]? with
  | some p =>
    let first := decide (p.op.cls = 1 ∨ p.op.cls = 2) ||
      !((s.net.take n).any fun q => decide (q.op.cls = p.op.cls ∧ (q.src = p.src ∨ p.op.cls = 0) ∧ q.dst = p.dst))
    if p.op = op ∧ first = true then f { s with net := s.net.eraseIdx n } p else s
  | none => s

/-! ### Slices (R88, R89) -/

/-- The reply of a slice to a probe in its present state, and its new state. -/
def State.answer (s : State) (comb line : Nat) (op : CohOp) (req : Nat) : State :=
  let l := s.slice comb line
  let goTo := fun (st : Moesi) => s.setSlice comb line (if st = .i then .invalid else { l with st := st })
  let reply := fun (s : State) (o : CohOp) => s.sendCoh o line comb req l.pois
  match op with
  | .inv =>
    reply (match l.st with
      | .s | .e | .o | .m => goTo .i
      | .smA | .omA => goTo .imD
      | _ => s) .iack
  | .fwds =>
    match l.st with
    | .s => reply (goTo .i) .fackn
    | .e => reply ((goTo .s).sendFrom comb .datas line req req l.pois) .facks
    | .o => reply (s.sendFrom comb .datas line req req l.pois) .facko
    | .omA => reply (s.sendFrom comb .datas line req req l.pois) .facko
    | .m => reply ((goTo .o).sendFrom comb .datas line req req l.pois) .facko
    | _ => reply s .fackn
  | .fwdm =>
    match l.st with
    | .s => reply (goTo .i) .fackn
    | .e | .o | .m => reply ((goTo .i).sendFrom comb .datamg line req req l.pois) .facki
    | .omA => reply ((goTo .imD).sendFrom comb .datamg line req req l.pois) .facki
    | _ => reply s .fackn
  | .rcl =>
    match l.st with
    | .s => reply (goTo .i) .fackn
    | .e | .o | .m => reply (goTo .i) .rcld
    | .omA => reply (goTo .imD) .rcld
    | _ => reply s .fackn
  | _ => s

/-- Codes of deferred probes. -/
def probeCode : CohOp → Nat
  | .inv => 0 | .fwds => 1 | .fwdm => 2 | _ => 3
def probeOf (n : Nat) : CohOp := if n = 0 then .inv else if n = 1 then .fwds else if n = 2 then .fwdm else .rcl

/-- A probe reaches a slice (R88, R89): with a write-back outstanding it is deferred. -/
def State.probe (s : State) (p : Pkt) : State :=
  let l := s.slice p.comb p.line
  match l.st with
  | .miA | .oiA => s.setSlice p.comb p.line { l with deferred := l.deferred ++ [(probeCode p.op, p.req)] }
  | _ => s.answer p.comb p.line p.op p.req

/-- The requester's transaction is complete at the slice: its new state, the writes that waited for it, and CMP
(R89). -/
def State.sliceDone (s : State) (comb line : Nat) (st : Moesi) (pois : Bool) : State :=
  let s1 := s.setSlice comb line { SliceLine.invalid with st := st, pois := pois }
  (if st = .m then s1.performAccepted comb line else s1).sendCoh .cmp line comb comb false

/-- LOCAL_READ: a comb slice serves a local read of a line (R88). -/
def execLocalRead (comb line : Nat) (st : State) : Outcome State Fault Refusal := .next (st.localRead comb line)

/-- LOCAL_WRITE: a comb slice serves a local write or near atomic (R88): the writes that it has accepted for the
line, once it holds the line in E or M. -/
def execLocalWrite (comb line : Nat) (st : State) : Outcome State Fault Refusal :=
  .next (
    match (st.slice comb line).st with
    | .e | .m => (st.localWrite comb line).performAccepted comb line
    | _ => st.localWrite comb line)

/-- FWDS: a slice answers a forwarded shared probe. -/
def execFwds (n : Nat) (st : State) : Outcome State Fault Refusal := .next (st.takePkt n .fwds State.probe)

/-- FWDM: a slice answers a forwarded exclusive probe. -/
def execFwdm (n : Nat) (st : State) : Outcome State Fault Refusal := .next (st.takePkt n .fwdm State.probe)

/-- INV: a slice invalidates its copy. -/
def execInv (n : Nat) (st : State) : Outcome State Fault Refusal := .next (st.takePkt n .inv State.probe)

/-- RCL: a slice answers a recall. -/
def execRcl (n : Nat) (st : State) : Outcome State Fault Refusal := .next (st.takePkt n .rcl State.probe)

/-- DATAS: the requester takes the line in S. -/
def execDatas (n : Nat) (st : State) : Outcome State Fault Refusal :=
  .next (st.takePkt n .datas fun s p => if (s.slice p.comb p.line).st = .isD then s.sliceDone p.comb p.line .s p.pois else s)

/-- DATAE: the requester takes the line in E. -/
def execDatae (n : Nat) (st : State) : Outcome State Fault Refusal :=
  .next (st.takePkt n .datae fun s p => if (s.slice p.comb p.line).st = .isD then s.sliceDone p.comb p.line .e p.pois else s)

/-- A slice waits for ownership. -/
def Moesi.wantsM : Moesi → Bool
  | .imD | .smA | .omA => true
  | _ => false

/-- DATAM: the requester takes the line in M. -/
def execDatam (n : Nat) (st : State) : Outcome State Fault Refusal :=
  .next (st.takePkt n .datam fun s p => if (s.slice p.comb p.line).st.wantsM then s.sliceDone p.comb p.line .m p.pois else s)

/-- DATAMG: the owner's data reaches the requester, which still needs the home's GO. -/
def execDatamg (n : Nat) (st : State) : Outcome State Fault Refusal :=
  .next (st.takePkt n .datamg fun s p =>
    let l := s.slice p.comb p.line
    if l.st = .imD then
      if l.gotGo then s.sliceDone p.comb p.line .m p.pois
      else s.setSlice p.comb p.line { l with gotData := true, pois := p.pois }
    else s)

/-- GO: the home's grant. -/
def execGo (n : Nat) (st : State) : Outcome State Fault Refusal :=
  .next (st.takePkt n .go fun s p =>
    let l := s.slice p.comb p.line
    match l.st with
    | .smA | .omA => s.sliceDone p.comb p.line .m l.pois
    | .imD =>
      if l.gotData then s.sliceDone p.comb p.line .m l.pois else s.setSlice p.comb p.line { l with gotGo := true }
    | _ => s)

/-- WBACK: the writer's line goes to I and deferred probes are answered as in I (R89). -/
def execWback (n : Nat) (st : State) : Outcome State Fault Refusal :=
  .next (st.takePkt n .wback fun s p =>
    let l := s.slice p.comb p.line
    match l.st with
    | .miA | .oiA =>
      l.deferred.foldl (fun s d => s.answer p.comb p.line (probeOf d.1) d.2) (s.setSlice p.comb p.line .invalid)
    | _ => s)

/-! ### Directories (R86, R87) -/

/-- The directory entry of a line. -/
def State.dirOf (s : State) (line : Nat) : DirEntry := Sparse.getD s.dir line .invalid
def State.setDir (s : State) (line : Nat) (d : DirEntry) : State :=
  { s with dir := if d = .invalid then Sparse.erase line s.dir else Sparse.set line d s.dir }

/-- The pointer of a comb (R86, R95), and the comb of a pointer. -/
def State.pointer (s : State) (comb : Nat) : Nat := if comb < 1024 then s.node * 1024 + comb else comb - 1024
def State.combAt (s : State) (ptr : Nat) : Nat := if ptr / 1024 = s.node then ptr % 1024 else ptr + 1024

/-- A pointer's bit joins the vectors. -/
def DirEntry.mark (d : DirEntry) (node ptr : Nat) : DirEntry :=
  if ptr / 1024 = node then { d with frm := d.frm ||| BitVec.ofNat 8 (2 ^ frameOfComb (ptr % 1024)) }
  else { d with mod := d.mod ||| BitVec.ofNat 8 (2 ^ (ptr / 1024)) }

/-- A sharer is added (R87). -/
def DirEntry.addSharer (d : DirEntry) (node ptr : Nat) : DirEntry :=
  if d.ovf then d.mark node ptr
  else if d.sharers.elem ptr then d
  else if d.sharers.length < 4 then { d with sharers := d.sharers ++ [ptr] }
  else (ptr :: d.sharers).foldl (fun d p => d.mark node p) { d with ovf := true, sharers := [] }

/-- Combs, and whole modules, that an invalidation of the sharers reaches (R87), without `skip`. -/
def State.sharerCombs (s : State) (d : DirEntry) (skip : List Nat) : List Nat :=
  (if d.ovf then
    ((List.range Config.combs).filter fun c => d.frm.getLsbD (frameOfComb c)) ++
      ((List.range 8).filter fun m => d.mod.getLsbD m && decide (m ≠ s.node)).map fun m =>
        wideComb m (if d.st = .ex ∨ d.st = .os then d.owner + 1 else 0)
   else d.sharers.map s.combAt).filter fun c => !skip.elem c

/-- The entry once its owner has written the line back (R90). -/
def DirEntry.withoutOwner (d : DirEntry) : DirEntry := if d.st = .ex then .invalid else { d with st := .s, owner := 0 }

/-- The line is owned by `r` alone. -/
def State.ownedBy (s : State) (r : Nat) : DirEntry := ⟨.ex, s.pointer r, [], false, 0, 0⟩

/-! ### Homes (R90, R91, R94) -/

/-- A new transaction. -/
def HomeTx.new (p : Pkt) : HomeTx := ⟨p, 0, false, false, false, false, false, [], []⟩

def State.setHome (s : State) (line : Nat) (x : HomeTx) : State := { s with homes := Sparse.set line x s.homes }

/-- Data from memory goes to the requester (R90). -/
def State.sendData (s : State) (op : CohOp) (line r : Nat) : State :=
  let p := s.homePoison line
  p.2.sendCoh op line r r p.1

/-- A transaction awaits an acknowledgement of each of `cs` (R87, R96). -/
def HomeTx.awaits (x : HomeTx) (cs : List Nat) : HomeTx := { x with acks := cs.length, far := cs.filter fun c => decide (1024 ≤ c) }

/-- One of them has come, from `comb`. -/
def HomeTx.acked (x : HomeTx) (comb : Nat) : HomeTx :=
  let same := fun (c : Nat) => decide (c = comb) || decide (16384 ≤ comb ∧ 16384 ≤ c ∧ nodeOf c = nodeOf comb)
  { x with
    acks := x.acks - 1
    far := match x.far.find? same with | some c => x.far.erase c | none => x.far }

/-- INV goes to every comb of a list. -/
def State.sendInvs (s : State) (line : Nat) (r : Nat) (cs : List Nat) : State :=
  cs.foldl (fun s c => s.sendCoh .inv line c r false) s

/-- NCRSP goes back to the requester of an NC request; an access that is no cell's gets none (R94). -/
def State.respond (s : State) (p : Pkt) (o : NcOp) (pois : Bool) : State :=
  if o.who = .host then s else s.sendPkt ⟨.ncrsp, p.line, p.comb, homeComb p.line, p.req, pois, some o⟩

/-- A line of the second tier in its home's atomic buffer, which reads it when it does not hold it; the oldest of 256
lines gives way (R104). DESIGN CHOICE (log 111). -/
def State.farTouch (s : State) (line : Nat) : Bool × State :=
  if s.farBuf.elem line then (s.linePoisoned line, s)
  else
    let q := s.homePoison line
    (q.1, if 8 ≤ (blockOf line).1 then { q.2 with farBuf := (q.2.farBuf ++ [line]).drop (q.2.farBuf.length - 255) } else q.2)

/-- A far atomic at the home (R104 to R106): not performed on a poisoned line; else the line is dirty there. -/
def State.performFar (s : State) (p : Pkt) (o : NcOp) : State :=
  let q := s.farTouch p.line
  if q.1 then q.2.respond p o true
  else
    let old := q.2.memRead o.addr o.n
    let r := amoApply (amoOfCode (o.aop % 16)) (8 * o.n) (fpRmOf (BitVec.ofNat 64 (o.aop / 16))) old o.val.toNat o.cmpv.toNat
    let s1 := if r.2.2 then q.2.putLine p.line (putBytes 0 (o.addr % 128) o.n r.1) (byteMask (o.addr % 128) o.n) else q.2
    (s1.homeDirty p.line).respond p { o with data := BitVec.ofNat 1024 old, flags := r.2.1 } false

/-- NCRD, NCWR or FAOP is performed at the home (R94, R104 to R106). What the host reads of a poisoned line is a free
value. DESIGN CHOICE (log 31). -/
def State.performNc (s : State) (p : Pkt) : State :=
  match p.nc with
  | none => s
  | some o =>
    match p.op with
    | .ncrd =>
      let q := s.homePoison p.line
      if o.who = .host then
        if q.1 then { q.2 with hostData := Config.freeWord s.free, free := s.free + 1 }
        else { q.2 with hostData := BitVec.ofNat 64 (s.memRead o.addr 8) }
      else q.2.respond p { o with data := q.2.lineData p.line } q.1
    | .ncwr => (s.homeStore p.line o.data o.mask p.pois).respond p o false
    | .faop => s.performFar p o
    | _ => s

/-- The next step of a transaction whose replies have all arrived; the second part says that it has
ended and the line is no longer busy. -/
def State.homeTry (s : State) (line : Nat) : State × Bool :=
  match Sparse.find? line s.homes with
  | none => (s, false)
  | some x =>
    if x.acks ≠ 0 ∨ x.probe then (s, false)
    else if x.sent then (s, x.cmp)
    else
      let r := x.pkt.req
      match x.pkt.op with
      | .getm | .upg =>
        let s1 := (s.setHome line { x with sent := true }).setDir line (s.ownedBy r)
        (if x.fwd then s1.sendCoh .go line r r false else s1.sendData .datam line r, false)
      | .ncrd | .ncwr | .faop =>
        let d := s.dirOf line
        let s1 := if d.st = .s ∧ x.pkt.op = .ncrd then s else s.setDir line .invalid
        (s1.performNc x.pkt, true)
      | .rcl => (s.setDir line .invalid, true)
      | _ => (s, false)

/-- A request starts at the home of a line that is not busy (R90, R94). -/
def State.homeStart (s : State) (p : Pkt) : State :=
  let line := p.line
  let d := s.dirOf line
  let r := p.req
  let node := s.node
  let own := s.combAt d.owner
  let isSharer := !d.ovf && d.sharers.elem (s.pointer r)
  let tx := HomeTx.new p
  match p.op with
  | .gets =>
    match d.st with
    | .i => ((s.setHome line { tx with sent := true }).setDir line (s.ownedBy r)).sendData .datae line r
    | .s => ((s.setHome line { tx with sent := true }).setDir line (d.addSharer node (s.pointer r))).sendData .datas line r
    | _ => (s.setHome line { tx with probe := true }).sendCoh .fwds line own r false
  | .ncrd | .ncwr | .faop =>
    match d.st with
    | .i => s.setHome line tx
    | .s =>
      if p.op = .ncrd then s.setHome line tx
      else
        let cs := s.sharerCombs d []
        (s.setHome line (tx.awaits cs)).sendInvs line r cs
    | _ =>
      let cs := s.sharerCombs d [own]
      ((s.setHome line { tx.awaits cs with probe := true }).sendInvs line r cs).sendCoh .rcl line own r false
  | .rcl =>
    -- R103: the entry is rebuilt from the answers of every comb of every module
    let cs := List.range Config.combs ++ s.peers.flatMap fun m => (List.range Config.combs).map (farComb m)
    cs.foldl (fun s c => s.sendCoh .rcl line c r false) ((s.setHome line (tx.awaits cs)).setDir line .invalid)
  | _ =>
    let direct := p.op = .upg ∧ (isSharer ∨ (d.st = .os ∧ d.owner = s.pointer r))
    match d.st with
    | .i => s.setHome line tx
    | .s =>
      let cs := s.sharerCombs d [r]
      (s.setHome line { tx.awaits cs with fwd := direct }).sendInvs line r cs
    | .ex => (s.setHome line { tx with probe := true }).sendCoh .fwdm line own r false
    | .os =>
      if direct then
        let cs := s.sharerCombs d [r, own] ++ (if own = r then [] else [own])
        (s.setHome line { tx.awaits cs with fwd := true }).sendInvs line r cs
      else
        let cs := s.sharerCombs d [r, own]
        ((s.setHome line { tx.awaits cs with probe := true }).sendInvs line r cs).sendCoh .fwdm line own r false

/-- The line leaves busy, and waiting requests are taken in arrival order (R91). -/
def State.homeNext (s : State) (line : Nat) : Nat → State
  | 0 => s
  | fuel + 1 =>
    match Sparse.find? line s.homes with
    | none => s
    | some x =>
      match x.waiting with
      | [] => { s with homes := Sparse.erase line s.homes }
      | p :: rest =>
        let s1 := ({ s with homes := Sparse.erase line s.homes } : State).homeStart p
        let s2 := match Sparse.find? line s1.homes with
          | some y => s1.setHome line { y with waiting := rest }
          | none => s1
        let q := s2.homeTry line
        if q.2 then q.1.homeNext line fuel else q.1

/-- The transaction of a line goes on after a reply. -/
def State.homeStep (s : State) (line : Nat) : State :=
  let q := s.homeTry line
  if q.2 then q.1.homeNext line (((Sparse.find? line q.1.homes).map (·.waiting.length)).getD 0 + 1) else q.1

/-- The packet comes from a module that no hive link reaches any more (R96). -/
def State.lost (s : State) (p : Pkt) : Bool := decide (1024 ≤ p.comb) && !s.peers.elem (nodeOf p.comb)

/-- A request reaches its home (R91): it waits while the line is busy. One of a lost module ends there (R96). -/
def State.homeRequest (s : State) (p : Pkt) : State :=
  if s.lost p then s
  else match Sparse.find? p.line s.homes with
  | some x => s.setHome p.line { x with waiting := x.waiting ++ [p] }
  | none => (s.homeStart p).homeStep p.line

/-- The entry of a line is to be rebuilt (R103): before the requests that wait for the line. -/
def State.rebuildDir (s : State) (line : Nat) : State :=
  let p : Pkt := ⟨.rcl, line, 0, homeComb line, 0, false, none⟩
  match Sparse.find? line s.homes with
  | some x => s.setHome line { x with waiting := p :: x.waiting }
  | none => (s.homeStart p).homeStep line

/-- GETS: the home handles a shared-read request. -/
def execGets (n : Nat) (st : State) : Outcome State Fault Refusal := .next (st.takePkt n .gets State.homeRequest)

/-- GETM: the home handles an exclusive request. -/
def execGetm (n : Nat) (st : State) : Outcome State Fault Refusal := .next (st.takePkt n .getm State.homeRequest)

/-- UPG: the home handles an upgrade request. -/
def execUpg (n : Nat) (st : State) : Outcome State Fault Refusal := .next (st.takePkt n .upg State.homeRequest)

/-- NCRD: a non-coherent read at the home. -/
def execNcrd (n : Nat) (st : State) : Outcome State Fault Refusal := .next (st.takePkt n .ncrd State.homeRequest)

/-- NCWR: a non-coherent write at the home. -/
def execNcwr (n : Nat) (st : State) : Outcome State Fault Refusal := .next (st.takePkt n .ncwr State.homeRequest)

/-- FAOP: a far atomic at the home. -/
def execFaop (n : Nat) (st : State) : Outcome State Fault Refusal := .next (st.takePkt n .faop State.homeRequest)

/-- The transaction of the packet's line changes, then goes on. -/
def State.homeReply (s : State) (p : Pkt) (f : State → HomeTx → State) : State :=
  match Sparse.find? p.line s.homes with
  | some x => (f s x).homeStep p.line
  | none => s

/-- IACK: one invalidation is acknowledged. -/
def execIack (n : Nat) (st : State) : Outcome State Fault Refusal :=
  .next (st.takePkt n .iack fun s p => s.homeReply p fun s x => s.setHome p.line (x.acked p.comb))

/-- The owner supplied a GETS with data; it keeps S or O (R90), unless its write-back has come before its reply
(R92). -/
def State.ownerShared (s : State) (p : Pkt) (x : HomeTx) (keepsO : Bool) : State :=
  let d := s.dirOf p.line
  let r := s.pointer x.pkt.req
  let d1 : DirEntry :=
    if keepsO then
      let e : DirEntry := if d.st = .os then d else { d with st := .os, sharers := [], ovf := false, frm := 0, mod := 0 }
      (if x.gone then { e with st := .s, owner := 0 } else e).addSharer s.node r
    else (⟨.s, 0, [d.owner], false, 0, 0⟩ : DirEntry).addSharer s.node r
  (s.setHome p.line { x with probe := false, sent := true }).setDir p.line d1

/-- The probed slice, of `comb`, held no copy: the home serves the request from memory (R90), or one comb less is awaited
(R103). -/
def State.noCopy (s : State) (line comb : Nat) (x : HomeTx) : State :=
  let x1 := { x with probe := false }
  match x.pkt.op with
  | .gets =>
    let d := s.dirOf line
    let r := x.pkt.req
    if d.st = .os then
      ((s.setHome line { x1 with sent := true }).setDir line ({ d with st := .s, owner := 0 }.addSharer s.node (s.pointer r))).sendData
        .datas line r
    else ((s.setHome line { x1 with sent := true }).setDir line (s.ownedBy r)).sendData .datae line r
  | .rcl => s.setHome line (x.acked comb)
  | _ => s.setHome line x1

/-- FACKS: the owner kept S. -/
def execFacks (n : Nat) (st : State) : Outcome State Fault Refusal :=
  .next (st.takePkt n .facks fun s p => s.homeReply p fun s x => s.ownerShared p x false)

/-- FACKO: the owner kept O. -/
def execFacko (n : Nat) (st : State) : Outcome State Fault Refusal :=
  .next (st.takePkt n .facko fun s p => s.homeReply p fun s x => s.ownerShared p x true)

/-- FACKI: the owner went to I and sent its data; a GO follows. -/
def execFacki (n : Nat) (st : State) : Outcome State Fault Refusal :=
  .next (st.takePkt n .facki fun s p => s.homeReply p fun s x => s.setHome p.line { x with probe := false, fwd := true })

/-- FACKN: the probed slice held no copy. -/
def execFackn (n : Nat) (st : State) : Outcome State Fault Refusal :=
  .next (st.takePkt n .fackn fun s p => s.homeReply p fun s x => s.noCopy p.line p.comb x)

/-- RCLD: the home takes recalled data. -/
def execRcld (n : Nat) (st : State) : Outcome State Fault Refusal :=
  .next (st.takePkt n .rcld fun s p => s.homeReply p fun s x =>
    let s1 := s.homeTake p.line p.pois
    if x.pkt.op = .rcl then s1.setHome p.line (x.acked p.comb) else s1.setHome p.line { x with probe := false })

/-- CMP: the requester's completion ends the transaction (R91), once every reply has come. -/
def execCmp (n : Nat) (st : State) : Outcome State Fault Refusal :=
  .next (st.takePkt n .cmp fun s p => s.homeReply p fun s x => s.setHome p.line { x with cmp := true })

/-- WBD: a write-back, accepted at once (R90, R92): from the owner in the directory, whose probe may be under way,
or while the entry is rebuilt. -/
def execWbd (n : Nat) (st : State) : Outcome State Fault Refusal :=
  .next (st.takePkt n .wbd fun s p =>
    let d := s.dirOf p.line
    let owns := (d.st = .ex ∨ d.st = .os) ∧ d.owner = s.pointer p.comb
    let ack := fun (s : State) => s.sendCoh .wback p.line p.comb p.comb false
    let left := d.withoutOwner
    match Sparse.find? p.line s.homes with
    | some x =>
      if x.pkt.op = .rcl ∧ x.acks ≠ 0 then ack (s.homeTake p.line p.pois)
      else if !owns then ack (s.bumpDev (blockReg (blockOf p.line).1 0x38) 0 32)
      else
        let s1 := s.homeTake p.line p.pois
        if x.probe then ack (s1.setHome p.line { x with gone := true }) else ack (s1.setDir p.line left)
    | none =>
      if !owns then ack (s.bumpDev (blockReg (blockOf p.line).1 0x38) 0 32)
      else ack ((s.homeTake p.line p.pois).setDir p.line left))

/-- The result of a far atomic arrives at the thread, resident, that has it pending (R106, R358). -/
def State.farResult (s : State) (slot : Nat) (q : Pend) (o : NcOp) (pois : Bool) : State :=
  let q1 := { q with value := some (amoOld (amoOfCode (o.aop % 16)) o.n o.data.toNat), poisoned := pois, flags := if pois then 0 else o.flags }
  s.updThread slot fun t =>
    let t1 := ({ t with pend := t.pend.replace q q1 } : Thread).resultArrives q1
    match t1.park with
    | .far tag b => if tag = o.tag then t1.mark b else t1
    | _ => t1

/-- NCRSP: what a home returns reaches its issuer (R85, R106, R253): the bytes of a read, the result of an atomic, or
the end of a stream's write. The flags of a floating-point atomic whose thread is not resident go to its LATE word.
DEDUCED (log 54). -/
def execNcrsp (n : Nat) (st : State) : Outcome State Fault Refusal :=
  .next (st.takePkt n .ncrsp fun s p =>
    match p.nc with
    | none => s
    | some o =>
      match o.who with
      | .stream slot _ => s.batchReleases slot
      | .sched _ g => s.updGang g fun x => { x with doneBack := some p.pois }
      | .scalar slot | .queue slot =>
        let t := s.thread slot
        match t.reads.find? fun h => decide (h.tag = o.tag) with
        | some h =>
          let v := o.data.toNat / 2 ^ (8 * (h.pa % 128)) % 2 ^ (8 * h.n)
          s.updThread slot fun t => { t with reads := t.reads.replace h { h with got := some (v, p.pois) } }
        | none =>
          match (if t.live ∧ t.resident then t.pend.find? fun q => decide (q.far = some o.tag) else none) with
          | some q => s.farResult slot q o p.pois
          | none => if o.fp then s.lateFlags o.ctx o.rank (if p.pois then 0 else o.flags) else s
      | _ => s)

end Sys2Proof.Machine
end

