-- ==== Sys2Proof/Machine/MemEvents.lean ====
section
/-! DEFINITION. Events of a cell's memory side and of its comb's walker: L1 and instruction cache
fills, ageing, the pool scrubber, walks, the replay queue and page releases (R24, R31 to R38, R47 to
R53, R62 to R64); and fetching an instruction (R47, R265). -/

namespace Sys2Proof.Machine

open Host (Outcome)

/-! ### Fills (R47, R48, R53) -/

/-- A line is kept in the slices: it lies in HBM4E or the second tier (R48). -/
def State.sliced (s : State) (line : Nat) : Bool :=
  decide (s.region (line * 128) = .hbm ∨ s.region (line * 128) = .tier2)

/-- Poisoned words of a line as a cell takes it from its slice (R100). -/
def State.linePois (s : State) (comb line : Nat) : BitVec 16 := if (s.slice comb line).pois then BitVec.allOnes 16 else 0

/-- A line joins the L1 data cache (R48): 64 sets of 8 ways; the oldest line of a full set gives way. -/
def Cell.l1Install (c : Cell) (l : L1Line) : Cell :=
  let keep := c.l1.filter fun x => x.line ≠ l.line
  let set := keep.filter fun x => x.line % 64 = l.line % 64
  let out := if set.length < 8 then keep else match set.head? with | some x => keep.erase x | none => keep
  { c with l1 := out ++ [l] }

/-- A line joins the instruction cache (R47): 64 sets of 4 ways; the oldest line of a full set gives way. -/
def Cell.iInstall (c : Cell) (l : ILine) : Cell :=
  let keep := c.icache.filter fun x => x.line ≠ l.line
  let set := keep.filter fun x => x.line % 64 = l.line % 64
  let out := if set.length < 4 then keep else match set.head? with | some x => keep.erase x | none => keep
  { c with icache := out ++ [l] }

/-- L1_FILL: the oldest fill of the cell is served (R53): from the slice, which first asks the home
for a line that it does not hold. DEDUCED from R136: a line with bytes still in the write-combining
buffer is not installed, since the drain would leave the copy behind the thread's own store. DEDUCED (log 23). -/
def execL1Fill (cell : Nat) (st : State) : Outcome State Fault Refusal :=
  .next (
    match (st.cell cell).fills with
    | [] => st
    | f :: rest =>
      if st.sliceHas (combOf cell) f.line then
        st.updCellAt cell fun c =>
          let c1 := { c with fills := rest }
          if f.installable && !c.wcb.any (fun w => decide (w.line = f.line)) then c1.l1Install ⟨f.line, st.lineData f.line, epochOf st.cycle, st.linePois (combOf cell) f.line⟩ else c1
      else st.localRead (combOf cell) f.line)

/-- ICACHE_FILL: an instruction line arrives from the slice; a poisoned line is not installed (R47). -/
def execIcacheFill (cell line : Nat) (st : State) : Outcome State Fault Refusal :=
  .next (
    if st.sliceHas (combOf cell) line then
      if (st.slice (combOf cell) line).pois then st
      else st.updCellAt cell (·.iInstall ⟨line, st.lineData line, false, false⟩)
    else st.localRead (combOf cell) line)

/-- EPOCH_ADVANCE: every 4,096 cycles the epoch advances, and lines of older epochs count as invalid (R52). -/
def execEpochAdvance (cell : Nat) (st : State) : Outcome State Fault Refusal :=
  .next (
    if ((st.cell cell).epoch + 1) * 4096 ≤ st.cycle then
      st.updCellAt cell fun c =>
        { c with epoch := epochOf st.cycle, l1 := c.l1.filter fun l => decide (epochOf st.cycle ≤ l.epoch + 1) }
    else st)

/-- ENTRY_AGE_DRAIN: entries 256 cycles old drain, with those before them (R49, R50). -/
def execEntryAgeDrain (cell : Nat) (st : State) : Outcome State Fault Refusal :=
  .next (st.drainTo cell (·.aged st.cycle))

/-! ### The pool scrubber (R62, R64) -/

/-- POOL_SCRUB: one row of 64 bytes is read, corrected and written back; CELLERR.POOLCE counts. -/
def execPoolScrub (cell row : Nat) (st : State) : Outcome State Fault Refusal :=
  .next (st.updCellAt cell (·.poolFix fun w => decide (w / 8 = row)))

/-! ### The walker and its replay queue (R24, R32, R37, R38) -/

/-- Replay entries of a comb. -/
def State.replayOf (s : State) (comb : Nat) : List Replay := Sparse.getD s.replays comb []
def State.setReplay (s : State) (comb : Nat) (q : List Replay) : State := { s with replays := Sparse.set comb q s.replays }

/-- First address of a page, extended as R11 asks. -/
def pageVa (page : Nat) : Word := sext 55 (BitVec.ofNat 64 (page * 65536))

/-- The cell and the translation registers of the oldest access of an entry. -/
def State.replayXlate (s : State) (r : Replay) : Option (Nat × Xlate) :=
  match r.slots, r.cmds with
  | t :: _, _ => some (cellOf t, { (s.thread t).xlate with asid := r.asid })
  | [], c :: _ => (s.queuedCmd c.1 c.2).map fun k => (cellOf c.1, k.xl)
  | [], [] => (r.gangs.head?.bind fun g => Sparse.find? g s.gangs).map fun g => (g.cells.headD 0, s.schedXlate g.desc.ctx)

/-- PAGE_WALK: the walker takes the oldest access of the comb that waits outside the replay queue
(R33, R37) and walks for it: a leaf with MIG = 1 sends it into the queue when there is room; any other
result, buffered if it is a leaf, lets the access go on. -/
def execPageWalk (comb : Nat) (st : State) : Outcome State Fault Refusal :=
  .next (
    let q := st.replayOf comb
    match q.find? (·.outside) with
    | none => st
    | some r =>
      let room := decide ((q.filter fun x => !x.outside).length < 64)
      match st.replayXlate r with
      | none => st.leaveEntry comb false r
      | some x =>
        match st.lookup x.1 x.2 pathLS .read (pageVa r.page) with
        | .migrate s _ => if room then s.setReplay comb (q.replace r { r with outside := false, since := st.cycle }) else s
        | .wait s => s
        | .ok s _ => s.leaveEntry comb false r
        | .fault s _ => s.leaveEntry comb false r)

/-- A copy of a page release that waits for the management of its router. -/
def Flit.isRelease (asid page : Nat) (f : Flit) : Bool :=
  decide (f.out = some 7) && (match f.load with | .mgmt (.release a p) => decide (a = asid ∧ p = page) | _ => false)

/-- MIGRATION_TIMEOUT: the first entry that has waited REPLAYTO cycles leaves the queue, and its accesses take the
page fault with reason 4 (R38, R39), unless a release of its page has reached the comb: that wins. -/
def execMigrationTimeout (comb : Nat) (st : State) : Outcome State Fault Refusal :=
  .next (
    let lim := bits (st.dev (combReg comb 0xA_0000)) 0 32
    match (st.replayOf comb).find? fun r => !r.outside && decide (lim ≠ 0 ∧ r.since + lim ≤ st.cycle) &&
        !(Sparse.getD st.flits comb []).any (·.isRelease r.asid r.page) with
    | some r => st.leaveEntry comb true r
    | none => st)

/-- PAGE_RELEASE: every comb that a release of the page has reached sends the held accesses back to the walker (R38). -/
def execPageRelease (asid page : Nat) (st : State) : Outcome State Fault Refusal :=
  .next (
    (st.flits.filter fun e => e.2.any (·.isRelease asid page)).foldl (fun s e =>
      (({ s with flits := Sparse.set e.1 (e.2.filter fun f => !f.isRelease asid page) s.flits } : State).releaseAt e.1 asid page)) st)

/-! ### Fetch (R47, R265, R291) -/

/-- What a fetch brings: a word, or a state in which the thread has trapped or waits. -/
inductive Fetched
  | word (s : State) (w : BitVec 32)
  | stop (s : State)

/-- Word `i` of a line. -/
def lineWord (d : BitVec 1024) (i : Nat) : BitVec 32 := d.extractLsb' (32 * i) 32

/-- A fetch from a NORMAL line (R47): from the instruction cache, or by a fill from the slice. A line whose parity
fails is discarded and fetched again; a second failure is the synchronous machine check; a poisoned line is not
installed. DEDUCED (log 94). -/
def State.fetchLine (s : State) (pa : Nat) : Fetched :=
  let line := pa / 128
  let comb := combOf s.cc
  let fill := fun (s : State) (again : Bool) =>
    if (s.slice comb line).pois then .stop (s.trap { code := 0x0B, tval := s.thr.pc })
    else
      let d := s.lineData line
      .word (s.updCell (·.iInstall ⟨line, d, false, again⟩)) (lineWord d (pa % 128 / 4))
  match s.cl.icache.find? fun l => l.line = line with
  | some l =>
    if !l.bad then
      .word (if l.again then s.updCell fun c => { c with icache := c.icache.replace l { l with again := false } } else s)
        (lineWord l.data (pa % 128 / 4))
    else if !l.again ∧ !s.sliceHas comb line then .stop (s.localRead comb line)
    else
      let s1 := s.updCell fun c => { c with icache := c.icache.erase l, cellerr := satAdd c.cellerr 16 8 1 }
      if l.again then .stop (s1.trap { code := 0x17, tval := s.thr.pc }) else fill s1 true
  | none => if s.sliceHas comb line then fill s false else .stop (s.localRead comb line)

/-- The word at the executing thread's pc: NORMAL-NC memory and other places are read without the cache (R28). -/
def State.fetch (s : State) : Fetched :=
  match s.access s.cur s.thr.xlate pathFetch .exec s.thr.pc 4 with
  | .fault s' f => .stop (s'.accTrap f)
  | .migrate s' p => .stop (s'.onMigrate p)
  | .wait s' => .stop s'
  | .ok s' ls =>
    match ls with
    | .mem pa .normal :: _ => s'.fetchLine pa
    | _ =>
      match s'.holdRead s'.cur none ls with
      | some s'' => .stop s''
      | none =>
        let v := s'.readLocs s'.cur false s'.mode ls
        if v.2.1 then .stop (v.2.2.trap { code := 0x0B, tval := s.thr.pc }) else .word v.2.2 (BitVec.ofNat 32 v.1)

end Sys2Proof.Machine
end

