-- ==== Sys2Proof/Machine/Fabric.lean ====
section
/-! DEFINITION. The mesh: virtual channels and credits, arbitration of output ports, delivery at endpoints, recovery
timeouts, link replay and failure, and the hive links (R66 to R83, R95, R96, R410). A flit moves one hop in an
arbitration of its router. -/

namespace Sys2Proof.Machine

open Host (Outcome)

/-! ### Channels and credits (R72, R80) -/

/-- A class with an adaptive and an escape channel. -/
def Load.adaptive (l : Load) : Bool := decide (l.cls = 1 ∨ l.cls = 2)

/-- The channel in which a flit waits at its router: input port, class, virtual channel, the escape channel of an
adaptive class (R78), and for a copy the port that it leaves by. -/
def Flit.chan (f : Flit) : Nat :=
  (((f.inp * 8 + f.load.cls) * 1024 + f.vc) * 2 + (if f.esc && f.load.adaptive then 1 else 0)) * 16 +
    (match f.out with | some p => p + 1 | none => 0)

/-- Flits at a router, and those at the heads of their channels. -/
def State.flitsAt (s : State) (r : Nat) : List Flit := Sparse.getD s.flits r []
def heads (l : List Flit) : List Flit := l.foldl (fun h f => if h.any (fun x => decide (x.chan = f.chan)) then h else h ++ [f]) []

/-- A flit leaves a router; the one behind it in its channel begins to wait as a head (R78). -/
def dropFlit (now : Nat) (f : Flit) (l : List Flit) : List Flit :=
  let l1 := l.erase f
  match l1.find? fun x => decide (x.chan = f.chan) with
  | some x => l1.replace x { x with since := now }
  | none => l1
def State.takeFlit (s : State) (r : Nat) (f : Flit) : State :=
  let l := dropFlit s.cycle f (s.flitsAt r)
  { s with flits := if l.isEmpty then Sparse.erase r s.flits else Sparse.set r l s.flits }

/-- A virtual channel of an input has one of its four buffers free (R72). Copies of one flit share its buffer. -/
def State.credit (s : State) (r inp cls vc : Nat) : Bool :=
  decide ((((s.flitsAt r).filter fun f => decide (f.inp = inp ∧ f.load.cls = cls ∧ f.vc = vc)).map (·.uid)).eraseDups.length < 4)

/-- A flit that left the same endpoint earlier for the same endpoint, in the same ordered class, is still at the router
(R73). -/
def State.behind (s : State) (r : Nat) (f : Flit) : Bool :=
  decide (f.load.cls ≠ 1 ∧ f.load.cls ≠ 2) && (s.flitsAt r).any fun y =>
    decide (y.uid < f.uid ∧ y.load.cls = f.load.cls ∧ y.src = f.src ∧ y.sep = f.sep ∧ y.dst = f.dst ∧ y.ep = f.ep ∧ y.out = f.out)

/-- The input channel of a flit, as what holds an STR channel. -/
def Flit.holder (f : Flit) : Nat := f.inp * 256 + f.vc

/-- The virtual channel that a flit takes on the link behind port `p` (R72, R80, R82): a route its held channel, or the
first that nothing holds for its opening flit. A multicast goes over a channel that nothing holds, and waits while all
four are held. DESIGN CHOICE (log 88). -/
def State.linkVc (s : State) (r p : Nat) (f : Flit) : Option Nat :=
  let held := (s.port r p).held
  let free := (List.range 4).find? fun k => (Sparse.find? k held).isNone
  match f.load with
  | .route x =>
    if x.op = .opening then free
    else (List.find? (fun e => decide (e.2 = f.holder)) held).map (·.1)
  | .cast _ => free
  | l => some (if f.esc && l.adaptive then 1 else 0)

/-- A link can take a flit: it has not failed (R71) and the channel has a credit; barrier flits are sunk behind it (R74). -/
def State.linkTakes (s : State) (r p : Nat) (f : Flit) : Bool :=
  match meshNext r p with
  | some n =>
    !(s.port r p).failed &&
      (match f.load with
      | .arrive _ _ _ _ | .complete _ _ _ => true
      | l => match s.linkVc r p f with | some v => s.credit n (opposite p) l.cls v | none => false)
  | none => false

/-- The port that a flit wants (R72): its own when that is fixed, the endpoint's at its router, and else along XY, or
in an adaptive channel the productive port with a credit, x first. -/
def State.wants (s : State) (r : Nat) (f : Flit) : Option Nat :=
  match f.out with
  | some p => some p
  | none =>
    if f.dst = r then some (epPort f.ep)
    else
      match xPort r f.dst, yPort r f.dst with
      | some a, some b => if f.load.adaptive && !f.esc && !s.linkTakes r a f && s.linkTakes r b f then some b else some a
      | some a, none => some a
      | none, b => b

/-! ### Delivery (R66, R74, R82) -/

/-- Transactions at a home port, busy or waiting, and requests that it has taken (R91). -/
def State.homeLoad (s : State) (r : Nat) : Nat :=
  (s.homes.filter fun h => decide (homeComb h.1 = r)).foldl (fun n h => n + 1 + h.2.waiting.length) 0 +
    (s.net.filter fun p => decide (p.op.cls = 0 ∧ p.dst = r)).length

/-- An endpoint can take a flit: a home port holds 512 transactions (R91), a root's multicast buffer 16 flits (R82). -/
def State.sinks (s : State) (r p : Nat) (f : Flit) : Bool :=
  match f.load with
  | .coh x => !(decide (p = 6 ∧ x.op.cls = 0)) || decide (s.homeLoad r < 512)
  | .cast _ => decide (p ≠ 7) || decide ((Sparse.getD s.castBuf r []).length < 16)
  | _ => true

/-- The gateway port at a router (R402). -/
def gatewayPort (r : Nat) : Nat := ((List.range 12).find? fun p => decide (gatewayComb p = r)).getD 0

/-- The gateway of a router can take a flit: its port is up (R410). -/
def State.gatewayUp (s : State) (r : Nat) : Bool := decide (bits (s.dev (hvstat (gatewayPort r))) 0 4 = 2)

/-- A flit that may leave by a port now. -/
def State.readyAt (s : State) (r p : Nat) (f : Flit) : Bool :=
  decide (s.wants r f = some p) && !s.behind r f && (if p < 4 then s.linkTakes r p f else if p = 8 then s.gatewayUp r else s.sinks r p f)

/-- The multicast buffer of a root sends its head down the tree once no copy of the one before is left (R82). -/
def State.castPump (s : State) (r : Nat) : Nat → State
  | 0 => s
  | n + 1 =>
    let busy := (s.flitsAt r).any fun f => decide (f.inp = 7) && (match f.load with | .cast _ => true | _ => false)
    match Sparse.getD s.castBuf r [] with
    | f :: rest =>
      if busy then s
      else
        let s1 : State := { s with castBuf := if rest.isEmpty then Sparse.erase r s.castBuf else Sparse.set r rest s.castBuf }
        (match f.load with
          | .cast c => s1.castDown r { f with inp := 7, vc := 0, src := r, sep := epMgmt, since := s.cycle, out := none } c.tree
          | _ => s1).castPump r n
    | [] => s

/-- A line of the boot broadcast lands in the running cells of a comb and is then counted (R452). -/
def State.landBoot (s : State) (comb off mc : Nat) (data : BitVec 1024) (pois : Bool) : State :=
  (List.range 17).foldl (fun s p =>
    let c := comb * 17 + p
    if s.running c then (s.poolPut c off 128 data.toNat pois).mcIncrement c mc .module else s) s

/-- The word of usable physical cells of a comb (R411). -/
def State.usable (s : State) (comb : Nat) : Word :=
  (List.range 17).foldl (fun w p => if NatSet.has s.fuses (comb * 17 + p) then w else w ||| BitVec.ofNat 64 (2 ^ p)) 0

/-- Router (0, 0) records the waggle reply of a reached router to the present flood (R411, R451). -/
def State.recordReply (s : State) (comb flood : Nat) : State :=
  match Sparse.find? comb s.boot.reached with
  | some (xy, _) =>
    if s.boot.floodFrom.isNone ∨ flood ≠ s.boot.flood ∨ NatSet.has s.boot.replies comb = true then s
    else
      let r := NatSet.add comb s.boot.replies
      let stat := BitVec.ofNat 64 (r.length + if r.length = 1024 then 2 ^ 63 else 0)
      let s1 := (s.setDev (combReg 0 (0xE_1000 + 8 * xy)) (s.usable comb)).setDev (combReg 0 0xE_0008) stat
      { s1 with boot := { s1.boot with replies := r, floodFrom := if r.length = 1024 then none else s1.boot.floodFrom } }
  | none => s

/-- A management packet acts at its router (R35, R38, R83, R451, R452). -/
def State.manage (s : State) (r : Nat) : Mgmt → State
  | .fence slot => s.fenceHere slot r
  | .ack slot comb => s.fenceAcked slot comb
  | .release asid page => s.releaseAt r asid page
  | .boot off mc data pois => s.landBoot r off mc data pois
  | .waggle flood xy hops inp =>
    -- R83, R411: the first copy gives the coordinates, and later ones are discarded
    if s.boot.floodFrom.isNone ∨ flood ≠ s.boot.flood ∨ (Sparse.find? r s.boot.reached).isSome then s
    else
      let me := (meshNext xy (opposite inp)).getD xy
      ({ s with boot := { s.boot with reached := Sparse.set r (me, hops + 1) s.boot.reached } } : State).waggleCopies r flood me (hops + 1)
        (some inp)
  | .reply comb flood => s.recordReply comb flood

/-! ### Hive gateways (R87, R95) -/

/-- Operations that carry the data of their line between modules (R85). -/
def CohOp.carries : CohOp → Bool
  | .datas | .datae | .datam | .datamg | .rcld | .wbd => true
  | _ => false

/-- A packet is handed to the hive link of port `p`. -/
def State.hiveSend (s : State) (p node : Nat) (l : Load) (data : BitVec 1024) : State :=
  { s with hiveOut := s.hiveOut ++ [⟨p, node, l, data⟩] }

/-- A coherence packet leaves by the gateway of port `p` (R95). The acknowledgements of an invalidation that the gateway has
spread are gathered into one (R87). -/
def State.pktLeaves (s : State) (p node : Nat) (x : Pkt) : State :=
  match s.spreads.find? fun q => decide (x.op = .iack ∧ q.line = x.line ∧ q.node = node) && q.combs.elem x.comb with
  | some q =>
    let q1 := { q with combs := q.combs.erase x.comb }
    if q1.combs.isEmpty then
      ({ s with spreads := s.spreads.erase q } : State).hiveSend p node (.coh { x with comb := wideComb s.node 0 }) 0
    else { s with spreads := s.spreads.replace q q1 }
  | none =>
    let s1 : State := if x.op.isNc then { s with hiveReqs := s.hiveReqs ++ [x] } else s
    s1.hiveSend p node (.coh x) (if x.op.carries then s.lineData x.line else 0)

/-- A flit leaves by the gateway of port `p` (R95). -/
def State.hiveLeaves (s : State) (p : Nat) : Load → State
  | .coh x => match s.leavesFor x with | some m => s.pktLeaves p m x | none => s
  | .mgmt (.fence slot) =>
    match s.fences.find? fun f => decide (f.slot = slot) with
    | some f => s.hiveSend p (bits (s.dev (hvstat p)) 53 3) (.mgmt (.fence slot)) (BitVec.ofNat 1024 (f.addr.toNat + f.word.toNat * 2 ^ 64))
    | none => s
  | .mgmt (.ack slot c) => s.hiveSend p (bits (s.dev (hvstat p)) 53 3) (.mgmt (.ack (slot % 131072) c)) 0
  | _ => s

/-- A coherence packet of module `m` comes in by the gateway at router `r` (R95): a request or a reply for a home of this
module, the answer to a request, an invalidation to spread, or a probe or a reply for a slice. The data of its line come
with it. -/
def State.pktEnters (s : State) (r m : Nat) (x : Pkt) (data : BitVec 1024) : State :=
  let fromOwner := decide ((s.dirOf x.line).owner = s.pointer (farComb m x.comb)) ||
    (match Sparse.find? x.line s.homes with | some h => decide (h.pkt.op = .rcl) | none => false)
  let s1 := if x.op.carries && (decide (x.op ≠ .wbd) || fromOwner) then s.putLine x.line data wholeLine else s
  let p := { x with src := r }
  let sep := fun (p : Pkt) => (s1.inject r epHive p.dst (if p.op.toHome then epHome else p.requester) p.op.tc (.coh p) : State)
  if x.op.toHome then
    if homeNode x.line ≠ s.node then s
    else
      let c := if 16384 ≤ x.comb then wideComb m 0 else farComb m x.comb
      sep { p with comb := c, req := if x.op.cls = 0 then c else x.req, nc := x.nc.map fun o => { o with who := .peer m } }
  else if x.op = .ncrsp then
    match x.nc.bind fun o => (s.hiveReqs.find? fun q => decide (q.nc.map (·.tag) = some o.tag)).map fun q => (q, o) with
    | some (q, o) =>
      ({ s with hiveReqs := s.hiveReqs.erase q } : State).inject r epHive q.comb q.requester x.op.tc
        (.coh { p with comb := q.comb, req := q.req, nc := q.nc.map fun b => { b with data := o.data, flags := o.flags } })
    | none => s
  else if x.op = .inv ∧ 16384 ≤ x.comb then
    let o := (x.comb - 16384) / 8
    let out := [x.req, if o = 0 then 1024 else s.combAt (o - 1)]
    let cs := (List.range Config.combs).filter fun c => !out.elem c
    cs.foldl (fun s c => s.inject r epHive c epSlice x.op.tc (.coh { p with comb := c }))
      { s with spreads := s.spreads ++ [⟨x.line, m, x.req, cs⟩] }
  else if 1024 ≤ x.comb then s
  else sep p

/-- A packet of another module arrives over a hive link that is up to it (R95). -/
def State.hiveEnters (s : State) (x : HivePkt) : State :=
  let r := gatewayComb x.port
  if 12 ≤ x.port ∨ x.node = s.node ∨ !s.portTo x.node x.port then s
  else
    match x.load with
    | .coh p => s.pktEnters r x.node p x.data
    | .mgmt (.fence slot) =>
      let f : TFence := ⟨peerFence x.node slot, x.data.extractLsb' 0 64, x.data.extractLsb' 64 64, true, List.range Config.combs, []⟩
      ({ s with fences := s.fences ++ [f] } : State).broadcast r epHive wholeMesh (.fence f.slot)
    | .mgmt (.ack slot _) => s.inject r epHive (combOf (cellOf slot)) epMgmt 7 (.mgmt (.ack slot (farComb x.node 0)))
    | _ => s

/-- The oldest packet of a gateway port crosses its link (R95). -/
def State.hiveCrosses (s : State) (p : Nat) : State :=
  match s.hiveOut.find? fun x => decide (x.port = p) with
  | some x => ({ s with hiveOut := s.hiveOut.erase x } : State).setPort (1024 + p) 0 { s.port (1024 + p) 0 with replays := 0 }
  | none => s

/-- A flit reaches its endpoint. -/
def State.sink (s : State) (r p : Nat) (f : Flit) : State :=
  if p = 8 then s.hiveLeaves (gatewayPort r) f.load
  else match f.load with
  | .coh x => { s with net := s.net ++ [x] }
  | .msg d => { s with msgs := s.msgs ++ [d] }
  | .route x => s.routeLands x
  | .cast c =>
    if p = 7 then { s with castBuf := Sparse.set r (Sparse.getD s.castBuf r [] ++ [f]) s.castBuf }
    else s.castLands (r * 17 + f.ep) c
  | .mgmt m => s.manage r m
  | .arrive g id gen n => s.sinkArrivals g id r gen n
  | .complete g id gen => s.sinkCompletion g id r gen
  | .junk => s

/-- A route takes a channel with its opening flit and releases it with its marker (R80). -/
def OutPort.hold (o : OutPort) (f : Flit) (v : Nat) : OutPort :=
  match f.load with
  | .route x =>
    (match x.op with
    | .opening => { o with held := Sparse.set v f.holder o.held }
    | .data => o
    | .close | .trunc => { o with held := Sparse.erase v o.held })
  | _ => o

/-- A flit leaves router `r` by port `p`, in virtual channel `v` of a link. -/
def State.sendOut (s : State) (r p v : Nat) (f : Flit) : State :=
  match meshNext r p with
  | some n =>
    match f.load with
    | .arrive _ _ _ _ | .complete _ _ _ => s.sink n 7 f
    | _ => (s.setPort r p ((s.port r p).hold f v)).enter n { f with inp := opposite p, vc := v, since := s.cycle }
  | none => s.sink r p f

/-! ### Arbitration (R75 to R78) -/

/-- Traffic classes of a group (R75): 0 system, 1 coherence, 2 user. -/
def groupClasses (g : Nat) : List Nat := if g = 0 then [6, 7] else if g = 1 then [4, 5] else [0, 1, 2, 3]

/-- The flit of a list that has waited longest. -/
def longest (l : List Flit) : Option Flit :=
  l.foldl (fun m f => match m with
    | none => some f
    | some x => if f.since < x.since then some f else some x) none

/-- Deficit round robin over the classes of a group from class `tc` (R75): the class that sends, with
the deficits. -/
def roundRobin (ready : Nat → Bool) (weight : Nat → Nat) (cls : List Nat) (tc : Nat) (def_ : Sparse Nat) :
    Nat → Nat × Sparse Nat
  | 0 => (tc, def_)
  | n + 1 =>
    if ready tc ∧ Sparse.getD def_ tc 0 ≠ 0 then (tc, def_)
    else
      let d1 := if ready tc then def_ else Sparse.set tc 0 def_
      let i := (cls.findIdx fun c => c = tc)
      let t1 := cls.getD ((i + 1) % cls.length) tc
      roundRobin ready weight cls t1 (Sparse.set t1 (Sparse.getD d1 t1 0 + Nat.max (weight t1) 1) d1) n

/-- The flit of a class whose turn it is (R75): the channels of a class take turns. -/
def inTurn (last : Nat) (l : List Flit) : Option Flit :=
  let least := fun (l : List Flit) => l.foldl (fun m f => match m with
    | none => some f
    | some (x : Flit) => if f.chan < x.chan then some f else some x) none
  match least (l.filter fun f => decide (last < f.chan)) with
  | some f => some f
  | none => least l

/-- The place of a request's input in the order of R91: the router's own comb, then N, E, S and W. -/
def inputOrder (inp : Nat) : Nat := if 4 ≤ inp then 0 else inp + 1

/-- The request that a home port accepts next (R91, R105): in the order of arrival, and of those of one cycle in the order
of their inputs. -/
def homeTurn (l : List Flit) : Option Flit :=
  l.foldl (fun m f => match m with
    | none => some f
    | some (x : Flit) =>
      if f.since < x.since ∨ (f.since = x.since ∧ inputOrder f.inp < inputOrder x.inp) then some f else some x) none

/-- The flit of a class whose turn it is: at a home port its requests in their order, else by channel. -/
def nextTurn (home : Bool) (last : Nat) (l : List Flit) : Option Flit :=
  if !home then inTurn last l
  else
    match homeTurn (l.filter fun f => decide (f.ep = epHome ∧ f.load.cls = 0)) with
  | some f => some f
  | none => inTurn last l

/-- The flit among those that are ready which an output port sends next, with the port's arbitration state behind it
(R75). -/
def OutPort.choose (o : OutPort) (home : Bool) (all : List Flit) (weight : Nat → Nat) : Nat → Option (Flit × OutPort)
  | 0 => none
  | k + 1 =>
    let g := 2 - k
    let cls := groupClasses g
    let ready := all.filter fun f => cls.elem f.tc
    match longest (ready.filter (·.esc)) with
    | some f => some (f, o)
    | none =>
      if ready.isEmpty then o.choose home all weight k
      else
        let has := fun tc => ready.any fun f => f.tc = tc
        let r := roundRobin has weight cls (Sparse.getD o.cur g (cls.getD 0 0)) o.deficit 9
        match nextTurn home (Sparse.getD o.turn r.1 0) (ready.filter fun f => f.tc = r.1) with
        | some f =>
          some (f, { o with
            cur := Sparse.set g r.1 o.cur
            deficit := Sparse.set r.1 (Sparse.getD r.2 r.1 0 - 1) r.2
            turn := Sparse.set r.1 f.chan o.turn })
        | none => none

/-- Head flits that may leave by a port. -/
def State.readyHeads (s : State) (r p : Nat) : List Flit := (heads (s.flitsAt r)).filter (s.readyAt r p)

/-- ARBITRATE: an output port sends one flit on its next hop, or to its endpoint (R75, R76). -/
def execArbitrate (comb port : Nat) (st : State) : Outcome State Fault Refusal :=
  .next (
    match (st.port comb port).choose (decide (port = 6)) (st.readyHeads comb port) (fun tc => bits (st.dev (combReg comb (0x8_0000 + 8 * tc))) 0 8) 3 with
    | some (f, o) =>
      (((st.setPort comb port { o with replays := 0 }).takeFlit comb f).sendOut comb port ((st.linkVc comb port f).getD 0) f).castPump
        comb 16
    | none => st)

/-- A flit is marked (R78): one of an adaptive class moves to its escape channel. -/
def State.escape (s : State) (r : Nat) (f : Flit) : State :=
  let f1 := { f with esc := true, vc := if f.load.adaptive ∧ f.inp < 4 then 1 else f.vc }
  let l := if f.load.adaptive then dropFlit s.cycle f (s.flitsAt r) ++ [f1] else (s.flitsAt r).replace f f1
  { s with flits := Sparse.set r l s.flits }

/-- Head flits of an input that have waited longer than RTO and are not marked; none of the STR class (R78, R79). -/
def State.overdue (s : State) (r inp : Nat) : List Flit :=
  let rto := Nat.max 256 (bits (s.dev (combReg r 0x8_0040)) 0 16)
  (heads (s.flitsAt r)).filter fun f => decide (f.inp = inp ∧ f.load.cls ≠ 4 ∧ f.since + rto < s.cycle) && !f.esc

/-- RECOVERY_TIMEOUT: the first head flit at an input that has waited longer than RTO is marked ESC (R78, R79). -/
def execRecoveryTimeout (comb port : Nat) (st : State) : Outcome State Fault Refusal :=
  .next (
    match (st.overdue comb port).head? with
    | some f => (st.escape comb f).bumpDev (combReg comb 0x8_0048) 32 32
    | none => st)

/-! ### Links (R70, R71) -/

/-- One end of a link is marked failed, and its router posts the failure (R70, R71). DEDUCED (log 89). -/
def State.linkFail (s : State) (comb port : Nat) : State :=
  (s.setPort comb port { s.port comb port with failed := true }).postRouter comb 2 6 21 port

/-! ### Hive links (R95, R96, R402, R410) -/

/-- Address field of a log entry about a hive port: its router, the gateway's endpoint, a value. -/
def hiveAddr (p val : Nat) : Nat :=
  (gatewayComb p % 32) * 2 ^ 11 + (gatewayComb p / 32) * 2 ^ 6 + epHive * 2 + val % 65536 * 2 ^ 16

/-- HIVE_LINK_TRAINING: a port that trains meets the peer `node`, at its port `peer` (R410): it comes up,
unless the peer's number is this module's or outside the mask. -/
def execHiveLinkTraining (port node peer : Nat) (st : State) : Outcome State Fault Refusal :=
  .next (
    let w := st.dev (hvstat port)
    if 12 ≤ port ∨ 8 ≤ node ∨ bits w 63 1 = 0 ∨ bits w 0 4 = 2 then st
    else
      let bad := decide (node = st.node) || !(st.dev (blockReg 8 0x2_0010)).getLsbD (8 + node)
      st.setDev (hvstat port)
        (setBits (setBits (setBits (setBits w 53 3 node) 49 4 peer) 4 4 8) 0 4 (if bad then 4 else 2)))

/-- A directory entry without the slices of a lost module (R96). -/
def DirEntry.without (d : DirEntry) (node : Nat) : DirEntry :=
  { d with
    sharers := d.sharers.filter fun p => p / 1024 ≠ node
    mod := d.mod &&& ~~~BitVec.ofNat 8 (2 ^ node) }

/-- The line is owned by a slice of a module. -/
def DirEntry.ownedIn (d : DirEntry) (node : Nat) : Bool := decide ((d.st = .ex ∨ d.st = .os) ∧ d.owner / 1024 = node)

/-- A transaction without a lost module (R96): its acknowledgements have come, its requester's completion too, and its
waiting requests are gone. -/
def HomeTx.without (x : HomeTx) (node : Nat) : HomeTx :=
  let mine := fun (c : Nat) => decide (1024 ≤ c ∧ nodeOf c = node)
  { x with
    acks := x.acks - (x.far.filter mine).length
    far := x.far.filter fun c => !mine c
    cmp := x.cmp || mine x.pkt.comb
    waiting := x.waiting.filter fun p => !mine p.comb }

/-- The loss of a module on the lines of `hit` (R96): lines that it owned are written poisoned, transactions that wait for
it go on as if it held no copy, and it leaves the directory. -/
def State.dropNode (s : State) (node : Nat) (hit : Nat → Bool) : State :=
  let lost := s.dir.filter fun e => e.2.ownedIn node && hit e.1
  let s1 := lost.foldl (fun s e => s.homeTake e.1 true) s
  let s2 := (s1.homes.filter fun e => hit e.1).foldl (fun s e =>
    let x := e.2.without node
    let s0 := s.setHome e.1 x
    (if x.probe ∧ lost.any (fun d => d.1 = e.1) then s0.noCopy e.1 0 x else s0).homeStep e.1) s1
  (s2.dir.filter fun e => hit e.1).foldl
    (fun s e => s.setDir e.1 (if e.2.ownedIn node then (e.2.withoutOwner).without node else e.2.without node)) s2

/-- A hive link fails (R96, R410): what waits on packets across it completes, and packets not yet across are lost.
DEDUCED (log 91). -/
def State.hiveFail (s : State) (port : Nat) : State :=
  let w := s.dev (hvstat port)
  let node := bits w 53 3
  (({ (s.setDev (hvstat port) (setBits (setBits w 4 4 0) 0 4 3)) with
      hiveOut := s.hiveOut.filter fun x => decide (x.port ≠ port) } : State).dropNode node
        fun line => decide (s.hivePort node line = port)).postLog 8 2 (logHi 7 (hiveAddr port node)) 0

/-- HIVE_LINK_FAILURE: a port that is up fails (R96, R410). -/
def execHiveLinkFailure (port : Nat) (st : State) : Outcome State Fault Refusal :=
  .next (if 12 ≤ port ∨ bits (st.dev (hvstat port)) 0 4 ≠ 2 then st else st.hiveFail port)

/-- LINK_REPLAY: a receiver finds a CRC mismatch and the link replays (R70); the mismatch behind the sixteenth replay of
one flit fails the link. Router 1024 + p stands for hive port p, which counts in HVSTAT (R410). DEDUCED (log 90). -/
def execLinkReplay (comb port : Nat) (st : State) : Outcome State Fault Refusal :=
  .next (
    let o := st.port comb port
    let again := st.setPort comb port { o with replays := o.replays + 1 }
    if 1024 ≤ comb then
      let p := comb - 1024
      if 12 ≤ p ∨ port ≠ 0 ∨ bits (st.dev (hvstat p)) 0 4 ≠ 2 then st
      else if 16 ≤ o.replays then (st.setPort comb port { o with replays := 0 }).hiveFail p
      else again.bumpDev (hvstat p) 32 17
    else match meshNext comb port with
    | some c =>
      if o.failed then st
      else if 16 ≤ o.replays then (st.linkFail comb port).linkFail c ((port + 2) % 4)
      else again.bumpDev (combReg comb 0x8_0048) 16 16
    | none => st)

/-- LANE_FAILURE: a port that is up goes on with 4 lanes (R410). -/
def execLaneFailure (port : Nat) (st : State) : Outcome State Fault Refusal :=
  .next (
    let w := st.dev (hvstat port)
    if 12 ≤ port ∨ bits w 0 4 ≠ 2 then st else st.setDev (hvstat port) (setBits w 4 4 4))

end Sys2Proof.Machine
end

