-- ==== Sys2Proof/Machine/HostBoot.lean ====
section
/-! DEFINITION. The host's windows, writes of device registers as events, and the I/O die's always-on
logic: start-up, watchdog, waggle flood, boot broadcast, resets, alarms, freezing, attestation and
power (R402 to R416, R450 to R459). -/

namespace Sys2Proof.Machine

open Host (Outcome)

/-! ### Host posts and messages (R404 to R407) -/

/-- The region of a posted address is memory, and it is aligned (R405). -/
def State.postAddrOk (s : State) (v : Word) : Bool :=
  decide (bits v 0 52 % 256 = 0 ∧ (s.region (bits v 0 52) = .hbm ∨ s.region (bits v 0 52) = .tier2))

/-- RESULT of a post (R405, R406), with the descriptor when it may be queued; `pois`: its lines read as poisoned. -/
def State.postResult (s : State) (frame : Nat) (vf : Bool) (v : Word) (pois : Bool) : Nat × Option Desc :=
  if s.boot.minimal ∨ bits v 52 12 ≠ 0 then (5, none)
  else if !s.postAddrOk v then (1, none)
  else if pois then (4, none)
  else
    let w := descWords (s.memRead (bits v 0 52) 256)
    let d := descOf v w
    if s.descBad none d w then (1, none)
    else if (s.ctxEntry d.ctx).isNone then (5, none)
    else if !partOk d.partw then (2, none)
    else if vf ∧ 4 ≤ d.level then (5, none)
    else if launchCap ≤ (s.queue (unitOf d.level frame) d.prio).length then (3, none)
    else (0, some d)

/-- The check of a post ends (R405, R406): its descriptor is read, BUSY falls, RESULT is written and a good post is
queued. -/
def State.finishPost (s : State) (p : HostPost) : State :=
  let l := bits p.word 0 52 / 128
  let a := if s.postAddrOk p.word then s.coherent l else (false, s)
  let b := if s.postAddrOk p.word then a.2.coherent (l + 1) else (false, a.2)
  let r := b.2.postResult p.frame p.vf p.word (a.1 || b.1)
  let s1 := match r.2 with | some d => b.2.touchCtx d.ctx | none => b.2
  let w := setBits (setBits (s1.dev (hpstatKey p.frame)) 60 3 r.1) 63 1 0
  match r.2 with
  | some d => (s1.setDev (hpstatKey p.frame) (setBits w 0 16 (bits w 0 16 + 1))).enqueueLaunch (unitOf d.level p.frame) (Launch.new d)
  | none => s1.setDev (hpstatKey p.frame) w

/-- Posts made before the present cycle are through their check. -/
def State.finishPosts (s : State) : State :=
  (s.posts.filter fun p => decide (p.born < s.cycle)).foldl State.finishPost
    { s with posts := s.posts.filter fun p => decide (s.cycle ≤ p.born) }

/-- A write of HPOST in the window of a frame (R405, R406); `vf`: by a virtual function. While a post of the window is
being checked, it is dropped and counted. DEDUCED (log 97). -/
def State.hostPost (s : State) (frame : Nat) (vf : Bool) (v : Word) : State :=
  let w := s.dev (hpstatKey frame)
  if bits w 63 1 = 1 then s.setDev (hpstatKey frame) (satAdd w 16 16 1)
  else { s.setDev (hpstatKey frame) (setBits w 63 1 1) with posts := s.posts ++ [⟨frame, vf, v, s.cycle⟩] }

/-- A write of HMSG deposits a word at the frame's target slot (R405, R407). -/
def State.hostMsg (s : State) (frame : Nat) (v : Word) : State :=
  let w := s.dev (blockReg 8 (0x2_0100 + 8 * frame))
  s.deposit (s.cellOfLogical (bits w 2 14) * 4 + bits w 0 2) v (bits w 24 2) (bits w 26 6) false .module

/-- Slice offset of BAR 2 as a physical address of this module (R13). DEDUCED: offsets above 2 TiB are
taken too, as R16 gives BAR 2 accesses to the control window their privilege. DEDUCED (log 32). -/
def State.barPa (s : State) (off : Nat) : Nat := s.node * 2 ^ 48 + off % 2 ^ 48 / 8 * 8

/-- A request of the host at the home of a line (R94, R407). -/
def hostPkt (op : CohOp) (line : Nat) (o : NcOp) : Pkt := ⟨op, line, 0, homeComb line, 0, false, some o⟩

/-- 8 bytes are written through BAR 2, at their home (R94, R407). -/
def State.hostStore (s : State) (off : Nat) (v : Word) : State :=
  match s.physLoc (s.barPa off) .nc true with
  | some (.mem a _) =>
    s.homeRequest (hostPkt .ncwr (a / 128)
      { NcOp.new .host with addr := a, n := 8, data := putBytes 0 (a % 128) 8 v.toNat, mask := byteMask (a % 128) 8 })
  | some l => (s.elemPut 0 .machine [] l 8 v.toNat false).1
  | none => s

/-- 8 bytes are read through BAR 2, at their home (R407). DESIGN CHOICE (log 31). -/
def State.hostLoad (s : State) (off : Nat) : State :=
  match s.physLoc (s.barPa off) .nc false with
  | some (.mem a _) => s.homeRequest (hostPkt .ncrd (a / 128) { NcOp.new .host with addr := a, n := 8 })
  | some l =>
    let r := s.unitRead 0 .machine (locsFrom l 8)
    { r.2.2 with hostData := BitVec.ofNat 64 r.1 }
  | none => { s with hostData := Config.freeWord s.free, free := s.free + 1 }

/-- The frame of a window of BAR 0 and the offset in it (R404): a virtual function sees the windows of its own frame, at the
offsets for frame 0. -/
def bar0Window (vf : Option Nat) (base off : Nat) : Option (Nat × Nat) :=
  let f := (off - base) / 0x1000
  let o := off % 0x1000 / 8 * 8
  if off < base ∨ 8 ≤ f then none
  else match vf with
    | some g => if f = 0 then some (g % 8, o) else none
    | none => some (f, o)

/-- 8 bytes are written through BAR 0 (R404, R405). The MSI-X table holds what the host writes. DESIGN CHOICE (log 134). -/
def State.hostStore0 (s : State) (vf : Option Nat) (off : Nat) (v : Word) : State :=
  match bar0Window vf 0 off, bar0Window vf 0x10_0000 off with
  | some (f, o), _ => if o = 0 then s.hostPost f vf.isSome v else s
  | none, some (f, o) => if o = 0 then s.hostMsg f v else s
  | none, none => if 0x20_0000 ≤ off ∧ off < 0x20_8000 ∧ vf.isNone then { s with msixTab := Sparse.set (off / 8) v s.msixTab } else s

/-- 8 bytes are read through BAR 0 (R404, R405): a read of HPSTAT clears DROP, and reserved places read as zero. -/
def State.hostLoad0 (s : State) (vf : Option Nat) (off : Nat) : State :=
  match bar0Window vf 0 off with
  | some (f, o) =>
    if o = 8 then { s.setDev (hpstatKey f) (setBits (s.dev (hpstatKey f)) 16 16 0) with hostData := s.dev (hpstatKey f) }
    else { s with hostData := 0 }
  | none => { s with hostData := if 0x20_0000 ≤ off ∧ off < 0x20_8000 ∧ vf.isNone then Sparse.getD s.msixTab (off / 8) 0 else 0 }

/-- What the host sent takes effect. In minimal mode only BAR 0 runs (R413): a write through BAR 2 is dropped, and a read gets a
free value. DEDUCED (log 100). -/
def State.hostAct (s : State) : HostOp → State
  | .write off v => if s.boot.minimal then s else s.hostStore off v
  | .read off => if s.boot.minimal then { s with hostData := Config.freeWord s.free, free := s.free + 1 } else s.hostLoad off
  | .write0 vf off v => s.hostStore0 vf off v
  | .read0 vf off => s.hostLoad0 vf off
  | .post frame vf v => s.hostPost frame vf v
  | .msg frame v => s.hostMsg frame v

/-- The host's operations take effect in the order of delivery, each after the accesses before it (R407).
DESIGN CHOICE (log 122). -/
def State.hostPump (s : State) : Nat → State
  | 0 => s
  | n + 1 =>
    match s.hostq with
    | op :: rest =>
      if (s.requests .host).isEmpty then (({ s with hostq := rest } : State).hostAct op).hostPump n else s
    | [] => s

/-- The host sends an operation. -/
def State.hostSend (s : State) (op : HostOp) : State :=
  ({ s with hostq := s.hostq ++ [op] } : State).hostPump (s.hostq.length + 1)

/-- HPOST: a host write posts a descriptor in the window of a frame (R405, R406). -/
def execHpost (frame : Nat) (vf : Bool) (v : Word) (st : State) : Outcome State Fault Refusal :=
  .next (st.hostSend (.post frame vf v))

/-- HMSG: a host write sends a word (R405, R407). -/
def execHmsg (frame : Nat) (v : Word) (st : State) : Outcome State Fault Refusal := .next (st.hostSend (.msg frame v))

/-- HOST_WRITE: 8 bytes through BAR 2, performed at their home in the order of delivery (R94, R407). -/
def execHostWrite (off : Nat) (v : Word) (st : State) : Outcome State Fault Refusal := .next (st.hostSend (.write off v))

/-- HOST_READ: 8 bytes through BAR 2 (R407). -/
def execHostRead (off : Nat) (st : State) : Outcome State Fault Refusal := .next (st.hostSend (.read off))

/-! ### Register writes as events (R6, R67, R408, R451 to R453) -/

/-- REGISTER_WRITE: machine-mode firmware writes a register of the device window (R6). -/
def execRegisterWrite (off : Nat) (v : Word) (st : State) : Outcome State Fault Refusal :=
  .next (st.devWrite .machine (off / 8 * 8) v (BitVec.allOnes 64))

/-- HINTR: a message to the host (R408). -/
def execHintr (v : Word) (st : State) : Outcome State Fault Refusal := .next (st.writeHintr v)

/-- SWINT: a software interrupt (R408). -/
def execSwint (comb : Nat) (v : Word) (st : State) : Outcome State Fault Refusal := .next (st.writeSwint comb v)

/-- SPAREMAP of a comb is written (R67, R453). -/
def execSparemap (comb : Nat) (v : Word) (st : State) : Outcome State Fault Refusal :=
  .next (st.devWrite .machine (combReg comb 0x9_0000) v (BitVec.allOnes 64))

/-- WGCTL is written (R451). -/
def execWgctl (v : Word) (st : State) : Outcome State Fault Refusal := .next (st.writeWgctl v)

/-- BBCTL is written (R452). -/
def execBbctl (v : Word) (st : State) : Outcome State Fault Refusal := .next (st.writeBbctl v)

/-! ### Resets (R413, R459) -/

/-- In minimal mode only the queen cell runs (R413). DEDUCED (log 100). -/
def State.enterMinimal (s : State) : State :=
  { s with
    threads := s.threads.filter fun e => decide (e.1 < 4)
    boot := { s.boot with stage := 8, minimal := true, wdogFrom := none, floodFrom := none, bcast := none } }

/-- What a module reset leaves (R459): memory holds the last values written back, and always-on state,
fuses and what lies outside the module are kept. DESIGN CHOICE (log 103). -/
def State.resetModule (s : State) : State :=
  let b := s.boot
  let s1 : State := { State.reset with
    mem := s.dram
    dram := s.dram
    mpoison := s.mpoison
    regs := s.regs.filter fun e => e.1 = propolisReg 0x10
    hostMem := s.hostMem
    hostPois := s.hostPois
    hostData := s.hostData
    report := s.report
    msix := s.msix
    msixTab := s.msixTab
    fuses := s.fuses
    blocks := s.blocks.map fun e =>
      (e.1, { Block.initial with remap := (e.2.remap.filter (·.flashed)).map fun r => { r with bad1 := false, bad2 := false }, errs := e.2.errs })
    pwrlim := s.pwrlim
    ahead := s.ahead
    apart := s.apart
    agenda := s.agenda
    free := s.free
    boot := { Boot.initial with
      reason := b.reason, attempts := b.attempts, locked := b.locked, keys := b.keys, policy := b.policy
      signed := b.signed, flashed := b.flashed } }
  if b.attempts = 3 ∨ b.locked then s1.enterMinimal else s1

/-- A start has failed (R413): ATTEMPTS rises, REASON is recorded and the module resets. -/
def State.failStart (s : State) (reason : Nat) : State :=
  ({ s with boot := { s.boot with attempts := Nat.min 3 (s.boot.attempts + 1), reason := reason } } : State).resetModule

/-- An alarm of source 0 to 3 (R414). DEDUCED (log 99). -/
def State.raiseAlarm (s : State) (src : Nat) : State :=
  let a := propolisReg 0x10
  let s1 := s.setDev a (setBits (s.dev a) (src % 4) 1 1)
  let s2 : State := { s1 with boot := { s1.boot with reason := 4 } }
  if s2.boot.policy = 0 then (s2.postLog 8 2 (logHi 8 0) 0).resetModule
  else
    ({ s2 with boot := { s2.boot with keys := false, locked := true } } : State).enterMinimal.setDev a
      (setBits (s2.dev a) 4 1 1)

/-- Alarms that waited for the end of a freeze (R415). -/
def State.thaw (s : State) : State :=
  s.boot.alarmPending.foldl State.raiseAlarm s.resetModule

/-- ALARM: a sensor raises an alarm; in a freeze it waits (R414, R415). -/
def execAlarm (src : Nat) (st : State) : Outcome State Fault Refusal :=
  .next (
    if st.frozen then { st with boot := { st.boot with alarmPending := st.boot.alarmPending ++ [src] } }
    else st.raiseAlarm src)

/-- FREEZE: every clock stops (R415). -/
def execFreeze (st : State) : Outcome State Fault Refusal := .next { st with frozen := true }

/-- MODULE_RESET (R459). -/
def execModuleReset (st : State) : Outcome State Fault Refusal := .next st.thaw

/-- COLD_POWER_CYCLE: a reset that loses memory too; after a flash update it clears ATTEMPTS (R413, R459). -/
def execColdPowerCycle (st : State) : Outcome State Fault Refusal :=
  .next (
    let b := st.boot
    let s0 : State := { st with
      mem := [], dram := [], mpoison := [], pwrlim := 3600
      blocks := st.blocks.map fun e => (e.1, { e.2 with errs := [] })
      boot := { b with attempts := if b.flashed then 0 else b.attempts, flashed := false } }
    s0.thaw)

/-- FLASH_UPDATE: management writes new, signed firmware to module flash (R413). -/
def execFlashUpdate (st : State) : Outcome State Fault Refusal :=
  .next { st with boot := { st.boot with signed := true, flashed := true } }

/-! ### Start-up (R411 to R413, R450 to R453) -/

/-- Byte `i` of the verified supervisor image, whose 2,048 double words sum to zero (R450). -/
def imageWord (i : Nat) : Word :=
  if i < 2047 then Config.supervisorImage i
  else 0 - (List.range 2047).foldl (fun x j => x + Config.supervisorImage j) 0
def imageByte (i : Nat) : Byte := (imageWord (i / 8)).extractLsb' (8 * (i % 8)) 8

/-- The image is at physical address 0 (R450). -/
def State.loadImage (s : State) : State :=
  { s with
    mem := Bytes.splice romByte 0 16384 imageByte s.mem
    dram := Bytes.splice romByte 0 16384 imageByte s.dram
    mpoison := s.mpoison.filter fun l => decide (128 ≤ l) }

/-- Thread 0 of a cell at reset (R450): s1 holds 1 in the queen cell. -/
def bootThread (cell : Nat) : Thread :=
  ({ Thread.empty with
    live := true, mode := .machine, pc := BitVec.ofNat 64 Config.romBase, resident := true } : Thread).writeS 1
    (if cell = 0 then 1 else 0)

/-- Thread 0 of a cell starts. -/
def State.startCell (s : State) (cell : Nat) : State :=
  ((s.updCellAt cell fun c => { c with booted := true }).setThread (cell * 4) (bootThread cell))

/-- Cells that reset starts: running, not started yet, in a module that starts up (R413, R450). -/
def State.startable (s : State) (cell : Nat) : Bool :=
  s.running cell && !(s.cell cell).booted && !(s.thread (cell * 4)).live && !s.boot.minimal &&
    decide (2 ≤ s.boot.stage)

/-- SIGNATURE_VERIFY: step 1 ends (R413, R450): the image is written and the queen starts, or the
start has failed. DESIGN CHOICE (log 101). -/
def execSignatureVerify (ok : Bool) (st : State) : Outcome State Fault Refusal :=
  .next (
    if st.boot.stage ≠ 1 then st
    else if !ok then st.failStart 1
    else
      let s1 := st.loadImage
      ({ s1 with boot := { s1.boot with stage := 2, wdogFrom := some s1.cycle } } : State).startCell 0)

/-- RESET_THREAD_START: thread 0 of a running cell starts at the boot ROM (R450). -/
def execResetThreadStart (cell : Nat) (st : State) : Outcome State Fault Refusal :=
  .next (if st.startable cell then st.startCell cell else st)

/-- The model's cycles in a cycle of the reference clock (R3). -/
def refCycle : Nat := 25

/-- The watchdog has expired before OK (R412, R413). -/
def State.wdogDue (s : State) : Bool :=
  match s.boot.wdogFrom with
  | some c => decide (c + bits (s.dev (propolisReg 8)) 0 32 * refCycle ≤ s.cycle ∧ s.boot.stage < 7)
  | none => false

/-- BOOT_WATCHDOG: expiry fails the start (R413). -/
def execBootWatchdog (st : State) : Outcome State Fault Refusal := .next (if st.wdogDue then st.failStart 2 else st)

/-- BOOTCTL_OK: the start has succeeded (R412, R413). -/
def execBootctlOk (st : State) : Outcome State Fault Refusal := .next st.writeBootOk

/-- A mesh port of the router has failed: the router sends no waggle reply (R71). -/
def State.linkDown (s : State) (comb : Nat) : Bool := (List.range 4).any fun p => (s.port comb p).failed

/-- A waggle packet. -/
def Flit.isWaggle (f : Flit) : Bool := match f.load with | .mgmt (.waggle _ _ _ _) => true | _ => false

/-- WAGGLE_PACKET: a router's copy of the waggle packet for mesh port `dir` crosses the link, and the neighbour takes it: its
first copy gives its coordinates and goes on (R83, R411). DEDUCED (log 105). -/
def execWagglePacket (comb dir : Nat) (st : State) : Outcome State Fault Refusal :=
  .next (
    match (st.readyHeads comb dir).find? (·.isWaggle), meshNext comb dir with
    | some f, some n => (match f.load with | .mgmt m => (st.takeFlit comb f).manage n m | _ => st)
    | _, _ => st)

/-- WAGGLE_REPLY: a router that the flood has reached replies to the queen (R411). -/
def execWaggleReply (comb : Nat) (st : State) : Outcome State Fault Refusal :=
  .next (
    if st.boot.floodFrom.isNone ∨ (Sparse.find? comb st.boot.reached).isNone ∨ NatSet.has st.boot.replied comb = true ∨
        st.linkDown comb = true then st
    else
      ({ st with boot := { st.boot with replied := NatSet.add comb st.boot.replied } } : State).sendMgmt comb epMgmt 0
        (.reply comb st.boot.flood))

/-- WAGGLE_TIMEOUT: 65,536 cycles have passed without 1,024 replies (R451). -/
def execWaggleTimeout (st : State) : Outcome State Fault Refusal :=
  .next (
    match st.boot.floodFrom with
    | some c => if c + 65536 ≤ st.cycle then st.failStart 3 else st
    | none => st)

/-- BOOT_BROADCAST_PACKET: router (0, 0) reads the next line of the boot broadcast and sends it to every comb (R452). -/
def execBootBroadcastPacket (st : State) : Outcome State Fault Refusal :=
  .next (
    match st.boot.bcast with
    | some (left, mc, off, src) =>
      let r := st.coherent (src / 128)
      let s1 := r.2.broadcast 0 epMgmt wholeMesh (.boot off mc (r.2.lineData (src / 128)) r.1)
      { s1 with boot := { s1.boot with bcast := if left ≤ 1 then none else some (left - 1, mc, off + 128, src + 128) } }
    | none => st)

/-! ### Attestation and power (R3, R414, R416) -/

/-- ATTESTATION: management receives a report over its nonce, signed with the identity key if the key
store holds it (R414). DESIGN CHOICE (log 102). -/
def execAttestation (nonce : BitVec 256) (st : State) : Outcome State Fault Refusal :=
  .next (if st.boot.keys then { st with report := Config.attestationSignature nonce } else st)

/-- PWRLIM: management sets the power limit, 1,000 to 3,600 W (R416). -/
def execPwrlim (watts : Nat) (st : State) : Outcome State Fault Refusal :=
  .next (if 1000 ≤ watts ∧ watts ≤ 3600 then { st with pwrlim := watts } else st)

/-- ISLAND_CLOCK_STEP: an island's clock moves by 100 MHz between 1.0 and 2.5 GHz (R3, R416). -/
def execIslandClockStep (island : Nat) (up : Bool) (st : State) : Outcome State Fault Refusal :=
  .next (
    if 16 ≤ island then st
    else
      let a := blockReg 8 (0x2_2000 + 8 * island)
      let n := bits (st.dev a) 0 8
      st.setDev a (BitVec.ofNat 64 (if up then Nat.min 25 (n + 1) else Nat.max 10 (n - 1))))

end Sys2Proof.Machine
end

