-- ==== Sys2Proof/Machine/Burmeal.lean ====
section
/-! DEFINITION. Burmeal images: the header, the records, the loader's refusals, the rewriting of
deprecated words, and the gang that a loaded image becomes (R421 to R423). -/

namespace Sys2Proof.Machine

open Host (Outcome)

/-- A field of an image at physical address `a`: `n` bytes from byte `o`. -/
def State.img (s : State) (a o n : Nat) : Nat := s.memRead (a + o) n

/-- The header (R421). -/
structure BurHead where
  ncell : Nat
  need : Nat
  poolkb : Nat
  w : Nat
  h : Nat
  nstep : Nat
  ntask : Nat
  nxfer : Nat
  stepoff : Nat
  taskoff : Nat
  xferoff : Nat
  deriving DecidableEq, Repr

/-- The header, if MAGIC, VER, the reserved field and the offsets are as R421 asks. -/
def State.burHead (s : State) (a : Nat) : Option BurHead :=
  let h : BurHead := ⟨s.img a 6 2, s.img a 8 8, s.img a 16 2, s.img a 18 1, s.img a 19 1, s.img a 20 4, s.img a 24 4,
    s.img a 28 4, s.img a 32 8, s.img a 40 8, s.img a 48 8⟩
  if s.img a 0 4 = 0x4D52_5542 ∧ s.img a 4 2 = 1 ∧ s.img a 56 8 = 0 ∧ h.stepoff % 16 = 0 ∧ h.taskoff % 16 = 0 ∧
      h.xferoff % 16 = 0 ∧ 1 ≤ h.ncell ∧ h.ncell ≤ 16384 then some h
  else none

/-- Level of the gang of an image, or `none` for an NCELL, W or H that the gang rule refuses (R423). -/
def BurHead.level (h : BurHead) : Option Nat :=
  if h.ncell ≤ 16 then (if h.w = 1 ∧ h.h = 1 then some 2 else none)
  else if h.ncell = 16 * h.w * h.h then (if (shapes (h.ncell / 16) 16 8).isEmpty then some 4 else some 3)
  else none

/-! ### Code (R422, R423) -/

/-- Major opcode of a word. -/
def majorOf (w : BitVec 32) : Nat := (w.extractLsb' 25 6).toNat

/-- A word of format M: S, major, d, a, w3 and imm12. -/
def wordM (mk : Bool) (major : BitVec 6) (d a : Reg) (w3 : BitVec 3) (i : BitVec 12) : BitVec 32 :=
  BitVec.ofBool mk ++ major ++ d ++ a ++ w3 ++ i

/-- What a word is rewritten as (R423); `none` for a refused word. A switch marker goes to the last word. -/
def rewriteWord (w : BitVec 32) : Option (List (BitVec 32)) :=
  if majorOf w ≠ 0x39 then some [w]
  else
    let mk := w.getLsbD 31
    let d : Reg := w.extractLsb' 20 5
    let a : Reg := w.extractLsb' 15 5
    let w3 := (w.extractLsb' 12 3).toNat
    let i : BitVec 12 := w.extractLsb' 0 12
    if w3 = 0 then
      if d.toNat % 2 = 1 ∨ 28 < d.toNat then none
      else some [wordI false 0x02 (d + 1) a (i.signExtend 15 <<< 3), wordM false 0x0A d (d + 1) 3 0, wordM mk 0x0A (d + 1) (d + 1) 3 8]
    else if w3 = 1 then
      if a ≠ 0 ∨ d = 31 then none
      else some [wordI false 0x02 d 31 ((i.extractLsb' 0 10).setWidth 15), wordI mk 0x2C d d ((i.extractLsb' 10 2).setWidth 15)]
    else if w3 = 2 then
      if d ≠ 0 ∨ a ≠ 0 ∨ i ≠ 0 then none else some [wordI mk 0x0E 0 31 0x01D]
    else none

/-- Offset, in words, of a branch or jump (R259): its width and value. -/
def branchOff (w : BitVec 32) : Option (Nat × Int) :=
  let m := majorOf w
  if (0x10 ≤ m ∧ m ≤ 0x15) ∨ m = 0x18 then some (15, (w.extractLsb' 0 15).toInt)
  else if m = 0x16 then some (25, (w.extractLsb' 0 25).toInt)
  else none

/-- The low `n` bits of a word are replaced by `v`. -/
def putLow (w : BitVec 32) (n : Nat) (v : Int) : BitVec 32 :=
  (w &&& ~~~BitVec.ofNat 32 (2 ^ n - 1)) ||| (BitVec.ofInt 32 v &&& BitVec.ofNat 32 (2 ^ n - 1))

/-- A word whose branch offset, or LOOP body length, is moved to fit the new code: `pos` gives the new
place of each old word, `i` is the word's own. -/
def moveWord (n : Nat) (pos : Nat → Nat) (i : Nat) (w : BitVec 32) : Option (BitVec 32) :=
  match branchOff w with
  | some (bits, off) =>
    let t := (i : Int) + off
    if t < 0 ∨ (n : Int) < t then none
    else
      let v : Int := (pos t.toNat : Int) - (pos i : Int)
      if v < -(2 ^ (bits - 1) : Int) ∨ (2 ^ (bits - 1) : Int) ≤ v then none else some (putLow w bits v)
  | none =>
    if majorOf w = 0x19 then
      let len := (w.extractLsb' 10 5).toNat + 1
      let m := pos (i + 1 + len) - pos (i + 1)
      if n < i + 1 + len ∨ 32 < m then none else some ((w &&& ~~~0x7C00) ||| (BitVec.ofNat 32 ((m - 1) * 1024)))
    else some w

/-- The rewritten code of a task, or `none` when it is refused: it ends in RETIRE, holds no other word of
major 0x37 and none of majors 0x35 and 0x38 (R422, R423). -/
def rewriteCode (code : List (BitVec 32)) : Option (List (BitVec 32)) :=
  let retire := fun (w : BitVec 32) => decide (w.setWidth 31 = (0x6E00_0003 : BitVec 31))
  let banned := code.any fun w =>
    decide (majorOf w = 0x35 ∨ majorOf w = 0x38) || (decide (majorOf w = 0x37) && !retire w)
  if banned || !(match code.getLast? with | some w => retire w | none => false) then none
  else
    match code.mapM rewriteWord with
    | none => none
    | some parts =>
      let pos := fun (i : Nat) => (parts.take i).foldl (fun n p => n + p.length) 0
      ((code.zip parts).zipIdx.mapM fun (c : (BitVec 32 × List (BitVec 32)) × Nat) =>
        match c.1.2 with
        | [w] => if w = c.1.1 then (moveWord code.length pos c.2 w).map fun x => [x] else some [w]
        | p => some p).map List.flatten

/-! ### Records (R422) -/

/-- A task record. -/
structure BurTask where
  cell : Nat
  code : List (BitVec 32)
  reads : List (Nat × Nat)
  writes : List (Nat × Nat)
  deriving DecidableEq, Repr

/-- Task `i` of an image. -/
def State.burTask (s : State) (a : Nat) (h : BurHead) (i : Nat) : BurTask :=
  let t := h.taskoff + 32 * i
  let len := s.img a (t + 4) 4
  let co := s.img a (t + 8) 8
  let ro := s.img a (t + 16) 8
  let nr := s.img a (t + 24) 4
  let nw := s.img a (t + 28) 4
  let range := fun (j : Nat) => (s.img a (ro + 16 * j) 8, s.img a (ro + 16 * j + 8) 8)
  ⟨s.img a t 4, (List.range len).map fun j => BitVec.ofNat 32 (s.img a (co + 4 * j) 4), (List.range nr).map range,
    (List.range nw).map fun j => range (nr + j)⟩

/-- Two lists of ranges overlap. -/
def rangesMeet (x y : List (Nat × Nat)) : Bool :=
  x.any fun p => y.any fun q => decide (p.1 < q.1 + q.2 ∧ q.1 < p.1 + p.2)

/-- Tasks of one step conflict: same cell, and one writes what the other reads or writes. -/
def BurTask.conflicts (t u : BurTask) : Bool :=
  decide (t.cell = u.cell) && (rangesMeet t.writes (u.reads ++ u.writes) || rangesMeet u.writes (t.reads ++ t.writes))

/-- A step record is sound: its kind alternates, its reserved bytes are zero and it names existing
records, no two of whose tasks conflict. -/
def State.stepOk (s : State) (a : Nat) (h : BurHead) (tasks : List BurTask) (i : Nat) : Bool :=
  let t := h.stepoff + 16 * i
  let first := s.img a (t + 4) 4
  let count := s.img a (t + 8) 4
  let mine := (tasks.drop first).take count
  decide (s.img a t 1 = i % 2 ∧ s.img a (t + 1) 3 = 0 ∧ s.img a (t + 12) 4 = 0 ∧
      first + count ≤ (if i % 2 = 0 then h.ntask else h.nxfer)) &&
    (decide (i % 2 = 1) || mine.zipIdx.all fun x => (mine.drop (x.2 + 1)).all fun y => !x.1.conflicts y)

/-- A transfer record is sound. -/
def State.xferOk (s : State) (a : Nat) (h : BurHead) (i : Nat) : Bool :=
  let t := h.xferoff + 32 * i
  decide (s.img a t 4 < h.ncell ∧ s.img a (t + 4) 4 < h.ncell ∧ s.img a (t + 12) 4 % 128 = 0 ∧ s.img a (t + 20) 1 < 64 ∧
    s.img a (t + 21) 11 = 0)

/-- What the loader makes of an image: nothing, or its level and the rewritten code of its tasks. -/
def State.burCheck (s : State) (a : Nat) : Option (BurHead × Nat × List (Nat × List (BitVec 32))) :=
  match s.burHead a with
  | none => none
  | some h =>
    match h.level with
    | none => none
    | some lv =>
      let tasks := (List.range h.ntask).map (s.burTask a h)
      if BitVec.ofNat 64 h.need &&& ~~~Config.features ≠ 0 ∨ 192 < h.poolkb then none
      else if !(List.range h.nstep).all (s.stepOk a h tasks) || !(List.range h.nxfer).all (s.xferOk a h) ||
          tasks.any (fun t => decide (h.ncell ≤ t.cell)) then none
      else (tasks.mapM fun t => (rewriteCode t.code).map fun c => (t.cell, c)).map fun ts => (h, lv, ts)

/-- The descriptor of an image's gang (R423): NCELL cells with k = 1 in the partition of one thread; the
entry address and the context are the loader's own. -/
def burDesc (a ncell level : Nat) (entry : Word) (ctx : Nat) : Desc :=
  { addr := BitVec.ofNat 64 a, entry := entry, partw := partwReset, ctx := ctx, rscope := 0, prio := 0, trunc := false,
    fwd := false, k := 1, level := level, n := ncell, wctr := 0, wframe := 0, wv := false, args := BitVec.ofNat 64 a,
    done := 0, accept := 0, trigs := List.replicate 8 0 }

/-- BURMEAL_LOAD: the loader checks the image at physical address `addr` and queues its gang, or loads
nothing (R423). DESIGN CHOICE (log 106). -/
def execBurmealLoad (addr : Nat) (st : State) : Outcome State Fault Refusal :=
  .next (
    match st.burCheck addr with
    | some (h, lv, ts) =>
      let entry := Config.freeWord st.free &&& 0x003F_FFFF_FFFF_FFFC
      let d := burDesc addr h.ncell lv entry (bits (Config.freeWord (st.free + 1)) 0 16)
      if launchCap ≤ (st.queue (unitOf lv 0) 0).length then st
      else
        ({ st with free := st.free + 2, burmeal := st.burmeal ++ [⟨addr, d, ts⟩] } : State).enqueueLaunch (unitOf lv 0)
          (Launch.new d)
    | none => st)

end Sys2Proof.Machine
end

