-- ==== Sys2Proof/Machine/Fences.lean ====
section
/-! DEFINITION. Fences (R140 to R145, R363, R270). -/

namespace Sys2Proof.Machine

open Host (Outcome)

/-- A fence whose earlier events, reads among them, must all be performed before it (R140 to R142). -/
def State.fullFence (s : State) (mk : Bool) (p q : BitVec 5) (c : Scope) (f : State → State) : State :=
  if s.underWay s.cur p then s.stall else s.released p c fun s => (f (s.acquire s.cur q c)).advance mk

/-- A fence with earlier paths `p`, later paths `q` (R145). Class S: the thread goes on only when
the waits are over. -/
def State.fence (s : State) (mk : Bool) (p q : BitVec 5) (c : Scope) : State :=
  s.released p c fun s => (s.acquire s.cur q c).advance mk

/-- FENCEL (R140, R363). -/
def execFencel (s : Bool) (p : BitVec 5) (c : Scope) (st : State) : Outcome State Fault Refusal :=
  .next (st.fence s p 0 c)

/-- FENCEA (R140, R363): it waits until the reads before it on its paths have been performed. -/
def execFencea (s : Bool) (p : BitVec 5) (c : Scope) (st : State) : Outcome State Fault Refusal :=
  .next (if st.underWay st.cur p then st.stall else st.fence s 0 p c)

/-- FENCE (R140, R141, R363). -/
def execFence (s : Bool) (p : BitVec 5) (c : Scope) (st : State) : Outcome State Fault Refusal :=
  .next (st.fullFence s p p c id)

/-- XFENCE (R142, R363). -/
def execXfence (s : Bool) (p q : BitVec 5) (c : Scope) (st : State) : Outcome State Fault Refusal :=
  .next (st.fullFence s p q c id)

/-- FENCEALL (R270): FENCE.system on all paths, counted as deprecated. -/
def execFenceall (s : Bool) (st : State) : Outcome State Fault Refusal :=
  .next (st.fullFence s psAll psAll .system State.countDeprecated)

end Sys2Proof.Machine
end

