-- ==== Sys2Proof/Machine/ScalarFp.lean ====
section
/-! DEFINITION. Scalar floating point (R296 to R300). -/

namespace Sys2Proof.Machine

open Host (Outcome)

/-- A two-operand operation of class 4 or 1 in format `f` (R296). -/
def State.fp2 (s : State) (mk : Bool) (d a b : Reg) (f : Fmt) (op : FpFormat → Nat → Nat → Nat × Flags) : State :=
  s.guarded [a, b] [d] fun s =>
    s.fpFinish mk d (op (fpFmt f) (fpIn (fpFmt f) (s.rs a)) (fpIn (fpFmt f) (s.rs b)))

/-- A one-operand operation in format `f` (R296). -/
def State.fp1 (s : State) (mk : Bool) (d a : Reg) (f : Fmt) (op : FpFormat → Nat → Nat × Flags) : State :=
  s.guarded [a] [d] fun s => s.fpFinish mk d (op (fpFmt f) (fpIn (fpFmt f) (s.rs a)))

/-- A fused form (R299). -/
def State.fp3 (s : State) (mk : Bool) (d a b c : Reg) (f : Fmt) (r : Rm) (np nc : Bool) : State :=
  s.guarded [a, b, c] [d] fun s =>
    s.fpFinish mk d ((fpFmt f).fma (s.thr.rmOf r) np nc
      (fpIn (fpFmt f) (s.rs a)) (fpIn (fpFmt f) (s.rs b)) (fpIn (fpFmt f) (s.rs c)))

/-- A conversion to a 64-bit integer range (R228, R300). -/
def toInt64 (lo hi : Int) (rm : RoundMode) (f : FpFormat) (x : Nat) : Nat × Flags :=
  let r := toIntRange rm lo hi (f.decode x)
  ((BitVec.ofInt 64 r.1).toNat, r.2)

/-- FCVTW (R300): exact widening, where a signalling NaN raises NV. -/
def widenFP (g f : FpFormat) (x : Nat) : Nat × Flags := f.roundFP .rne (g.decode x)

/-- FADD (R297). -/
def execFadd (s : Bool) (d a b : Reg) (f : Fmt) (r : Rm) (st : State) : Outcome State Fault Refusal :=
  .next (st.fp2 s d a b f (fun g x y => g.add (st.thr.rmOf r) x y))

/-- FSUB (R297). -/
def execFsub (s : Bool) (d a b : Reg) (f : Fmt) (r : Rm) (st : State) : Outcome State Fault Refusal :=
  .next (st.fp2 s d a b f (fun g x y => g.sub (st.thr.rmOf r) x y))

/-- FMUL (R297). -/
def execFmul (s : Bool) (d a b : Reg) (f : Fmt) (r : Rm) (st : State) : Outcome State Fault Refusal :=
  .next (st.fp2 s d a b f (fun g x y => g.mul (st.thr.rmOf r) x y))

/-- FDIV (R297, R298): class P, or class S while a trap is enabled. -/
def execFdiv (s : Bool) (d a b : Reg) (f : Fmt) (r : Rm) (st : State) : Outcome State Fault Refusal :=
  .next (st.guarded [a, b] [d] fun t =>
    t.fpPend s d ((fpFmt f).div (t.thr.rmOf r) (fpIn (fpFmt f) (t.rs a)) (fpIn (fpFmt f) (t.rs b))))

/-- FSQRT (R297, R298). -/
def execFsqrt (s : Bool) (d a : Reg) (f : Fmt) (r : Rm) (st : State) : Outcome State Fault Refusal :=
  .next (st.guarded [a] [d] fun t =>
    t.fpPend s d ((fpFmt f).sqrt (t.thr.rmOf r) (fpIn (fpFmt f) (t.rs a))))

/-- FMIN (R297). -/
def execFmin (s : Bool) (d a b : Reg) (f : Fmt) (st : State) : Outcome State Fault Refusal :=
  .next (st.fp2 s d a b f (fun g x y => g.minMax false x y))

/-- FMAX (R297). -/
def execFmax (s : Bool) (d a b : Reg) (f : Fmt) (st : State) : Outcome State Fault Refusal :=
  .next (st.fp2 s d a b f (fun g x y => g.minMax true x y))

/-- FCPSGN (R297). -/
def execFcpsgn (s : Bool) (d a b : Reg) (f : Fmt) (st : State) : Outcome State Fault Refusal :=
  .next (st.fp2 s d a b f (fun g x y => (g.withSign x (g.signOf y), 0)))

/-- FNEG (R297). -/
def execFneg (s : Bool) (d a : Reg) (f : Fmt) (st : State) : Outcome State Fault Refusal :=
  .next (st.fp1 s d a f (fun g x => (g.withSign x (!g.signOf x), 0)))

/-- FABS (R297). -/
def execFabs (s : Bool) (d a : Reg) (f : Fmt) (st : State) : Outcome State Fault Refusal :=
  .next (st.fp1 s d a f (fun g x => (g.withSign x false, 0)))

/-- FXSGN (R297). -/
def execFxsgn (s : Bool) (d a b : Reg) (f : Fmt) (st : State) : Outcome State Fault Refusal :=
  .next (st.fp2 s d a b f (fun g x y => (g.withSign x (g.signOf x != g.signOf y), 0)))

/-- FMADD.d (R299). -/
def execFmaddD (s : Bool) (d a b c : Reg) (r : Rm) (st : State) : Outcome State Fault Refusal :=
  .next (st.fp3 s d a b c .d r false false)

/-- FMSUB.d (R299). -/
def execFmsubD (s : Bool) (d a b c : Reg) (r : Rm) (st : State) : Outcome State Fault Refusal :=
  .next (st.fp3 s d a b c .d r false true)

/-- FNMADD.d (R299). -/
def execFnmaddD (s : Bool) (d a b c : Reg) (r : Rm) (st : State) : Outcome State Fault Refusal :=
  .next (st.fp3 s d a b c .d r true true)

/-- FNMSUB.d (R299). -/
def execFnmsubD (s : Bool) (d a b c : Reg) (r : Rm) (st : State) : Outcome State Fault Refusal :=
  .next (st.fp3 s d a b c .d r true false)

/-- FMADD.s (R299). -/
def execFmaddS (s : Bool) (d a b c : Reg) (r : Rm) (st : State) : Outcome State Fault Refusal :=
  .next (st.fp3 s d a b c .s r false false)

/-- FMSUB.s (R299). -/
def execFmsubS (s : Bool) (d a b c : Reg) (r : Rm) (st : State) : Outcome State Fault Refusal :=
  .next (st.fp3 s d a b c .s r false true)

/-- FNMADD.s (R299). -/
def execFnmaddS (s : Bool) (d a b c : Reg) (r : Rm) (st : State) : Outcome State Fault Refusal :=
  .next (st.fp3 s d a b c .s r true true)

/-- FNMSUB.s (R299). -/
def execFnmsubS (s : Bool) (d a b c : Reg) (r : Rm) (st : State) : Outcome State Fault Refusal :=
  .next (st.fp3 s d a b c .s r true false)

/-- FCMPQ (R300). -/
def execFcmpq (s : Bool) (d a b : Reg) (f : Fmt) (st : State) : Outcome State Fault Refusal :=
  .next (st.fp2 s d a b f (fun g x y => g.relation false x y))

/-- FCMPS (R300). -/
def execFcmps (s : Bool) (d a b : Reg) (f : Fmt) (st : State) : Outcome State Fault Refusal :=
  .next (st.fp2 s d a b f (fun g x y => g.relation true x y))

/-- FCLASS (R300). -/
def execFclass (s : Bool) (d a : Reg) (f : Fmt) (st : State) : Outcome State Fault Refusal :=
  .next (st.fp1 s d a f (fun g x => (g.classify x, 0)))

/-- FCVT (R300): a is in the other of binary64 and binary32. -/
def execFcvt (s : Bool) (d a : Reg) (f : Fmt) (r : Rm) (st : State) : Outcome State Fault Refusal :=
  .next (st.guarded [a] [d] fun t =>
    let g := fpFmt (match f with | .d => .s | .s => .d)
    t.fpFinish s d ((fpFmt f).narrow (t.thr.rmOf r) false (g.decode (fpIn g (t.rs a)))))

/-- FCVTI (R300). -/
def execFcvti (s : Bool) (d a : Reg) (f : Fmt) (r : Rm) (st : State) : Outcome State Fault Refusal :=
  .next (st.fp1 s d a f (toInt64 (-(2 ^ 63)) (2 ^ 63 - 1) (st.thr.rmOf r)))

/-- FCVTIU (R300). -/
def execFcvtiu (s : Bool) (d a : Reg) (f : Fmt) (r : Rm) (st : State) : Outcome State Fault Refusal :=
  .next (st.fp1 s d a f (toInt64 0 (2 ^ 64 - 1) (st.thr.rmOf r)))

/-- ICVTF (R300). -/
def execIcvtf (s : Bool) (d a : Reg) (f : Fmt) (r : Rm) (st : State) : Outcome State Fault Refusal :=
  .next (st.guarded [a] [d] fun t =>
    t.fpFinish s d ((fpFmt f).roundFP (t.thr.rmOf r) (fvalOfInt (t.rs a).toInt)))

/-- IUCVTF (R300). -/
def execIucvtf (s : Bool) (d a : Reg) (f : Fmt) (r : Rm) (st : State) : Outcome State Fault Refusal :=
  .next (st.guarded [a] [d] fun t =>
    t.fpFinish s d ((fpFmt f).roundFP (t.thr.rmOf r) (fvalOfInt (t.rs a).toNat)))

/-- FCVTN (R228, R300): to format g, 2 to 5. -/
def execFcvtn (s : Bool) (d a : Reg) (g : BitVec 5) (f : Fmt) (r : Rm) (st : State) : Outcome State Fault Refusal :=
  .next (st.guarded [a] [d] fun t =>
    t.fpFinish s d ((fmtOfCode g.toNat).narrow (t.thr.rmOf r) (fpSatnOf (t.thr.csrGet csrFPCTL))
      ((fpFmt f).decode (fpIn (fpFmt f) (t.rs a)))))

/-- FCVTW (R300): from format g, 2 to 5. -/
def execFcvtw (s : Bool) (d a : Reg) (g : BitVec 5) (f : Fmt) (st : State) : Outcome State Fault Refusal :=
  .next (st.guarded [a] [d] fun t =>
    t.fpFinish s d (widenFP (fmtOfCode g.toNat) (fpFmt f) (fpIn (fmtOfCode g.toNat) (t.rs a))))

end Sys2Proof.Machine
end

