-- ==== Sys2Proof/Machine/Tile.lean ====
section
/-! DEFINITION. Tile and matrix instructions (R340 to R354): what each names, and its way into the
tile queue. -/

namespace Sys2Proof.Machine

open Host (Outcome)

/-- TCFG (R343). -/
def execTcfg (s : Bool) (t : BitVec 3) (x : Reg) (st : State) : Outcome State Fault Refusal :=
  .next (st.tIssue s .tcfg [(false, t.toNat)] t.toNat 0 0 (some x) none 0)

/-- ACFG (R343). -/
def execAcfg (s : Bool) (t : BitVec 3) (x : Reg) (st : State) : Outcome State Fault Refusal :=
  .next (st.tIssue s .acfg [(true, t.toNat)] t.toNat 0 0 (some x) none 0)

/-- TZERO (R343). -/
def execTzero (s : Bool) (t : BitVec 3) (st : State) : Outcome State Fault Refusal :=
  .next (st.tIssue s .tzero [(false, t.toNat)] t.toNat 0 0 none none 0)

/-- AZERO (R343). -/
def execAzero (s : Bool) (t : BitVec 3) (st : State) : Outcome State Fault Refusal :=
  .next (st.tIssue s .azero [(true, t.toNat)] t.toNat 0 0 none none 0)

/-- TGETR (R344). -/
def execTgetr (s : Bool) (t : BitVec 3) (x : Reg) (r : BitVec 6) (st : State) : Outcome State Fault Refusal :=
  .next (st.tIssue s .tgetr [(false, t.toNat)] t.toNat 0 0 none (some (x.toNat, true)) r.toNat)

/-- AGETR (R344). -/
def execAgetr (s : Bool) (t : BitVec 3) (x : Reg) (r : BitVec 6) (st : State) : Outcome State Fault Refusal :=
  .next (st.tIssue s .agetr [(true, t.toNat)] t.toNat 0 0 none (some (x.toNat, true)) r.toNat)

/-- TSETR (R344). -/
def execTsetr (s : Bool) (t : BitVec 3) (x : Reg) (r : BitVec 6) (st : State) : Outcome State Fault Refusal :=
  .next (st.tIssue s .tsetr [(false, t.toNat)] t.toNat 0 0 none (some (x.toNat, false)) r.toNat)

/-- ASETR (R344). -/
def execAsetr (s : Bool) (t : BitVec 3) (x : Reg) (r : BitVec 6) (st : State) : Outcome State Fault Refusal :=
  .next (st.tIssue s .asetr [(true, t.toNat)] t.toNat 0 0 none (some (x.toNat, false)) r.toNat)

/-- TTRANS (R345). -/
def execTtrans (s : Bool) (t : BitVec 3) (a : BitVec 3) (st : State) : Outcome State Fault Refusal :=
  .next (st.tIssue s .ttrans [(false, t.toNat), (false, a.toNat)] t.toNat a.toNat 0 none none 0)

/-- ACVT (R346). -/
def execAcvt (s : Bool) (t : BitVec 3) (a : BitVec 3) (st : State) : Outcome State Fault Refusal :=
  .next (st.tIssue s .acvt [(false, t.toNat), (true, a.toNat)] t.toNat a.toNat 0 none none 0)

/-- TMMA_D (R230, R351 to R354). -/
def execTmmaD (s : Bool) (t : BitVec 3) (a : BitVec 3) (b : BitVec 3) (st : State) : Outcome State Fault Refusal :=
  .next (st.tIssue s .tmmaD [(true, t.toNat), (false, a.toNat), (false, b.toNat)] t.toNat a.toNat b.toNat none none 0)

/-- TMMA_HF (R230, R351 to R354). -/
def execTmmaHf (s : Bool) (t : BitVec 3) (a : BitVec 3) (b : BitVec 3) (st : State) : Outcome State Fault Refusal :=
  .next (st.tIssue s .tmmaHf [(true, t.toNat), (false, a.toNat), (false, b.toNat)] t.toNat a.toNat b.toNat none none 0)

/-- TMMA_BF (R230, R351 to R354). -/
def execTmmaBf (s : Bool) (t : BitVec 3) (a : BitVec 3) (b : BitVec 3) (st : State) : Outcome State Fault Refusal :=
  .next (st.tIssue s .tmmaBf [(true, t.toNat), (false, a.toNat), (false, b.toNat)] t.toNat a.toNat b.toNat none none 0)

/-- TMMA_E4E4 (R230, R351 to R354). -/
def execTmmaE4e4 (s : Bool) (t : BitVec 3) (a : BitVec 3) (b : BitVec 3) (x : Reg) (st : State) : Outcome State Fault Refusal :=
  .next (st.tIssue s .tmmaE4e4 [(true, t.toNat), (false, a.toNat), (false, b.toNat)] t.toNat a.toNat b.toNat (some x) none 0)

/-- TMMA_E4E5 (R230, R351 to R354). -/
def execTmmaE4e5 (s : Bool) (t : BitVec 3) (a : BitVec 3) (b : BitVec 3) (x : Reg) (st : State) : Outcome State Fault Refusal :=
  .next (st.tIssue s .tmmaE4e5 [(true, t.toNat), (false, a.toNat), (false, b.toNat)] t.toNat a.toNat b.toNat (some x) none 0)

/-- TMMA_E5E4 (R230, R351 to R354). -/
def execTmmaE5e4 (s : Bool) (t : BitVec 3) (a : BitVec 3) (b : BitVec 3) (x : Reg) (st : State) : Outcome State Fault Refusal :=
  .next (st.tIssue s .tmmaE5e4 [(true, t.toNat), (false, a.toNat), (false, b.toNat)] t.toNat a.toNat b.toNat (some x) none 0)

/-- TMMA_E5E5 (R230, R351 to R354). -/
def execTmmaE5e5 (s : Bool) (t : BitVec 3) (a : BitVec 3) (b : BitVec 3) (x : Reg) (st : State) : Outcome State Fault Refusal :=
  .next (st.tIssue s .tmmaE5e5 [(true, t.toNat), (false, a.toNat), (false, b.toNat)] t.toNat a.toNat b.toNat (some x) none 0)

/-- TMMA_I8 (R230, R351 to R354). -/
def execTmmaI8 (s : Bool) (t : BitVec 3) (a : BitVec 3) (b : BitVec 3) (st : State) : Outcome State Fault Refusal :=
  .next (st.tIssue s .tmmaI8 [(true, t.toNat), (false, a.toNat), (false, b.toNat)] t.toNat a.toNat b.toNat none none 0)

/-- TMMA_C8 (R230, R351 to R354). -/
def execTmmaC8 (s : Bool) (t : BitVec 3) (a : BitVec 3) (b : BitVec 3) (x : Reg) (st : State) : Outcome State Fault Refusal :=
  .next (st.tIssue s .tmmaC8 [(true, t.toNat), (false, a.toNat), (false, b.toNat)] t.toNat a.toNat b.toNat (some x) none 0)

/-- TMMA_C6 (R230, R351 to R354). -/
def execTmmaC6 (s : Bool) (t : BitVec 3) (a : BitVec 3) (b : BitVec 3) (x : Reg) (st : State) : Outcome State Fault Refusal :=
  .next (st.tIssue s .tmmaC6 [(true, t.toNat), (false, a.toNat), (false, b.toNat)] t.toNat a.toNat b.toNat (some x) none 0)

/-- TMMA_C4 (R230, R351 to R354). -/
def execTmmaC4 (s : Bool) (t : BitVec 3) (a : BitVec 3) (b : BitVec 3) (x : Reg) (st : State) : Outcome State Fault Refusal :=
  .next (st.tIssue s .tmmaC4 [(true, t.toNat), (false, a.toNat), (false, b.toNat)] t.toNat a.toNat b.toNat (some x) none 0)

/-- TLD (R347 to R350). -/
def execTld (s : Bool) (t : BitVec 3) (x : Reg) (st : State) : Outcome State Fault Refusal :=
  .next (st.tIssue s .tld [(false, t.toNat)] t.toNat 0 0 (some x) none 0)

/-- TST (R347 to R350). -/
def execTst (s : Bool) (t : BitVec 3) (x : Reg) (st : State) : Outcome State Fault Refusal :=
  .next (st.tIssue s .tst [(false, t.toNat)] t.toNat 0 0 (some x) none 0)

/-- ALD (R347 to R350). -/
def execAld (s : Bool) (t : BitVec 3) (x : Reg) (st : State) : Outcome State Fault Refusal :=
  .next (st.tIssue s .ald [(true, t.toNat)] t.toNat 0 0 (some x) none 0)

/-- AST (R347 to R350). -/
def execAst (s : Bool) (t : BitVec 3) (x : Reg) (st : State) : Outcome State Fault Refusal :=
  .next (st.tIssue s .ast [(true, t.toNat)] t.toNat 0 0 (some x) none 0)

end Sys2Proof.Machine
end

