-- ==== Sys2Proof/Machine/Dispatch.lean ====
section
/-! DEFINITION. The dispatch from an instruction or event to its meaning. -/

namespace Sys2Proof.Machine

/-- The meaning of every row of the opcode table. -/
def exec (i : Instr) (s : State) : Host.Outcome State Fault Refusal :=
  match i with
  | .add mk d a b => Sys2Proof.Machine.execAdd mk d a b s
  | .sub mk d a b => Sys2Proof.Machine.execSub mk d a b s
  | .add32 mk d a b => Sys2Proof.Machine.execAdd32 mk d a b s
  | .sub32 mk d a b => Sys2Proof.Machine.execSub32 mk d a b s
  | .and mk d a b => Sys2Proof.Machine.execAnd mk d a b s
  | .or mk d a b => Sys2Proof.Machine.execOr mk d a b s
  | .xor mk d a b => Sys2Proof.Machine.execXor mk d a b s
  | .andn mk d a b => Sys2Proof.Machine.execAndn mk d a b s
  | .sll mk d a b => Sys2Proof.Machine.execSll mk d a b s
  | .srl mk d a b => Sys2Proof.Machine.execSrl mk d a b s
  | .sra mk d a b => Sys2Proof.Machine.execSra mk d a b s
  | .ror mk d a b => Sys2Proof.Machine.execRor mk d a b s
  | .min mk d a b => Sys2Proof.Machine.execMin mk d a b s
  | .max mk d a b => Sys2Proof.Machine.execMax mk d a b s
  | .minu mk d a b => Sys2Proof.Machine.execMinu mk d a b s
  | .maxu mk d a b => Sys2Proof.Machine.execMaxu mk d a b s
  | .clz mk d a => Sys2Proof.Machine.execClz mk d a s
  | .ctz mk d a => Sys2Proof.Machine.execCtz mk d a s
  | .popc mk d a => Sys2Proof.Machine.execPopc mk d a s
  | .byterev mk d a => Sys2Proof.Machine.execByterev mk d a s
  | .slt mk d a b => Sys2Proof.Machine.execSlt mk d a b s
  | .sltu mk d a b => Sys2Proof.Machine.execSltu mk d a b s
  | .seq mk d a b => Sys2Proof.Machine.execSeq mk d a b s
  | .sne mk d a b => Sys2Proof.Machine.execSne mk d a b s
  | .cmovnz mk d a b => Sys2Proof.Machine.execCmovnz mk d a b s
  | .cmovz mk d a b => Sys2Proof.Machine.execCmovz mk d a b s
  | .mul mk d a b => Sys2Proof.Machine.execMul mk d a b s
  | .mulhs mk d a b => Sys2Proof.Machine.execMulhs mk d a b s
  | .mulhu mk d a b => Sys2Proof.Machine.execMulhu mk d a b s
  | .mulhus mk d a b => Sys2Proof.Machine.execMulhus mk d a b s
  | .mul32 mk d a b => Sys2Proof.Machine.execMul32 mk d a b s
  | .muladd mk d a b => Sys2Proof.Machine.execMuladd mk d a b s
  | .mulsub mk d a b => Sys2Proof.Machine.execMulsub mk d a b s
  | .div mk d a b => Sys2Proof.Machine.execDiv mk d a b s
  | .divu mk d a b => Sys2Proof.Machine.execDivu mk d a b s
  | .rem mk d a b => Sys2Proof.Machine.execRem mk d a b s
  | .remu mk d a b => Sys2Proof.Machine.execRemu mk d a b s
  | .addi mk d a imm => Sys2Proof.Machine.execAddi mk d a imm s
  | .andi mk d a imm => Sys2Proof.Machine.execAndi mk d a imm s
  | .ori mk d a imm => Sys2Proof.Machine.execOri mk d a imm s
  | .xori mk d a imm => Sys2Proof.Machine.execXori mk d a imm s
  | .slli mk d a n => Sys2Proof.Machine.execSlli mk d a n s
  | .srli mk d a n => Sys2Proof.Machine.execSrli mk d a n s
  | .srai mk d a n => Sys2Proof.Machine.execSrai mk d a n s
  | .rori mk d a n => Sys2Proof.Machine.execRori mk d a n s
  | .slti mk d a imm => Sys2Proof.Machine.execSlti mk d a imm s
  | .sltiu mk d a imm => Sys2Proof.Machine.execSltiu mk d a imm s
  | .lui mk d imm => Sys2Proof.Machine.execLui mk d imm s
  | .addpc mk d imm => Sys2Proof.Machine.execAddpc mk d imm s
  | .bfx mk d a p w => Sys2Proof.Machine.execBfx mk d a p w s
  | .bfxu mk d a p w => Sys2Proof.Machine.execBfxu mk d a p w s
  | .bfi mk d a p w => Sys2Proof.Machine.execBfi mk d a p w s
  | .beq mk a b o => Sys2Proof.Machine.execBeq mk a b o s
  | .bne mk a b o => Sys2Proof.Machine.execBne mk a b o s
  | .blt mk a b o => Sys2Proof.Machine.execBlt mk a b o s
  | .bge mk a b o => Sys2Proof.Machine.execBge mk a b o s
  | .bltu mk a b o => Sys2Proof.Machine.execBltu mk a b o s
  | .bgeu mk a b o => Sys2Proof.Machine.execBgeu mk a b o s
  | .jal mk o => Sys2Proof.Machine.execJal mk o s
  | .jalr mk d a imm => Sys2Proof.Machine.execJalr mk d a imm s
  | .subbr mk a b o => Sys2Proof.Machine.execSubbr mk a b o s
  | .loop mk n p => Sys2Proof.Machine.execLoop mk n p s
  | .fadd mk d a b f r => Sys2Proof.Machine.execFadd mk d a b f r s
  | .fsub mk d a b f r => Sys2Proof.Machine.execFsub mk d a b f r s
  | .fmul mk d a b f r => Sys2Proof.Machine.execFmul mk d a b f r s
  | .fdiv mk d a b f r => Sys2Proof.Machine.execFdiv mk d a b f r s
  | .fsqrt mk d a f r => Sys2Proof.Machine.execFsqrt mk d a f r s
  | .fmin mk d a b f => Sys2Proof.Machine.execFmin mk d a b f s
  | .fmax mk d a b f => Sys2Proof.Machine.execFmax mk d a b f s
  | .fcpsgn mk d a b f => Sys2Proof.Machine.execFcpsgn mk d a b f s
  | .fneg mk d a f => Sys2Proof.Machine.execFneg mk d a f s
  | .fabs mk d a f => Sys2Proof.Machine.execFabs mk d a f s
  | .fxsgn mk d a b f => Sys2Proof.Machine.execFxsgn mk d a b f s
  | .fmaddD mk d a b c r => Sys2Proof.Machine.execFmaddD mk d a b c r s
  | .fmsubD mk d a b c r => Sys2Proof.Machine.execFmsubD mk d a b c r s
  | .fnmaddD mk d a b c r => Sys2Proof.Machine.execFnmaddD mk d a b c r s
  | .fnmsubD mk d a b c r => Sys2Proof.Machine.execFnmsubD mk d a b c r s
  | .fmaddS mk d a b c r => Sys2Proof.Machine.execFmaddS mk d a b c r s
  | .fmsubS mk d a b c r => Sys2Proof.Machine.execFmsubS mk d a b c r s
  | .fnmaddS mk d a b c r => Sys2Proof.Machine.execFnmaddS mk d a b c r s
  | .fnmsubS mk d a b c r => Sys2Proof.Machine.execFnmsubS mk d a b c r s
  | .fcmpq mk d a b f => Sys2Proof.Machine.execFcmpq mk d a b f s
  | .fcmps mk d a b f => Sys2Proof.Machine.execFcmps mk d a b f s
  | .fclass mk d a f => Sys2Proof.Machine.execFclass mk d a f s
  | .fcvt mk d a f r => Sys2Proof.Machine.execFcvt mk d a f r s
  | .fcvti mk d a f r => Sys2Proof.Machine.execFcvti mk d a f r s
  | .fcvtiu mk d a f r => Sys2Proof.Machine.execFcvtiu mk d a f r s
  | .icvtf mk d a f r => Sys2Proof.Machine.execIcvtf mk d a f r s
  | .iucvtf mk d a f r => Sys2Proof.Machine.execIucvtf mk d a f r s
  | .fcvtn mk d a g f r => Sys2Proof.Machine.execFcvtn mk d a g f r s
  | .fcvtw mk d a g f => Sys2Proof.Machine.execFcvtw mk d a g f s
  | .crd mk d c => Sys2Proof.Machine.execCrd mk d c s
  | .cwr mk a c => Sys2Proof.Machine.execCwr mk a c s
  | .cset mk d a c => Sys2Proof.Machine.execCset mk d a c s
  | .cclr mk d a c => Sys2Proof.Machine.execCclr mk d a c s
  | .trap mk a => Sys2Proof.Machine.execTrap mk a s
  | .tret mk => Sys2Proof.Machine.execTret mk s
  | .idle mk => Sys2Proof.Machine.execIdle mk s
  | .tfence mk b a => Sys2Proof.Machine.execTfence mk b a s
  | .ifence mk => Sys2Proof.Machine.execIfence mk s
  | .csave mk b a => Sys2Proof.Machine.execCsave mk b a s
  | .crestore mk b a => Sys2Proof.Machine.execCrestore mk b a s
  | .gstop mk d a => Sys2Proof.Machine.execGstop mk d a s
  | .gresume mk d a => Sys2Proof.Machine.execGresume mk d a s
  | .bkpt mk => Sys2Proof.Machine.execBkpt mk s
  | .ld mk d a w imm => Sys2Proof.Machine.execLd mk d a w imm s
  | .ldu mk d a w imm => Sys2Proof.Machine.execLdu mk d a w imm s
  | .st mk b a w imm => Sys2Proof.Machine.execSt mk b a w imm s
  | .lda mk d a c w => Sys2Proof.Machine.execLda mk d a c w s
  | .stl mk a b c w => Sys2Proof.Machine.execStl mk a b c w s
  | .amoadd mk d a b w n c => Sys2Proof.Machine.execAmoadd mk d a b w n c s
  | .amoswap mk d a b w n c => Sys2Proof.Machine.execAmoswap mk d a b w n c s
  | .amocas mk d a b w n c => Sys2Proof.Machine.execAmocas mk d a b w n c s
  | .amoand mk d a b n c => Sys2Proof.Machine.execAmoand mk d a b n c s
  | .amoor mk d a b n c => Sys2Proof.Machine.execAmoor mk d a b n c s
  | .amoxor mk d a b n c => Sys2Proof.Machine.execAmoxor mk d a b n c s
  | .amomin mk d a b n c => Sys2Proof.Machine.execAmomin mk d a b n c s
  | .amomax mk d a b n c => Sys2Proof.Machine.execAmomax mk d a b n c s
  | .amominu mk d a b n c => Sys2Proof.Machine.execAmominu mk d a b n c s
  | .amomaxu mk d a b n c => Sys2Proof.Machine.execAmomaxu mk d a b n c s
  | .amofaddS mk d a b n c => Sys2Proof.Machine.execAmofaddS mk d a b n c s
  | .amofaddD mk d a b n c => Sys2Proof.Machine.execAmofaddD mk d a b n c s
  | .famoadd mk d a b w n c => Sys2Proof.Machine.execFamoadd mk d a b w n c s
  | .famoswap mk d a b w n c => Sys2Proof.Machine.execFamoswap mk d a b w n c s
  | .famocas mk d a b w n c => Sys2Proof.Machine.execFamocas mk d a b w n c s
  | .famoand mk d a b n c => Sys2Proof.Machine.execFamoand mk d a b n c s
  | .famoor mk d a b n c => Sys2Proof.Machine.execFamoor mk d a b n c s
  | .famoxor mk d a b n c => Sys2Proof.Machine.execFamoxor mk d a b n c s
  | .famomin mk d a b n c => Sys2Proof.Machine.execFamomin mk d a b n c s
  | .famomax mk d a b n c => Sys2Proof.Machine.execFamomax mk d a b n c s
  | .famominu mk d a b n c => Sys2Proof.Machine.execFamominu mk d a b n c s
  | .famomaxu mk d a b n c => Sys2Proof.Machine.execFamomaxu mk d a b n c s
  | .famofaddS mk d a b n c => Sys2Proof.Machine.execFamofaddS mk d a b n c s
  | .famofaddD mk d a b n c => Sys2Proof.Machine.execFamofaddD mk d a b n c s
  | .fencel mk p c => Sys2Proof.Machine.execFencel mk p c s
  | .fencea mk p c => Sys2Proof.Machine.execFencea mk p c s
  | .fence mk p c => Sys2Proof.Machine.execFence mk p c s
  | .xfence mk p q c => Sys2Proof.Machine.execXfence mk p q c s
  | .ldp mk d a imm => Sys2Proof.Machine.execLdp mk d a imm s
  | .vsetli mk d e imm => Sys2Proof.Machine.execVsetli mk d e imm s
  | .fenceall mk => Sys2Proof.Machine.execFenceall mk s
  | .hpfL1 mk a imm => Sys2Proof.Machine.execHpfL1 mk a imm s
  | .hpfS mk a imm => Sys2Proof.Machine.execHpfS mk a imm s
  | .hpfSx mk a imm => Sys2Proof.Machine.execHpfSx mk a imm s
  | .hintNop mk body => Sys2Proof.Machine.execHintNop mk body s
  | .setvl mk d a e => Sys2Proof.Machine.execSetvl mk d a e s
  | .vspill mk a b => Sys2Proof.Machine.execVspill mk a b s
  | .vfill mk a => Sys2Proof.Machine.execVfill mk a s
  | .ringcfg mk d a => Sys2Proof.Machine.execRingcfg mk d a s
  | .mand mk d a b => Sys2Proof.Machine.execMand mk d a b s
  | .mor mk d a b => Sys2Proof.Machine.execMor mk d a b s
  | .mxor mk d a b => Sys2Proof.Machine.execMxor mk d a b s
  | .mandn mk d a b => Sys2Proof.Machine.execMandn mk d a b s
  | .mnot mk d a => Sys2Proof.Machine.execMnot mk d a s
  | .mset mk d => Sys2Proof.Machine.execMset mk d s
  | .mpopc mk d a => Sys2Proof.Machine.execMpopc mk d a s
  | .mfirst mk d a => Sys2Proof.Machine.execMfirst mk d a s
  | .vadd mk d a b k => Sys2Proof.Machine.execVadd mk d a b k s
  | .vsub mk d a b k => Sys2Proof.Machine.execVsub mk d a b k s
  | .vmul mk d a b k => Sys2Proof.Machine.execVmul mk d a b k s
  | .vmulh mk d a b k => Sys2Proof.Machine.execVmulh mk d a b k s
  | .vmulhu mk d a b k => Sys2Proof.Machine.execVmulhu mk d a b k s
  | .vand mk d a b k => Sys2Proof.Machine.execVand mk d a b k s
  | .vor mk d a b k => Sys2Proof.Machine.execVor mk d a b k s
  | .vxor mk d a b k => Sys2Proof.Machine.execVxor mk d a b k s
  | .vsll mk d a b k => Sys2Proof.Machine.execVsll mk d a b k s
  | .vsrl mk d a b k => Sys2Proof.Machine.execVsrl mk d a b k s
  | .vsra mk d a b k => Sys2Proof.Machine.execVsra mk d a b k s
  | .vmin mk d a b k => Sys2Proof.Machine.execVmin mk d a b k s
  | .vmax mk d a b k => Sys2Proof.Machine.execVmax mk d a b k s
  | .vminu mk d a b k => Sys2Proof.Machine.execVminu mk d a b k s
  | .vmaxu mk d a b k => Sys2Proof.Machine.execVmaxu mk d a b k s
  | .vsadd mk d a b k x => Sys2Proof.Machine.execVsadd mk d a b k x s
  | .vsaddu mk d a b k x => Sys2Proof.Machine.execVsaddu mk d a b k x s
  | .vssub mk d a b k x => Sys2Proof.Machine.execVssub mk d a b k x s
  | .vssubu mk d a b k x => Sys2Proof.Machine.execVssubu mk d a b k x s
  | .vabs mk d a k => Sys2Proof.Machine.execVabs mk d a k s
  | .vsplat mk d a k => Sys2Proof.Machine.execVsplat mk d a k s
  | .viota mk d k => Sys2Proof.Machine.execViota mk d k s
  | .vmv mk d a k => Sys2Proof.Machine.execVmv mk d a k s
  | .vsext mk d a k => Sys2Proof.Machine.execVsext mk d a k s
  | .vzext mk d a k => Sys2Proof.Machine.execVzext mk d a k s
  | .vfadd mk d a b k x => Sys2Proof.Machine.execVfadd mk d a b k x s
  | .vfsub mk d a b k x => Sys2Proof.Machine.execVfsub mk d a b k x s
  | .vfmul mk d a b k x => Sys2Proof.Machine.execVfmul mk d a b k x s
  | .vfdiv mk d a b k x => Sys2Proof.Machine.execVfdiv mk d a b k x s
  | .vfsqrt mk d a k x => Sys2Proof.Machine.execVfsqrt mk d a k x s
  | .vfmin mk d a b k x => Sys2Proof.Machine.execVfmin mk d a b k x s
  | .vfmax mk d a b k x => Sys2Proof.Machine.execVfmax mk d a b k x s
  | .vfcpsgn mk d a b k => Sys2Proof.Machine.execVfcpsgn mk d a b k s
  | .vfneg mk d a k => Sys2Proof.Machine.execVfneg mk d a k s
  | .vfabs mk d a k => Sys2Proof.Machine.execVfabs mk d a k s
  | .vfxsgn mk d a b k => Sys2Proof.Machine.execVfxsgn mk d a b k s
  | .vbadd mk d a b k x => Sys2Proof.Machine.execVbadd mk d a b k x s
  | .vbsub mk d a b k x => Sys2Proof.Machine.execVbsub mk d a b k x s
  | .vbmul mk d a b k x => Sys2Proof.Machine.execVbmul mk d a b k x s
  | .vfclass mk d a k => Sys2Proof.Machine.execVfclass mk d a k s
  | .vfcvtw mk d a g k x => Sys2Proof.Machine.execVfcvtw mk d a g k x s
  | .vfcvtn mk d a g k x => Sys2Proof.Machine.execVfcvtn mk d a g k x s
  | .vfcvti mk d a k x => Sys2Proof.Machine.execVfcvti mk d a k x s
  | .vicvtf mk d a k x => Sys2Proof.Machine.execVicvtf mk d a k x s
  | .vfcvtiu mk d a k x => Sys2Proof.Machine.execVfcvtiu mk d a k x s
  | .viucvtf mk d a k x => Sys2Proof.Machine.execViucvtf mk d a k x s
  | .vfmadd mk d a b k x => Sys2Proof.Machine.execVfmadd mk d a b k x s
  | .vfmsub mk d a b k x => Sys2Proof.Machine.execVfmsub mk d a b k x s
  | .vfnmadd mk d a b k x => Sys2Proof.Machine.execVfnmadd mk d a b k x s
  | .vfnmsub mk d a b k x => Sys2Proof.Machine.execVfnmsub mk d a b k x s
  | .vbfmadd mk d a b k x => Sys2Proof.Machine.execVbfmadd mk d a b k x s
  | .vfwma mk d a b k x => Sys2Proof.Machine.execVfwma mk d a b k x s
  | .vbfwma mk d a b k x => Sys2Proof.Machine.execVbfwma mk d a b k x s
  | .vfdot2 mk d a b k x => Sys2Proof.Machine.execVfdot2 mk d a b k x s
  | .vbfdot2 mk d a b k x => Sys2Proof.Machine.execVbfdot2 mk d a b k x s
  | .vdot4 mk d a b k => Sys2Proof.Machine.execVdot4 mk d a b k s
  | .vdot4u mk d a b k => Sys2Proof.Machine.execVdot4u mk d a b k s
  | .vmacc mk d a b k => Sys2Proof.Machine.execVmacc mk d a b k s
  | .vcmpeq mk d a b k => Sys2Proof.Machine.execVcmpeq mk d a b k s
  | .vcmpne mk d a b k => Sys2Proof.Machine.execVcmpne mk d a b k s
  | .vcmplt mk d a b k => Sys2Proof.Machine.execVcmplt mk d a b k s
  | .vcmple mk d a b k => Sys2Proof.Machine.execVcmple mk d a b k s
  | .vcmpltu mk d a b k => Sys2Proof.Machine.execVcmpltu mk d a b k s
  | .vcmpleu mk d a b k => Sys2Proof.Machine.execVcmpleu mk d a b k s
  | .vfcmpeq mk d a b k x => Sys2Proof.Machine.execVfcmpeq mk d a b k x s
  | .vfcmplt mk d a b k x => Sys2Proof.Machine.execVfcmplt mk d a b k x s
  | .vfcmple mk d a b k x => Sys2Proof.Machine.execVfcmple mk d a b k x s
  | .vwhile mk d a b k => Sys2Proof.Machine.execVwhile mk d a b k s
  | .vslideup mk d a b k => Sys2Proof.Machine.execVslideup mk d a b k s
  | .vslidedn mk d a b k => Sys2Proof.Machine.execVslidedn mk d a b k s
  | .vgather mk d a b k => Sys2Proof.Machine.execVgather mk d a b k s
  | .vcompress mk d a k => Sys2Proof.Machine.execVcompress mk d a k s
  | .vext mk d a b => Sys2Proof.Machine.execVext mk d a b s
  | .vins mk d a b => Sys2Proof.Machine.execVins mk d a b s
  | .vrev mk d a k => Sys2Proof.Machine.execVrev mk d a k s
  | .vredsum mk d a b k => Sys2Proof.Machine.execVredsum mk d a b k s
  | .vredmin mk d a b k => Sys2Proof.Machine.execVredmin mk d a b k s
  | .vredmax mk d a b k => Sys2Proof.Machine.execVredmax mk d a b k s
  | .vredminu mk d a b k => Sys2Proof.Machine.execVredminu mk d a b k s
  | .vredmaxu mk d a b k => Sys2Proof.Machine.execVredmaxu mk d a b k s
  | .vfredsum mk d a b k => Sys2Proof.Machine.execVfredsum mk d a b k s
  | .vfredmin mk d a b k => Sys2Proof.Machine.execVfredmin mk d a b k s
  | .vfredmax mk d a b k => Sys2Proof.Machine.execVfredmax mk d a b k s
  | .vld mk d a k => Sys2Proof.Machine.execVld mk d a k s
  | .vldOffset mk d a b k => Sys2Proof.Machine.execVldOffset mk d a b k s
  | .vlds mk d a b k => Sys2Proof.Machine.execVlds mk d a b k s
  | .vldx mk d a b k => Sys2Proof.Machine.execVldx mk d a b k s
  | .vldff mk d a k => Sys2Proof.Machine.execVldff mk d a k s
  | .vld2d mk d a k => Sys2Proof.Machine.execVld2d mk d a k s
  | .vst mk d a k => Sys2Proof.Machine.execVst mk d a k s
  | .vstOffset mk d a b k => Sys2Proof.Machine.execVstOffset mk d a b k s
  | .vsts mk d a b k => Sys2Proof.Machine.execVsts mk d a b k s
  | .vstx mk d a b k => Sys2Proof.Machine.execVstx mk d a b k s
  | .vst2d mk d a k => Sys2Proof.Machine.execVst2d mk d a k s
  | .vamoadd mk d a b k => Sys2Proof.Machine.execVamoadd mk d a b k s
  | .vamoswap mk d a b k => Sys2Proof.Machine.execVamoswap mk d a b k s
  | .vamomin mk d a b k => Sys2Proof.Machine.execVamomin mk d a b k s
  | .vamomax mk d a b k => Sys2Proof.Machine.execVamomax mk d a b k s
  | .vamominu mk d a b k => Sys2Proof.Machine.execVamominu mk d a b k s
  | .vamomaxu mk d a b k => Sys2Proof.Machine.execVamomaxu mk d a b k s
  | .vamoand mk d a b k => Sys2Proof.Machine.execVamoand mk d a b k s
  | .vamoor mk d a b k => Sys2Proof.Machine.execVamoor mk d a b k s
  | .vamoxor mk d a b k => Sys2Proof.Machine.execVamoxor mk d a b k s
  | .vamofadd mk d a b k => Sys2Proof.Machine.execVamofadd mk d a b k s
  | .vorient2 mk d a k x => Sys2Proof.Machine.execVorient2 mk d a k x s
  | .vorient3 mk d a k x => Sys2Proof.Machine.execVorient3 mk d a k x s
  | .vincirc mk d a k x => Sys2Proof.Machine.execVincirc mk d a k x s
  | .vinsph mk d a k x => Sys2Proof.Machine.execVinsph mk d a k x s
  | .vsegx mk d a k x => Sys2Proof.Machine.execVsegx mk d a k x s
  | .vorient2t mk d a k x => Sys2Proof.Machine.execVorient2t mk d a k x s
  | .vorient3t mk d a k x => Sys2Proof.Machine.execVorient3t mk d a k x s
  | .vincirct mk d a k x => Sys2Proof.Machine.execVincirct mk d a k x s
  | .vinspht mk d a k x => Sys2Proof.Machine.execVinspht mk d a k x s
  | .escalationSettle slot => Sys2Proof.Machine.execEscalationSettle slot s
  | .tcfg mk t x => Sys2Proof.Machine.execTcfg mk t x s
  | .acfg mk t x => Sys2Proof.Machine.execAcfg mk t x s
  | .tzero mk t => Sys2Proof.Machine.execTzero mk t s
  | .azero mk t => Sys2Proof.Machine.execAzero mk t s
  | .tgetr mk t x r => Sys2Proof.Machine.execTgetr mk t x r s
  | .tsetr mk t x r => Sys2Proof.Machine.execTsetr mk t x r s
  | .agetr mk t x r => Sys2Proof.Machine.execAgetr mk t x r s
  | .asetr mk t x r => Sys2Proof.Machine.execAsetr mk t x r s
  | .ttrans mk t a => Sys2Proof.Machine.execTtrans mk t a s
  | .acvt mk t a => Sys2Proof.Machine.execAcvt mk t a s
  | .tmmaD mk t a b => Sys2Proof.Machine.execTmmaD mk t a b s
  | .tmmaHf mk t a b => Sys2Proof.Machine.execTmmaHf mk t a b s
  | .tmmaBf mk t a b => Sys2Proof.Machine.execTmmaBf mk t a b s
  | .tmmaE4e4 mk t a b x => Sys2Proof.Machine.execTmmaE4e4 mk t a b x s
  | .tmmaE4e5 mk t a b x => Sys2Proof.Machine.execTmmaE4e5 mk t a b x s
  | .tmmaE5e4 mk t a b x => Sys2Proof.Machine.execTmmaE5e4 mk t a b x s
  | .tmmaE5e5 mk t a b x => Sys2Proof.Machine.execTmmaE5e5 mk t a b x s
  | .tmmaI8 mk t a b => Sys2Proof.Machine.execTmmaI8 mk t a b s
  | .tmmaC8 mk t a b x => Sys2Proof.Machine.execTmmaC8 mk t a b x s
  | .tmmaC6 mk t a b x => Sys2Proof.Machine.execTmmaC6 mk t a b x s
  | .tmmaC4 mk t a b x => Sys2Proof.Machine.execTmmaC4 mk t a b x s
  | .tld mk t x => Sys2Proof.Machine.execTld mk t x s
  | .tst mk t x => Sys2Proof.Machine.execTst mk t x s
  | .ald mk t x => Sys2Proof.Machine.execAld mk t x s
  | .ast mk t x => Sys2Proof.Machine.execAst mk t x s
  | .tileInstructionStart slot => Sys2Proof.Machine.execTileInstructionStart slot s
  | .matrixArbiterSelect cell => Sys2Proof.Machine.execMatrixArbiterSelect cell s
  | .spat mk p a => Sys2Proof.Machine.execSpat mk p a s
  | .scmd mk a => Sys2Proof.Machine.execScmd mk a s
  | .sseal mk d => Sys2Proof.Machine.execSseal mk d s
  | .swaitb mk d n => Sys2Proof.Machine.execSwaitb mk d n s
  | .sclose mk p => Sys2Proof.Machine.execSclose mk p s
  | .sstat mk d a => Sys2Proof.Machine.execSstat mk d a s
  | .scancel mk => Sys2Proof.Machine.execScancel mk s
  | .streamDispatch cell port => Sys2Proof.Machine.execStreamDispatch cell port s
  | .streamCommandComplete cell port => Sys2Proof.Machine.execStreamCommandComplete cell port s
  | .binit mk a b => Sys2Proof.Machine.execBinit mk a b s
  | .barrive mk d a => Sys2Proof.Machine.execBarrive mk d a s
  | .bwait mk a b => Sys2Proof.Machine.execBwait mk a b s
  | .bsync mk a => Sys2Proof.Machine.execBsync mk a s
  | .mwait mk d a n => Sys2Proof.Machine.execMwait mk d a n s
  | .msend mk a b => Sys2Proof.Machine.execMsend mk a b s
  | .mrd mk d n => Sys2Proof.Machine.execMrd mk d n s
  | .mwr mk a n => Sys2Proof.Machine.execMwr mk a n s
  | .yield mk a => Sys2Proof.Machine.execYield mk a s
  | .garrive mk d a => Sys2Proof.Machine.execGarrive mk d a s
  | .gwaitb mk a b => Sys2Proof.Machine.execGwaitb mk a b s
  | .gbar mk a => Sys2Proof.Machine.execGbar mk a s
  | .gbarj mk a => Sys2Proof.Machine.execGbarj mk a s
  | .gmcast mk a b => Sys2Proof.Machine.execGmcast mk a b s
  | .ginfo mk d n => Sys2Proof.Machine.execGinfo mk d n s
  | .tkinit mk d a b => Sys2Proof.Machine.execTkinit mk d a b s
  | .tkdec mk a => Sys2Proof.Machine.execTkdec mk a s
  | .tkpop mk d a => Sys2Proof.Machine.execTkpop mk d a s
  | .tkstat mk d a => Sys2Proof.Machine.execTkstat mk d a s
  | .taskEnqueue frame => Sys2Proof.Machine.execTaskEnqueue frame s
  | .taskAging frame => Sys2Proof.Machine.execTaskAging frame s
  | .tuctlWrite frame v => Sys2Proof.Machine.execTuctlWrite frame v s
  | .launch mk a => Sys2Proof.Machine.execLaunch mk a s
  | .relay mk a b => Sys2Proof.Machine.execRelay mk a b s
  | .trigger mk => Sys2Proof.Machine.execTrigger mk s
  | .retire mk => Sys2Proof.Machine.execRetire mk s
  | .successorStart slot => Sys2Proof.Machine.execSuccessorStart slot s
  | .gangPlacement unit => Sys2Proof.Machine.execGangPlacement unit s
  | .memberStart slot => Sys2Proof.Machine.execMemberStart slot s
  | .preemption unit => Sys2Proof.Machine.execPreemption unit s
  | .victimStopTimeout gang => Sys2Proof.Machine.execVictimStopTimeout gang s
  | .gangComplete gang => Sys2Proof.Machine.execGangComplete gang s
  | .triggerListLaunch gang => Sys2Proof.Machine.execTriggerListLaunch gang s
  | .resultWritten slot => Sys2Proof.Machine.execResultWritten slot s
  | .vectorCreditRound cell cluster => Sys2Proof.Machine.execVectorCreditRound cell cluster s
  | .vectorStep slot => Sys2Proof.Machine.execVectorStep slot s
  | .ringStall slot => Sys2Proof.Machine.execRingStall slot s
  | .lanectlWrite cell => Sys2Proof.Machine.execLanectlWrite cell s
  | .pageWalk comb => Sys2Proof.Machine.execPageWalk comb s
  | .migrationTimeout comb => Sys2Proof.Machine.execMigrationTimeout comb s
  | .pageRelease asid page => Sys2Proof.Machine.execPageRelease asid page s
  | .tfenceBroadcast slot => Sys2Proof.Machine.execTfenceBroadcast slot s
  | .tfenceAck comb slot => Sys2Proof.Machine.execTfenceAck comb slot s
  | .entryAgeDrain cell => Sys2Proof.Machine.execEntryAgeDrain cell s
  | .epochAdvance cell => Sys2Proof.Machine.execEpochAdvance cell s
  | .l1Fill cell => Sys2Proof.Machine.execL1Fill cell s
  | .icacheFill cell line => Sys2Proof.Machine.execIcacheFill cell line s
  | .poolScrub cell row => Sys2Proof.Machine.execPoolScrub cell row s
  | .arbitrate comb port => Sys2Proof.Machine.execArbitrate comb port s
  | .recoveryTimeout comb port => Sys2Proof.Machine.execRecoveryTimeout comb port s
  | .linkReplay comb port => Sys2Proof.Machine.execLinkReplay comb port s
  | .openRoute cell port => Sys2Proof.Machine.execOpenRoute cell port s
  | .dataFlit cell port => Sys2Proof.Machine.execDataFlit cell port s
  | .closeRoute cell port => Sys2Proof.Machine.execCloseRoute cell port s
  | .truncRoute cell port => Sys2Proof.Machine.execTruncRoute cell port s
  | .mcast cell => Sys2Proof.Machine.execMcast cell s
  | .barrierArrival gang id comb => Sys2Proof.Machine.execBarrierArrival gang id comb s
  | .barrierCompletion gang id comb => Sys2Proof.Machine.execBarrierCompletion gang id comb s
  | .deposit n => Sys2Proof.Machine.execDeposit n s
  | .localRead comb line => Sys2Proof.Machine.execLocalRead comb line s
  | .localWrite comb line => Sys2Proof.Machine.execLocalWrite comb line s
  | .gets n => Sys2Proof.Machine.execGets n s
  | .getm n => Sys2Proof.Machine.execGetm n s
  | .upg n => Sys2Proof.Machine.execUpg n s
  | .ncrd n => Sys2Proof.Machine.execNcrd n s
  | .ncwr n => Sys2Proof.Machine.execNcwr n s
  | .faop n => Sys2Proof.Machine.execFaop n s
  | .fwds n => Sys2Proof.Machine.execFwds n s
  | .fwdm n => Sys2Proof.Machine.execFwdm n s
  | .inv n => Sys2Proof.Machine.execInv n s
  | .rcl n => Sys2Proof.Machine.execRcl n s
  | .datas n => Sys2Proof.Machine.execDatas n s
  | .datae n => Sys2Proof.Machine.execDatae n s
  | .datam n => Sys2Proof.Machine.execDatam n s
  | .datamg n => Sys2Proof.Machine.execDatamg n s
  | .go n => Sys2Proof.Machine.execGo n s
  | .iack n => Sys2Proof.Machine.execIack n s
  | .facks n => Sys2Proof.Machine.execFacks n s
  | .facko n => Sys2Proof.Machine.execFacko n s
  | .facki n => Sys2Proof.Machine.execFacki n s
  | .fackn n => Sys2Proof.Machine.execFackn n s
  | .cmp n => Sys2Proof.Machine.execCmp n s
  | .wback n => Sys2Proof.Machine.execWback n s
  | .ncrsp n => Sys2Proof.Machine.execNcrsp n s
  | .rcld n => Sys2Proof.Machine.execRcld n s
  | .wbd n => Sys2Proof.Machine.execWbd n s
  | .hiveLinkFailure port => Sys2Proof.Machine.execHiveLinkFailure port s
  | .rowRemap block => Sys2Proof.Machine.execRowRemap block s
  | .remapFlashWrite block => Sys2Proof.Machine.execRemapFlashWrite block s
  | .foragerRead block => Sys2Proof.Machine.execForagerRead block s
  | .foragerLag block => Sys2Proof.Machine.execForagerLag block s
  | .interrupt slot => Sys2Proof.Machine.execInterrupt slot s
  | .hpost frame vf v => Sys2Proof.Machine.execHpost frame vf v s
  | .hmsg frame v => Sys2Proof.Machine.execHmsg frame v s
  | .hostWrite off v => Sys2Proof.Machine.execHostWrite off v s
  | .hostRead off => Sys2Proof.Machine.execHostRead off s
  | .hintr v => Sys2Proof.Machine.execHintr v s
  | .swint comb v => Sys2Proof.Machine.execSwint comb v s
  | .hiveLinkTraining port node peer => Sys2Proof.Machine.execHiveLinkTraining port node peer s
  | .signatureVerify ok => Sys2Proof.Machine.execSignatureVerify ok s
  | .bootWatchdog => Sys2Proof.Machine.execBootWatchdog s
  | .bootctlOk => Sys2Proof.Machine.execBootctlOk s
  | .moduleReset => Sys2Proof.Machine.execModuleReset s
  | .coldPowerCycle => Sys2Proof.Machine.execColdPowerCycle s
  | .resetThreadStart cell => Sys2Proof.Machine.execResetThreadStart cell s
  | .wgctl v => Sys2Proof.Machine.execWgctl v s
  | .wagglePacket comb dir => Sys2Proof.Machine.execWagglePacket comb dir s
  | .waggleReply comb => Sys2Proof.Machine.execWaggleReply comb s
  | .waggleTimeout => Sys2Proof.Machine.execWaggleTimeout s
  | .bbctl v => Sys2Proof.Machine.execBbctl v s
  | .bootBroadcastPacket => Sys2Proof.Machine.execBootBroadcastPacket s
  | .sparemap comb v => Sys2Proof.Machine.execSparemap comb v s
  | .alarm src => Sys2Proof.Machine.execAlarm src s
  | .freeze => Sys2Proof.Machine.execFreeze s
  | .attestation nonce => Sys2Proof.Machine.execAttestation nonce s
  | .pwrlim watts => Sys2Proof.Machine.execPwrlim watts s
  | .islandClockStep island up => Sys2Proof.Machine.execIslandClockStep island up s
  | .burmealLoad addr => Sys2Proof.Machine.execBurmealLoad addr s
  | .registerWrite off v => Sys2Proof.Machine.execRegisterWrite off v s
  | .illegalInstruction w => Sys2Proof.Machine.execIllegalInstruction w s
  | .yieldEnd slot => Sys2Proof.Machine.execYieldEnd slot s
  | .tmmaComplete cell => Sys2Proof.Machine.execTmmaComplete cell s
  | .laneFailure port => Sys2Proof.Machine.execLaneFailure port s
  | .flashUpdate => Sys2Proof.Machine.execFlashUpdate s

end Sys2Proof.Machine
end

