-- ==== Sys2Proof/Machine/Forward.lean ====
section
/-! DEFINITION. Instruction forwarding in a gang with FWD = 1: what the leader hands to its
followers, and when a follower leaves the stream (R163 to R166). A follower fetches each instruction
itself, which R163 makes the same; its buffer holds the addresses that the leader has gone through. -/

namespace Sys2Proof.Machine

/-- Instructions of a follower's forward buffer (R164). -/
def fwdCap : Nat := 64

/-- An instruction that the leader has issued reaches a follower; a full buffer detaches it (R164). -/
def Thread.fwdReceive (t : Thread) (i : FwdItem) : Thread :=
  if t.fwd = .follower then
    if fwdCap ≤ t.fwdBuf.length then t.detach true else { t with fwdBuf := t.fwdBuf ++ [i] }
  else t

/-- The leader in `slot` forwards an instruction to the other members of its gang. -/
def State.fwdSend (s : State) (slot : Nat) (i : FwdItem) : State :=
  match s.gangOf slot with
  | some g => g.slots.foldl (fun (s : State) x => if x = slot then s else s.updThread x (·.fwdReceive i)) s
  | none => s

/-- The thread waits inside an instruction that has issued: its followers may already execute it. -/
def Park.inside : Park → Bool
  | .mwait _ _ | .bwait _ _ | .gwait _ _ | .tkpop _ _ | .yield _ _ => true
  | _ => false

/-- The thread has gone on behind its instruction. -/
def Park.past : Park → Bool
  | .running | .marker => true
  | _ => false

/-- An attached follower waits for the leader before its next user instruction (R163, R164). -/
def Thread.fwdWaits (t : Thread) : Bool :=
  decide (t.fwd = .follower ∧ t.mode = .user ∧ t.fwdBuf = []) && !t.park.inside

/-- A follower takes up its next forwarded instruction: one that it has already executed is dropped,
and one at another address detaches it (R164). -/
def Thread.fwdAlign (t : Thread) : Thread :=
  if t.fwd = .follower ∧ t.mode = .user then
    match t.fwdBuf with
    | i :: rest =>
      if i.pc = t.pc ∨ t.park.inside then t
      else if i.npc = t.pc then { t with fwdBuf := rest }
      else t.detach false
    | [] => t
  else t

/-- A follower behind an instruction that it began at `pc`: its own next address is the leader's, or it
detaches (R164). -/
def Thread.fwdFollow (t : Thread) (pc : Word) : Thread :=
  if t.fwd = .follower ∧ t.mode = .user ∧ t.park.past = true then
    match t.fwdBuf with
    | i :: rest => if i.pc ≠ pc then t else if i.npc = t.pc then { t with fwdBuf := rest } else t.detach false
    | [] => t
  else t

/-- Forwarding by the thread of `slot`, which was `old` when its instruction issued: the leader's
instruction goes to its followers once, when it completes or begins to wait (R163). DEDUCED (log 86). -/
def State.forwarded (s : State) (slot : Nat) (old : Thread) : State :=
  let t := s.thread slot
  if old.fwd = .follower then s.updThread slot (·.fwdFollow old.pc)
  else if old.fwd = .leader ∧ old.mode = .user ∧ t.fwd = .leader ∧ t.mode = .user then
    let told := old.fwdBuf.any fun i => decide (i.pc = old.pc)
    if t.park.past then
      let s1 := s.updThread slot fun t => { t with fwdBuf := [] }
      if told then s1 else s1.fwdSend slot ⟨old.pc, t.pc⟩
    else if t.park.inside && !told then
      let i : FwdItem := ⟨old.pc, old.stepPc.pc⟩
      (s.updThread slot fun t => { t with fwdBuf := [i] }).fwdSend slot i
    else s
  else s

end Sys2Proof.Machine
end

