-- ==== Sys2Proof/Machine/Autopilot.lean ====
section
/-! DEFINITION. What happens next: which thread issues (R193, R201), which events of the machine are
due, the moves that stand in the agenda, and soft errors (R62, R101 to R111). One step makes one of
these happen; the machine's own choice turns around all of them, so that none is left waiting. -/

namespace Sys2Proof.Machine

open Host (Outcome)

/-- A change of the next state. -/
def onNext (f : State → State) : Outcome State Fault Refusal → Outcome State Fault Refusal
  | .next s => .next (f s)
  | .fault r => .fault r
  | .refused r => .refused r

/-- The cycle counter advances: checks of earlier host posts end, the host's next operations take effect, and old
entries of write-combining buffers drain (R50). DESIGN CHOICE (log 108). -/
def State.tick (s : State) : State :=
  ({ s.finishPosts.hostPump s.hostq.length with cycle := s.cycle + 1 } : State).drainAged

/-! ### Issue (R193) -/

/-- What the thread waits for has come. -/
def State.wakes (s : State) (slot : Nat) (t : Thread) : Bool :=
  let c := s.cell (cellOf slot)
  match t.park with
  | .running | .stalled | .system | .late => !t.fwdWaits
  | .mwait mc n => decide ((Sparse.getD c.waiters mc []).head? = some (threadOf slot) ∧ n ≤ Sparse.getD c.mc mc 0)
  | .bwait id gen => decide ((c.bar id).bind ≠ .cell ∨ (c.bar id).gen ≠ gen)
  | .gwait id gen => decide ((c.bar id).bind ≠ .gang) || s.gangPassed id (c.bar id) gen
  | .tkpop f _ => decide ((Sparse.getD s.pops f []).head? = some slot) && (s.nextTask f).isSome
  | .idle => t.anyInt
  | .tfence => s.fences.any fun f => decide (f.slot = slot) && f.sent && f.waiting.isEmpty
  | .marker | .rendezvous | .replay | .yield _ _ | .far _ _ | .starting => false

/-- The thread has something to take at its boundary: an interrupt (R235), or a deferred report of
poison (R358). -/
def Thread.called (t : Thread) : Bool := t.interruptible && (!t.deferred.isEmpty || t.intCode.isSome)

/-- The thread in `slot` may issue. No user thread issues while the pool clear engine runs (R44). -/
def State.mayIssue (s : State) (slot : Nat) : Bool :=
  let t := s.thread slot
  t.live && !t.stopped && !(decide (t.mode = .user ∧ s.cycle < (s.cell (cellOf slot)).clear)) &&
    (t.called || (!t.held && s.wakes slot t))

/-- The slot that issues next: of the next cell that has a thread ready, the first one after the
thread that issued last there (R193). -/
def State.nextSlot (s : State) : Option Nat :=
  let ready := (s.threads.map (·.1)).filter s.mayIssue
  let later := ready.filter fun x => decide (cellOf s.cur < cellOf x)
  match (later ++ ready).head? with
  | some x =>
    let c := cellOf x
    ((List.range 4).map fun k => c * 4 + ((s.cell c).last + 1 + k) % 4).find? fun y => ready.elem y
  | none => none

/-- The slot is the one that issues: its thread executes. -/
def State.select (s : State) (slot : Nat) : State :=
  (({ s with cur := slot } : State).updCellAt (cellOf slot) fun c => { c with last := threadOf slot }).updThread slot
    fun t => t.fwdAlign.hazSettle s.cycle

/-- The executing thread is at an instruction. -/
def State.running_ (s : State) : State := s.upd fun t => { t with park := .running }

/-- A deferred report of poison is taken (R358): TELEM names a result without destination. -/
def State.takeReport (s : State) (va : Word) (rest : List Word) : State :=
  (s.upd fun t => { t with deferred := rest }).trap { code := 0x0B, tval := va, telem := BitVec.ofNat 64 (5 * 2 ^ 60) }

/-- The place of the pc in the body of the active loop. -/
def Thread.loopPlace (t : Thread) : Option Nat :=
  match t.loop with
  | some l => if t.inBody then some ((t.pc.toNat - l.start.toNat) / 4) else none
  | none => none

/-- The word at the pc in the loop buffer (R293). -/
def Thread.loopWord (t : Thread) : Option (BitVec 32) :=
  match t.loop, t.loopPlace with
  | some l, some i => Sparse.find? i l.buf
  | _, _ => none

/-- A fetched word of a loop body enters the loop buffer. -/
def Thread.loopFill (t : Thread) (w : BitVec 32) : Thread :=
  match t.loop, t.loopPlace with
  | some l, some i => { t with loop := some { l with buf := Sparse.set i w l.buf } }
  | _, _ => t

/-- The next word of the executing thread: from the loop buffer, without a fetch, or fetched (R293). -/
def State.nextWord (s : State) : Fetched :=
  match s.thr.loopWord with
  | some w => .word s w
  | none =>
    match s.fetch with
    | .stop s1 => .stop s1
    | .word s1 w => .word (s1.upd (·.loopFill w)) w

/-- The executing thread issues in this cycle (R316). -/
def State.issued (s : State) : State := s.upd fun t => { t with issuedAt := some s.cycle }

/-- The slot's turn (R193): it takes a report or an interrupt, or `run` executes its next word. -/
def State.issueWith (run : BitVec 32 → State → Outcome State Fault Refusal) (slot : Nat) (s : State) :
    Outcome State Fault Refusal :=
  let s0 := s.select slot
  if s0.thr.called then
    match s0.thr.deferred with
    | va :: rest => .next (s0.takeReport va rest)
    | [] => .next (s0.takeInterrupt slot)
  else if s0.thr.fwdWaits then .next s0
  else
    match s0.running_.nextWord with
    | .stop s1 => .next s1
    | .word s1 w => onNext (·.forwarded slot s0.thr) (run w s1.issued)

/-! ### Events that are due -/

/-- An event by its meaning. -/
abbrev Event := State → Outcome State Fault Refusal

/-- An event when a condition holds. -/
def evIf (p : Bool) (e : Event) : List Event := if p then [e] else []

/-- Events of start-up (R411 to R413, R450 to R452). -/
def State.bootDue (s : State) : List Event :=
  let cell := s.cycle / 2 % (Config.combs * Config.cellsPerComb)
  evIf (decide (s.boot.stage = 1)) (execSignatureVerify s.boot.signed) ++
    evIf s.wdogDue execBootWatchdog ++
    evIf (s.startable cell) (execResetThreadStart cell) ++
    (match s.boot.floodFrom with
      | some c =>
          (match (s.boot.reached.filter fun e => !NatSet.has s.boot.replied e.1 && !s.linkDown e.1).head? with
            | some e => [execWaggleReply e.1]
            | none => []) ++
          evIf (decide (c + 65536 ≤ s.cycle)) execWaggleTimeout
      | none => []) ++
    evIf s.boot.bcast.isSome execBootBroadcastPacket

/-- The arrival of the `n`-th packet in flight, by its operation (R85). -/
def pktEvent (op : CohOp) (n : Nat) : Event :=
  match op with
  | .gets => execGets n | .getm => execGetm n | .upg => execUpg n | .ncrd => execNcrd n | .ncwr => execNcwr n
  | .faop => execFaop n | .fwds => execFwds n | .fwdm => execFwdm n | .inv => execInv n | .rcl => execRcl n
  | .datas => execDatas n | .datae => execDatae n | .datam => execDatam n | .datamg => execDatamg n | .go => execGo n
  | .iack => execIack n | .facks => execFacks n | .facko => execFacko n | .facki => execFacki n
  | .fackn => execFackn n | .cmp => execCmp n | .wback => execWback n | .ncrsp => execNcrsp n
  | .rcld => execRcld n | .wbd => execWbd n

/-- Events of endpoints and routers (R73, R78, R382); each port sends its flits by itself in every cycle. -/
def State.meshDue (s : State) : List Event :=
  (s.net.zipIdx.map fun p => pktEvent p.1.op p.2) ++
    ((List.range s.msgs.length).map fun n => execDeposit n) ++
    s.flits.flatMap fun e => (List.range 9).flatMap fun p => evIf (!(s.overdue e.1 p).isEmpty) (execRecoveryTimeout e.1 p)

/-- Writes that slices have accepted and whose line they do not ask for (R88). -/
def State.sliceDue (s : State) : List Event :=
  (((s.accepted.map fun a => (a.comb, a.line)).eraseDups).filter fun p => (s.slice p.1 p.2).st.stable).map fun p => execLocalWrite p.1 p.2

/-- Events of translation (R33 to R38). -/
def State.walkDue (s : State) : List Event :=
  (s.fences.flatMap fun f => evIf (!f.sent) (execTfenceBroadcast f.slot) ++ f.here.map fun c => execTfenceAck c f.slot) ++
    s.replays.flatMap fun e =>
      let lim := bits (s.dev (combReg e.1 0xA_0000)) 0 32
      evIf (e.2.any (·.outside)) (execPageWalk e.1) ++
        evIf (e.2.any fun r => !r.outside && decide (lim ≠ 0 ∧ r.since + lim ≤ s.cycle)) (execMigrationTimeout e.1)

/-- Events of a port of a cell's stream engine (R80, R206, R372). -/
def State.portDue (s : State) (c : Nat) (x : Cell) (port : Nat) : List Event :=
  let first := x.stream.find? fun k => decide (k.port = port)
  let r := Sparse.find? port x.ports
  (match first with
    | some k =>
      if k.ending then [execStreamCommandComplete c port]
      else if !k.running then evIf (s.mayStart c k) (execStreamDispatch c port)
      else
        match k.kind with
        | .send =>
          if k.packets ≤ k.elem then [execStreamCommandComplete c port]
          else
            match r with
            | none => [execOpenRoute c port]
            | some q =>
              if q.due.isSome then []
              else if q.slot = k.slot ∧ q.dcell = swDcell k.word then [execDataFlit c port] else [execCloseRoute c port]
        | .mcast => if k.packets ≤ k.elem then [execStreamCommandComplete c port] else [execMcast c]
        | _ => [execStreamCommandComplete c port]
    | none => []) ++
    (match r with
      | some q =>
        evIf (decide (q.due = some true)) (execTruncRoute c port) ++ evIf (decide (q.due = some false)) (execCloseRoute c port)
      | none => [])

/-- The lanes of the cell have work (R200). -/
def State.laneWork (s : State) (c : Nat) : List Nat := (List.range 4).filter fun t => !(s.thread (c * 4 + t)).vq.isEmpty

/-- Clusters of a cell whose credits have not been granted in this round of 16 cycles (R201). -/
def State.roundDue (s : State) (x : Cell) : List Nat :=
  (List.range x.clusters).filter fun k => decide (Sparse.getD x.rounds k 0 < s.cycle / 16)

/-- The slot's predicate has an escalated element to settle (R398). -/
def Thread.escalates (t : Thread) : Bool :=
  match t.vq, t.pred with
  | e :: _, some p => decide (p.seq = e.seq) && !p.busy.isEmpty
  | _, _ => false

/-- Events of a cell (R44 to R65, R193 to R207, R398). -/
def State.cellDue (s : State) (c : Nat) (x : Cell) : List Event :=
  let work := s.laneWork c
  evIf (!x.fills.isEmpty) (execL1Fill c) ++
    evIf (x.wcb.any (·.aged s.cycle)) (execEntryAgeDrain c) ++
    evIf ((!x.l1.isEmpty || !x.fills.isEmpty) && decide ((x.epoch + 1) * 4096 ≤ s.cycle)) (execEpochAdvance c) ++
    (match x.latent with | w :: _ => [execPoolScrub c (w / 8)] | [] => []) ++
    ((x.stream.map (·.port) ++ x.ports.map (·.1)).eraseDups.flatMap (s.portDue c x)) ++
    (match x.unit with
      | none => evIf ((List.range 4).any fun t => !(s.thread (c * 4 + t)).tq.isEmpty) (execMatrixArbiterSelect c)
      | some slot =>
        match (s.thread slot).tq with
        | e :: _ => if e.kind.isTmma then [execTmmaComplete c] else [execTileInstructionStart slot]
        | [] => [execTmmaComplete c]) ++
    ((work.filter fun t => (s.thread (c * 4 + t)).escalates).map fun t => execEscalationSettle (c * 4 + t)) ++
    evIf x.laneNext.isSome (execLanectlWrite c) ++
    (work.map fun t => execVectorStep (c * 4 + t)) ++
    (if work.isEmpty then [] else (s.roundDue x).map fun k => execVectorCreditRound c k)

/-- A near result is under way to a thread that waits: results are taken to arrive as late as the
thread allows (R195). -/
def Thread.resultDue (t : Thread) : Bool :=
  decide (t.park ≠ .running) && t.pend.any fun p => p.value.isSome && p.far.isNone

/-- Events of a thread (R173, R196, R204, R249, R383). -/
def State.threadDue (s : State) (slot : Nat) (t : Thread) : List Event :=
  evIf t.resultDue (execResultWritten slot) ++
    (match t.park with
      | .yield till _ => evIf (decide (till ≤ s.cycle)) (execYieldEnd slot)
      | .starting =>
        if (s.cell (cellOf slot)).clear ≤ s.cycle then
          (if (Sparse.find? (threadOf slot) (s.cell (cellOf slot)).succ).isSome then [execSuccessorStart slot]
            else [execMemberStart slot])
        else []
      | _ => []) ++
    (match t.ringSince, t.vq with
      | some w, e :: _ => evIf (decide (e.ringTo ≠ 0 ∧ w.since + e.ringTo < s.cycle)) (execRingStall slot)
      | _, _ => [])

/-- Events of schedulers, gangs, barriers and task units (R82, R162, R176, R183, R184, R189, R191, R384). -/
def State.gangDue (s : State) : List Event :=
  (s.queues.flatMap fun q => evIf (!q.2.isEmpty) (execGangPlacement (q.1 / 8))) ++
    (s.queues.flatMap fun q => evIf (!q.2.isEmpty && decide (bits (s.gsctl (q.1 / 8)) 32 1 = 1)) (execPreemption (q.1 / 8))) ++
    (s.gangs.flatMap fun g =>
      evIf (!g.2.trigLeft.isEmpty || !g.2.trigDone) (execTriggerListLaunch g.1) ++
        evIf g.2.complete (execGangComplete g.1) ++
        (match g.2.victim with
          | some c =>
            [execPreemption (unitOf g.2.desc.level g.2.frame)] ++
              evIf (decide (c + victimLimit ≤ s.cycle) && !g.2.late) (execVictimStopTimeout g.1)
          | none => [])) ++
    (s.gbars.flatMap fun b =>
      (b.2.below.map fun e => execBarrierArrival (b.1 / 512) (b.1 % 512) (e.1 % 1024)) ++
        b.2.down.map fun c => execBarrierCompletion (b.1 / 512) (b.1 % 512) (c % 1024)) ++
    (if s.ctrs.any (fun e => !e.2.held.isEmpty) then (List.range 8).map fun f => execTaskEnqueue f else []) ++
    ((s.ready.filter fun e => e.2.any fun r => decide (r.since + ageWait ≤ s.cycle)).map fun e => execTaskAging (e.1 / 8))

/-- Events of the memory side (R110, R117, R118): the forager reads a line of some block every 128
cycles, and each lag is computed once in a second of 2.5 * 10^9 cycles. -/
def State.dramDue (s : State) : List Event :=
  (s.blocks.flatMap fun b =>
    evIf (!b.2.remapWait.isEmpty) (execRowRemap b.1) ++ evIf (b.2.remap.any fun r => !r.flashed) (execRemapFlashWrite b.1)) ++
    evIf (decide (s.cycle % 128 = 127)) (execForagerRead (s.cycle / 128 % 9)) ++
    ((List.range 9).filter fun f => decide ((s.block f).lagAt < s.cycle / secondCycles)).map execForagerLag

/-- All events that are due. -/
def State.due (s : State) : List Event :=
  s.bootDue ++ s.meshDue ++ s.sliceDue ++ s.walkDue ++ (s.cells.flatMap fun e => s.cellDue e.1 e.2) ++
    (s.threads.flatMap fun e => s.threadDue e.1 e.2) ++ s.gangDue ++ s.dramDue

/-! ### The choice -/

/-- The event that happens, if any is due: each in its turn. -/
def State.dueNow (s : State) : Option Event := s.due[s.cycle / 2 % s.due.length]?

/-- Ports that have a flit to send. -/
def State.sendPorts (s : State) : List (Nat × Nat) :=
  s.flits.flatMap fun e => ((List.range 9).filter fun p => !(s.readyHeads e.1 p).isEmpty).map fun p => (e.1, p)

/-- Every output port arbitrates (R75). -/
def State.meshCycle (s : State) : Outcome State Fault Refusal :=
  s.sendPorts.foldl (fun o p => match o with | .next s' => execArbitrate p.1 p.2 s' | o => o) (.next s)

/-- What the machine does by itself: threads come first in even cycles and events in odd ones, in which every router
port arbitrates as well. -/
def State.autoWith (run : BitVec 32 → State → Outcome State Fault Refusal) (s : State) : Outcome State Fault Refusal :=
  let events := fun (s : State) (idle : Outcome State Fault Refusal) =>
    match s.dueNow with | some e => e { s with phase := 9 } | none => idle
  let issue := fun (s : State) (idle : Outcome State Fault Refusal) =>
    match s.nextSlot with | some slot => ({ s with phase := 9 } : State).issueWith run slot | none => idle
  if s.cycle % 2 = 0 then issue s (match s.meshCycle with | .next s' => events s' (.next s') | o => o)
  else match s.meshCycle with | .next s' => events s' (issue s' (.next s')) | o => o

/-! ### Soft errors -/

/-- CELLERR of a cell counts one event. -/
def Cell.count (c : Cell) (lo len : Nat) : Cell := { c with cellerr := satAdd c.cellerr lo len 1 }

/-- A register, tile or accumulator word of a slot is struck (R62): the regions lie in the cell's pool.
DEDUCED (log 125). -/
def State.strikeRegion (s : State) (slot : Nat) (fatal : Bool) (f : Thread → Thread) : State :=
  if fatal then (s.updThread slot f).updCellAt (cellOf slot) (·.count 40 8) else s.updCellAt (cellOf slot) (·.count 48 16)

/-- A word of a comb slice is struck (R84). DESIGN CHOICE (log 121): each event is logged with the slice's endpoint and
the number of the set, and a line whose tag fails stays as it is. The copy of a line that waits for the grant of its upgrade is fetched again
behind it. -/
def State.strikeSlice (s : State) (comb line : Nat) (tag fatal : Bool) : State :=
  let l := s.slice comb line
  let note := fun (s : State) (sev : Nat) => s.postRouter comb sev 6 epSlice (line % 2048)
  if tag && fatal then note s 2
  else if !fatal then note s 0
  else
    match l.st with
    | .s | .e => note ((s.setSlice comb line .invalid).localRead comb line) 0
    | .smA => note s 0
    | .i | .isD | .imD => s
    | _ => note (s.setSlice comb line { l with pois := true }) 1

/-- A soft error strikes (R57, R62, R84, R101 to R107, R111), or a flit with a reserved code arrives (R68).
DEDUCED (log 93). -/
def State.strike (s : State) : Upset → State
  | .pool c w fatal =>
    s.updCellAt c fun x =>
      if fatal then { x.count 40 8 with ppoison := NatSet.add w x.ppoison } else { x with latent := NatSet.add w x.latent }
  | .reg slot w fatal => s.strikeRegion slot fatal fun t => { t with poison := NatSet.add w t.poison }
  | .tile slot w fatal => s.strikeRegion slot fatal fun t => { t with tpoison := NatSet.add w t.tpoison }
  | .l1 c line fatal =>
    if ((s.cell c).l1Find s.cycle line).isNone then s
    else if fatal then (s.l1Drop c line).updCellAt c (·.count 24 8)
    else s.updCellAt c (·.count 32 8)
  | .wcb c i w =>
    match (s.cell c).wcb[i]? with
    | some e =>
      let s1 := s.updCellAt c fun x =>
        { x.count 8 8 with wcb := x.wcb.set i { e with pois := e.pois ||| BitVec.ofNat 16 (2 ^ (w % 16)) } }
      s1.postRouter (combOf c) 1 9 (physOf c) (bits (s1.cell c).cellerr 8 8)
    | none => s
  | .icache c line => s.updCellAt c fun x => { x with icache := x.icache.map fun l => if l.line = line then { l with bad := true } else l }
  | .tlb c i => s.updCellAt c fun x => { x with tlb := x.tlb.eraseIdx i }
  | .range c i =>
    match (s.cell c).rsb[i]? with
    | some r => s.updCellAt c fun x => { x.count 0 8 with rsb := x.rsb.set i { r with bad := true } }
    | none => s
  | .slice comb line tag fatal => s.strikeSlice comb line tag fatal
  | .dram line fatal => s.updBlock (blockOf line).1 fun b => { b with errs := Sparse.set line fatal b.errs }
  | .msc line fatal =>
    match s.mscFind line with
    | some m => s.mscPut { m with err := some fatal }
    | none => s
  | .directory line => (s.rebuildDir line).logLine line 0 2
  | .remap f i second =>
    match (s.block f).remap[i]? with
    | some r =>
      s.updBlock f fun b => { b with remap := b.remap.set i (if second then { r with bad2 := true } else { r with bad1 := true }) }
    | none => s
  | .flit comb mc ep => if mc = 7 ∨ epMgmt < ep % 32 then s.enter comb (Flit.of comb epMgmt 0 0 comb (ep % 32) (if mc = 7 then .junk else .mgmt (.ack 0 0))) else s

/-! ### Moves of the agenda -/

/-- Events that a frozen module knows: the resets that end the freeze, and alarms (R415). -/
def whileFrozen : Instr → Bool
  | .moduleReset | .coldPowerCycle | .alarm _ | .freeze => true
  | _ => false

/-- A row of the table that names an event: it has no word. -/
def isEvent : Instr → Bool
  | .illegalInstruction _ => false
  | i => decide (encode i = 0)

/-- What an event leaves behind it among those of its cycle (R9): 5, no event that comes first may follow; 9, none but
another such one. A requester, a ring change, a pop, a page release and an OK come before what would time out or check (R38,
R117, R210, R413). -/
def placeOf : Instr → Nat
  | .preemption _ => 5
  | .migrationTimeout _ | .ringStall _ | .taskAging _ | .foragerRead _ | .bootWatchdog | .waggleTimeout => 9
  | _ => 0

/-- The place before which an event has to come in its cycle: a result, the end of a command and a placement come before an
issue and a pre-emption of that cycle (R210, R389). -/
def placeBefore : Instr → Nat
  | .resultWritten _ | .ncrsp _ | .streamCommandComplete _ _ | .gangPlacement _ => 5
  | .migrationTimeout _ | .ringStall _ | .taskAging _ | .foragerRead _ | .bootWatchdog | .waggleTimeout => 10
  | _ => 9

/-- A move of the agenda is made. An event that cannot come so late in its cycle comes in the next one (R9). DESIGN CHOICE
(log 70). -/
def State.moveWith (run : BitVec 32 → State → Outcome State Fault Refusal) (s : State) : Move → Outcome State Fault Refusal
  | .event i => if isEvent i then exec i { s with phase := placeOf i } else .next s
  | .sameCycle i =>
    if !isEvent i then .next s
    else if s.phase < placeBefore i then exec i { s with cycle := s.cycle - 1, phase := Nat.max s.phase (placeOf i) }
    else exec i { s with phase := placeOf i }
  | .issue slot => if s.mayIssue slot then ({ s with phase := 5 } : State).issueWith run slot else .next s
  | .pass n => .next { s with cycle := s.cycle + n, phase := 0 }
  | .queuesApart on => .next { s with ahead := on }
  | .elementsApart on => .next { s with apart := on }
  | .mscEvict line => .next (s.mscEvict line)
  | .sliceEvict comb line => .next (s.evictSlice comb line)
  | .drain cell => .next (s.drainFirst cell 1)
  | .upset u => .next (s.strike u)
  | .hive x => .next (s.hiveEnters x)
  | .hiveTaken port => .next (s.hiveCrosses port)
  | .host op => .next (s.hostSend op)

/-- A move that can be made while every clock stands still. DEDUCED (log 104). -/
def Move.frozenOk : Move → Bool
  | .event i | .sameCycle i => whileFrozen i
  | _ => false

end Sys2Proof.Machine
end

