-- ==== Sys2Proof/Machine/Step.lean ====
section
/-! DEFINITION. One step of the module: the first move of the agenda, or what the machine chooses by
itself; and the placing of an instruction where the next step fetches it. -/

namespace Sys2Proof.Machine

open Host (Outcome)

/-- One step, with `run` as the meaning of a fetched word. A frozen module makes no step but those of
its always-on logic (R415). DESIGN CHOICE (log 1). -/
def stepWith (run : BitVec 32 → State → Outcome State Fault Refusal) (s : State) : Outcome State Fault Refusal :=
  match s.agenda with
  | [] => if s.frozen then .fault .frozen else onNext State.tick (s.autoWith run)
  | m :: rest =>
    if s.frozen && !m.frozenOk then .fault .frozen
    else onNext State.tick (({ s with agenda := rest } : State).moveWith run m)

/-- The instruction of a fetched word (R265): one that the decoder rejects is illegal. DEDUCED (log 8). -/
noncomputable def instrOf (w : BitVec 32) : Instr :=
  match decode w with
  | .ok i => i
  | .error _ => .illegalInstruction w

/-- One step of the module. -/
noncomputable def step (s : State) : Outcome State Fault Refusal := stepWith (fun w => exec (instrOf w)) s

/-- Memory with the bytes of a word at `a`. -/
def putWord (m : Bytes) (a : Nat) (w : BitVec 32) : Bytes := Bytes.write romByte a 4 w.toNat m

/-- `s` with one instruction where the next step fetches: the queen's reset thread is live at the first
address of the boot ROM, which holds the word, and it issues next. DEDUCED (log 5). -/
def State.withFetchWord (s : State) (_nbits w : Nat) : State :=
  { s with
    mem := putWord s.mem Config.romBase (BitVec.ofNat 32 w)
    threads := Sparse.set 0 (bootThread 0) s.threads
    frozen := false
    agenda := [.issue 0] }

end Sys2Proof.Machine
end

