-- ==== Sys2Proof/Safety.lean ====
section
/-! DEFINITION. What a safe run is, in the terms the statements use: an answer that is a next state,
what an instruction leaves alone in the module and in its thread, and when its operands let it execute. -/

namespace Sys2Proof.Machine

open Host (Outcome)

/-- The outcome is a next state, and `P` holds of it. -/
def Answers (o : Outcome State Fault Refusal) (P : State → Prop) : Prop := ∃ t, o = .next t ∧ P t

/-- No register that the instruction reads or writes is pending (R197) and no scalar register that it
reads is poisoned (R358). -/
def State.OperandsReady (s : State) (reads writes : List Reg) : Prop :=
  s.thr.hazard reads writes = none ∧ s.thr.poisonedRead reads = none

/-- Nothing but the executing thread's own record differs: no other thread, no byte of memory, no other
piece of the module. -/
def State.OnlyThread (s t : State) : Prop :=
  ({ t with threads := s.threads } : State) = s ∧ (∀ k, k ≠ s.cur → t.thread k = s.thread k) ∧
    ∀ a, t.memByte a = s.memByte a

/-- Scalar register `d` holds `v` (index 31 keeps reading zero, R211), its upper bits and every other
register are as before, and so is the poison of every other word. -/
def Thread.Wrote (u w : Thread) (d : Reg) (v : Word) : Prop :=
  w.readS d = (if d = 31 then 0 else v) ∧ (w.vreg d.toNat).hi = (u.vreg d.toNat).hi ∧
    (∀ i, (i ≠ d.toNat ∨ d = 31) → w.vreg i = u.vreg i) ∧
    (d ≠ 31 → NatSet.has w.poison (d.toNat * 128) = false) ∧
    ∀ k, (k ≠ d.toNat * 128 ∨ d = 31) → NatSet.has w.poison k = NatSet.has u.poison k

/-- Control registers after an instruction that raised `fl`: the flags joined FPFLG; the loop registers
may differ when a loop is active (R293); no other register differs. -/
def Thread.Raised (u w : Thread) (fl : Flags) : Prop :=
  w.csrGet csrFPFLG = u.csrGet csrFPFLG ||| fl.setWidth 64 ∧
    ∀ n, n ≠ csrFPFLG → (u.loop = none ∨ n < csrLIX0 ∨ csrLOFF < n) → w.csrGet n = u.csrGet n

/-- The scalar, vector, mask and message registers are as before. -/
def Thread.SameRegisters (u w : Thread) : Prop :=
  (∀ i, w.vreg i = u.vreg i) ∧ (∀ i, w.readM i = u.readM i) ∧ (∀ i, w.readMb i = u.readMb i) ∧
    ∀ k, NatSet.has w.poison k = NatSet.has u.poison k

/-- The loop registers stand at pass `e` of a loop on pattern `p` (R293): the index tuple in LIX0 to LIX5,
zero past the pattern's dimensions, and the offset in LOFF. -/
def Thread.OnPass (t : Thread) (p : BitVec 256) (e : Nat) : Prop :=
  (∀ d, d < 6 → t.csrGet (csrLIX0 + d) = if d < patDims p then BitVec.ofNat 64 (patIndex p e d) else 0) ∧
    t.csrGet csrLOFF = BitVec.ofInt 64 (patOffset p e)

/-- The thread completed a scalar instruction: `d` was written with `v`, `fl` were raised, the results
`ps` are under way, a marker parks it while a register pends (R196), and nothing else of it differs but
the pc and the state of an active loop. -/
def Thread.Went (u w : Thread) (mk : Bool) (d : Reg) (v : Word) (fl : Flags) (ps : List Pend) : Prop :=
  u.Wrote w d v ∧ u.Raised w fl ∧ w.pend = u.pend ++ ps ∧
    w.park = (if mk && w.anyPending then .marker else .running) ∧
    ({ w with v := u.v, poison := u.poison, csr := u.csr, pend := u.pend, pc := u.pc, park := u.park, loop := u.loop } : Thread) = u

/-- The executing thread of `s` completed an instruction and, outside a loop, went on to the next word
(R256). -/
abbrev Completed (s t : State) (mk : Bool) (d : Reg) (v : Word) (fl : Flags) (ps : List Pend) : Prop :=
  s.thr.Went t.thr mk d v fl ps ∧ (s.thr.loop = none → t.thr.pc = s.thr.pc + 4)

/-- No other thread and no byte of memory differs. -/
def State.OthersKept (s t : State) : Prop :=
  (∀ k, k ≠ s.cur → t.thread k = s.thread k) ∧ ∀ a, t.memByte a = s.memByte a

/-- A scalar instruction completes and does nothing but what its thread's record shows. -/
def Completes (s : State) (mk : Bool) (d : Reg) (v : Word) (fl : Flags) (ps : List Pend)
    (o : Outcome State Fault Refusal) : Prop :=
  Answers o fun t => s.OnlyThread t ∧ Completed s t mk d v fl ps

/-- A control transfer completes: the thread went on at `pc`. -/
def Jumps (s : State) (mk : Bool) (d : Reg) (v pc : Word) (o : Outcome State Fault Refusal) : Prop :=
  Answers o fun t => s.OnlyThread t ∧ s.thr.Went t.thr mk d v 0 [] ∧ t.thr.pc = pc

/-- The result of a variable-latency instruction, under way to scalar register `d` (R195). -/
def underWay (d : Reg) (v : Word) : List Pend := [⟨.scalar, d.toNat, .all, some v, false, 0, none, none, 0, none⟩]

/-- No stream command holds a range of the cell's scratchpad (R55), and no word of its pool has a correctable error
that nothing has read yet (R62). -/
def State.PoolQuiet (s : State) : Prop := s.cl.rsb = [] ∧ s.cl.latent = []

/-- A release of the executing thread on the paths of `p` at scope `c` has nothing to wait for (R145). -/
def State.Released (s : State) (p : BitVec 5) (c : Scope) : Prop :=
  s.relWaits s.cur p c = false ∧ (s.relDrain s.cur p c).relOpen s.cur p c = false

/-- Memory has no error and no poison: no DRAM error, no remapped row and no fenced pseudo-channel, no error in a
memory-side cache, no poisoned line at a home or in a slice. -/
def State.NoErrors (s : State) : Prop :=
  (∀ f, (s.block f).errs = [] ∧ (s.block f).remap = [] ∧ (s.block f).fenced = []) ∧
    (∀ e ∈ s.msc, ∀ m ∈ e.2, m.err = none) ∧ s.mpoison = [] ∧ ∀ e ∈ s.slices, e.2.pois = false

/-! ### Vector instructions -/

/-- The executing thread is not stopped, its queues are empty and run at once, by element groups (log entries 1 and 124),
nothing of it pends, nothing is poisoned, no ring is read or written, and no restart is under way. -/
def State.VectorReady (s : State) : Prop :=
  s.ahead = false ∧ s.apart = false ∧ s.thr.stopped = false ∧ s.inReplay s.cur = false ∧ s.cl.laneNext = none ∧ s.thr.vq = [] ∧ s.thr.tq = [] ∧ s.thr.pend = [] ∧
    s.thr.poison = [] ∧ s.thr.csrGet csrESI = 0 ∧ (s.thr.csrGet csrRINGCTL).getLsbD 0 = false

/-- The thread has neither the matrix unit nor an access that a range of the scoreboard stalls: a trap of it changes nothing
but its own record. -/
def State.NotWaiting (s : State) : Prop := s.cl.unit ≠ some s.cur ∧ ∀ w ∈ s.cl.rsbHeld, w.slot ≠ s.cur

/-- Element `i` of width `w` of vector register `r` (R212). -/
def Thread.elem (t : Thread) (r : Reg) (w i : Nat) : Nat := elemGet (t.readV r.toNat) w i

/-- Element `i` is active: bit `i` of m0 in an X form, of the mask otherwise, all with mask 31 (R312, R226). -/
def Thread.on (t : Thread) (k : Reg) (x : Bool) (i : Nat) : Bool :=
  if x then (t.readM 0).getLsbD i else decide (k = 31) || (t.readM k.toNat).getLsbD i

/-- The flags that the active ones of `n` elements raise. -/
def raisedBy (n : Nat) (on : Nat → Bool) (val : Nat → Nat × Flags) : Flags :=
  (List.range n).foldl (fun f i => if on i then f ||| (val i).2 else f) 0

/-- A queued instruction completed: its thread goes on behind it, nothing is left in the queues or pending,
and of the thread only vector and mask registers and control registers may differ. -/
def Thread.Through (u w : Thread) : Prop :=
  (u.loop = none → w.pc = u.pc + 4) ∧ w.park = .running ∧
    ({ w with
        v := u.v, m := u.m, written := u.written, csr := u.csr, pc := u.pc, loop := u.loop, seq := u.seq
        ringSince := u.ringSince, lead := u.lead, pred := u.pred, park := u.park } : Thread) = u

/-- The exception mask of an X form after `n` elements, and every other mask: bit `i` of mask `k` tells, for
an active element, whether its flags meet XSEL (R226). -/
def State.MaskBit (s : State) (k : Reg) (x : Bool) (n : Nat) (on : Nat → Bool) (val : Nat → Nat × Flags) (j i : Nat) : Bool :=
  if x && decide (j = k.toNat) && decide (i < n) && on i then decide ((val i).2 &&& (s.thr.csrGet csrXSEL).setWidth 7 ≠ 0)
  else (s.thr.readM j).getLsbD i

/-- The answer wrote `n` elements of width `w` of vector register `d`: the active ones have their value, every
other element and register is as before, and the flags joined FPFLG. -/
def State.WritesElements (s : State) (d k : Reg) (x : Bool) (w n : Nat) (on : Nat → Bool) (val : Nat → Nat × Flags)
    (o : Outcome State Fault Refusal) : Prop :=
  raisedBy n on val &&& s.thr.fpEn = 0 →
  Answers o fun t => s.OnlyThread t ∧ s.thr.Through t.thr ∧ s.thr.Raised t.thr (raisedBy n on val) ∧
    (∀ r, r ≠ d.toNat → t.thr.vreg r = s.thr.vreg r) ∧
    (∀ i, (i + 1) * w ≤ 8192 → t.thr.elem d w i = if i < n ∧ on i = true then (val i).1 % 2 ^ w else s.thr.elem d w i) ∧
    ∀ j i, i < 1024 → (t.thr.readM j).getLsbD i = s.MaskBit k x n on val j i

/-- The answer wrote `n` bits of mask register `d`: the active ones tell whether their value is not zero. -/
def State.WritesMask (s : State) (d k : Reg) (x : Bool) (n : Nat) (on : Nat → Bool) (val : Nat → Nat × Flags)
    (o : Outcome State Fault Refusal) : Prop :=
  raisedBy n on val &&& s.thr.fpEn = 0 →
  Answers o fun t => s.OnlyThread t ∧ s.thr.Through t.thr ∧ s.thr.Raised t.thr (raisedBy n on val) ∧
    (∀ r, t.thr.vreg r = s.thr.vreg r) ∧
    ∀ j i, i < 1024 → (t.thr.readM j).getLsbD i =
      if j = d.toNat ∧ i < n ∧ on i = true then decide ((val i).1 ≠ 0) else s.MaskBit k x n on val j i

/-- The answer wrote scalar register `d` with `v` and raised `fl`. -/
def State.WritesScalar (s : State) (d : Reg) (v : Word) (fl : Flags) (o : Outcome State Fault Refusal) : Prop :=
  fl &&& s.thr.fpEn = 0 →
  Answers o fun t => s.OnlyThread t ∧ s.thr.Through t.thr ∧ s.thr.Raised t.thr fl ∧ s.thr.Wrote t.thr d v ∧
    ∀ j, t.thr.readM j = s.thr.readM j

/-! ### Tile instructions -/

/-- The thread may use the tiles (`false`) and accumulators (`true`) named, its queues run at once, and no other thread
has the cell's matrix unit (R205, R340, R246). -/
def State.TileReady (s : State) (regs : List (Bool × Nat)) : Prop :=
  s.VectorReady ∧ (s.cl.unit = none ∨ s.cl.unit = some s.cur) ∧ s.thr.tpoison = [] ∧ s.thr.tileUnavailable = false ∧ ∀ r ∈ regs, r.2 < s.cl.tileCount r.1 s.ct

/-- A queued tile instruction completed: as `Thread.Through`, and tiles, accumulators and their configuration
may differ; of the control registers only those named. -/
def Thread.TileThrough (u w : Thread) (regs : List Nat) : Prop :=
  (u.loop = none → w.pc = u.pc + 4) ∧ w.park = .running ∧
    (∀ n, n ∉ regs → (u.loop = none ∨ n < csrLIX0 ∨ csrLOFF < n) → w.csrGet n = u.csrGet n) ∧
    ({ w with
        v := u.v, written := u.written, tiles := u.tiles, accs := u.accs, tpoison := u.tpoison, tcfgSeen := u.tcfgSeen
        csr := u.csr, pc := u.pc, loop := u.loop, seq := u.seq, ringSince := u.ringSince, lead := u.lead, pred := u.pred
        park := u.park } : Thread) = u

/-- Every tile and accumulator but the one named is as before. -/
def Thread.TilesKept (u w : Thread) (acc : Bool) (n : Nat) : Prop :=
  ∀ b k, (b ≠ acc ∨ k ≠ n) → w.tileGet b k = u.tileGet b k

/-- `n` bytes from byte `q` of a tile or accumulator, as a number. -/
def Thread.tileAt (t : Thread) (acc : Bool) (k q n : Nat) : Nat := tileBytes (t.tileGet acc k) q n

/-- The answer is a trap of code `c` with value `v` (R236), with no vector, mask or message register, no tile
and no byte of memory changed. -/
def State.Trapped (s : State) (c : Nat) (v : Word) (o : Outcome State Fault Refusal) : Prop :=
  Answers o fun t => s.OthersKept t ∧ (s.NotWaiting → s.OnlyThread t) ∧ s.thr.SameRegisters t.thr ∧ (∀ b k, t.thr.tileGet b k = s.thr.tileGet b k) ∧
    t.thr.mode = s.thr.trapMode { code := c } ∧
    bits (t.thr.csrGet (if t.thr.mode = .machine then csrMCAUSE else csrCAUSE)) 0 16 = c ∧
    t.thr.csrGet (if t.thr.mode = .machine then csrMTVAL else csrTVAL) = v ∧
    t.thr.csrGet (if t.thr.mode = .machine then csrMEPC else csrEPC) = s.thr.pc

end Sys2Proof.Machine
end

