-- ==== Sys2Proof/Certificates/Slice0/Obligations.lean ====
section
/-! DEFINITION. The statements about the model, for the provers. -/

section

open Sys2Proof Sys2Proof.Machine

/-- R286 (MIN to SNE and the plain operations): the operations of two register operands, each completing
with its value, for every operand form (a destination of 31 discards it, R211). -/
def Obligations.IntegerRegisterResults : Prop :=
  ∀ (s : State) (mk : Bool) (d a b : Reg), s.OperandsReady [a, b] [d] →
    let x := s.rs a
    let y := s.rs b
    let n := y.toNat % 64
    let wide (p q : Int) : Word := BitVec.ofInt 64 (p * q / 2 ^ 64)
    let yields (i : Instr) (v : Word) : Prop := Completes s mk d v 0 [] (exec i s)
    yields (.add mk d a b) (x + y) ∧ yields (.sub mk d a b) (x - y) ∧
    yields (.add32 mk d a b) (((x + y).extractLsb' 0 32).signExtend 64) ∧
    yields (.sub32 mk d a b) (((x - y).extractLsb' 0 32).signExtend 64) ∧
    yields (.and mk d a b) (x &&& y) ∧ yields (.or mk d a b) (x ||| y) ∧
    yields (.xor mk d a b) (x ^^^ y) ∧ yields (.andn mk d a b) (x &&& ~~~y) ∧
    yields (.sll mk d a b) (x <<< n) ∧ yields (.srl mk d a b) (x >>> n) ∧
    yields (.sra mk d a b) (x.sshiftRight n) ∧ yields (.ror mk d a b) (x.rotateRight n) ∧
    yields (.min mk d a b) (if x.sle y then x else y) ∧ yields (.max mk d a b) (if x.sle y then y else x) ∧
    yields (.minu mk d a b) (if x ≤ y then x else y) ∧ yields (.maxu mk d a b) (if x ≤ y then y else x) ∧
    yields (.slt mk d a b) (if x.slt y then 1 else 0) ∧ yields (.sltu mk d a b) (if x < y then 1 else 0) ∧
    yields (.seq mk d a b) (if x = y then 1 else 0) ∧ yields (.sne mk d a b) (if x = y then 0 else 1) ∧
    yields (.mul mk d a b) (x * y) ∧ yields (.mul32 mk d a b) (((x * y).extractLsb' 0 32).signExtend 64) ∧
    yields (.mulhs mk d a b) (wide x.toInt y.toInt) ∧ yields (.mulhu mk d a b) (wide x.toNat y.toNat) ∧
    yields (.mulhus mk d a b) (wide x.toNat y.toInt)

/-- R286: CLZ, CTZ, POPC and BYTEREV. The leading and trailing zeros are told by the bits around the
highest and the lowest one bit; the bytes of BYTEREV by their places. R286: MULADD and MULSUB read the destination as a third operand; CMOVNZ and CMOVZ leave it unchanged
when their condition fails. -/
def Obligations.BitCountsAndAccumulation : Prop :=
  (
  ∀ (s : State) (mk : Bool) (d a : Reg), s.OperandsReady [a] [d] →
    let x := s.rs a
    (∃ n, n ≤ 64 ∧ (∀ i, 64 - n ≤ i → i < 64 → x.getLsbD i = false) ∧ (n < 64 → x.getLsbD (63 - n) = true) ∧
      Completes s mk d (BitVec.ofNat 64 n) 0 [] (exec (.clz mk d a) s)) ∧
    (∃ n, n ≤ 64 ∧ (∀ i, i < n → x.getLsbD i = false) ∧ (n < 64 → x.getLsbD n = true) ∧
      Completes s mk d (BitVec.ofNat 64 n) 0 [] (exec (.ctz mk d a) s)) ∧
    Completes s mk d (BitVec.ofNat 64 ((List.range 64).countP x.getLsbD)) 0 [] (exec (.popc mk d a) s) ∧
    ∃ y : Word, (∀ i, i < 8 → y.extractLsb' (8 * i) 8 = x.extractLsb' (8 * (7 - i)) 8) ∧
      Completes s mk d y 0 [] (exec (.byterev mk d a) s)
  ) ∧
  (
  ∀ (s : State) (mk : Bool) (d a b : Reg),
    let x := s.rs a
    let y := s.rs b
    (s.OperandsReady [a, b, d] [d] →
      Completes s mk d (s.rs d + x * y) 0 [] (exec (.muladd mk d a b) s) ∧
      Completes s mk d (s.rs d - x * y) 0 [] (exec (.mulsub mk d a b) s)) ∧
    (s.OperandsReady [a, b] [d] →
      (y ≠ 0 → Completes s mk d x 0 [] (exec (.cmovnz mk d a b) s) ∧ Completes s mk 31 0 0 [] (exec (.cmovz mk d a b) s)) ∧
      (y = 0 → Completes s mk 31 0 0 [] (exec (.cmovnz mk d a b) s) ∧ Completes s mk d x 0 [] (exec (.cmovz mk d a b) s)))
  )

/-- R286, R287: a division sends its result on its way (class P); with HZCTL.DZT = 1 a zero divisor takes the
trap of code 0x18 with the destination unwritten, and with DZT = 0 its result is as the rule gives it. -/
def Obligations.Division : Prop :=
  ∀ (s : State) (mk : Bool) (d a b : Reg), s.OperandsReady [a, b] [d] →
    let x := s.rs a
    let y := s.rs b
    let dzt := bits (s.thr.csrGet csrHZCTL) 2 1
    let low : Word := BitVec.intMin 64
    let quotient : Word := if y = 0 then 0 else if x = low ∧ y.toInt = -1 then BitVec.intMax 64 else BitVec.ofInt 64 (x.toInt.tdiv y.toInt)
    let remainder : Word := if y = 0 then x else BitVec.ofInt 64 (x.toInt.tmod y.toInt)
    let divides (i : Instr) (v : Word) : Prop :=
      (dzt = 0 ∨ y ≠ 0 → Completes s mk 31 0 0 (underWay d v) (exec i s)) ∧
      (dzt = 1 → y = 0 → exec i s = .next (s.trap { code := 0x18 }))
    divides (.div mk d a b) quotient ∧ divides (.divu mk d a b) (if y = 0 then 0 else x / y) ∧
    divides (.rem mk d a b) remainder ∧ divides (.remu mk d a b) (if y = 0 then x else x % y)

/-- R288: the immediate forms. R289: BFX and BFXU extract the field, BFI replaces it and leaves the other bits of the destination;
a field past bit 63 takes the illegal-instruction trap with the word in TVAL. -/
def Obligations.ImmediatesAndBitfields : Prop :=
  (
  ∀ (s : State) (mk : Bool) (d a : Reg) (imm : BitVec 15) (n : BitVec 6) (j : BitVec 14) (l : BitVec 20),
    let x := s.rs a
    let yields (i : Instr) (v : Word) : Prop := Completes s mk d v 0 [] (exec i s)
    (s.OperandsReady [a] [d] →
      yields (.addi mk d a imm) (x + imm.signExtend 64) ∧ yields (.andi mk d a imm) (x &&& imm.signExtend 64) ∧
      yields (.ori mk d a imm) (x ||| imm.signExtend 64) ∧ yields (.xori mk d a imm) (x ^^^ imm.signExtend 64) ∧
      yields (.slli mk d a n) (x <<< n) ∧ yields (.srli mk d a n) (x >>> n) ∧
      yields (.srai mk d a n) (x.sshiftRight' n) ∧ yields (.rori mk d a n) (x.rotateRight n.toNat) ∧
      yields (.slti mk d a j) (if x.slt (j.signExtend 64) then 1 else 0) ∧
      yields (.sltiu mk d a j) (if x.ult (j.signExtend 64) then 1 else 0)) ∧
    (s.OperandsReady [] [d] →
      yields (.lui mk d l) (l.signExtend 64 <<< 12) ∧ yields (.addpc mk d l) (s.thr.pc + l.signExtend 64 <<< 12))
  ) ∧
  (
  ∀ (s : State) (mk : Bool) (d a : Reg) (p w : BitVec 6),
    let n := w.toNat + 1
    let x := s.rs a
    (p.toNat + n ≤ 64 →
      (s.OperandsReady [a] [d] →
        Completes s mk d ((x.extractLsb' p.toNat n).signExtend 64) 0 [] (exec (.bfx mk d a p w) s) ∧
        Completes s mk d ((x.extractLsb' p.toNat n).setWidth 64) 0 [] (exec (.bfxu mk d a p w) s)) ∧
      (s.OperandsReady [a, d] [d] → ∃ y : Word,
        (∀ i, i < 64 → y.getLsbD i =
          if p.toNat ≤ i ∧ i < p.toNat + n then x.getLsbD (i - p.toNat) else (s.rs d).getLsbD i) ∧
        Completes s mk d y 0 [] (exec (.bfi mk d a p w) s))) ∧
    (64 < p.toNat + n →
      exec (.bfx mk d a p w) s = .next (s.illegal (encode (.bfx mk d a p w))) ∧
      exec (.bfxu mk d a p w) s = .next (s.illegal (encode (.bfxu mk d a p w))) ∧
      exec (.bfi mk d a p w) s = .next (s.illegal (encode (.bfi mk d a p w))))
  )

/-- R259, R290: outside a loop body, a conditional branch whose condition holds goes to its target, and
otherwise the thread goes on behind it. R259, R290, R292: JAL and JALR link and jump, JALR reading its base before it writes the link; SUBBR
subtracts and branches while the difference is positive, and a field a of 31 takes the
illegal-instruction trap. -/
def Obligations.BranchesAndJumps : Prop :=
  (
  ∀ (s : State) (mk : Bool) (a b : Reg) (o : BitVec 15), s.thr.inBody = false → s.OperandsReady [a, b] [] →
    let x := s.rs a
    let y := s.rs b
    let branches (i : Instr) (taken : Prop) : Prop :=
      (taken → Jumps s mk 31 0 (s.thr.pc + 4 * o.signExtend 64) (exec i s)) ∧
      (¬taken → Completes s mk 31 0 0 [] (exec i s))
    branches (.beq mk a b o) (x = y) ∧ branches (.bne mk a b o) (x ≠ y) ∧
    branches (.blt mk a b o) (x.toInt < y.toInt) ∧ branches (.bge mk a b o) (y.toInt ≤ x.toInt) ∧
    branches (.bltu mk a b o) (x < y) ∧ branches (.bgeu mk a b o) (y ≤ x)
  ) ∧
  (
  ∀ (s : State) (mk : Bool) (d a b : Reg) (o : BitVec 25) (imm off : BitVec 15), s.thr.inBody = false →
    (s.OperandsReady [] [30] → Jumps s mk 30 (s.thr.pc + 4) (s.thr.pc + 4 * o.signExtend 64) (exec (.jal mk o) s)) ∧
    (s.OperandsReady [a] [d] →
      Jumps s mk d (s.thr.pc + 4) ((s.rs a + imm.signExtend 64) &&& ~~~3) (exec (.jalr mk d a imm) s)) ∧
    (a ≠ 31 → s.OperandsReady [a, b] [a] →
      let x := s.rs a - s.rs b
      (0 < x.toInt → Jumps s mk a x (s.thr.pc + 4 * off.signExtend 64) (exec (.subbr mk a b off) s)) ∧
      (x.toInt ≤ 0 → Completes s mk a x 0 [] (exec (.subbr mk a b off) s))) ∧
    exec (.subbr mk 31 b off) s = .next (s.illegal (encode (.subbr mk 31 b off)))
  )

/-- R293: LOOP latches the pattern of its slot and starts the first pass; a slot without a valid pattern,
or a pattern of 2^32 passes or more, is an illegal operand. R293: inside a loop, an instruction before the body's last goes on to the next word; the last one of a
pass that is not the last goes back to the start with the registers of the next pass; the last one of the
last pass leaves the loop with its registers zero. Shown on a hint, which has no other effect. -/
def Obligations.LoopStartsAndPasses : Prop :=
  (
  ∀ (s : State) (mk : Bool) (n : BitVec 5) (p : BitVec 4), s.thr.inBody = false →
    let i : Instr := .loop mk n p
    ((s.thr.slotPat p.toNat = none ∨ ∃ w, s.thr.slotPat p.toNat = some w ∧ 2 ^ 32 ≤ patCount w) →
      exec i s = .next (s.trap { code := 0x02, tval := p.setWidth 64 })) ∧
    ∀ w, s.thr.slotPat p.toNat = some w → patCount w < 2 ^ 32 →
      Answers (exec i s) fun t => s.OnlyThread t ∧ s.thr.SameRegisters t.thr ∧ t.thr.pc = s.thr.pc + 4 ∧
        t.thr.loop = some ⟨s.thr.pc + 4, n.toNat + 1, p.toNat, w, 0, []⟩ ∧ t.thr.OnPass w 0
  ) ∧
  (
  ∀ (s : State) (mk : Bool) (body : BitVec 31) (l : LoopRec), s.thr.loop = some l →
    let last : Word := l.start + BitVec.ofNat 64 (4 * (l.n - 1))
    Answers (exec (.hintNop mk body) s) fun t => s.OnlyThread t ∧ s.thr.SameRegisters t.thr ∧
      (s.thr.pc ≠ last → t.thr.pc = s.thr.pc + 4 ∧ t.thr.loop = some l ∧ t.thr.csr = s.thr.csr) ∧
      (s.thr.pc = last → l.pass + 1 < patCount l.pat →
        t.thr.pc = l.start ∧ t.thr.loop = some { l with pass := l.pass + 1 } ∧ t.thr.OnPass l.pat (l.pass + 1)) ∧
      (s.thr.pc = last → patCount l.pat ≤ l.pass + 1 →
        t.thr.pc = l.start + BitVec.ofNat 64 (4 * l.n) ∧ t.thr.loop = none ∧
        ∀ n, csrLIX0 ≤ n → n ≤ csrLOFF → t.thr.csrGet n = 0)
  )

/-- R294: control transfers, LOOP, kernel operations and the system operations in a loop body take the
illegal-instruction trap with their word, and the loop ends with its registers zero. -/
def Obligations.LoopBodyExclusions : Prop :=
  ∀ (s : State) (mk : Bool) (d a b n : Reg) (o : BitVec 25) (imm : BitVec 15) (p : BitVec 4), s.thr.inBody = true →
    ∀ i ∈ [Instr.beq mk a b imm, .bne mk a b imm, .blt mk a b imm, .bge mk a b imm, .bltu mk a b imm, .bgeu mk a b imm,
      .jal mk o, .jalr mk d a imm, .subbr mk a b imm, .loop mk n p, .launch mk a, .relay mk a b, .trigger mk,
      .retire mk, .trap mk a, .tret mk, .idle mk, .tfence mk a b, .ifence mk, .csave mk a b, .crestore mk a b,
      .gstop mk d a, .gresume mk d a, .bkpt mk],
      ∃ u : Thread, u.loop = none ∧ (∀ k, csrLIX0 ≤ k → k ≤ csrLOFF → u.csrGet k = 0) ∧
        ({ u with loop := s.thr.loop, csr := s.thr.csr } : Thread) = s.thr ∧
        exec i s = .next ((s.upd fun _ => u).trap { code := 0x01, tval := (encode i).setWidth 64 })

/-- R296, R297, R299, R300: the scalar floating-point operations of classes 1 and 4. With `r` the value and
flags of the operation, an instruction none of whose flags is enabled writes the value, upper bits zero
(R211), and its flags join FPFLG; one with an enabled flag takes the floating-point exception trap with the
destination unwritten and FL in TVAL. -/
def Obligations.FloatResults : Prop :=
  ∀ (s : State) (mk : Bool) (d a b c : Reg) (f : Fmt) (r : Rm),
    let g := fpFmt f
    let n := match f with | .d => 64 | .s => 32
    let x := (s.rs a).toNat % 2 ^ n
    let y := (s.rs b).toNat % 2 ^ n
    let z := (s.rs c).toNat % 2 ^ n
    let rm := s.thr.rmOf r
    let gives (i : Instr) (v : Nat × Flags) : Prop :=
      (v.2 &&& s.thr.fpEn = 0 → Completes s mk d (BitVec.ofNat 64 v.1) v.2 [] (exec i s)) ∧
      (v.2 &&& s.thr.fpEn ≠ 0 → exec i s = .next ((s.upd (·.raise v.2)).trap { code := 0x06, tval := v.2.setWidth 64 }))
    (s.OperandsReady [a, b] [d] →
      gives (.fadd mk d a b f r) (g.add rm x y) ∧ gives (.fsub mk d a b f r) (g.sub rm x y) ∧
      gives (.fmul mk d a b f r) (g.mul rm x y) ∧ gives (.fmin mk d a b f) (g.minMax false x y) ∧
      gives (.fmax mk d a b f) (g.minMax true x y) ∧ gives (.fcmpq mk d a b f) (g.relation false x y) ∧
      gives (.fcmps mk d a b f) (g.relation true x y)) ∧
    (s.OperandsReady [a] [d] →
      gives (.fclass mk d a f) (g.classify x, 0) ∧
      gives (.fcvti mk d a f r) (toInt64 (-(2 ^ 63)) (2 ^ 63 - 1) rm g x) ∧
      gives (.fcvtiu mk d a f r) (toInt64 0 (2 ^ 64 - 1) rm g x) ∧
      gives (.icvtf mk d a f r) (g.roundFP rm (fvalOfInt (s.rs a).toInt)) ∧
      gives (.iucvtf mk d a f r) (g.roundFP rm (fvalOfInt (s.rs a).toNat)) ∧
      gives (.fcvt mk d a .d r) (fmtD.narrow rm false (fmtS.decode ((s.rs a).toNat % 2 ^ 32))) ∧
      gives (.fcvt mk d a .s r) (fmtS.narrow rm false (fmtD.decode (s.rs a).toNat)) ∧
      ∀ k : BitVec 5, 2 ≤ k.toNat → k.toNat ≤ 5 →
        gives (.fcvtn mk d a k f r)
          ((fmtOfCode k.toNat).narrow rm (decide (bits (s.thr.csrGet csrFPCTL) 19 1 = 1)) (g.decode x)) ∧
        gives (.fcvtw mk d a k f)
          (g.roundFP .rne ((fmtOfCode k.toNat).decode ((s.rs a).toNat % 2 ^ (fmtOfCode k.toNat).width)))) ∧
    (s.OperandsReady [a, b, c] [d] →
      (f = .d →
        gives (.fmaddD mk d a b c r) (g.fma rm false false x y z) ∧ gives (.fmsubD mk d a b c r) (g.fma rm false true x y z) ∧
        gives (.fnmaddD mk d a b c r) (g.fma rm true true x y z) ∧ gives (.fnmsubD mk d a b c r) (g.fma rm true false x y z)) ∧
      (f = .s →
        gives (.fmaddS mk d a b c r) (g.fma rm false false x y z) ∧ gives (.fmsubS mk d a b c r) (g.fma rm false true x y z) ∧
        gives (.fnmaddS mk d a b c r) (g.fma rm true true x y z) ∧ gives (.fnmsubS mk d a b c r) (g.fma rm true false x y z)))

/-- R297: FCPSGN, FNEG, FABS and FXSGN act on the sign bit alone, raise no flag and take no trap, whatever
the operands; a binary32 result zeroes the upper half (R211). R297, R298: FDIV and FSQRT send their result on its way (class P) while no flag is enabled; with a flag
enabled they are of class S and write the result or take the floating-point exception trap. -/
def Obligations.FloatSignsDivideAndRoot : Prop :=
  (
  ∀ (s : State) (mk : Bool) (d a b : Reg),
    let x := s.rs a
    let y := s.rs b
    let sign64 (n : Bool) : Word := BitVec.ofBool n ++ x.extractLsb' 0 63
    let sign32 (n : Bool) : Word := 0#32 ++ (BitVec.ofBool n ++ x.extractLsb' 0 31)
    let yields (i : Instr) (v : Word) : Prop := Completes s mk d v 0 [] (exec i s)
    (s.OperandsReady [a, b] [d] →
      yields (.fcpsgn mk d a b .d) (sign64 (y.getLsbD 63)) ∧ yields (.fcpsgn mk d a b .s) (sign32 (y.getLsbD 31)) ∧
      yields (.fxsgn mk d a b .d) (sign64 (x.getLsbD 63 ^^ y.getLsbD 63)) ∧
      yields (.fxsgn mk d a b .s) (sign32 (x.getLsbD 31 ^^ y.getLsbD 31))) ∧
    (s.OperandsReady [a] [d] →
      yields (.fneg mk d a .d) (sign64 (!x.getLsbD 63)) ∧ yields (.fneg mk d a .s) (sign32 (!x.getLsbD 31)) ∧
      yields (.fabs mk d a .d) (sign64 false) ∧ yields (.fabs mk d a .s) (sign32 false))
  ) ∧
  (
  ∀ (s : State) (mk : Bool) (d a b : Reg) (f : Fmt) (r : Rm),
    let n := match f with | .d => 64 | .s => 32
    let x := (s.rs a).toNat % 2 ^ n
    let y := (s.rs b).toNat % 2 ^ n
    let gives (i : Instr) (v : Nat × Flags) : Prop :=
      (s.thr.fpEn = 0 → Completes s mk 31 0 v.2 (underWay d (BitVec.ofNat 64 v.1)) (exec i s)) ∧
      (s.thr.fpEn ≠ 0 → v.2 &&& s.thr.fpEn = 0 → Completes s mk d (BitVec.ofNat 64 v.1) v.2 [] (exec i s)) ∧
      (v.2 &&& s.thr.fpEn ≠ 0 → exec i s = .next ((s.upd (·.raise v.2)).trap { code := 0x06, tval := v.2.setWidth 64 }))
    (s.OperandsReady [a, b] [d] → gives (.fdiv mk d a b f r) ((fpFmt f).div (s.thr.rmOf r) x y)) ∧
    (s.OperandsReady [a] [d] → gives (.fsqrt mk d a f r) ((fpFmt f).sqrt (s.thr.rmOf r) x))
  )

/-- R197, R358 with HZCTL (R198): for the two-operand forms named, a pending operand or destination takes
the unmarked-hazard trap with the register number in TVAL, or with HZCTL.STALL = 1 stalls the thread at the
instruction and counts the cycles until it issues again or leaves the stall; a poisoned operand takes the poison-consumption trap with the register number. -/
def Obligations.HazardsAndPoison : Prop :=
  ∀ (s : State) (mk : Bool) (d a b r : Reg) (f : Fmt) (m : Rm),
    ∀ i ∈ [Instr.add mk d a b, .sub mk d a b, .and mk d a b, .or mk d a b, .xor mk d a b, .sll mk d a b, .slt mk d a b,
      .mul mk d a b, .div mk d a b, .remu mk d a b, .cmovnz mk d a b, .fadd mk d a b f m, .fsub mk d a b f m,
      .fmul mk d a b f m, .fdiv mk d a b f m, .fcmpq mk d a b f, .fcpsgn mk d a b f],
      let pends (q : Reg) (wr : Bool) : Prop := q ≠ 31 ∧ ∃ p ∈ s.thr.pend, p.reg = q.toNat ∧ p.cls ≠ .mask ∧ (p.who ≠ .writers ∨ wr)
      let first : Prop := (r = a ∧ pends a false) ∨ (r = b ∧ ¬pends a false ∧ pends b false) ∨
        (r = d ∧ ¬pends a false ∧ ¬pends b false ∧ pends d true)
      (first → bits (s.thr.csrGet csrHZCTL) 0 1 = 0 →
        exec i s = .next (s.trap { code := 0x05, tval := BitVec.ofNat 64 r.toNat })) ∧
      (first → bits (s.thr.csrGet csrHZCTL) 0 1 = 1 →
        Answers (exec i s) fun t => s.OnlyThread t ∧ s.thr.SameRegisters t.thr ∧ t.thr.pc = s.thr.pc ∧ t.thr.park = .stalled ∧
          ∀ now, bits ((t.thr.hazSettle now).csrGet csrISSUESTAT) 16 16 =
            min (bits (s.thr.csrGet csrISSUESTAT) 16 16 + (now - s.cycle)) 65535) ∧
      (¬pends a false → ¬pends b false → ¬pends d true →
        ((r = a ∧ a ≠ 31 ∧ NatSet.has s.thr.poison (a.toNat * 128) = true) ∨
          (r = b ∧ b ≠ 31 ∧ (a = 31 ∨ NatSet.has s.thr.poison (a.toNat * 128) = false) ∧
            NatSet.has s.thr.poison (b.toNat * 128) = true)) →
        exec i s = .next (s.trap { code := 0x0B, tval := BitVec.ofNat 64 r.toNat }))

/-- R235 to R238: entry to a trap. The mode taken is M from M or when the cause bit is set in DELEG, and S
otherwise; its registers hold the cause, IE moves to PIE, the mode before to PPRV, VQ says whether a
remainder is held, the thread fetches from the handler, and no register of R211 and no byte of memory
differs. Of the queues only a matrix instruction in the unit stays (R239), and at the tile-unavailable trap the
tile queue (R356). -/
def Obligations.TrapEntry : Prop :=
  ∀ (s : State) (i : TrapInfo) (epc sepc : Word), i.code < 2 ^ 16 → i.batch < 2 ^ 16 →
    let t := s.trapAt s.cur i epc sepc
    let delegated := (s.thr.csrGet csrDELEG).getLsbD ((if i.int then 32 else 0) + i.code % 32)
    let x : Mode := if s.thr.mode = .machine ∨ delegated then .machine else .supervisor
    let ofMode (sn mn : Nat) : Nat := if x = .machine then mn else sn
    let status := t.thr.csrGet (ofMode csrPSTATE csrMPSTATE)
    t.thr.mode = x ∧
    t.thr.csrGet (ofMode csrEPC csrMEPC) = epc ∧ t.thr.csrGet (ofMode csrSEPC csrMSEPC) = sepc ∧
    (let cause := t.thr.csrGet (ofMode csrCAUSE csrMCAUSE);
      cause.getLsbD 63 = i.int ∧ cause.getLsbD 62 = i.st ∧ bits cause 48 14 = 0 ∧ bits cause 32 16 = i.batch ∧
        bits cause 0 32 = i.code) ∧
    t.thr.csrGet (ofMode csrTVAL csrMTVAL) = i.tval ∧
    t.thr.csrGet (ofMode csrTELEM csrMTELEM) = i.telem ∧
    bits status 4 2 = s.thr.mode.code ∧
    bits status 1 1 = bits (s.thr.csrGet (ofMode csrPSTATE csrMPSTATE)) 0 1 ∧ bits status 0 1 = 0 ∧
    (s.thr.vq ++ s.thr.tq.drop (s.inUnit s.cur).length ≠ [] → bits status 8 1 = 1) ∧
    bits status 48 16 = bits (s.thr.csrGet (ofMode csrPSTATE csrMPSTATE)) 48 16 ∧
    t.thr.pc = s.thr.csrGet (ofMode csrTVEC csrMTVEC) &&& ~~~3 ∧
    t.thr.vq = [] ∧
    t.thr.tq = s.inUnit s.cur ++ (if i.code = 0x0C ∧ i.int = false then s.thr.tq.drop (s.inUnit s.cur).length else []) ∧ t.thr.park = .running ∧ s.thr.SameRegisters t.thr ∧
    t.cur = s.cur ∧ (∀ k, k ≠ s.cur → t.thread k = s.thread k) ∧ t.mem = s.mem ∧ ∀ a, t.memByte a = s.memByte a

/-- R303: TRAP takes the environment call with its operand in TVAL and SEPC behind it; BKPT takes the
breakpoint trap, SEPC at it. Both go to S, or to M by DELEG, or to M from M. R302: in U mode the operations that need S or M take the illegal-instruction trap with their word, and
a control register above the thread's mode takes the privileged-register trap with its number (R216). -/
def Obligations.SoftwareTrapsAndPrivilege : Prop :=
  (
  ∀ (s : State) (mk : Bool) (a : Reg), s.thr.inBody = false →
    (s.OperandsReady [a] [] → exec (.trap mk a) s =
      .next (s.trapAt s.cur { code := 0x15, tval := s.rs a } s.thr.pc (s.thr.pc + 4))) ∧
    exec (.bkpt mk) s = .next (s.trapAt s.cur { code := 0x16, tval := 0 } s.thr.pc s.thr.pc) ∧
    ∀ c ∈ [0x15, 0x16], ∀ v p q, (s.trapAt s.cur { code := c, tval := v } p q).thr.mode =
      if s.thr.mode = .machine ∨ (s.thr.csrGet csrDELEG).getLsbD c then .machine else .supervisor
  ) ∧
  (
  ∀ (s : State) (mk : Bool) (d a b : Reg) (c : BitVec 12),
    (s.thr.inBody = false → s.thr.mode = .user →
      ∀ i ∈ [Instr.tret mk, .idle mk, .tfence mk b a, .csave mk b a, .crestore mk b a, .gstop mk d a, .gresume mk d a],
        exec i s = .next (s.trap { code := 0x01, tval := (encode i).setWidth 64 })) ∧
    ∀ p fs, csrInfo c.toNat = some (p, fs) → s.thr.mode.code < p.code →
      ∀ i ∈ [Instr.crd mk d c, .cwr mk a c, .cset mk d a c, .cclr mk d a c],
        exec i s = .next (s.trap { code := 0x04, tval := c.setWidth 64 })
  )

/-- R304, R241, R295: TRET in S or M, outside a loop body and with the handler's own queues empty, completes. The mode
becomes PPRV, IE becomes PIE, PIE one and PPRV zero, and the thread goes on at SEPC, or behind EPC after a stream
fault; a saved loop is reinstated under its slot's pattern, or dropped with its registers zero; a remainder that VQ
announces goes back to the queues, and VQ clears. Queues that run at once (`ahead`, log entry 1) then run, unless an interrupt is
taken first (R310); with instructions of the handler still queued TRET waits for them; in S with PPRV = 3 it is an
illegal instruction. -/
def Obligations.TrapReturn : Prop :=
  ∀ (s : State) (mk : Bool), s.thr.inBody = false → s.thr.mode ≠ .user →
    let m : Bool := decide (s.thr.mode = .machine)
    let pick (sn mn : Nat) : Nat := if m then mn else sn
    let status := s.thr.csrGet (pick csrPSTATE csrMPSTATE)
    let saved := if m then s.thr.loopM else s.thr.loopS
    let held := if m then s.thr.remM else s.thr.remS
    (s.thr.mode = .supervisor → bits status 4 2 = 3 →
      exec (.tret mk) s = .next (s.trap { code := 0x01, tval := (encode (.tret mk)).setWidth 64 })) ∧
    ((s.thr.mode = .supervisor → bits status 4 2 ≠ 3) → s.thr.vq ≠ [] ∨ s.thr.tq ≠ [] → exec (.tret mk) s = .next (s.parkAs .system)) ∧
    ((s.thr.mode = .supervisor → bits status 4 2 ≠ 3) → s.thr.vq = [] → s.thr.tq = [] → ∃ t : State,
      exec (.tret mk) s = .next (if t.thr.interruptible && t.thr.intCode.isSome then t.takeInterrupt t.cur else t.runQueues) ∧
      (t.thr.intCode = none → bits status 8 1 = 0 ∨ s.ahead = true → exec (.tret mk) s = .next t) ∧
      s.OnlyThread t ∧ s.thr.SameRegisters t.thr ∧
      t.thr.mode = (if bits status 4 2 = 0 then .user else if bits status 4 2 = 3 then .machine else .supervisor) ∧
      bits (t.thr.csrGet (pick csrPSTATE csrMPSTATE)) 0 1 = bits status 1 1 ∧
      bits (t.thr.csrGet (pick csrPSTATE csrMPSTATE)) 1 1 = 1 ∧
      bits (t.thr.csrGet (pick csrPSTATE csrMPSTATE)) 4 2 = 0 ∧
      bits (t.thr.csrGet (pick csrPSTATE csrMPSTATE)) 8 1 = 0 ∧
      t.thr.pc = (if (s.thr.csrGet (pick csrCAUSE csrMCAUSE)).getLsbD 62 then s.thr.csrGet (pick csrEPC csrMEPC) + 4
        else s.thr.csrGet (pick csrSEPC csrMSEPC)) ∧
      (bits status 8 1 = 0 → t.thr.vq = [] ∧ t.thr.tq = []) ∧
      (bits status 8 1 = 1 → t.thr.vq.length + t.thr.tq.length = held.length ∧ (if m then t.thr.remM else t.thr.remS) = []) ∧
      (saved = none → t.thr.loop = s.thr.loop) ∧
      ∀ l, saved = some l →
        (if m then t.thr.loopM else t.thr.loopS) = none ∧
        (∀ p, s.thr.slotPat l.p = some p → patCount p < 2 ^ 32 → l.pass < patCount p →
          t.thr.loop = some { l with pat := p } ∧ t.thr.OnPass p l.pass) ∧
        ((∀ p, s.thr.slotPat l.p = some p → 2 ^ 32 ≤ patCount p ∨ patCount p ≤ l.pass) →
          t.thr.loop = none ∧ ∀ n, csrLIX0 ≤ n → n ≤ csrLOFF → t.thr.csrGet n = 0))

/-- R305, R306, R35: IDLE completes while an interrupt is pending for the thread and parks it otherwise;
IFENCE drops every instruction line of the cell; TFENCE drains the cell's stores and posts a fence of its
operands, and completes when that fence has gone out and every comb has acknowledged it. -/
def Obligations.IdleAndFences : Prop :=
  ∀ (s : State) (mk : Bool) (a b : Reg), s.thr.inBody = false →
    (s.thr.mode ≠ .user → s.thr.anyInt = true → Completes s mk 31 0 0 [] (exec (.idle mk) s)) ∧
    (s.thr.mode ≠ .user → s.thr.anyInt = false → Answers (exec (.idle mk) s) fun t => s.OnlyThread t ∧
      ({ t.thr with park := s.thr.park } : Thread) = s.thr ∧ t.thr.park = .idle) ∧
    (s.thr.fwd ≠ .follower → Answers (exec (.ifence mk) s) fun t => s.OthersKept t ∧ Completed s t mk 31 0 0 [] ∧
      t.cl.icache = [] ∧ ({ t.cl with icache := s.cl.icache } : Cell) = s.cl) ∧
    (s.thr.mode ≠ .user → s.OperandsReady [a, b] [] →
      (∀ f, s.fences.find? (fun f => decide (f.slot = s.cur)) = some f → f.sent = true → f.waiting = [] →
        Answers (exec (.tfence mk b a) s) fun t => s.OthersKept t ∧ Completed s t mk 31 0 0 [] ∧
          t.fences = s.fences.filter fun f => decide (f.slot ≠ s.cur)) ∧
      ((∀ f ∈ s.fences, f.slot ≠ s.cur) → tfenceBad (s.rs b) = false → s.Released psLS .module →
        Answers (exec (.tfence mk b a) s) fun t => t.thr.pc = s.thr.pc ∧ t.thr.park = .tfence ∧
          t.fences = (s.drainAll s.cc).fences ++ [⟨s.cur, s.rs a, s.rs b, false, [], []⟩] ∧ t.mem = (s.drainAll s.cc).mem))

/-- R309, R251 to R254: CSAVE and CRESTORE of a slot whose gang is stopped in place, other than the issuing thread's own.
Once what the thread stored before is performed and nothing of the slot is under way, CSAVE writes the slot's image
at the operand's address; CRESTORE, an acquire, reads the image back, checks it, restores the slot from it and takes
the late flags. In M mode on memory without errors both complete: CSAVE leaves the image's words in memory and every
other byte and thread as before; CRESTORE leaves the slot's thread as the image says, resident, with the late flags
in FPFLG, and LATE zero. -/
def Obligations.ImageSaveAndRestore : Prop :=
  ∀ (s : State) (mk : Bool) (a b : Reg), s.thr.inBody = false → s.thr.mode ≠ .user → s.OperandsReady [a, b] [] →
    let slot := s.slotOf (s.rs b)
    let va := s.rs a
    let member := bits (s.rs b) 17 47 = 0 ∧ (s.thread slot).live = true ∧ slot ≠ s.cur ∧
      ∃ id, (s.thread slot).gang = some id ∧ s.stopped.any (fun e => decide (e.2.inPlace = some id)) = true
    let goesOn (t : State) : Prop := s.thr.loop = none → t.thr.pc = s.thr.pc + 4
    let inMemory (q : State) (n : Nat) : Prop := s.thr.mode = .machine ∧ q.NoErrors ∧ ∀ i, i < n → q.region (va.toNat + i) = .hbm
    member → va.toNat % 128 = 0 → s.Released psLS .module →
    (let q := (s.drainAll s.cc).quiesce slot
     let img := q.image slot none 0
     q.saveWaits slot = false →
     (q.lateCount slot = 0 → inMemory q (8 * img.length) →
       (∀ e, q.ctxEntry (bits ((q.thread slot).csrGet csrPSTATE) 48 16) = some e → e.home (q.thread slot).rank ≠ va.toNat) →
       Answers (exec (.csave mk b a) s) fun t => goesOn t ∧
         (∀ i, i < img.length → t.memRead (va.toNat + 8 * i) 8 = (img.getD i (0, false)).1 % 2 ^ 64) ∧
         (∀ p, (p < va.toNat ∨ va.toNat + 8 * img.length ≤ p) → t.memByte p = q.memByte p) ∧
         ∀ k, k ≠ s.cur → t.thread k = q.thread k) ∧
     ∀ r0 ls, q.wordLocs .write va img.length = (r0, some ls) →
       let r := r0.touchCtx (bits ((r0.thread slot).csrGet csrPSTATE) 48 16)
       (r.isHome slot (ls.headD []) = none → r.lateCount slot = 0 →
         exec (.csave mk b a) s = .next (((r.poolRead9 slot).putImage ls img).advance mk)) ∧
       ∀ e, r.isHome slot (ls.headD []) = some e → exec (.csave mk b a) s = .next ((r.saveHome slot e).advance mk)) ∧
    (let q := (s.drainAll s.cc).acquire s.cur psLS .module
     (let n := q.memRead (va.toNat + 24) 4 / 8
      let ws : List IWord := (List.range n).map fun i => (q.memRead (va.toNat + 8 * i) 8, false)
      let late := q.memRead (va.toNat + 32) 8
      inMemory q (8 * n) → late / 2 ^ 32 = 0 →
      ∀ l, q.checkImage slot false ws = .ok l →
      (ws.getD 5 (0, false)).1 % 65536 = (match q.gangOf slot with | some g => g.desc.ctx | none => 0) →
      Answers (exec (.crestore mk b a) s) fun t => goesOn t ∧
        t.thread slot = { ((q.restoreImage slot l).thread slot).raise (BitVec.ofNat 7 late) with resident := true } ∧
        t.memRead (va.toNat + 32) 8 = 0 ∧
        (∀ p, (p < va.toNat + 32 ∨ va.toNat + 40 ≤ p) → t.memByte p = q.memByte p) ∧
        ∀ k, k ≠ s.cur → k ≠ slot → t.thread k = q.thread k) ∧
     ∀ h hd r ws l u ls, q.readImage va 4 = (h, some hd) → imageHeadBad hd = false →
       h.readImage va ((hd.getD 3 (0, false)).1 % 2 ^ 32 / 8) = (r, some ws) →
       r.checkImage slot (decide (r.mode = .supervisor)) ws = .ok l →
       (ws.getD 5 (0, false)).1 % 65536 = (match r.gangOf slot with | some g => g.desc.ctx | none => 0) →
       let x := r.restoreImage slot l
       x.access x.cur x.thr.xlate pathFA .far (va + 32) 8 = .ok u ls →
       let v := u.unitRead u.cc u.mode ls
       v.1 / 2 ^ 32 = 0 →
       exec (.crestore mk b a) s = .next (((v.2.2.unitWrite u.cur u.mode ls 0 false).updThread slot fun t =>
         { t.raise (BitVec.ofNat 7 v.1) with resident := true }).advance mk))

/-- R307, R247: GSTOP of a live slot of another gang that is not stopped stops every member of it in place,
records the stop and writes status 0; with the save bit the members are quiesced and the gang is saved to
its image area and leaves its cells; a slot without a live thread gives status 1, and one whose gang was saved in
this cycle status 0 (R310). R308, R249: GRESUME of a context that no gang is stopped under gives status 1; of a gang stopped in
place it lets every member run again, of a saved one it puts the launch back at the head of its queue, and
both give status 0. -/
def Obligations.GangStopAndResume : Prop :=
  (
  ∀ (s : State) (mk : Bool) (d a : Reg), s.thr.inBody = false → s.thr.mode ≠ .user → s.OperandsReady [a] [d] →
    let w := s.rs a
    let slot := s.slotOf w
    bits w 17 47 = 0 →
    (s.savedNow slot = true → Completes s mk d 0 0 [] (exec (.gstop mk d a) s)) ∧
    (s.savedNow slot = false → (s.thread slot).live = false → Completes s mk d 1 0 [] (exec (.gstop mk d a) s)) ∧
    ∀ id g, s.savedNow slot = false → (s.thread slot).live = true → (s.thread slot).gang = some id →
      Sparse.find? id s.gangs = some g → s.thr.gang ≠ some id → s.cur ∉ g.liveSlots →
      g.victim = none → g.stopped = false → g.stops = [] → s.stoppedNow id g.desc.ctx = false →
      s.ctxStopped g.desc.ctx = false → s.stopWaits g = false →
      (w.getLsbD 16 = false → g.saving = false →
        Answers (exec (.gstop mk d a) s) fun t => t.rs d = 0 ∧
          (∀ x ∈ g.liveSlots, (t.thread x).stopped = true) ∧
          ∃ q, Sparse.find? g.desc.ctx t.stopped = some q ∧ q.inPlace = some id) ∧
      (w.getLsbD 16 = true → (s.ctxEntry g.desc.ctx).isSome = true →
        let g0 : Gang := { g with stops := [(s.cur, d.toNat, mk)], saving := true }
        let u := g.liveSlots.foldl State.quiesce
          ((((s.touchCtx g.desc.ctx).parkAs .system).updGang id fun _ => g0).stopGang id g0)
        let h := (Sparse.find? id u.gangs).getD g0
        g.liveSlots.any u.saveWaits = false → (u.ctxEntry g.desc.ctx).isSome = true →
        exec (.gstop mk d a) s = .next (u.saveStopped id h) ∧
        Answers (exec (.gstop mk d a) s) fun t => t.rs d = 0 ∧ Sparse.find? id t.gangs = none ∧
          (∀ x ∈ g.liveSlots, (t.thread x).live = false) ∧
          ∃ q, Sparse.find? g.desc.ctx t.stopped = some q ∧ q.inPlace = none ∧ q.launch.resumed = true ∧
            q.launch.desc = { g.desc with wv := false })
  ) ∧
  (
  ∀ (s : State) (mk : Bool) (d a : Reg), s.thr.inBody = false → s.thr.mode ≠ .user → s.OperandsReady [a] [d] →
    let w := s.rs a
    bits w 16 48 = 0 →
    (Sparse.find? w.toNat s.stopped = none → Completes s mk d 1 0 [] (exec (.gresume mk d a) s)) ∧
    ∀ x, Sparse.find? w.toNat s.stopped = some x →
      (∀ id g, x.inPlace = some id → Sparse.find? id s.gangs = some g →
        Answers (exec (.gresume mk d a) s) fun t => t.rs d = 0 ∧ Sparse.find? w.toNat t.stopped = none ∧
          (∀ y ∈ g.liveSlots, (t.thread y).stopped = false) ∧
          ∃ g', Sparse.find? id t.gangs = some g' ∧ g'.stopped = false) ∧
      (x.inPlace = none →
        exec (.gresume mk d a) s = .next
          ((((({ s with stopped := Sparse.erase w.toNat s.stopped } : State).requeueLaunch
            (unitOf x.launch.desc.level (frameOfComb (combOf s.cc))) x.launch)).ws d 0).advance mk))
  )

/-- R264: the address of a load or store: base plus a signed 11-bit offset, or base plus an index register
shifted by 0 to 3, index 31 being LOFF; the address is formed in 64 bits and wraps. R11, R12, R17, R20: which addresses fault, in any mode and for any access: a fetch from a window, another
access to a window address past its bytes or by a user to the supervisor window, an address that is not canonical, a
user access to the supervisor half, and in M mode an address of 2^52 or above. Each names its cause. R38, R239, R357: a load or store whose address faults takes that trap, with nothing performed. -/
def Obligations.AddressesAndFaults : Prop :=
  (
  ∀ (t : Thread) (a : Word) (j : BitVec 11) (x : Reg) (n : BitVec 2),
    t.ea a (0#1 ++ j) = a + j.signExtend 64 ∧
    t.ea a (1#1 ++ x ++ n ++ 0#4) = a + (if x = 31 then t.csrGet csrLOFF else t.readS x) <<< n.toNat
  ) ∧
  (
  ∀ (s : State) (c : Nat) (x : Xlate) (path : Nat) (k : AccKind) (va : Word) (n : Nat), 0 < n →
    n ≤ 65536 - va.toNat % 65536 →
    let faults (code : Nat) : Prop := ∃ f, s.resolve c x path k va n = .fault s f ∧ f.code = code ∧ f.tval = va
    (k = .exec → windowOf va ≠ none → faults 0x08) ∧
    (k ≠ .exec → winUser ≤ va.toNat → va.toNat < winUser + 2 ^ 44 → (s.cell c).spadBytes < va.toNat - winUser + n → faults 0x07) ∧
    (k ≠ .exec → winSup ≤ va.toNat → x.mode = .user → faults 0x08) ∧
    (k ≠ .exec → winSup ≤ va.toNat → x.mode ≠ .user → 0x8000 < va.toNat - winSup + n → faults 0x07) ∧
    (x.mode ≠ .machine → windowOf va = none → canonical va = false → faults 0x07) ∧
    (x.mode = .user → windowOf va = none → canonical va = true → va.getLsbD 54 = true → faults 0x08) ∧
    (x.mode = .machine → windowOf va = none → 2 ^ 52 ≤ va.toNat → faults 0x07)
  ) ∧
  (
  ∀ (s u : State) (mk : Bool) (d a b : Reg) (w : Width) (imm : BitVec 12) (f : AccFault),
    let va := s.thr.ea (s.rs a) imm
    s.thr.lsBusy va (widthBytes w) = false →
    (s.OperandsReady (a :: eaReads imm) [d] →
      s.access s.cur s.thr.xlate pathLS .read va (widthBytes w) = .fault u f →
      exec (.ld mk d a w imm) s = .next (u.trap { code := f.code, tval := f.tval, xlsyn := some f.xlsyn }) ∧
      exec (.ldu mk d a w imm) s = .next (u.trap { code := f.code, tval := f.tval, xlsyn := some f.xlsyn })) ∧
    (s.OperandsReady (b :: a :: eaReads imm) [] →
      s.access s.cur s.thr.xlate pathLS .write va (widthBytes w) = .fault u f →
      exec (.st mk b a w imm) s = .next (u.trap { code := f.code, tval := f.tval, xlsyn := some f.xlsyn }))
  )

/-- R12, R17, R264, R357: loads and stores of the local window. A load of every width reaches the pool of its
own cell, little-endian, and sends the extended value on its way (nothing with d = 31); a store of every width
puts the low bytes of its operand there and changes no other byte of the pool and none of memory. A misaligned one
whose bytes are events of their own (R127, log entry 124) loads or stores one byte a step, and stays at its instruction until the last. -/
def Obligations.ScratchpadLoadsAndStores : Prop :=
  ∀ (s : State) (mk : Bool) (d a b : Reg) (w : Width) (imm : BitVec 12),
    let n := widthBytes w
    let va := s.thr.ea (s.rs a) imm
    let o := va.toNat - winUser
    winUser ≤ va.toNat → va.toNat < winUser + 2 ^ 44 → o + n ≤ s.cl.spadBytes →
    s.thr.lsBusy va n = false → s.afterQueue (locsFrom (.own o) n) = false → s.PoolQuiet →
    (s.byBytes va n = true → s.OperandsReady (a :: eaReads imm) [d] → s.poolPoisoned s.cc o n = false →
      let p := s.thr.partOf va n false
      let v := p.val + (s.poolByte s.cc (o + p.done)).toNat * 2 ^ (8 * p.done)
      (p.done + 1 < n → ∀ i ∈ [Instr.ld mk d a w imm, .ldu mk d a w imm], Answers (exec i s) fun t =>
        s.OthersKept t ∧ s.thr.SameRegisters t.thr ∧ t.thr.pc = s.thr.pc ∧ t.thr.park = .stalled ∧
          t.thr.part = some { p with done := p.done + 1, val := v }) ∧
      (p.done + 1 = n → Answers (exec (.ldu mk d a w imm) s) fun t =>
        s.OthersKept t ∧ s.thr.SameRegisters t.thr ∧ (s.thr.loop = none → t.thr.pc = s.thr.pc + 4) ∧
          (p.pois = false → d ≠ 31 → t.thr.pend = s.thr.pend ++ underWay d ((BitVec.ofNat (8 * n) v).setWidth 64)))) ∧
    (s.byBytes va n = true → s.OperandsReady (b :: a :: eaReads imm) [] →
      let p := s.thr.partOf va n true
      p.done < n → Answers (exec (.st mk b a w imm) s) fun t => s.OthersKept t ∧ s.thr.SameRegisters t.thr ∧
        t.poolByte s.cc (o + p.done) = (s.rs b).extractLsb' (8 * p.done) 8 ∧
        (∀ q, q ≠ o + p.done → t.poolByte s.cc q = s.poolByte s.cc q) ∧
        (p.done + 1 < n → t.thr.pc = s.thr.pc ∧ t.thr.park = .stalled ∧ t.thr.part = some { p with done := p.done + 1 }) ∧
        (p.done + 1 = n → (s.thr.loop = none → t.thr.pc = s.thr.pc + 4) ∧ t.thr.part = none)) ∧
    (s.byBytes va n = false → s.OperandsReady (a :: eaReads imm) [d] → s.poolPoisoned s.cc o n = false →
      let x : BitVec (8 * n) := BitVec.ofNat (8 * n) (s.poolRead s.cc o n)
      let sent (v : Word) : List Pend := if d = 31 then [] else underWay d v
      Completes s mk 31 0 0 (sent (x.signExtend 64)) (exec (.ld mk d a w imm) s) ∧
      Completes s mk 31 0 0 (sent (x.setWidth 64)) (exec (.ldu mk d a w imm) s)) ∧
    (s.byBytes va n = false → s.OperandsReady (b :: a :: eaReads imm) [] →
      Answers (exec (.st mk b a w imm) s) fun t => s.OthersKept t ∧ Completed s t mk 31 0 0 [] ∧
        (∀ i, i < n → t.poolByte s.cc (o + i) = (s.rs b).extractLsb' (8 * i) 8) ∧
        (∀ q, (q < o ∨ o + n ≤ q) → t.poolByte s.cc q = s.poolByte s.cc q) ∧
        ∀ c, c ≠ s.cc → t.cell c = s.cell c)

/-- R49, R51, R53, R357: a store into NORMAL or NORMAL-NC memory, within a line and with a free entry in the
write-combining buffer, which holds at most one entry of the line and none of NORMAL-NC stores, no near atomic to the
line being under way, is what the cell
then holds of its bytes for loads, and it holds every other byte as before, and every byte at its home is as
before. -/
def Obligations.NormalStores : Prop :=
  ∀ (s u : State) (mk : Bool) (a b : Reg) (w : Width) (imm : BitVec 12) (pa : Nat) (ty : MemType),
    let n := widthBytes w
    let va := s.thr.ea (s.rs a) imm
    s.OperandsReady (b :: a :: eaReads imm) [] → s.thr.lsBusy va n = false →
    s.access s.cur s.thr.xlate pathLS .write va n = .ok u (locsFrom (.mem pa ty) n) → ty ≠ .device →
    u.byBytes va n = false → u.thr.nearBusy (locsFrom (.mem pa ty) n) = false →
    pa % 128 + n ≤ 128 → u.cl.wcb.length < 16 → (∀ e ∈ u.cl.wcb, e.nc = false) →
    (u.cl.wcb.filter fun e => decide (e.line = pa / 128)).length ≤ 1 →
    Answers (exec (.st mk b a w imm) s) fun t => t.thr.pc = u.thr.stepPc.pc ∧ u.thr.SameRegisters t.thr ∧
      (∀ i, i < n → (t.nearByte s.cc (pa + i) ty).map (·.1) = some ((s.rs b).extractLsb' (8 * i) 8)) ∧
      (∀ q, (q < pa ∨ pa + n ≤ q) → (t.nearByte s.cc q ty).map (·.1) = (u.nearByte s.cc q ty).map (·.1)) ∧
      ∀ q, t.memByte q = u.memByte q

/-- R145, R359: LDA and STL of an address that is not naturally aligned are illegal operands with the address
in TVAL. With an aligned address in the local window at `.cell` scope they act as LD and ST of the address in
their register do, STL once the thread's earlier queued accesses are performed. LDP reads two words and sends
each to its register, and is counted as deprecated (R266). -/
def Obligations.OrderedAndPairedAccesses : Prop :=
  ∀ (s : State) (mk : Bool) (d a b : Reg) (w : Width) (c : Scope) (imm : BitVec 12),
    let n := widthBytes w
    let va := s.rs a
    let o := va.toNat - winUser
    (s.OperandsReady [a] [d] → va.toNat % n ≠ 0 →
      exec (.lda mk d a c w) s = .next (s.trap { code := 0x02, tval := va })) ∧
    (s.OperandsReady [a, b] [] → va.toNat % n ≠ 0 →
      exec (.stl mk a b c w) s = .next (s.trap { code := 0x02, tval := va })) ∧
    (winUser ≤ va.toNat → va.toNat < winUser + 2 ^ 44 → o + n ≤ s.cl.spadBytes → va.toNat % n = 0 → s.PoolQuiet →
      (s.OperandsReady [a] [d] → s.poolPoisoned s.cc o n = false → s.thr.lsBusy va n = false →
        s.afterQueue (locsFrom (.own o) n) = false →
        Completes s mk 31 0 0
          (if d = 31 then [] else underWay d ((BitVec.ofNat (8 * n) (s.poolRead s.cc o n)).signExtend 64))
          (exec (.lda mk d a .cell w) s)) ∧
      (s.OperandsReady [a, b] [] → s.Released psLS .cell → s.thr.lsBusy va n = false →
        Answers (exec (.stl mk a b .cell w) s) fun t => s.OthersKept t ∧ Completed s t mk 31 0 0 [] ∧
          (∀ i, i < n → t.poolByte s.cc (o + i) = (s.rs b).extractLsb' (8 * i) 8) ∧
          ∀ q, (q < o ∨ o + n ≤ q) → t.poolByte s.cc q = s.poolByte s.cc q)) ∧
    (let v2 := s.rs a + 8 * imm.signExtend 64
     let p := v2.toNat - winUser
     (d.toNat % 2 = 1 ∨ 28 < d.toNat → exec (.ldp mk d a imm) s = .next (s.illegal (encode (.ldp mk d a imm)))) ∧
     (d.toNat % 2 = 0 → d.toNat ≤ 28 → s.OperandsReady [a] [d, d + 1] → winUser ≤ v2.toNat →
      v2.toNat < winUser + 2 ^ 44 → p + 16 ≤ s.cl.spadBytes → s.thr.lsBusy v2 16 = false → s.PoolQuiet →
      s.afterQueue (locsFrom (.own p) 16) = false → s.poolPoisoned s.cc p 16 = false →
      let ctx := bits (s.thr.csrGet csrPSTATE) 48 16
      (Sparse.getD s.depcnt ctx 0).getLsbD 63 = false →
      Answers (exec (.ldp mk d a imm) s) fun t => s.OthersKept t ∧
        Completed s t mk 31 0 0 (underWay d (BitVec.ofNat 64 (s.poolRead s.cc p 8)) ++
          underWay (d + 1) (BitVec.ofNat 64 (s.poolRead s.cc (p + 8) 8))) ∧
        bits (Sparse.getD t.depcnt ctx 0) 0 32 = min (bits (Sparse.getD s.depcnt ctx 0) 0 32 + 1) (2 ^ 32 - 1)))

/-- R360, R361: the new value of each atomic, and whether it is written, on old value `x`, operand `y` and
comparison value `z`. -/
def Obligations.AtomicOperations : Prop :=
  ∀ (w : Nat) (rm : RoundMode) (x y z : BitVec w), 0 < w →
    let op (o : AmoOp) : Nat × Flags × Bool := amoApply o w rm x.toNat y.toNat z.toNat
    op .add = ((x + y).toNat, 0, true) ∧ op .swap = (y.toNat, 0, true) ∧
    op .cas = (if x = z then (y.toNat, 0, true) else (x.toNat, 0, false)) ∧
    op .and = ((x &&& y).toNat, 0, true) ∧ op .or = ((x ||| y).toNat, 0, true) ∧ op .xor = ((x ^^^ y).toNat, 0, true) ∧
    op .min = ((if x.sle y then x else y).toNat, 0, true) ∧ op .max = ((if x.sle y then y else x).toNat, 0, true) ∧
    op .minu = ((if x.ule y then x else y).toNat, 0, true) ∧ op .maxu = ((if x.ule y then y else x).toNat, 0, true)

/-- R145, R361, R362: the near atomics on the local window, under every annotation and scope, once a release among
them has nothing to wait for and nothing to drain. The old value is on its way to the destination (sign-extended for
.w; nothing with d = 31), the pool holds the new value, unchanged by a comparison that fails, no other byte of the
pool and none of memory changes. Without enabled flags AMOFADD is of class P and its flags come with the result; with
a flag enabled it writes its destination itself, or takes the floating-point exception trap. R85, R106, R143, R145, R361: the far atomics on memory, under every annotation and scope, once a release among
them has nothing to wait for and no store of the thread to the line is under way. The request leaves with its
operands for the home of the line, and the result pends under the request's number; no register and no byte of
memory changes until it is performed there. -/
def Obligations.NearAndFarAtomics : Prop :=
  (
  ∀ (s : State) (mk : Bool) (d a b : Reg) (wide : Bool) (an : Ann) (c : Scope),
    let va := s.rs a
    let o := va.toNat - winUser
    winUser ≤ va.toNat → va.toNat < winUser + 2 ^ 44 → s.PoolQuiet →
    (annRel an = true → s.Released psLS c ∧ (c ≠ .cell → s.cl.wcb = [])) →
    let rm := fpRmOf (s.thr.csrGet csrFPCTL)
    let acts (i : Instr) (op : AmoOp) (n : Nat) : Prop :=
      s.OperandsReady (if op = .cas then [a, b, d] else [a, b]) [d] →
      va.toNat % n = 0 → o + n ≤ s.cl.spadBytes → s.poolPoisoned s.cc o n = false → s.thr.lsBusy va n = false →
      s.afterQueue (locsFrom (.own o) n) = false →
      let old := s.poolRead s.cc o n
      let r := amoApply op (8 * n) rm old (s.rs b).toNat (s.rs d).toNat
      let x : Word := if n = 4 ∧ op ≠ .fadd then (BitVec.ofNat 32 old).signExtend 64 else BitVec.ofNat 64 old
      let stored (t : State) : Prop := t.poolRead s.cc o n = (if r.2.2 then r.1 % 2 ^ (8 * n) else old) ∧
        ∀ q, (q < o ∨ o + n ≤ q) → t.poolByte s.cc q = s.poolByte s.cc q
      (op ≠ .fadd ∨ s.thr.fpEn = 0 → Answers (exec i s) fun t => s.OthersKept t ∧ stored t ∧
        Completed s t mk 31 0 (if d = 31 then r.2.1 else 0)
          (if d = 31 then [] else [⟨.scalar, d.toNat, .all, some x, false, r.2.1, none, none, va, none⟩])) ∧
      (op = .fadd → s.thr.fpEn ≠ 0 → r.2.1 &&& s.thr.fpEn = 0 → Answers (exec i s) fun t => s.OthersKept t ∧ stored t ∧
        Completed s t mk d x r.2.1 []) ∧
      (op = .fadd → r.2.1 &&& s.thr.fpEn ≠ 0 → annRel an = false →
        Answers (exec i s) fun t => s.OthersKept t ∧ t.poolRead s.cc o n = old ∧ t.thr.mode = s.thr.trapMode { code := 0x06 } ∧
          t.thr.csrGet (if t.thr.mode = .machine then csrMTVAL else csrTVAL) = r.2.1.setWidth 64)
    let k := if wide then 8 else 4
    acts (.amoadd mk d a b wide an c) .add k ∧ acts (.amoswap mk d a b wide an c) .swap k ∧
    acts (.amocas mk d a b wide an c) .cas k ∧ acts (.amoand mk d a b an c) .and 8 ∧
    acts (.amoor mk d a b an c) .or 8 ∧ acts (.amoxor mk d a b an c) .xor 8 ∧
    acts (.amomin mk d a b an c) .min 8 ∧ acts (.amomax mk d a b an c) .max 8 ∧
    acts (.amominu mk d a b an c) .minu 8 ∧ acts (.amomaxu mk d a b an c) .maxu 8 ∧
    acts (.amofaddS mk d a b an c) .fadd 4 ∧ acts (.amofaddD mk d a b an c) .fadd 8
  ) ∧
  (
  ∀ (s u : State) (mk : Bool) (d a b : Reg) (wide : Bool) (an : Ann) (c : Scope) (pa : Nat) (ty : MemType),
    let va := s.rs a
    (annRel an = true → s.Released psFA c) → s.thr.lsBusy (BitVec.ofNat 64 (va.toNat / 128 * 128)) 128 = false →
    let acts (i : Instr) (op : AmoOp) (n : Nat) : Prop :=
      s.OperandsReady (if op = .cas then [a, b, d] else [a, b]) [d] → va.toNat % n = 0 →
      s.access s.cur s.thr.xlate pathFA .far va n = .ok u (locsFrom (.mem pa ty) n) →
      (∀ e ∈ u.cl.wcb, e.line ≠ pa / 128) → u.writeWaits (combOf s.cc) (pa / 128) = false →
      Answers (exec i s) fun t =>
        t.thr.pend = s.thr.pend ++ [⟨.scalar, d.toNat, .all, none, false, 0, some u.nextTag, none, va, none⟩] ∧
        (∃ p ∈ t.packets, p.op = .faop ∧ p.line = pa / 128 ∧ p.comb = combOf s.cc ∧ ∃ q, p.nc = some q ∧ q.tag = u.nextTag ∧
          q.who = .scalar s.cur ∧ q.addr = pa ∧ q.n = n ∧ q.aop % 16 = amoCode op ∧ q.val = s.rs b ∧ q.cmpv = s.rs d) ∧
        s.thr.SameRegisters t.thr ∧ (s.thr.loop = none → t.thr.pc = s.thr.pc + 4) ∧
        (∀ j, j ≠ s.cur → t.thread j = s.thread j) ∧ ∀ q, t.memByte q = u.memByte q
    let k := if wide then 8 else 4
    acts (.famoadd mk d a b wide an c) .add k ∧ acts (.famoswap mk d a b wide an c) .swap k ∧
    acts (.famocas mk d a b wide an c) .cas k ∧ acts (.famoand mk d a b an c) .and 8 ∧
    acts (.famoor mk d a b an c) .or 8 ∧ acts (.famoxor mk d a b an c) .xor 8 ∧
    acts (.famomin mk d a b an c) .min 8 ∧ acts (.famomax mk d a b an c) .max 8 ∧
    acts (.famominu mk d a b an c) .minu 8 ∧ acts (.famomaxu mk d a b an c) .maxu 8 ∧
    acts (.famofaddS mk d a b an c) .fadd 4 ∧ acts (.famofaddD mk d a b an c) .fadd 8
  )

/-- R140, R145, R363, R270: fences, once their release has nothing to wait for and, but for FENCEL, the events before it on
its paths, reads among them, have been performed. At `.cell` scope they only complete; at wider scopes an LS release drains the cell's
stores and an LS acquire drops its L1 lines. FENCEALL does both at `.system`, and is counted as deprecated. R267 to R269: hints. An unassigned hint does nothing but go on. A prefetch of an unmapped address, of a
pending base or in M mode does no more; one of a mapped line asks for it, and changes no register and no
byte of memory. -/
def Obligations.FencesAndHints : Prop :=
  (
  ∀ (s : State) (mk : Bool) (p q : BitVec 5) (c : Scope),
    let acts (i : Instr) (rel acq : BitVec 5) : Prop :=
      (c = .cell → Completes s mk 31 0 0 [] (exec i s)) ∧
      (c ≠ .cell → Answers (exec i s) fun t => (s.thr.loop = none → t.thr.pc = s.thr.pc + 4) ∧
        (∀ k, (s.thread k).SameRegisters (t.thread k)) ∧
        (rel.getLsbD 0 = true → t.cl.wcb = [] ∧ t.mem = (s.drainAll s.cc).mem) ∧
        (rel.getLsbD 0 = false → t.mem = s.mem) ∧
        (acq.getLsbD 0 = true → t.cl.l1 = []))
    (s.underWay s.cur p = false → acts (.fencea mk p c) 0 p) ∧
    (s.Released p c → acts (.fencel mk p c) p 0) ∧
    (s.underWay s.cur p = false → s.Released p c → acts (.fence mk p c) p p ∧ acts (.xfence mk p q c) p q) ∧
    (s.underWay s.cur psAll = false → s.Released psAll .system → Answers (exec (.fenceall mk) s) fun t => (∀ k, (s.thread k).SameRegisters (t.thread k)) ∧
      (s.thr.loop = none → t.thr.pc = s.thr.pc + 4) ∧ t.cl.wcb = [] ∧ t.cl.l1 = [] ∧ t.mem = (s.drainAll s.cc).mem ∧
      bits (Sparse.getD t.depcnt (bits (s.thr.csrGet csrPSTATE) 48 16) 0) 0 32 =
        min (bits (Sparse.getD s.depcnt (bits (s.thr.csrGet csrPSTATE) 48 16) 0) 0 32 + 1) (2 ^ 32 - 1))
  ) ∧
  (
  ∀ (s : State) (mk : Bool) (a : Reg) (imm : BitVec 12) (body : BitVec 31),
    Completes s mk 31 0 0 [] (exec (.hintNop mk body) s) ∧
    ∀ i ∈ [Instr.hpfL1 mk a imm, .hpfS mk a imm, .hpfSx mk a imm],
      (s.thr.mode = .machine → Completes s mk 31 0 0 [] (exec i s)) ∧
      Answers (exec i s) fun t => s.OthersKept t ∧ Completed s t mk 31 0 0 []
  )

/-- R301, R216: a read of a control register. The destination gets the register's readable fields and zeros
elsewhere; for a register marked P in R217 the value is on its way instead (R195), and its RC fields are
then zero. -/
def Obligations.ControlRegisterReads : Prop :=
  ∀ (s : State) (mk : Bool) (d : Reg) (c : BitVec 12) (p : Mode) (fs : List Field),
    csrInfo c.toNat = some (p, fs) → p.code ≤ s.thr.mode.code → s.OperandsReady [] [d] → s.thr.vq = [] → s.thr.tq = [] →
    (∀ acc i, tileOfCsr c.toNat = some (acc, i) → i < s.cl.tileCount acc s.ct ∧ s.thr.tileUnavailable = false) →
    let v := s.csrView c.toNat
    let x := readFields fs s.thr.mode v
    let later := if d = 31 then [] else underWay d x
    (csrPends c.toNat = false → Completes s mk d x 0 [] (exec (.crd mk d c) s)) ∧
    (csrPends c.toNat = true → (∀ f ∈ fs, f.acc ≠ .rc) → Completes s mk 31 0 0 later (exec (.crd mk d c) s)) ∧
    (csrPends c.toNat = true → s.cl.rsb.length < 32 → s.cl.rsbStalls < 2 ^ 32 → Answers (exec (.crd mk d c) s) fun t => s.OthersKept t ∧ s.thr.SameRegisters t.thr ∧
      t.thr.pend = s.thr.pend ++ later ∧ t.csrView c.toNat = clearRead fs s.thr.mode v ∧
      (∀ n, n ≠ c.toNat → (s.thr.loop = none ∨ n < csrLIX0 ∨ csrLOFF < n) → t.thr.csrGet n = s.thr.csrGet n) ∧
      ({ t.cl with cellerr := s.cl.cellerr, rsbStalls := s.cl.rsbStalls, rsbSince := s.cl.rsbSince } : Cell) = s.cl)

/-- R301, R216, R61: CWR, CSET and CCLR of a register with a writable field. The register's fields change
by their access codes, CSET and CCLR return what CRD would, and nothing else changes; an unassigned number
and a register with no writable field take the illegal-instruction trap. A write to LANECTL with the vector
queues of the cell empty changes the lanes at once and stalls otherwise. -/
def Obligations.ControlRegisterWrites : Prop :=
  ∀ (s : State) (mk : Bool) (d a : Reg) (c : BitVec 12),
    let n := c.toNat
    (csrInfo n = none → exec (.crd mk d c) s = .next (s.illegal (encode (.crd mk d c)))) ∧
    (∀ i ∈ [Instr.cwr mk a c, .cset mk d a c, .cclr mk d a c],
      (csrInfo n = none ∨ ∃ p fs, csrInfo n = some (p, fs) ∧ p.code ≤ s.thr.mode.code ∧ readOnly fs = true) →
      exec i s = .next (s.illegal (encode i))) ∧
    ∀ p fs, csrInfo n = some (p, fs) → p.code ≤ s.thr.mode.code → readOnly fs = false → s.thr.vq = [] → s.thr.tq = [] →
      let old := readFields fs s.thr.mode (s.csrView n)
      let rest := clearRead fs s.thr.mode (s.csrView n)
      let writes (i : Instr) (d : Reg) (v : Word) : Prop := Answers (exec i s) fun t =>
        s.thr.Wrote t.thr d old ∧ s.OthersKept t ∧ t.cl = s.cl ∧ t.thr.pend = s.thr.pend ∧
          t.csrView n = (if n = csrIPEND then ipendSum v else v) ∧
          (s.thr.loop = none → t.thr.pc = s.thr.pc + 4) ∧
          ∀ k, k ≠ n → (s.thr.loop = none ∨ k < csrLIX0 ∨ csrLOFF < k) → t.thr.csrGet k = s.thr.csrGet k
      (tileOfCsr n = none → n ≠ csrLANECTL →
        (s.OperandsReady [a] [] →
          writes (.cwr mk a c) 31 (writeFields fs s.thr.mode (s.rs a) (BitVec.allOnes 64) (s.csrView n))) ∧
        (s.OperandsReady [a] [d] → writes (.cset mk d a c) d (setFields fs s.thr.mode (s.rs a) rest) ∧
          writes (.cclr mk d a c) d (clearFields fs s.thr.mode (s.rs a) rest))) ∧
      (n = csrLANECTL → s.OperandsReady [a] [] →
        let v := writeFields fs s.thr.mode (s.rs a) (BitVec.allOnes 64) s.cl.lanectl
        (s.lanesIdle s.cc = true → Answers (exec (.cwr mk a c) s) fun t => t.cl.lanectl = v ∧
          (∀ a, t.memByte a = s.memByte a) ∧ ∀ k, k / 4 ≠ s.cc → t.thread k = s.thread k) ∧
        (s.lanesIdle s.cc = false → Answers (exec (.cwr mk a c) s) fun t =>
          t.thr.pc = s.thr.pc ∧ t.thr.park = .stalled ∧ t.cl.lanectl = s.cl.lanectl ∧ s.thr.SameRegisters t.thr))

/-- R214, R343, R216: the writers of a configuration register, by number (CWR, CSET, CCLR) and by name (TCFG,
ACFG). A shape that fits gives the tile or accumulator that shape with all its bytes zero; one that does
not takes the illegal-operand trap with the value in TVAL. R340, R246: a tile or accumulator that the thread does not have is an illegal register, with its class and number
in TVAL; in U mode without live tile state of the context, the tile-state trap. -/
def Obligations.TileConfigurationAndAccess : Prop :=
  (
  ∀ (s : State) (mk acc : Bool) (a d : Reg) (n : BitVec 3) (c : BitVec 12) (p : Mode) (fs : List Field),
    n.toNat < s.cl.tileCount acc s.ct → s.thr.tileUnavailable = false → s.thr.vq = [] → s.thr.tq = [] →
    c.toNat = cfgCsr acc n.toNat → csrInfo c.toNat = some (p, fs) →
    let v := s.rs a
    let old := s.thr.csrGet c.toNat
    let configures (i : Instr) (d : Reg) (x : Word) : Prop :=
      (shapeOk acc (s.cl.tileCap acc) x = true → Answers (exec i s) fun t => s.OthersKept t ∧ t.cl = s.cl ∧
        s.thr.Wrote t.thr d (readFields fs s.thr.mode old) ∧ t.thr.csrGet c.toNat = x ∧ t.thr.tileGet acc n.toNat = 0 ∧
        (∀ b k, (b ≠ acc ∨ k ≠ n.toNat) → t.thr.tileGet b k = s.thr.tileGet b k) ∧
        (s.thr.loop = none → t.thr.pc = s.thr.pc + 4)) ∧
      (shapeOk acc (s.cl.tileCap acc) x = false → exec i s = .next (s.badOperand x))
    (s.OperandsReady [a] [] →
      configures (.cwr mk a c) 31 v) ∧
    (s.OperandsReady [a] [d] → configures (.cset mk d a c) d (old ||| v) ∧ configures (.cclr mk d a c) d (old &&& ~~~v))
  ) ∧
  (
  ∀ (s : State) (mk : Bool) (n m : BitVec 3) (x : Reg) (r : BitVec 6),
    let tile := BitVec.ofNat 64 (0x300 + n.toNat)
    let accu := BitVec.ofNat 64 (0x400 + n.toNat)
    let off (acc : Bool) (v : Word) (i : Instr) : Prop :=
      (s.cl.tileCount acc s.ct ≤ n.toNat → exec i s = .next (s.trap { code := 0x03, tval := v })) ∧
      (n.toNat < s.cl.tileCount acc s.ct → (∀ b, m.toNat < s.cl.tileCount b s.ct) → s.thr.mode = .user →
        (bits (s.thr.csrGet csrTSTAT) 16 1 = 0 ∨ bits (s.thr.csrGet csrTSTAT) 48 16 ≠ bits (s.thr.csrGet csrPSTATE) 48 16) →
        exec i s = .next (s.trap { code := 0x0C, tval := v }))
    (∀ i ∈ [Instr.tcfg mk n x, .tzero mk n, .tgetr mk n x r, .tsetr mk n x r, .ttrans mk n m, .acvt mk n m, .tld mk n x, .tst mk n x],
      off false tile i) ∧
    ∀ i ∈ [Instr.acfg mk n x, .azero mk n, .agetr mk n x r, .asetr mk n x r, .ald mk n x, .ast mk n x, .tmmaD mk n m m,
      .tmmaHf mk n m m, .tmmaBf mk n m m, .tmmaE4e4 mk n m m x, .tmmaI8 mk n m m, .tmmaC8 mk n m m x], off true accu i
  )

/-- R6, R216, R301: what the four accesses do to each field of a register whose fields do not overlap,
and that the fields of every control register do not. -/
def Obligations.FieldAccess : Prop :=
  (∀ n p fs, csrInfo n = some (p, fs) →
    (∀ f ∈ fs, f.lo + f.len ≤ 64 ∧ p.code ≤ f.priv.code) ∧ fs.Pairwise fun f g => f.lo + f.len ≤ g.lo ∨ g.lo + g.len ≤ f.lo) ∧
  ∀ (fs : List Field) (m : Mode) (x v : Word),
    (∀ f ∈ fs, f.lo + f.len ≤ 64) → (fs.Pairwise fun f g => f.lo + f.len ≤ g.lo ∨ g.lo + g.len ≤ f.lo) →
    (∀ i, (∀ f ∈ fs, ¬(f.lo ≤ i ∧ i < f.lo + f.len)) → (readFields fs m v).getLsbD i = false) ∧
    ∀ f ∈ fs,
      let part (w : Word) : Nat := bits w f.lo f.len
      (¬f.may m → part (readFields fs m v) = 0 ∧ part (clearRead fs m v) = part v ∧
        part (writeFields fs m x (BitVec.allOnes 64) v) = part v ∧ part (setFields fs m x v) = part v ∧
        part (clearFields fs m x v) = part v) ∧
      (f.may m →
        part (readFields fs m v) = (if f.acc = .wo then 0 else part v) ∧
        part (clearRead fs m v) = (if f.acc = .rc then 0 else part v) ∧
        part (writeFields fs m x (BitVec.allOnes 64) v) =
          (if f.acc = .rw ∧ f.ok (part x) then part x else if f.acc = .w1c then part (v &&& ~~~x) else part v) ∧
        part (setFields fs m x v) = (if f.acc = .rw ∧ f.ok (part (v ||| x)) then part (v ||| x) else part v) ∧
        part (clearFields fs m x v) =
          (if (f.acc = .rw ∧ f.ok (part (v &&& ~~~x))) ∨ f.acc = .w1c then part (v &&& ~~~x) else part v))

/-- R314, R320, R321, R212, R312: the integer element-wise instructions at every element width, for every
active element below LEN, over any number of element groups. -/
def Obligations.VectorIntegers : Prop :=
  ∀ (s : State) (mk x : Bool) (d a b k : Reg), s.VectorReady →
    let n := s.thr.lenNow
    let w := ewBits s.thr.ewNow
    let p := s.thr.elem a w
    let q := s.thr.elem b w
    let P (i : Nat) : BitVec w := BitVec.ofNat w (p i)
    let Q (i : Nat) : BitVec w := BitVec.ofNat w (q i)
    let yields (i : Instr) (val : Nat → Nat) : Prop :=
      s.WritesElements d k false w n (s.thr.on k false) (fun j => (val j, 0)) (exec i s)
    let clamp (lo hi z : Int) : Nat × Flags :=
      if z < lo then ((BitVec.ofInt w lo).toNat, flSAT) else if hi < z then ((BitVec.ofInt w hi).toNat, flSAT)
      else ((BitVec.ofInt w z).toNat, 0)
    let saturates (i : Instr) (val : Nat → Nat × Flags) : Prop := s.WritesElements d k x w n (s.thr.on k x) val (exec i s)
    let lo : Int := -(2 ^ (w - 1))
    let hi : Int := 2 ^ (w - 1) - 1
    yields (.vadd mk d a b k) (fun i => (P i + Q i).toNat) ∧ yields (.vsub mk d a b k) (fun i => (P i - Q i).toNat) ∧
    yields (.vmul mk d a b k) (fun i => (P i * Q i).toNat) ∧
    yields (.vmulh mk d a b k) (fun i => (BitVec.ofInt w ((P i).toInt * (Q i).toInt / 2 ^ w)).toNat) ∧
    yields (.vmulhu mk d a b k) (fun i => p i * q i / 2 ^ w) ∧
    yields (.vand mk d a b k) (fun i => (P i &&& Q i).toNat) ∧ yields (.vor mk d a b k) (fun i => (P i ||| Q i).toNat) ∧
    yields (.vxor mk d a b k) (fun i => (P i ^^^ Q i).toNat) ∧
    yields (.vsll mk d a b k) (fun i => (P i <<< (q i % w)).toNat) ∧
    yields (.vsrl mk d a b k) (fun i => (P i >>> (q i % w)).toNat) ∧
    yields (.vsra mk d a b k) (fun i => ((P i).sshiftRight (q i % w)).toNat) ∧
    yields (.vmin mk d a b k) (fun i => if (P i).sle (Q i) then p i else q i) ∧
    yields (.vmax mk d a b k) (fun i => if (P i).sle (Q i) then q i else p i) ∧
    yields (.vminu mk d a b k) (fun i => min (p i) (q i)) ∧ yields (.vmaxu mk d a b k) (fun i => max (p i) (q i)) ∧
    yields (.vmacc mk d a b k) (fun i => s.thr.elem d w i + p i * q i) ∧
    yields (.vabs mk d a k) (fun i => if (P i).msb then (-P i).toNat else p i) ∧
    yields (.vsplat mk d a k) (fun _ => (s.rs a).toNat) ∧ yields (.viota mk d k) (fun i => i) ∧ yields (.vmv mk d a k) p ∧
    (s.thr.ewNow ≠ .e8 →
      yields (.vsext mk d a k) (fun i => ((BitVec.ofNat (w / 2) (s.thr.elem a (w / 2) i)).signExtend w).toNat) ∧
      yields (.vzext mk d a k) (fun i => s.thr.elem a (w / 2) i)) ∧
    saturates (.vsadd mk d a b k x) (fun i => clamp lo hi ((P i).toInt + (Q i).toInt)) ∧
    saturates (.vssub mk d a b k x) (fun i => clamp lo hi ((P i).toInt - (Q i).toInt)) ∧
    saturates (.vsaddu mk d a b k x) (fun i => clamp 0 (2 ^ w - 1) ((p i : Int) + q i)) ∧
    saturates (.vssubu mk d a b k x) (fun i => clamp 0 (2 ^ w - 1) ((p i : Int) - q i))

/-- R314, R322, R323, R324: floating-point arithmetic, conversions and fused multiply-adds, at the element
widths that each accepts, with the rounding mode of FPCTL and, in X forms, the exception mask. -/
def Obligations.VectorFloats : Prop :=
  ∀ (s : State) (mk x : Bool) (d a b k : Reg), s.VectorReady → s.thr.ewNow ≠ .e8 →
    let n := s.thr.lenNow
    let w := ewBits s.thr.ewNow
    let p := s.thr.elem a w
    let q := s.thr.elem b w
    let z := s.thr.elem d w
    let f := ewFmt false w
    let rm := s.thr.rmOf .dyn
    let yields (i : Instr) (val : Nat → Nat × Flags) : Prop := s.WritesElements d k x w n (s.thr.on k x) val (exec i s)
    let plain (i : Instr) (val : Nat → Nat) : Prop :=
      s.WritesElements d k false w n (s.thr.on k false) (fun j => (val j, 0)) (exec i s)
    let neg (v : Nat) : Bool := decide (2 ^ (w - 1) ≤ v)
    let signed (v : Nat) (m : Bool) : Nat := v % 2 ^ (w - 1) + if m then 2 ^ (w - 1) else 0
    yields (.vfadd mk d a b k x) (fun i => f.add rm (p i) (q i)) ∧ yields (.vfsub mk d a b k x) (fun i => f.sub rm (p i) (q i)) ∧
    yields (.vfmul mk d a b k x) (fun i => f.mul rm (p i) (q i)) ∧ yields (.vfdiv mk d a b k x) (fun i => f.div rm (p i) (q i)) ∧
    yields (.vfsqrt mk d a k x) (fun i => f.sqrt rm (p i)) ∧ yields (.vfmin mk d a b k x) (fun i => f.minMax false (p i) (q i)) ∧
    yields (.vfmax mk d a b k x) (fun i => f.minMax true (p i) (q i)) ∧
    plain (.vfcpsgn mk d a b k) (fun i => signed (p i) (neg (q i))) ∧ plain (.vfneg mk d a k) (fun i => signed (p i) (!neg (p i))) ∧
    plain (.vfabs mk d a k) (fun i => signed (p i) false) ∧
    plain (.vfxsgn mk d a b k) (fun i => signed (p i) (neg (p i) ^^ neg (q i))) ∧
    plain (.vfclass mk d a k) (fun i => f.classify (p i)) ∧
    (∀ c : BitVec 5, 1 ≤ c.toNat → c.toNat ≤ 5 → (fmtOfCode c.toNat).width < w →
      let g := fmtOfCode c.toNat
      yields (.vfcvtw mk d a c k x) (fun i => f.roundFP .rne (g.decode (p i % 2 ^ g.width))) ∧
      yields (.vfcvtn mk d a c k x) (fun i => g.narrow rm ((s.thr.csrGet csrFPCTL).getLsbD 19) (f.decode (p i)))) ∧
    (let whole (lo hi : Int) (i : Nat) : Nat × Flags :=
       let r := toIntRange rm lo hi (f.decode (p i)); ((BitVec.ofInt w r.1).toNat, r.2)
     yields (.vfcvti mk d a k x) (whole (-(2 ^ (w - 1))) (2 ^ (w - 1) - 1)) ∧ yields (.vfcvtiu mk d a k x) (whole 0 (2 ^ w - 1))) ∧
    yields (.vicvtf mk d a k x) (fun i => f.roundFP rm (fvalOfInt (BitVec.ofNat w (p i)).toInt)) ∧
    yields (.viucvtf mk d a k x) (fun i => f.roundFP rm (fvalOfInt (p i))) ∧
    yields (.vfmadd mk d a b k x) (fun i => f.fma rm false false (p i) (q i) (z i)) ∧
    yields (.vfmsub mk d a b k x) (fun i => f.fma rm false true (p i) (q i) (z i)) ∧
    yields (.vfnmadd mk d a b k x) (fun i => f.fma rm true true (p i) (q i) (z i)) ∧
    yields (.vfnmsub mk d a b k x) (fun i => f.fma rm true false (p i) (q i) (z i)) ∧
    (s.thr.ewNow = .e16 →
      yields (.vbadd mk d a b k x) (fun i => fmtBF.add rm (p i) (q i)) ∧ yields (.vbsub mk d a b k x) (fun i => fmtBF.sub rm (p i) (q i)) ∧
      yields (.vbmul mk d a b k x) (fun i => fmtBF.mul rm (p i) (q i)) ∧
      yields (.vbfmadd mk d a b k x) (fun i => fmtBF.fma rm false false (p i) (q i) (z i)))

/-- R324, R325: the widening multiply-adds, whose accumulator of twice the width lies in vd and vd + 1, and
the dot products, one 32-bit result for each pair or four of elements, elements past LEN counting as zero. -/
def Obligations.VectorDotsAndWidening : Prop :=
  ∀ (s : State) (mk x : Bool) (d a b k : Reg), s.VectorReady →
    let n := s.thr.lenNow
    let w := ewBits s.thr.ewNow
    let rm := s.thr.rmOf .dyn
    let part (r : Reg) (j : Nat) : Nat := if j < n then s.thr.elem r w j else 0
    let dots (i : Instr) (m : Nat) (x : Bool) (val : Nat → Nat × Flags) : Prop :=
      s.WritesElements d k x 32 ((n + m - 1) / m) (s.thr.on k x) val (exec i s)
    let pairs (bf : VKind) (j : Nat) : Nat × Flags :=
      vDot2 bf rm (part a (2 * j)) (part b (2 * j)) (part a (2 * j + 1)) (part b (2 * j + 1)) (s.thr.elem d 32 j)
    let fours (num : Nat → Int) (j : Nat) : Nat × Flags :=
      ((BitVec.ofInt 32 (s.thr.elem d 32 j + num (part a (4 * j)) * num (part b (4 * j)) +
        num (part a (4 * j + 1)) * num (part b (4 * j + 1)) + num (part a (4 * j + 2)) * num (part b (4 * j + 2)) +
        num (part a (4 * j + 3)) * num (part b (4 * j + 3)))).toNat, 0)
    (s.thr.ewNow = .e16 → dots (.vfdot2 mk d a b k x) 2 x (pairs .vfdot2) ∧ dots (.vbfdot2 mk d a b k x) 2 x (pairs .vbfdot2)) ∧
    (s.thr.ewNow = .e8 → dots (.vdot4 mk d a b k) 4 false (fours fun v => (BitVec.ofNat 8 v).toInt) ∧
      dots (.vdot4u mk d a b k) 4 false (fours fun v => v)) ∧
    (d.toNat % 2 = 0 → n * w ≤ s.cl.rlen → s.cl.rlen ≤ 8192 →
      let per := s.cl.rlen / (2 * w)
      let reg (i : Nat) : Reg := d + if i < per then 0 else 1
      let acc (i : Nat) : Nat := s.thr.elem (reg i) (2 * w) (if i < per then i else i - per)
      let widens (i : Instr) (bf : Bool) : Prop :=
        let g := ewFmt bf w
        let h := wideFmt w
        let val (j : Nat) : Nat × Flags :=
          h.fmaWith rm false false (g.decode (s.thr.elem a w j)) (g.decode (s.thr.elem b w j)) (h.decode (acc j))
        raisedBy n (s.thr.on k x) val &&& s.thr.fpEn = 0 →
        Answers (exec i s) fun t => s.OnlyThread t ∧ s.thr.Through t.thr ∧
          s.thr.Raised t.thr (raisedBy n (s.thr.on k x) val) ∧
          (∀ r, r ≠ d.toNat → r ≠ d.toNat + 1 → t.thr.vreg r = s.thr.vreg r) ∧
          (∀ i, i < 2 * per → t.thr.elem (reg i) (2 * w) (if i < per then i else i - per) =
            if i < n ∧ s.thr.on k x i = true then (val i).1 % 2 ^ (2 * w) else acc i) ∧
          ∀ j i, i < 1024 → (t.thr.readM j).getLsbD i = s.MaskBit k x n (s.thr.on k x) val j i
      (s.thr.ewNow = .e16 ∨ s.thr.ewNow = .e32 → widens (.vfwma mk d a b k x) false) ∧
      (s.thr.ewNow = .e16 → widens (.vbfwma mk d a b k x) true))

/-- R326, R213: the compares and VWHILE write one bit for each active element. R327: the mask operations on the bits below LEN; MPOPC and MFIRST write a scalar register. -/
def Obligations.VectorComparesAndMasks : Prop :=
  (
  ∀ (s : State) (mk x : Bool) (d a b k : Reg), s.VectorReady →
    let n := s.thr.lenNow
    let w := ewBits s.thr.ewNow
    let p := s.thr.elem a w
    let q := s.thr.elem b w
    let P (i : Nat) : BitVec w := BitVec.ofNat w (p i)
    let Q (i : Nat) : BitVec w := BitVec.ofNat w (q i)
    let f := ewFmt false w
    let tells (i : Instr) (val : Nat → Bool) : Prop :=
      s.WritesMask d k false n (s.thr.on k false) (fun j => ((val j).toNat, 0)) (exec i s)
    let orders (i : Instr) (sig : Bool) (codes : List Nat) : Prop :=
      s.WritesMask d k x n (s.thr.on k x)
        (fun j => let r := f.relation sig (p j) (q j); ((decide (r.1 ∈ codes)).toNat, r.2)) (exec i s)
    tells (.vcmpeq mk d a b k) (fun i => p i == q i) ∧ tells (.vcmpne mk d a b k) (fun i => p i != q i) ∧
    tells (.vcmplt mk d a b k) (fun i => (P i).slt (Q i)) ∧ tells (.vcmple mk d a b k) (fun i => (P i).sle (Q i)) ∧
    tells (.vcmpltu mk d a b k) (fun i => (P i).ult (Q i)) ∧ tells (.vcmpleu mk d a b k) (fun i => (P i).ule (Q i)) ∧
    tells (.vwhile mk d a b k) (fun i => decide ((s.rs a).toInt + i < (s.rs b).toInt)) ∧
    (s.thr.ewNow ≠ .e8 → orders (.vfcmpeq mk d a b k x) false [2] ∧ orders (.vfcmplt mk d a b k x) true [1] ∧
      orders (.vfcmple mk d a b k x) true [1, 2])
  ) ∧
  (
  ∀ (s : State) (mk : Bool) (d a b : Reg), s.VectorReady →
    let n := s.thr.lenNow
    let p (i : Nat) : Bool := (s.thr.readM a.toNat).getLsbD i
    let q (i : Nat) : Bool := (s.thr.readM b.toNat).getLsbD i
    let gives (i : Instr) (val : Nat → Bool) : Prop :=
      s.WritesMask d 31 false n (fun _ => true) (fun j => ((val j).toNat, 0)) (exec i s)
    gives (.mand mk d a b) (fun i => p i && q i) ∧ gives (.mor mk d a b) (fun i => p i || q i) ∧
    gives (.mxor mk d a b) (fun i => p i ^^ q i) ∧ gives (.mandn mk d a b) (fun i => p i && !q i) ∧
    gives (.mnot mk d a) (fun i => !p i) ∧ gives (.mset mk d) (fun _ => true) ∧
    (0 < n →
      s.WritesScalar d (BitVec.ofNat 64 ((List.range n).countP p)) 0 (exec (.mpopc mk d a) s) ∧
      ∃ m, m ≤ n ∧ (∀ i, i < m → p i = false) ∧ (m < n → p m = true) ∧
        s.WritesScalar d (BitVec.ofNat 64 m) 0 (exec (.mfirst mk d a) s))
  )

/-- R328: the permutes, whatever the order in which their elements are written. R329: the reductions, in ascending order over the active elements from the scalar's low bits. -/
def Obligations.PermutesAndReductions : Prop :=
  (
  ∀ (s : State) (mk : Bool) (d a b k : Reg), s.VectorReady →
    let n := s.thr.lenNow
    let w := ewBits s.thr.ewNow
    let p := s.thr.elem a w
    let q := s.thr.elem b w
    let j := (s.rs b).toNat
    let on := s.thr.on k false
    let moves (i : Instr) (on : Nat → Bool) (val : Nat → Nat) : Prop :=
      s.WritesElements d 31 false w n on (fun i => (val i, 0)) (exec i s)
    let chosen := (List.range n).filter on
    moves (.vslideup mk d a b k) (fun i => on i && decide (j ≤ i)) (fun i => p (i - j)) ∧
    moves (.vslidedn mk d a b k) on (fun i => if i + j < n then p (i + j) else 0) ∧
    moves (.vgather mk d a b k) on (fun i => if q i < n then p (q i) else 0) ∧
    moves (.vcompress mk d a k) (fun i => decide (i < chosen.length)) (fun i => p (chosen.getD i 0)) ∧
    moves (.vrev mk d a k) on (fun i => p (n - 1 - i)) ∧
    moves (.vins mk d a b) (fun i => decide (i = j)) (fun _ => (s.rs a).toNat) ∧
    (0 < n → s.WritesScalar d (BitVec.ofNat 64 (if j < n then p j else 0)) 0 (exec (.vext mk d a b) s))
  ) ∧
  (
  ∀ (s : State) (mk : Bool) (d a b k : Reg), s.VectorReady → 0 < s.thr.lenNow →
    let n := s.thr.lenNow
    let w := ewBits s.thr.ewNow
    let xs := ((List.range n).filter (s.thr.on k false)).map (s.thr.elem a w)
    let start := (s.rs b).toNat % 2 ^ w
    let X (v : Nat) : BitVec w := BitVec.ofNat w v
    let wide (v : Nat) : Word := (X v).signExtend 64
    let plain (i : Instr) (v : Word) : Prop := s.WritesScalar d v 0 (exec i s)
    let f := ewFmt false w
    let rounded (i : Instr) (op : Nat → Nat → Nat × Flags) : Prop :=
      let r := xs.foldl (fun r v => ((op r.1 v).1, r.2 ||| (op r.1 v).2)) (start, (0 : Flags))
      s.WritesScalar d (BitVec.ofNat 64 r.1) r.2 (exec i s)
    plain (.vredsum mk d a b k) (wide (start + xs.sum)) ∧
    plain (.vredmin mk d a b k) (wide (xs.foldl (fun u v => if (X u).sle (X v) then u else v) start)) ∧
    plain (.vredmax mk d a b k) (wide (xs.foldl (fun u v => if (X u).sle (X v) then v else u) start)) ∧
    plain (.vredminu mk d a b k) (BitVec.ofNat 64 (xs.foldl min start)) ∧
    plain (.vredmaxu mk d a b k) (BitVec.ofNat 64 (xs.foldl max start)) ∧
    (s.thr.ewNow ≠ .e8 → rounded (.vfredsum mk d a b k) (f.add (s.thr.rmOf .dyn)) ∧
      rounded (.vfredmin mk d a b k) (f.minMax false) ∧ rounded (.vfredmax mk d a b k) (f.minMax true))
  )

/-- R239 to R241, R312, R314: the first active element that raises an enabled flag traps. The elements below it are
written, the others are not, its flags have joined FPFLG, ESI and TELEM name it, EPC is at the instruction
and SEPC behind it, and the remainder is held with VQ set. R313: an element width that an instruction does not accept takes the illegal-operand trap with the width's
code in TVAL. -/
def Obligations.VectorTrapsAndWidths : Prop :=
  (
  ∀ (s : State) (mk x : Bool) (d a b k : Reg) (j : Nat), s.VectorReady → s.NotWaiting → s.thr.ewNow ≠ .e8 → s.thr.loop = none →
    let n := s.thr.lenNow
    let w := ewBits s.thr.ewNow
    let f := ewFmt false w
    let rm := s.thr.rmOf .dyn
    let on := s.thr.on k x
    ∀ p ∈ [(Instr.vfadd mk d a b k x, fun i => f.add rm (s.thr.elem a w i) (s.thr.elem b w i)),
      (.vfsub mk d a b k x, fun i => f.sub rm (s.thr.elem a w i) (s.thr.elem b w i)),
      (.vfmul mk d a b k x, fun i => f.mul rm (s.thr.elem a w i) (s.thr.elem b w i)),
      (.vfdiv mk d a b k x, fun i => f.div rm (s.thr.elem a w i) (s.thr.elem b w i))],
    j < n → j * w < 8192 → on j = true → raisedBy j on p.2 &&& s.thr.fpEn = 0 → (p.2 j).2 &&& s.thr.fpEn ≠ 0 →
    Answers (exec p.1 s) fun t => s.OnlyThread t ∧
      let m : Bool := decide (s.thr.trapMode { code := 0x06 } = .machine)
      let pick (sn mn : Nat) : Nat := if m then mn else sn
      t.thr.mode = s.thr.trapMode { code := 0x06 } ∧ bits (t.thr.csrGet (pick csrCAUSE csrMCAUSE)) 0 16 = 0x06 ∧
      t.thr.csrGet (pick csrTVAL csrMTVAL) = (p.2 j).2.setWidth 64 ∧
      t.thr.csrGet (pick csrTELEM csrMTELEM) = BitVec.ofNat 64 (2 ^ 60 + j) ∧
      t.thr.csrGet (pick csrEPC csrMEPC) = s.thr.pc ∧ t.thr.csrGet (pick csrSEPC csrMSEPC) = s.thr.pc + 4 ∧
      bits (t.thr.csrGet (pick csrPSTATE csrMPSTATE)) 8 1 = 1 ∧ t.thr.csrGet csrESI = BitVec.ofNat 64 j ∧
      t.thr.csrGet csrFPFLG = s.thr.csrGet csrFPFLG ||| (raisedBy (j + 1) on p.2).setWidth 64 ∧
      (∀ r, r ≠ d.toNat → t.thr.vreg r = s.thr.vreg r) ∧
      ∀ i, (i + 1) * w ≤ 8192 →
        t.thr.elem d w i = if i < j ∧ on i = true then (p.2 i).1 % 2 ^ w else s.thr.elem d w i
  ) ∧
  (
  ∀ (s : State) (mk x : Bool) (d a b k : Reg), s.VectorReady →
    let refuses (i : Instr) : Prop :=
      exec i s = .next (s.trap { code := 0x02, tval := BitVec.ofNat 64 (match s.thr.ewNow with | .e8 => 0 | .e16 => 1 | .e32 => 2 | .e64 => 3) })
    (s.thr.ewNow = .e8 → ∀ i ∈ [Instr.vfadd mk d a b k x, .vfsub mk d a b k x, .vfmul mk d a b k x, .vfdiv mk d a b k x,
      .vfsqrt mk d a k x, .vfmin mk d a b k x, .vfmax mk d a b k x, .vfcpsgn mk d a b k, .vfneg mk d a k, .vfabs mk d a k,
      .vfxsgn mk d a b k, .vfclass mk d a k, .vfcvti mk d a k x, .vicvtf mk d a k x, .vfmadd mk d a b k x, .vsext mk d a k,
      .vzext mk d a k, .vfcmpeq mk d a b k x, .vfcmplt mk d a b k x, .vfcmple mk d a b k x, .vfredsum mk d a b k,
      .vfredmin mk d a b k, .vfredmax mk d a b k], refuses i) ∧
    (s.thr.ewNow ≠ .e16 → ∀ i ∈ [Instr.vbadd mk d a b k x, .vbsub mk d a b k x, .vbmul mk d a b k x, .vbfmadd mk d a b k x,
      .vbfwma mk d a b k x, .vfdot2 mk d a b k x, .vbfdot2 mk d a b k x], refuses i) ∧
    (s.thr.ewNow ≠ .e16 → s.thr.ewNow ≠ .e32 → refuses (.vfwma mk d a b k x)) ∧
    (s.thr.ewNow ≠ .e8 → refuses (.vdot4 mk d a b k) ∧ refuses (.vdot4u mk d a b k)) ∧
    (s.thr.ewNow = .e8 ∨ s.thr.ewNow = .e16 → ∀ i ∈ [Instr.vorient2 mk d a k x, .vorient3 mk d a k x, .vincirc mk d a k x,
      .vinsph mk d a k x, .vsegx mk d a k x, .vorient2t mk d a k x, .vamoadd mk d a b k, .vamofadd mk d a b k], refuses i)
  )

/-- R330 to R333: loads of the local window in every addressing form. Each active element gets the little-endian
bytes at its address; VLDFF leaves LEN in FFI, or the index of an element behind the first active one that
fails, which is then not taken. -/
def Obligations.VectorLoads : Prop :=
  ∀ (s : State) (mk : Bool) (d a b k : Reg), s.VectorReady → s.PoolQuiet →
    let n := s.thr.lenNow
    let w := ewBits s.thr.ewNow
    let nb := w / 8
    let on := s.thr.on k false
    let fits (va : Word) : Prop := winUser ≤ va.toNat ∧ va.toNat - winUser + nb ≤ s.cl.spadBytes ∧
      s.poolPoisoned s.cc (va.toNat - winUser) nb = false
    let at' (va : Word) : Nat := s.poolRead s.cc (va.toNat - winUser) nb
    let step (i : Nat) : Word := BitVec.ofNat 64 (i * nb)
    let loads (i : Instr) (n : Nat) (addr : Nat → Word) : Prop :=
      (∀ i, i < n → on i = true → fits (addr i)) → s.WritesElements d 31 false w n on (fun i => (at' (addr i), 0)) (exec i s)
    let rows := bits (s.thr.csrGet csrROWS) 0 11
    let pitch := ((s.thr.csrGet csrPITCH).setWidth 32).toInt
    loads (.vld mk d a k) n (fun i => s.rs a + step i) ∧
    loads (.vldOffset mk d a b k) n (fun i => s.rs a + (if b = 31 then s.thr.csrGet csrLOFF else s.rs b) + step i) ∧
    loads (.vlds mk d a b k) n (fun i => s.rs a + BitVec.ofNat 64 i * s.rs b) ∧
    loads (.vldx mk d a b k) n (fun i => s.rs a + (BitVec.ofNat w (s.thr.elem b w i)).signExtend 64) ∧
    (rows * n ≤ s.cl.rlen / w →
      loads (.vld2d mk d a k) (rows * n) (fun i => s.rs a + BitVec.ofInt 64 ((i / n : Nat) * pitch + (i % n * nb : Nat)))) ∧
    (s.cl.rlen / w < rows * n →
      exec (.vld2d mk d a k) s = .next (s.trap { code := 0x02, tval := BitVec.ofNat 64 rows })) ∧
    ∀ m, m ≤ n → (∀ i, i < m → on i = true → fits (s.rs a + step i)) →
      (m < n → on m = true ∧ (∃ i, i < m ∧ on i = true) ∧ winUser ≤ (s.rs a + step m).toNat ∧
        (s.rs a + step m).toNat < winUser + 2 ^ 44 ∧ s.cl.spadBytes < (s.rs a + step m).toNat - winUser + nb) →
      Answers (exec (.vldff mk d a k) s) fun t => s.OnlyThread t ∧ s.thr.Through t.thr ∧
        t.thr.csrGet csrFFI = (if n = 0 then s.thr.csrGet csrFFI else BitVec.ofNat 64 m) ∧ t.thr.csrGet csrLEN = s.thr.csrGet csrLEN ∧
        (∀ r, r ≠ d.toNat → t.thr.vreg r = s.thr.vreg r) ∧
        ∀ i, (i + 1) * w ≤ 8192 →
          t.thr.elem d w i = if i < m ∧ on i = true then at' (s.rs a + step i) else s.thr.elem d w i

/-- R330, R331, R333: stores to the local window in every addressing form. Each active element is in the pool
at its address unless a later one overlaps it; no other byte of any pool, no byte of memory and no register
changes. -/
def Obligations.VectorStores : Prop :=
  ∀ (s : State) (mk : Bool) (d a b k : Reg), s.VectorReady → s.PoolQuiet →
    let n := s.thr.lenNow
    let w := ewBits s.thr.ewNow
    let nb := w / 8
    let on := s.thr.on k false
    let step (i : Nat) : Word := BitVec.ofNat 64 (i * nb)
    let stores (i : Instr) (n : Nat) (addr : Nat → Word) : Prop :=
      let o (i : Nat) : Nat := (addr i).toNat - winUser
      (∀ i, i < n → on i = true → winUser ≤ (addr i).toNat ∧ o i + nb ≤ s.cl.spadBytes) →
      Answers (exec i s) fun t => s.OthersKept t ∧ s.thr.Through t.thr ∧ s.thr.Raised t.thr 0 ∧ s.thr.SameRegisters t.thr ∧
        (∀ c, c ≠ s.cc → t.cell c = s.cell c) ∧
        (∀ q, (∀ i, i < n → on i = true → q < o i ∨ o i + nb ≤ q) → t.poolByte s.cc q = s.poolByte s.cc q) ∧
        ∀ i, i < n → on i = true → (i + 1) * w ≤ 8192 →
          (∀ j, i < j → j < n → on j = true → o i + nb ≤ o j ∨ o j + nb ≤ o i) →
          t.poolRead s.cc (o i) nb = s.thr.elem d w i
    let rows := bits (s.thr.csrGet csrROWS) 0 11
    let pitch := ((s.thr.csrGet csrPITCH).setWidth 32).toInt
    stores (.vst mk d a k) n (fun i => s.rs a + step i) ∧
    stores (.vstOffset mk d a b k) n (fun i => s.rs a + (if b = 31 then s.thr.csrGet csrLOFF else s.rs b) + step i) ∧
    stores (.vsts mk d a b k) n (fun i => s.rs a + BitVec.ofNat 64 i * s.rs b) ∧
    stores (.vstx mk d a b k) n (fun i => s.rs a + (BitVec.ofNat w (s.thr.elem b w i)).signExtend 64) ∧
    (rows * n ≤ s.cl.rlen / w →
      stores (.vst2d mk d a k) (rows * n) (fun i => s.rs a + BitVec.ofInt 64 ((i / n : Nat) * pitch + (i % n * nb : Nat))))

/-- R334, R335: the lane atomics on the local window. The active elements act in ascending order, each on what
the ones before it left; vd gets the old values and the pool the new ones. -/
def Obligations.LaneAtomics : Prop :=
  ∀ (s : State) (mk : Bool) (d a b k : Reg), s.VectorReady → s.PoolQuiet → s.thr.ewNow = .e32 ∨ s.thr.ewNow = .e64 →
    let n := s.thr.lenNow
    let w := ewBits s.thr.ewNow
    let nb := w / 8
    let on := s.thr.on k false
    let addr (i : Nat) : Word := s.rs a + (BitVec.ofNat w (s.thr.elem b w i)).signExtend 64
    let o (i : Nat) : Nat := (addr i).toNat - winUser
    (∀ i, i < n → on i = true → winUser ≤ (addr i).toNat ∧ o i + nb ≤ s.cl.spadBytes ∧ (addr i).toNat % nb = 0 ∧
      s.poolPoisoned s.cc (o i) nb = false) →
    let acts (i : Instr) (op : AmoOp) : Prop :=
      let new (old j : Nat) : Nat × Flags × Bool := amoApply op w (s.thr.rmOf .dyn) old (s.thr.elem d w j) 0
      let after (m : Nat) : Nat → Nat :=
        (List.range m).foldl (fun (f : Nat → Nat) j => if on j then fun q => if q = o j then (new (f q) j).1 else f q else f)
          fun q => s.poolRead s.cc q nb
      let val (j : Nat) : Nat × Flags := (after j (o j), (new (after j (o j)) j).2.1)
      raisedBy n on val &&& s.thr.fpEn = 0 →
      Answers (exec i s) fun t => s.OthersKept t ∧ s.thr.Through t.thr ∧ s.thr.Raised t.thr (raisedBy n on val) ∧
        (∀ r, r ≠ d.toNat → t.thr.vreg r = s.thr.vreg r) ∧ (∀ j, t.thr.readM j = s.thr.readM j) ∧
        (∀ i, (i + 1) * w ≤ 8192 → t.thr.elem d w i = if i < n ∧ on i = true then (val i).1 else s.thr.elem d w i) ∧
        (∀ q, q % nb = 0 → t.poolRead s.cc q nb = after n q) ∧ ∀ c, c ≠ s.cc → t.cell c = s.cell c
    acts (.vamoadd mk d a b k) .add ∧ acts (.vamoswap mk d a b k) .swap ∧ acts (.vamomin mk d a b k) .min ∧
    acts (.vamomax mk d a b k) .max ∧ acts (.vamominu mk d a b k) .minu ∧ acts (.vamomaxu mk d a b k) .maxu ∧
    acts (.vamoand mk d a b k) .and ∧ acts (.vamoor mk d a b k) .or ∧ acts (.vamoxor mk d a b k) .xor ∧
    acts (.vamofadd mk d a b k) .fadd

/-- R59, R60, R319: VSPILL writes a frame, a header and one block for each register that its mask names, and
VFILL restores LEN, EW and the registers from such a frame, cut at the effective register length. -/
def Obligations.SpillAndFill : Prop :=
  ∀ (s : State) (mk : Bool) (a b : Reg), s.VectorReady → s.PoolQuiet → winUser ≤ (s.rs a).toNat → (s.rs a).toNat % 16 = 0 →
    let o := (s.rs a).toNat - winUser
    let part (t : State) (q n : Nat) : Nat := t.poolRead s.cc (o + q) n
    let named (v : Nat) : List Nat := (List.range 32).filter v.testBit
    (let vm := (s.rs b).toNat
     let n := s.thr.lenNow
     let blk := 16 * ((n * ewBits s.thr.ewNow + 127) / 128)
     let size := 16 + (named vm).length * blk
     vm < 2 ^ 32 → s.cl.rlen ≤ 8192 → o + size ≤ s.cl.spadBytes →
     Answers (exec (.vspill mk a b) s) fun t => s.OthersKept t ∧ s.thr.Through t.thr ∧ s.thr.Raised t.thr 0 ∧
       s.thr.SameRegisters t.thr ∧ part t 0 2 = n ∧ part t 2 1 = ewCode s.thr.ewNow ∧ part t 3 1 = s.cl.rlen / 128 ∧
       part t 4 4 = vm ∧ part t 8 4 = size ∧ part t 12 2 = 1 ∧ part t 14 2 = 0 ∧
       (∀ m r, (named vm)[m]? = some r →
         part t (16 + m * blk) blk = (s.thr.readV r).toNat % 2 ^ (n * ewBits s.thr.ewNow)) ∧
       (∀ q, (q < o ∨ o + size ≤ q) → t.poolByte s.cc q = s.poolByte s.cc q) ∧ ∀ c, c ≠ s.cc → t.cell c = s.cell c) ∧
    (let len := part s 0 2
     let ec := part s 2 1
     let rl := part s 3 1
     let vm := part s 4 4
     let w := 8 * 2 ^ ec
     let blk := 16 * ((len * w + 127) / 128)
     let size := 16 + (named vm).length * blk
     let new := min len (s.cl.rlen / w)
     let ok := part s 12 2 = 1 ∧ ec ≤ 3 ∧ 0 < rl ∧ rl ≤ 64 ∧ len ≤ rl * 128 / w
     (¬ok → o + 16 ≤ s.cl.spadBytes → Answers (exec (.vfill mk a) s) fun t => s.OthersKept t ∧ (s.NotWaiting → s.OnlyThread t) ∧ s.thr.SameRegisters t.thr ∧
       t.thr.csrGet csrLEN = s.thr.csrGet csrLEN ∧ t.thr.csrGet csrEW = s.thr.csrGet csrEW ∧
       bits (t.thr.csrGet (if t.thr.mode = .machine then csrMCAUSE else csrCAUSE)) 0 16 = 0x02 ∧
       t.thr.csrGet (if t.thr.mode = .machine then csrMTVAL else csrTVAL) = s.rs a) ∧
     (ok → o + size ≤ s.cl.spadBytes → s.poolPoisoned s.cc o size = false →
       Answers (exec (.vfill mk a) s) fun t => s.OnlyThread t ∧ s.thr.Through t.thr ∧
         t.thr.csrGet csrLEN = BitVec.ofNat 64 new ∧ t.thr.csrGet csrEW = BitVec.ofNat 64 ec ∧
         (∀ m, m ≠ csrLEN → m ≠ csrEW → (s.thr.loop = none ∨ m < csrLIX0 ∨ csrLOFF < m) → t.thr.csrGet m = s.thr.csrGet m) ∧
         (∀ m r, (named vm)[m]? = some r →
           t.thr.readV r = BitVec.ofNat 8192 (part s (16 + m * blk) blk % 2 ^ (new * w))) ∧
         ∀ r, r ∉ named vm → t.thr.vreg r = s.thr.vreg r))

/-- R318, R168 to R170, R270: SETVL and VSETLI set LEN to the operand clamped to the lanes of the cell, set EW, give
the count back, and make the lease of the thread effective: GMIN is MIN, or what the other active threads of the cell
leave of 16; VSETLI is counted as deprecated. R336, R337: RINGCFG with its thread's vector queue empty. It unbinds a ring register, defines a ring in
the carve-out and binds it empty, or binds a defined ring; the bound register's RINGBn reads back the ring. -/
def Obligations.VectorLengthAndRings : Prop :=
  (
  ∀ (s : State) (mk : Bool) (d a : Reg) (e : EW) (m : BitVec 10),
    let most := s.cl.rlen / ewBits e
    let sets (n : Nat) (t : State) : Prop := s.OthersKept t ∧
      s.thr.Wrote t.thr d (BitVec.ofNat 64 n) ∧ t.thr.csrGet csrLEN = BitVec.ofNat 64 n ∧ t.thr.ewNow = e ∧
      t.thr.leaseMin = min (bits (s.thr.csrGet csrLEASE) 0 5) 16 ∧ t.thr.leaseMin ≤ t.thr.leasePref ∧ t.thr.leasePref ≤ 16 ∧
      bits (t.thr.csrGet csrLEASE) 16 5 = min t.thr.leaseMin (16 - ((List.range s.cl.nthr).map fun i =>
        let u := s.thread (s.cc * 4 + i)
        if i = s.ct ∨ u.live = false then 0 else bits (u.csrGet csrLEASE) 16 5).sum) ∧
      bits (t.thr.csrGet csrLEASE) 0 16 = bits (s.thr.csrGet csrLEASE) 0 16 ∧ t.thr.pend = s.thr.pend ∧
      (∀ k, k ≠ csrLEN → k ≠ csrEW → k ≠ csrLEASE → (s.thr.loop = none ∨ k < csrLIX0 ∨ csrLOFF < k) →
        t.thr.csrGet k = s.thr.csrGet k) ∧ (s.thr.loop = none → t.thr.pc = s.thr.pc + 4)
    (s.OperandsReady [a] [d] → Answers (exec (.setvl mk d a e) s)
      (sets (if (s.rs a).toInt ≤ 0 then 0 else min (s.rs a).toNat most))) ∧
    (s.OperandsReady [] [d] →
      let ctx := bits (s.thr.csrGet csrPSTATE) 48 16
      (Sparse.getD s.depcnt ctx 0).getLsbD 63 = false →
      Answers (exec (.vsetli mk d e m) s) fun t => sets (min m.toNat most) t ∧
        bits (Sparse.getD t.depcnt ctx 0) 0 32 = min (bits (Sparse.getD s.depcnt ctx 0) 0 32 + 1) (2 ^ 32 - 1))
  ) ∧
  (
  ∀ (s : State) (mk : Bool) (d a : Reg), s.OperandsReady [a] [] → s.thr.vq = [] → 28 ≤ d.toNat →
    let w := s.rs a
    let q := bits w 48 3
    let v := d.toNat
    let n := csrRINGB0 + (v - 28)
    let base := bits w 32 11
    let size := bits w 16 9
    let port : Bool := w.getLsbD 61
    let binds (t : State) (r : Ring) : Prop := s.OthersKept t ∧ s.thr.SameRegisters t.thr ∧
      (s.thr.loop = none → t.thr.pc = s.thr.pc + 4) ∧ Sparse.find? q t.cl.rings = some r ∧
      (∀ k, k ≠ q → Sparse.find? k t.cl.rings = Sparse.find? k s.cl.rings) ∧
      (let x := t.csrView n
       x.getLsbD 63 = true ∧ x.getLsbD 62 = r.port ∧ bits x 59 3 = q ∧ bits x 48 11 = r.base ∧ bits x 39 9 = r.size % 512) ∧
      ∀ k, k ≠ n → (s.thr.loop = none ∨ k < csrLIX0 ∨ csrLOFF < k) → t.thr.csrGet k = s.thr.csrGet k
    bits w 51 10 = 0 → bits w 43 5 = 0 → bits w 25 7 = 0 → bits w 0 16 = 0 →
    (bits w 62 2 = 0 → Answers (exec (.ringcfg mk d a) s) fun t => s.OnlyThread t ∧ s.thr.SameRegisters t.thr ∧
      t.thr.csrGet n = 0 ∧ t.csrView n = 0 ∧
      ∀ k, k ≠ n → (s.thr.loop = none ∨ k < csrLIX0 ∨ csrLOFF < k) → t.thr.csrGet k = s.thr.csrGet k) ∧
    (bits w 62 2 = 2 → (∀ x ∈ s.cellBindings, x.2.2 ≠ q) → 0 < size → size ≤ 480 → s.cl.carveLo ≤ base * 128 →
      (base + size) * 128 ≤ s.cl.carveHi → s.bindRefused v q port = false →
      Answers (exec (.ringcfg mk d a) s) fun t => binds t ⟨port, base, size, 0, 0⟩) ∧
    (∀ r, bits w 62 2 = 1 → Sparse.find? q s.cl.rings = some r → r.base < 2048 → s.bindRefused v q r.port = false →
      Answers (exec (.ringcfg mk d a) s) fun t => binds t r) ∧
    (bits w 62 2 = 3 → exec (.ringcfg mk d a) s = .next (s.trap { code := 0x02, tval := w }))
  )

/-- R390 to R396: the geometric predicates. Each active element becomes its exact sign or case number; a NaN or an
infinity gives 0 and PD; the exception mask tells a degenerate element or one with a selected flag. R392: the four determinant predicates on integer coordinates are the signs of their determinants. -/
def Obligations.GeometricPredicatesAndSigns : Prop :=
  (
  ∀ (s : State) (mk x : Bool) (d a k : Reg), s.VectorReady → s.thr.ewNow = .e32 ∨ s.thr.ewNow = .e64 →
    let n := s.thr.lenNow
    let w := ewBits s.thr.ewNow
    let on := s.thr.on k x
    let evaluates (i : Instr) (g : GeomShape) : Prop :=
      let size := g.d * g.p + if g.keys then g.p else 0
      let word (j r : Nat) : Nat := elemGet (s.thr.readV (a.toNat + r)) w j
      let val (j : Nat) : GeomRes := geomEval g w ((List.range (g.d * g.p)).map (word j))
        (if g.keys then (List.range g.p).map fun p => word j (g.d * g.p + p) % 2 ^ 32 else [])
      let fl := raisedBy n on fun j => (0, (val j).fl)
      a.toNat + size ≤ 32 → (d.toNat < a.toNat ∨ a.toNat + size ≤ d.toNat) → fl &&& s.thr.fpEn = 0 →
      Answers (exec i s) fun t => s.OnlyThread t ∧ s.thr.Through t.thr ∧
        t.thr.csrGet csrFPFLG = s.thr.csrGet csrFPFLG ||| fl.setWidth 64 ∧
        (∀ m, m ≠ csrFPFLG → (m < csrSTAGECNT0 ∨ csrSTAGECNT0 + 2 < m) →
          (s.thr.loop = none ∨ m < csrLIX0 ∨ csrLOFF < m) → t.thr.csrGet m = s.thr.csrGet m) ∧
        (∀ r, r ≠ d.toNat → t.thr.vreg r = s.thr.vreg r) ∧
        (∀ j, (j + 1) * w ≤ 8192 →
          t.thr.elem d w j = if j < n ∧ on j = true then (BitVec.ofInt w (val j).r).toNat else s.thr.elem d w j) ∧
        ∀ m j, j < 1024 → (t.thr.readM m).getLsbD j =
          if x = true ∧ m = k.toNat ∧ j < n ∧ on j = true then
            (val j).deg || decide ((val j).fl &&& (s.thr.csrGet csrXSEL).setWidth 7 ≠ 0)
          else (s.thr.readM m).getLsbD j
    evaluates (.vorient2 mk d a k x) ⟨3, 2, false, false, false, 0⟩ ∧ evaluates (.vorient3 mk d a k x) ⟨4, 3, false, false, false, 1⟩ ∧
    evaluates (.vincirc mk d a k x) ⟨4, 2, true, false, false, 2⟩ ∧ evaluates (.vinsph mk d a k x) ⟨5, 3, true, false, false, 3⟩ ∧
    evaluates (.vsegx mk d a k x) ⟨4, 2, false, true, false, 4⟩ ∧ evaluates (.vorient2t mk d a k x) ⟨3, 2, false, false, true, 8⟩ ∧
    evaluates (.vorient3t mk d a k x) ⟨4, 3, false, false, true, 9⟩ ∧ evaluates (.vincirct mk d a k x) ⟨4, 2, true, false, true, 10⟩ ∧
    evaluates (.vinspht mk d a k x) ⟨5, 3, true, false, true, 11⟩
  ) ∧
  (
  ∀ (k : Bool) (f : Nat) (p q r u v : Int × Int × Int),
    let two (p : Int × Int × Int) : List Poly := [polyConst p.1, polyConst p.2.1]
    let three (p : Int × Int × Int) : List Poly := [polyConst p.1, polyConst p.2.1, polyConst p.2.2]
    let sq2 (p : Int × Int × Int) : Int := p.1 ^ 2 + p.2.1 ^ 2
    let sq3 (p : Int × Int × Int) : Int := p.1 ^ 2 + p.2.1 ^ 2 + p.2.2 ^ 2
    geomSign ⟨3, 2, false, false, k, f⟩ [two p, two q, two r] =
      (Matrix.det !![p.1, p.2.1, 1; q.1, q.2.1, 1; r.1, r.2.1, 1]).sign ∧
    geomSign ⟨4, 3, false, false, k, f⟩ [three p, three q, three r, three u] =
      (Matrix.det !![p.1, p.2.1, p.2.2, 1; q.1, q.2.1, q.2.2, 1; r.1, r.2.1, r.2.2, 1; u.1, u.2.1, u.2.2, 1]).sign ∧
    geomSign ⟨4, 2, true, false, k, f⟩ [two p, two q, two r, two u] =
      (Matrix.det !![p.1, p.2.1, sq2 p, 1; q.1, q.2.1, sq2 q, 1; r.1, r.2.1, sq2 r, 1; u.1, u.2.1, sq2 u, 1]).sign ∧
    geomSign ⟨5, 3, true, false, k, f⟩ [three p, three q, three r, three u, three v] =
      (Matrix.det !![p.1, p.2.1, p.2.2, sq3 p, 1; q.1, q.2.1, q.2.2, sq3 q, 1; r.1, r.2.1, r.2.2, sq3 r, 1;
        u.1, u.2.1, u.2.2, sq3 u, 1; v.1, v.2.1, v.2.2, sq3 v, 1]).sign
  )

/-- R214, R343, R344, R342: TCFG and ACFG give the register a shape that fits, with all its bytes zero, and refuse one
that does not; TZERO and AZERO zero its bytes; the row moves copy one row between the register and the low
bytes of a vector register, and refuse a register without rows, a row past its rows and a row wider than
the vector register. What is written becomes dirty in TSTAT (R246). -/
def Obligations.TileControl : Prop :=
  ∀ (s : State) (mk acc : Bool) (n : BitVec 3) (x : Reg) (r : BitVec 6), s.TileReady [(acc, n.toNat)] →
    let k := n.toNat
    let h := s.thr.shape acc k
    let o := r.toNat * h.rb
    let dirty (t : State) : Prop := bits (t.thr.csrGet csrTSTAT) (if acc then 8 + k else k) 1 = 1
    let done (t : State) (regs : List Nat) : Prop := s.OnlyThread t ∧ s.thr.TileThrough t.thr regs
    (let cfg : Instr := if acc then .acfg mk n x else .tcfg mk n x
     let v := s.rs x
     (shapeOk acc (s.cl.tileCap acc) v = true → Answers (exec cfg s) fun t => done t [cfgCsr acc k, csrTSTAT] ∧
       s.thr.SameRegisters t.thr ∧ t.thr.csrGet (cfgCsr acc k) = v ∧ t.thr.tileGet acc k = 0 ∧
       s.thr.TilesKept t.thr acc k ∧ dirty t) ∧
     (shapeOk acc (s.cl.tileCap acc) v = false → s.Trapped 0x02 v (exec cfg s))) ∧
    (h.rows * h.rb ≤ 4096 → Answers (exec (if acc then .azero mk n else .tzero mk n) s) fun t => done t [csrTSTAT] ∧
      s.thr.SameRegisters t.thr ∧ s.thr.TilesKept t.thr acc k ∧ dirty t ∧
      ∀ q, q < 4096 → t.thr.tileAt acc k q 1 = if q < h.rows * h.rb then 0 else s.thr.tileAt acc k q 1) ∧
    (r.toNat < h.rows → h.rb ≤ s.cl.rlen / 8 → s.cl.rlen ≤ 8192 → h.rows * h.rb ≤ 4096 →
      (Answers (exec (if acc then .agetr mk n x r else .tgetr mk n x r) s) fun t => done t [] ∧
        (∀ b j, t.thr.tileGet b j = s.thr.tileGet b j) ∧ (∀ j, j ≠ x.toNat → t.thr.vreg j = s.thr.vreg j) ∧
        (t.thr.readV x.toNat).toNat % 2 ^ (8 * h.rb) = s.thr.tileAt acc k o h.rb ∧
        (t.thr.readV x.toNat).toNat / 2 ^ (8 * h.rb) = (s.thr.readV x.toNat).toNat / 2 ^ (8 * h.rb)) ∧
      Answers (exec (if acc then .asetr mk n x r else .tsetr mk n x r) s) fun t => done t [csrTSTAT] ∧
        s.thr.SameRegisters t.thr ∧ s.thr.TilesKept t.thr acc k ∧ dirty t ∧
        t.thr.tileAt acc k o h.rb = (s.thr.readV x.toNat).toNat % 2 ^ (8 * h.rb) ∧
        ∀ q, q < 4096 → (q < o ∨ o + h.rb ≤ q) → t.thr.tileAt acc k q 1 = s.thr.tileAt acc k q 1) ∧
    ∀ i ∈ [if acc then Instr.agetr mk n x r else .tgetr mk n x r, if acc then .asetr mk n x r else .tsetr mk n x r],
      (h.rows = 0 → s.Trapped 0x02 (BitVec.ofNat 64 ((if acc then 4 else 3) * 256 + k)) (exec i s)) ∧
      (0 < h.rows → h.rows ≤ r.toNat → s.Trapped 0x02 (r.setWidth 64) (exec i s)) ∧
      (r.toNat < h.rows → s.cl.rlen / 8 < h.rb → s.Trapped 0x02 (BitVec.ofNat 64 h.rb) (exec i s))

/-- R345, R346, R224: TTRANS transposes the elements of a tile; ACVT rounds or moves an accumulator's elements into a
tile of the same rows and elements, or packs each 32 of them as a CB block with its scale record; its flags
join FPFLG. -/
def Obligations.TileTransposeAndConvert : Prop :=
  ∀ (s : State) (mk : Bool) (n m : BitVec 3),
    let d := s.thr.shape false n.toNat
    let D (t : State) (r q z : Nat) : Nat := t.thr.tileAt false n.toNat (r * d.rb + q) z
    let kept (t : State) (regs : List Nat) : Prop := s.OnlyThread t ∧ s.thr.TileThrough t.thr regs ∧
      s.thr.SameRegisters t.thr ∧ s.thr.TilesKept t.thr false n.toNat
    d.rows ≠ 0 → d.rows * d.rb ≤ 4096 →
    (let a := s.thr.shape false m.toNat
     let z := fmtBytes a.fmt
     s.TileReady [(false, n.toNat), (false, m.toNat)] → a.rows * a.rb ≤ 4096 → n ≠ m → d.fmt = a.fmt → a.fmt < 8 →
     a.rows ≠ 0 → d.rows = a.rb / z → d.rb / z = a.rows →
     Answers (exec (.ttrans mk n m) s) fun t => kept t [csrTSTAT] ∧ ∀ r c, r < d.rows → c < a.rows →
       D t r (c * z) z = s.thr.tileAt false m.toNat (c * a.rb + r * z) z) ∧
    (let a := s.thr.shape true m.toNat
     let z := fmtBytes a.fmt
     let el (r c : Nat) : Nat := s.thr.tileAt true m.toNat (r * a.rb + c * z) z
     s.TileReady [(false, n.toNat), (true, m.toNat)] → a.rows = d.rows → d.elems = a.elems → acvtOk a.fmt d.fmt = true →
     (d.fmt < 8 →
       let y := fmtBytes d.fmt
       let conv (r c : Nat) : Nat × Flags :=
         if d.fmt = 7 then (el r c, 0)
         else if d.fmt = 6 then
           (let v := (BitVec.ofNat 32 (el r c)).toInt
            if v < -128 then (128, flSAT) else if 127 < v then (127, flSAT) else ((BitVec.ofInt 8 v).toNat, 0))
         else (fmtOfCode d.fmt).narrow (s.thr.rmOf .dyn) ((s.thr.csrGet csrFPCTL).getLsbD 19) ((fmtOfCode a.fmt).decode (el r c))
       let fl := ((List.range d.rows).flatMap fun r => (List.range d.elems).map fun c => (conv r c).2).foldl (· ||| ·) 0
       fl &&& s.thr.fpEn = 0 →
       Answers (exec (.acvt mk n m) s) fun t => kept t [csrTSTAT, csrFPFLG] ∧
         t.thr.csrGet csrFPFLG = s.thr.csrGet csrFPFLG ||| fl.setWidth 64 ∧
         ∀ r c, r < d.rows → c < d.elems → D t r (c * y) y = (conv r c).1 % 2 ^ (8 * y)) ∧
     (8 ≤ d.fmt → d.fmt ≤ 10 →
       let mw := cbMag d.fmt
       let bb := cbBytes d.fmt
       let cb (r b : Nat) := toCB (s.thr.rmOf .dyn) mw ((List.range 32).map fun i => fmtS.decode (el r (32 * b + i)))
       let fl := ((List.range d.rows).flatMap fun r => (List.range d.nb).map fun b => (cb r b).2).foldl (· ||| ·) 0
       fl &&& s.thr.fpEn = 0 →
       Answers (exec (.acvt mk n m) s) fun t => kept t [csrTSTAT, csrFPFLG] ∧
         t.thr.csrGet csrFPFLG = s.thr.csrGet csrFPFLG ||| fl.setWidth 64 ∧
         ∀ r b, r < d.rows → b < d.nb → D t r (b * bb) bb = (packBlock mw (cb r b).1).1 % 2 ^ (8 * bb) ∧
           D t r (d.nb * bb + 4 * b) 4 = (packBlock mw (cb r b).1).2 % 2 ^ 32))

/-- R347 to R349: TLD, TST, ALD and AST on the local window. Row `r` lies at the base plus `r` times PITCH; in a CB format
its blocks lie there and its scale records, 24 bits each, at the address in the next scalar register. -/
def Obligations.TileMemory : Prop :=
  ∀ (s : State) (mk acc : Bool) (n : BitVec 3) (x : Reg), s.TileReady [(acc, n.toNat)] → s.PoolQuiet →
    let k := n.toNat
    let h := s.thr.shape acc k
    let cb : Bool := decide (8 ≤ h.fmt)
    let bb := cbBytes h.fmt
    let pitch := ((s.thr.csrGet csrPITCH).setWidth 32).toInt
    let line (r : Nat) : Int := r * pitch
    let spans (r : Nat) : List (Word × Nat × Nat × Nat) :=
      if cb then
        (List.range h.nb).flatMap fun j =>
          [(s.rs x + BitVec.ofInt 64 (line r + (j * bb : Nat)), j * bb, bb, 8 * bb),
           (s.rs (x + 1) + BitVec.ofInt 64 (4 * (r * (pitch / bb) + j)), h.nb * bb + 4 * j, 4, 24)]
      else [(s.rs x + BitVec.ofInt 64 (line r), 0, h.rb, 8 * h.rb)]
    let z := if cb then 1 else fmtBytes h.fmt
    let o (p : Word × Nat × Nat × Nat) : Nat := p.1.toNat - winUser
    shapeOk acc (s.cl.tileCap acc) (s.thr.csrGet (cfgCsr acc k)) = true → h.rows ≠ 0 → h.rows * h.rb ≤ 4096 →
    (acc = false → Sparse.getD s.thr.tcfgSeen k (s.thr.csrGet (cfgCsr acc k)) = s.thr.csrGet (cfgCsr acc k)) →
    (cb = true → x.toNat % 2 = 0 ∧ x.toNat ≤ 28 ∧ pitch ≠ 0 ∧ pitch % bb = 0) →
    (∀ r, r < h.rows → ∀ p ∈ spans r, winUser ≤ p.1.toNat ∧ o p + p.2.2.1 ≤ s.cl.spadBytes ∧
      p.1.toNat % (if cb ∧ p.2.2.2 = 24 then 4 else z) = 0) →
    ((∀ r, r < h.rows → ∀ p ∈ spans r, s.poolPoisoned s.cc (o p) p.2.2.1 = false) →
      Answers (exec (if acc then .ald mk n x else .tld mk n x) s) fun t => s.OnlyThread t ∧
        s.thr.TileThrough t.thr [csrTSTAT] ∧ s.thr.SameRegisters t.thr ∧ s.thr.TilesKept t.thr acc k ∧
        ∀ r, r < h.rows → ∀ p ∈ spans r,
          t.thr.tileAt acc k (r * h.rb + p.2.1) p.2.2.1 = s.poolRead s.cc (o p) p.2.2.1 % 2 ^ p.2.2.2) ∧
    Answers (exec (if acc then .ast mk n x else .tst mk n x) s) fun t => s.OthersKept t ∧
      s.thr.TileThrough t.thr [] ∧ s.thr.SameRegisters t.thr ∧ (∀ b j, t.thr.tileGet b j = s.thr.tileGet b j) ∧
      (∀ c, c ≠ s.cc → t.cell c = s.cell c) ∧
      (∀ q, (∀ r, r < h.rows → ∀ p ∈ spans r, q < o p ∨ o p + p.2.2.1 ≤ q) → t.poolByte s.cc q = s.poolByte s.cc q) ∧
      ∀ r, r < h.rows → ∀ p ∈ spans r,
        (∀ r', r' < h.rows → ∀ p' ∈ spans r', (r' = r ∧ p' = p) ∨ o p + p.2.2.1 ≤ o p' ∨ o p' + p'.2.2.1 ≤ o p) →
        t.poolRead s.cc (o p) p.2.2.1 = s.thr.tileAt acc k (r * h.rb + p.2.1) p.2.2.1 % 2 ^ p.2.2.2

/-- R230, R245, R351 to R354: the matrix multiply-accumulates. With matching shapes, element (i, j) of the accumulator
becomes, for TMMA.I8, itself plus the signed products mod 2^32, and for the other pairs the result of the
accumulation steps of R230 over the groups of row i of A and row j of B; all flags join FPFLG. -/
def Obligations.MatrixMultiply : Prop :=
  ∀ (s : State) (mk : Bool) (n a b : BitVec 3) (x : Reg), s.TileReady [(true, n.toNat), (false, a.toNat), (false, b.toNat)] →
    let hc := s.thr.shape true n.toNat
    let ha := s.thr.shape false a.toNat
    let hb := s.thr.shape false b.toNat
    hc.rows ≠ 0 → ha.rows ≠ 0 → hb.rows ≠ 0 → ha.rows = hc.rows → ha.elems = hb.elems → hb.rows = hc.elems →
    hc.rows * hc.rb ≤ 4096 → hc.rb % fmtBytes hc.fmt = 0 →
    let old (i j : Nat) : Nat := s.thr.tileAt true n.toNat (i * hc.rb + j * fmtBytes hc.fmt) (fmtBytes hc.fmt)
    let gives (ins : Instr) (fl : Flags) (new : Nat → Nat → Nat) : Prop :=
      Answers (exec ins s) fun t => s.OnlyThread t ∧ s.thr.TileThrough t.thr [csrTSTAT, csrFPFLG] ∧
        s.thr.SameRegisters t.thr ∧ s.thr.TilesKept t.thr true n.toNat ∧
        t.thr.csrGet csrFPFLG = s.thr.csrGet csrFPFLG ||| fl.setWidth 64 ∧
        ∀ i j, i < hc.rows → j < hc.elems →
          t.thr.tileAt true n.toNat (i * hc.rb + j * fmtBytes hc.fmt) (fmtBytes hc.fmt) = new i j % 2 ^ (8 * fmtBytes hc.fmt)
    (ha.fmt = 6 → hb.fmt = 6 → hc.fmt = 7 →
      let byte (k : Nat) (h : Shape) (r q : Nat) : Int := (BitVec.ofNat 8 (s.thr.tileAt false k (r * h.rb + q) 1)).toInt
      gives (.tmmaI8 mk n a b) 0 fun i j => (BitVec.ofInt 32 (old i j +
        ((List.range ha.rb).map fun q => byte a.toNat ha i q * byte b.toNat hb j q).sum)).toNat) ∧
    ∀ y ∈ [(Instr.tmmaD mk n a b, (⟨0, 0, 0, false, 1⟩ : Pair)), (.tmmaHf mk n a b, ⟨2, 2, 1, false, 1⟩),
        (.tmmaBf mk n a b, ⟨3, 3, 1, false, 1⟩), (.tmmaE4e4 mk n a b x, ⟨4, 4, 1, true, 4⟩), (.tmmaE4e5 mk n a b x, ⟨4, 5, 1, true, 4⟩),
        (.tmmaE5e4 mk n a b x, ⟨5, 4, 1, true, 4⟩), (.tmmaE5e5 mk n a b x, ⟨5, 5, 1, true, 4⟩), (.tmmaC8 mk n a b x, ⟨8, 8, 1, true, 32⟩),
        (.tmmaC6 mk n a b x, ⟨9, 9, 1, true, 32⟩), (.tmmaC4 mk n a b x, ⟨10, 10, 1, true, 32⟩)],
      ha.fmt = y.2.a → hb.fmt = y.2.b → hc.fmt = y.2.c →
      let rm := if y.2.c = 0 then s.thr.rmOf .dyn else .rne
      let scale (lo : Nat) : FVal := fmtS.decode (if y.2.scales then bits (s.rs x) lo 32 else 0)
      let at' (k : Nat) (h : Shape) (r q : Nat) : FVal := tileVal (s.thr.tileGet false k) h r q
      let steps (i j : Nat) : Nat × Flags :=
        (List.range ((ha.elems + y.2.n - 1) / y.2.n)).foldl (fun (u : Nat × Flags) g =>
          let v := matStep y.2 rm (scale 0) (scale 32) ((List.range (min y.2.n (ha.elems - g * y.2.n))).map fun q =>
            (at' a.toNat ha i (g * y.2.n + q), at' b.toNat hb j (g * y.2.n + q))) u.1
          (v.1, u.2 ||| v.2)) (old i j, 0)
      let fl := ((List.range hc.rows).flatMap fun i => (List.range hc.elems).map fun j => (steps i j).2).foldl (· ||| ·) 0
      fl &&& s.thr.fpEn = 0 → gives y.1 fl fun i j => (steps i j).1

/-- R364, R369 to R377, R385: the stream instructions. SPAT stores a valid pattern word in its slot; SCMD and GMCAST put
one command at the end of the cell's stream queue and into the open batch, and stall while it is full; SSEAL
numbers the open batch; SWAITB observes the finished batches and sums up their states; SSTAT reports one
batch; SCLOSE marks the thread's route of a port; SCANCEL stops the thread's commands, waits for those whose writes
are under way, and a truncation marker ends each of its routes. -/
def Obligations.StreamInstructions : Prop :=
  ∀ (s : State) (mk : Bool) (d a b : Reg) (n : BitVec 5), s.thr.pend = [] → s.thr.poison = [] →
    let w : BitVec 256 := (s.thr.readV a.toNat).setWidth 256
    let goesOn (t : State) : Prop := s.thr.loop = none → t.thr.pc = s.thr.pc + 4
    let stalls (i : Instr) : Prop := Answers (exec i s) fun t => s.OnlyThread t ∧ s.thr.SameRegisters t.thr ∧
      t.thr.pc = s.thr.pc ∧ t.thr.park = .stalled
    let joins (i : Instr) (spans : Bool) (q : Cmd → Prop) : Prop := Answers (exec i s) fun t =>
      s.OthersKept t ∧ s.thr.SameRegisters t.thr ∧ goesOn t ∧
        (∃ k, q k ∧ k.slot = s.cur ∧ k.id = s.thr.seq ∧ k.pc = s.thr.pc ∧ k.running = false ∧ k.elem = 0 ∧
          t.cl.stream = s.cl.stream ++ [k]) ∧
        t.thr.openCmds.map (·.id) = s.thr.openCmds.map (·.id) ++ [s.thr.seq] ∧ t.thr.seq = s.thr.seq + 1 ∧
        t.cl.rsb.length = s.cl.rsb.length + (if spans then 1 else 0)
    (n.toNat < 16 → 256 ≤ s.cl.rlen → patOk w = true → Answers (exec (.spat mk n a) s) fun t => s.OnlyThread t ∧
      s.thr.SameRegisters t.thr ∧ s.thr.Raised t.thr 0 ∧ goesOn t ∧ t.thr.slotPat n.toNat = some w ∧
      ∀ k, k ≠ n.toNat → t.thr.slotPat k = s.thr.slotPat k) ∧
    (16 ≤ n.toNat → exec (.spat mk n a) s = .next (s.illegal (encode (.spat mk n a)))) ∧
    (n.toNat < 16 → 256 ≤ s.cl.rlen → patOk w = false →
      exec (.spat mk n a) s = .next (s.trap { code := 0x02, tval := w.extractLsb' 192 64 })) ∧
    (256 ≤ s.cl.rlen →
      (∀ i, s.cmdRefused w = some i → exec (.scmd mk a) s = .next (s.trap { code := 0x02, tval := w.extractLsb' (64 * i) 64 })) ∧
      (s.cmdRefused w = none → ∀ p k, s.thr.slotPat (swSlot w) = some p → swKind w = some k →
        let spans := s.cmdSpans s.cur w p k ++ cmdWindows w p k
        (s.cmdFull spans = true → stalls (.scmd mk a)) ∧
        (s.cmdFull spans = false → joins (.scmd mk a) (decide (spans ≠ [])) fun q =>
          q.word = w ∧ q.pat = p ∧ q.port = swPort w ∧ q.mcast = none))) ∧
    (∀ g, s.gangOf s.cur = some g →
      let x := s.rs a
      let o := bits x 0 18
      let full : Prop := 32 ≤ s.cl.stream.length ∨ 16 ≤ s.cl.rsb.length
      g.desc.level ≠ 0 → (x.getLsbD 32 = true → g.desc.level ≤ 2) → bits x 33 31 = 0 → bits x 25 1 = 0 → o % 128 = 0 →
      o + (bits x 18 7 + 1) * 128 ≤ s.cl.spadBytes →
      (full → stalls (.gmcast mk a b)) ∧
      (¬full → joins (.gmcast mk a b) true fun q => q.mcast = some (x, s.rs b))) ∧
    (s.thr.unfinished < 16 → Answers (exec (.sseal mk d) s) fun t => (∀ k, k ≠ s.cur → (s.thread k).SameRegisters (t.thread k)) ∧
      (∀ a, t.memByte a = s.memByte a) ∧ s.thr.Wrote t.thr d (BitVec.ofNat 64 s.thr.nextBatch) ∧ goesOn t ∧
      t.thr.openCmds = [] ∧ t.thr.nextBatch = (s.thr.nextBatch + 1) % 65536 ∧
      ∃ x, t.thr.batches.getLast? = some x ∧ x.num = s.thr.nextBatch ∧ x.observed = false ∧
        x.cmds.map (·.id) = s.thr.openCmds.map (·.id)) ∧
    (16 ≤ s.thr.unfinished → stalls (.sseal mk d)) ∧
    (n.toNat < 17 → s.thr.unfinished ≤ n.toNat → (∀ x ∈ s.thr.batches, x.heldFault = none ∧ x.num < 65536) →
      let new := s.thr.finishedBatches.filter fun x => !x.observed
      let some' (c : CmdStatus) : Bool := new.any fun x => decide (x.status = c)
      ∃ v : Word, bits v 32 5 = min new.length 16 ∧ v.getLsbD 2 = some' .cancelled ∧ v.getLsbD 1 = some' .truncated ∧
        v.getLsbD 0 = some' .poisoned ∧ v.getLsbD 37 = (new.any fun x => decide (x.status ≠ .ok)) ∧
        bits v 48 16 = (match new.find? fun x => decide (x.status ≠ .ok) with | some x => x.num | none => 0) ∧
        Answers (exec (.swaitb mk d n) s) fun t => s.OnlyThread t ∧ s.thr.Wrote t.thr d v ∧ goesOn t ∧
          s.thr.Raised t.thr (new.foldl (fun f x => x.cmds.foldl (fun f c => f ||| c.flags) f) 0)) ∧
    (n.toNat < 17 → n.toNat < s.thr.unfinished → stalls (.swaitb mk d n)) ∧
    (bits (s.rs a) 16 48 = 0 →
      let kept := (s.thr.batches.drop (s.thr.batches.length - 16)).find? fun x => decide (x.num = (s.rs a).toNat)
      ∃ v, Completes s mk d v 0 [] (exec (.sstat mk d a) s) ∧ (kept = none → v = 0) ∧
        ∀ x, kept = some x →
          bits v 62 2 = (if x.num ∈ s.thr.finishedBatches.map (·.num) then if x.observed then 2 else 3 else 1) ∧
          bits v 59 3 = x.status.code ∧ bits v 32 22 = min (x.cmds.map (·.pois.length)).sum (2 ^ 22 - 1) ∧
          ∀ c, x.firstBad = some c → bits v 54 5 = min c.1 31 ∧ bits v 0 32 = c.2.off % 2 ^ 32) ∧
    (n.toNat < 4 →
      ((∃ k ∈ s.cl.stream, k.slot = s.cur ∧ k.port = n.toNat) → stalls (.sclose mk n)) ∧
      ((∀ k ∈ s.cl.stream, ¬(k.slot = s.cur ∧ k.port = n.toNat)) → Answers (exec (.sclose mk n) s) fun t =>
        s.OthersKept t ∧ Completed s t mk 31 0 0 [] ∧ t.cl.ports = s.cl.ports.map fun r =>
          if r.1 = n.toNat ∧ r.2.slot = s.cur ∧ r.2.due = none then (r.1, { r.2 with due := some false }) else r)) ∧
    (4 ≤ n.toNat → exec (.sclose mk n) s = .next (s.illegal (encode (.sclose mk n)))) ∧
    Answers (exec (.scancel mk) s) fun t => (∀ k, (s.thread k).SameRegisters (t.thread k)) ∧
      (∀ a, t.memByte a = s.memByte a) ∧
      ((∃ q ∈ t.cl.stream, q.slot = s.cur) → t.thr.pc = s.thr.pc ∧ t.thr.park = .stalled) ∧
      ((∀ q ∈ t.cl.stream, q.slot ≠ s.cur) → goesOn t) ∧
      (t.cl.stream.filter fun k => decide (k.slot ≠ s.cur)) = (s.cl.stream.filter fun k => decide (k.slot ≠ s.cur)) ∧
      (∀ k ∈ s.cl.stream, k.slot = s.cur → k.ending = false →
        if s.cmdFlying k ∨ s.cmdInFlight k then ∃ q ∈ t.cl.stream, q.slot = s.cur ∧ q.id = k.id ∧ q.ending = true
        else ∀ q ∈ t.cl.stream, ¬(q.slot = s.cur ∧ q.id = k.id)) ∧
      (∀ r ∈ t.cl.ports, r.2.slot ≠ s.cur) ∧
      ∀ r ∈ s.cl.ports, r.2.slot = s.cur → ∃ l ∈ t.flitsAt (combOf s.cc), ∃ x, l.load = .route x ∧ x.op = .trunc ∧
        x.cell = s.cc ∧ x.port = r.1 ∧ x.slot = s.cur

/-- R379 to R383, R386: cell barriers, message registers and counters, YIELD and GINFO. BARRIVE returns the generation
and the last arrival ends it; BWAIT and BSYNC wait for its end; MWAIT takes its count from a counter in the
order of the waiters; MSEND sends one word to a member of the gang; GINFO tells the member's place in it. R82, R147, R384: gang barriers on a bound id. GARRIVE and the first run of GBAR and GBARJ count one arrival at the
router of the thread's comb; GARRIVE goes on with the generation, the others wait for its end; GWAITB, and
GBAR run again, go on once it has ended and its completion has reached the cell. An arrival counts for the first
generation whose arrivals have not all been made. -/
def Obligations.BarriersAndMessages : Prop :=
  (
  ∀ (s : State) (mk : Bool) (d a b : Reg) (m : BitVec 6) (q : BitVec 2),
    let id := (s.rs a).toNat
    let x := s.cl.bar id
    let goesOn (t : State) : Prop := s.thr.loop = none → t.thr.pc = s.thr.pc + 4
    let parks (i : Instr) (p : Park) : Prop := Answers (exec i s) fun t => s.OthersKept t ∧ s.thr.SameRegisters t.thr ∧
      t.thr.pc = s.thr.pc ∧ t.thr.park = p
    let last := x.arr + 1 = x.exp
    let arrived (t : State) : Prop := t.cl.bar id =
      (if last then { x with arr := 0, gen := (x.gen + 1) % 65536 } else { x with arr := x.arr + 1 }) ∧
      ∀ j, j ≠ id → t.cl.bar j = s.cl.bar j
    (s.OperandsReady [a, b] [] → id < 512 → 0 < (s.rs b).toNat → (s.rs b).toNat ≤ 65535 → x.bind ≠ .gang →
      (x.bind = .cell → x.arr = 0) → Answers (exec (.binit mk a b) s) fun t => s.OthersKept t ∧ Completed s t mk 31 0 0 [] ∧
        t.cl.bar id = { x with bind := .cell, exp := (s.rs b).toNat, arr := 0, owner := s.ct } ∧
        ∀ j, j ≠ id → t.cl.bar j = s.cl.bar j) ∧
    (s.OperandsReady [a] [d] → (512 ≤ id ∨ x.bind ≠ .cell) → exec (.barrive mk d a) s = .next (s.trap { code := 0x02, tval := s.rs a })) ∧
    (id < 512 → x.bind = .cell →
      (s.OperandsReady [a] [d] → s.Released psBar .cell → Answers (exec (.barrive mk d a) s) fun t => s.OthersKept t ∧
        Completed s t mk 31 0 0 (if d = 31 then [] else underWay d (BitVec.ofNat 64 x.gen)) ∧ arrived t) ∧
      (s.OperandsReady [a, b] [] →
        ((s.rs b).toNat = x.gen → parks (.bwait mk a b) (.bwait id x.gen)) ∧
        ((s.rs b).toNat ≠ x.gen → Completes s mk 31 0 0 [] (exec (.bwait mk a b) s))) ∧
      (s.OperandsReady [a] [] → (∀ w ∈ s.thr.tokens, ¬(w.pc = s.thr.pc ∧ w.id = id)) → s.Released psBar .cell →
        x.gen < 65536 →
        (last → Answers (exec (.bsync mk a) s) fun t => s.OthersKept t ∧ Completed s t mk 31 0 0 [] ∧ arrived t) ∧
        (¬last → Answers (exec (.bsync mk a) s) fun t => s.OthersKept t ∧ s.thr.SameRegisters t.thr ∧ arrived t ∧
          t.thr.pc = s.thr.pc ∧ t.thr.park = .bwait id x.gen ∧ t.thr.tokens = s.thr.tokens ++ [⟨s.thr.pc, id, x.gen⟩])) ∧
      (s.OperandsReady [a] [] → ∀ w, s.thr.arrived id = some w → x.gen ≠ w.gen → Answers (exec (.bsync mk a) s) fun t =>
        s.OthersKept t ∧ s.thr.SameRegisters t.thr ∧ goesOn t ∧ t.cl.bar id = x ∧
          ∀ v ∈ t.thr.tokens, ¬(v.pc = s.thr.pc ∧ v.id = id))) ∧
    (let need := (s.rs a).toNat
     let v := s.mcAt s.cc m.toNat
     let waiting := Sparse.getD s.cl.waiters m.toNat []
     s.OperandsReady [a] [d] → need < 2 ^ 32 →
     ((need = 0 ∨ (waiting = [] ∧ need ≤ v)) → Answers (exec (.mwait mk d a m) s) fun t =>
        s.OthersKept t ∧ s.thr.Wrote t.thr d (BitVec.ofNat 64 v) ∧ goesOn t ∧
          t.mcAt s.cc m.toNat = v - need ∧ ∀ j, j ≠ m.toNat → t.mcAt s.cc j = s.mcAt s.cc j) ∧
     (0 < need → waiting = [] → v < need → Answers (exec (.mwait mk d a m) s) fun t => s.OthersKept t ∧
        s.thr.SameRegisters t.thr ∧ t.thr.pc = s.thr.pc ∧ t.thr.park = .mwait m.toNat need ∧
        Sparse.getD t.cl.waiters m.toNat [] = [s.ct] ∧ t.mcAt s.cc m.toNat = v)) ∧
    (∀ g, s.OperandsReady [a, b] [] → s.gangOf s.cur = some g →
      let w := s.rs b
      let r := bits w 0 19
      let dest := g.slots.getD r 0
      s.Released (psLS ||| psMS) (scopeOf s.cc (cellOf dest)) →
      bits w 28 36 = 0 → r < g.desc.n * g.desc.k → Answers (exec (.msend mk a b) s) fun t =>
        (∀ k, (s.thread k).SameRegisters (t.thread k)) ∧ goesOn t ∧ ∃ l : Flit, (t.flitsAt (combOf s.cc)).getLast? = some l ∧
          l.dst = combOf (cellOf dest) ∧ l.ep = physOf (cellOf dest) ∧ l.tc = bits (s.thr.csrGet csrNETCTL) 2 2 ∧
          l.load = .msg ⟨s.cur, dest, s.rs a, bits w 19 2, bits w 21 6, w.getLsbD 27⟩) ∧
    (s.OperandsReady [] [d] → Completes s mk d (s.thr.readMb q.toNat) 0 [] (exec (.mrd mk d q) s)) ∧
    (s.OperandsReady [a] [] → Answers (exec (.mwr mk a q) s) fun t => s.OnlyThread t ∧ goesOn t ∧
      t.thr.readMb q.toNat = s.rs a ∧ (∀ j, j ≠ q.toNat → t.thr.readMb j = s.thr.readMb j) ∧
      (∀ i, t.thr.vreg i = s.thr.vreg i) ∧ ∀ i, t.thr.readM i = s.thr.readM i) ∧
    (s.OperandsReady [a] [] →
      (s.rs a = 0 → Completes s mk 31 0 0 [] (exec (.yield mk a) s)) ∧
      (s.rs a ≠ 0 → bits (s.rs a) 16 48 = 0 → parks (.yield mk a) (.yield (s.cycle + (s.rs a).toNat) mk)) ∧
      (bits (s.rs a) 16 48 ≠ 0 → exec (.yield mk a) s = .next (s.trap { code := 0x02, tval := s.rs a }))) ∧
    (10 ≤ m.toNat → exec (.ginfo mk d m) s = .next (s.illegal (encode (.ginfo mk d m)))) ∧
    (m.toNat < 10 → s.OperandsReady [] [d] →
      let gives (v : Nat) : Prop := Completes s mk d (BitVec.ofNat 64 v) 0 [] (exec (.ginfo mk d m) s)
      (s.gangOf s.cur = none → gives 0) ∧
      ∀ g, s.gangOf s.cur = some g →
        let c := s.thr.rank / g.desc.k
        (m = 0 → gives s.thr.rank) ∧ (m = 1 → gives (g.desc.n * g.desc.k)) ∧ (m = 2 → gives g.desc.n) ∧ (m = 3 → gives g.desc.k) ∧
        (m = 4 → gives g.desc.level) ∧ (m = 5 → gives c) ∧ (m = 6 → gives (g.w * 65536 + g.h)) ∧
        (m = 7 → gives (if g.desc.level ≤ 2 then 0 else c / 16)) ∧ (m = 8 → gives g.desc.ctx) ∧
        (m = 9 → gives (if g.desc.fwd then 1 else 0)))
  ) ∧
  (
  ∀ (s : State) (mk : Bool) (d a b : Reg) (g : Gang),
    let id := (s.rs a).toNat
    let x := s.cl.bar id
    let y := s.gbar x.gid id
    let now := y.genNow
    let c := genAt now (combOf s.cc)
    let goesOn (t : State) : Prop := s.thr.loop = none → t.thr.pc = s.thr.pc + 4
    s.gangOf s.cur = some g → id < 512 → x.bind = .gang →
    let counted (t : State) (rejoin : Bool) : Prop :=
      let z := t.gbar x.gid id
      z.exp = y.exp ∧ z.gen = y.gen ∧ z.came = y.came ++ [s.thr.rank] ∧ z.down = y.down ∧
        Sparse.getD z.below c 0 = Sparse.getD y.below c 0 + 1 ∧
        (∀ k, k ≠ c → Sparse.getD z.below k 0 = Sparse.getD y.below k 0) ∧ z.tc = bits (s.thr.csrGet csrNETCTL) 2 2 ∧
        (rejoin = false → z.joins = y.joins) ∧
        (rejoin = true → Sparse.find? s.thr.rank z.joins = some (now * 2 ^ 64 + s.thr.pc.toNat))
    (s.OperandsReady [a] [d] → s.Released psBar (levelScope g.desc.level) → Answers (exec (.garrive mk d a) s) fun t =>
      (∀ k, (s.thread k).SameRegisters (t.thread k)) ∧ goesOn t ∧ counted t false ∧
        t.thr.pend = s.thr.pend ++ if d = 31 then [] else underWay d (BitVec.ofNat 64 now)) ∧
    (s.OperandsReady [a, b] [] →
      let n := (s.rs b).toNat
      (s.gangPassed id x n = true → Answers (exec (.gwaitb mk a b) s) fun t =>
        s.OthersKept t ∧ Completed s t mk 31 0 0 []) ∧
      (s.gangPassed id x n = false → Answers (exec (.gwaitb mk a b) s) fun t => s.OnlyThread t ∧ s.thr.SameRegisters t.thr ∧
        t.thr.pc = s.thr.pc ∧ t.thr.park = .gwait id n)) ∧
    (s.OperandsReady [a] [] → ∀ i ∈ [(Instr.gbar mk a, false), (.gbarj mk a, true)],
      (s.thr.arrived id = none → s.Released psBar (levelScope g.desc.level) → Answers (exec i.1 s) fun t =>
        (∀ k, (s.thread k).SameRegisters (t.thread k)) ∧ counted t i.2 ∧ t.thr.pc = s.thr.pc ∧
          t.thr.park = .gwait id now ∧ t.thr.tokens = s.thr.tokens ++ [⟨s.thr.pc, id, now⟩]) ∧
      ∀ w, s.thr.arrived id = some w → s.gangPassed id x w.gen = true → Answers (exec i.1 s) fun t =>
        s.OthersKept t ∧ s.thr.SameRegisters t.thr ∧ goesOn t ∧
          ∀ v ∈ t.thr.tokens, ¬(v.pc = s.thr.pc ∧ v.id = id))
  )

/-- R186 to R190, R387: the task instructions, after the release of R146. TKINIT arms a counter of a frame, at once
released for a count of zero; TKDEC counts it down, releases it at one and takes the task-underflow trap at
zero; TKPOP receives the next ready task, or waits for one; TKSTAT tells a counter's state. -/
def Obligations.Tasks : Prop :=
  ∀ (s : State) (mk : Bool) (d a b : Reg),
    let w := s.rs a
    let goesOn (t : State) : Prop := s.thr.loop = none → t.thr.pc = s.thr.pc + 4
    let regs (t : State) : Prop := ∀ k, (s.thread k).SameRegisters (t.thread k)
    let f := if w.getLsbD 19 then bits w 16 3 else frameOfComb (combOf s.cc)
    let id := bits w 0 16
    let x := s.ctr f id
    let idle (f p : Nat) : Prop := (s.readyQ f p).length < readyCap ∧ s.heldTasks f p = []
    (bits w 20 44 = 0 →
      (s.OperandsReady [a] [] → s.Released psAll .module →
        (2 ≤ x.count → Answers (exec (.tkdec mk a) s) fun t => regs t ∧ goesOn t ∧ t.ctr f id = { x with count := x.count - 1 } ∧
          ∀ k j, (k ≠ f ∨ j ≠ id) → k < 8 → f < 8 → j < 65536 → t.ctr k j = s.ctr k j) ∧
        (x.count = 1 → idle f x.prio → Answers (exec (.tkdec mk a) s) fun t => regs t ∧ goesOn t ∧
          t.ctr f id = { x with count := 0, armed := false } ∧
          (t.readyQ f x.prio).length = (s.readyQ f x.prio).length + 1 ∧
          ∃ r ∈ t.readyQ f x.prio, r.ctr = id ∧ r.task = x.task ∧ r.prio = x.prio) ∧
        (x.count = 0 → Answers (exec (.tkdec mk a) s) fun t => regs t ∧
          t.thr.mode = s.thr.trapMode { code := 0x0E } ∧
          bits (t.thr.csrGet (if t.thr.mode = .machine then csrMCAUSE else csrCAUSE)) 0 16 = 0x0E ∧
          t.thr.csrGet (if t.thr.mode = .machine then csrMTVAL else csrTVAL) = BitVec.ofNat 64 id)) ∧
      (s.OperandsReady [a] [d] → x.prio < 8 → x.count < 65536 →
        ∃ v : Word, bits v 0 16 = x.count ∧ bits v 16 3 = x.prio ∧ v.getLsbD 63 = x.armed ∧ v.getLsbD 62 = !x.held.isEmpty ∧
          Completes s mk 31 0 0 (if d = 31 then [] else underWay d v) (exec (.tkstat mk d a) s)) ∧
      (s.OperandsReady [d, a, b] [] → bits (s.rs d) 16 48 = 0 → (s.rs b).toNat % 64 = 0 → s.Released psAll .module →
        ∀ (u : State) (v : Nat), (∀ k, (s.relDrain s.cur psAll .module).lsReadClean (s.rs b) 8 k = k u v) → u.cur = s.cur →
          u.thr.pc = s.thr.pc → u.thr.loop = s.thr.loop → s.thr.SameRegisters u.thr →
          let e : Word := BitVec.ofNat 64 v
          bits e 16 48 = 0 → bits e 10 2 = 0 → (u.ctr f id).count = 0 → 0 < (s.rs d).toNat →
          Answers (exec (.tkinit mk d a b) s) fun t => goesOn t ∧
            t.ctr f id = ⟨(s.rs d).toNat, true, s.rs b, bits e 13 3, e.getLsbD 12, bits e 5 5, bits e 0 5, (u.ctr f id).held⟩)) ∧
    (bits w 20 44 ≠ 0 → s.OperandsReady [a] [] → exec (.tkdec mk a) s = .next (s.trap { code := 0x02, tval := w })) ∧
    (bits w 4 60 = 0 → s.OperandsReady [a] [d] →
      let f := if w.getLsbD 3 then bits w 0 3 else frameOfComb (combOf s.cc)
      let waiting := Sparse.getD s.pops f []
      (∀ r, s.nextTask f = some r → waiting = [] → Answers (exec (.tkpop mk d a) s) fun t =>
        s.OthersKept t ∧ s.thr.Wrote t.thr d r.task ∧ goesOn t ∧ t.readyQ f r.prio = (s.readyQ f r.prio).drop 1 ∧
          (r.lv = true → bits (t.thr.csrGet csrLEASE) 8 5 = r.pref % 32 ∧ bits (t.thr.csrGet csrLEASE) 0 5 = r.min % 32)) ∧
      (s.nextTask f = none → s.cur ∉ waiting → Answers (exec (.tkpop mk d a) s) fun t => s.OthersKept t ∧
        s.thr.SameRegisters t.thr ∧ t.thr.pc = s.thr.pc ∧ t.thr.park = .tkpop f d.toNat ∧
        Sparse.getD t.pops f [] = waiting ++ [s.cur]))

/-- R146, R158, R159, R161, R171 to R175, R388: the kernel operations, outside a loop body and after their release. With
`u` the state after the drain, LAUNCH of a descriptor that its checks accept puts the launch at the end of its
scheduler's queue, and waits while the queue is full; TRIGGER marks the member's rank; RETIRE ends the thread
and its membership; RELAY to a descriptor with the cell's partition word starts the successor in the slot at
ENTRY in U mode. An instruction that waits has read its descriptor and goes on with what it read. -/
def Obligations.KernelOperations : Prop :=
  ∀ (s : State) (mk : Bool) (a b : Reg), s.thr.inBody = false →
    let u := s.relDrain s.cur psAll .module
    let rank := s.thr.rank
    let idle := s.Released psAll .module
    let waits (w : State) (d : Desc) (t : State) : Prop := t.thr.park = .stalled ∧ t.thr.descHeld = some d ∧ t.thr.pc = w.thr.pc ∧
      ∀ k, (w.thread k).SameRegisters (t.thread k)
    let launches (w : State) (d : Desc) : Prop :=
      let q := unitOf d.level (frameOfComb (combOf s.cc))
      let now := { d with wv := d.wv && decide ((w.ctr d.wframe d.wctr).count ≠ 0) }
      ((w.queue q d.prio).length < launchCap →
        Answers (exec (.launch mk a) s) fun t => t.queue q d.prio = w.queue q d.prio ++ [Launch.new now] ∧
          (∀ k p, (k ≠ q ∨ p ≠ d.prio) → p < 8 → d.prio < 8 → t.queue k p = w.queue k p) ∧
          (w.thr.loop = none → t.thr.pc = s.thr.pc + 4) ∧ ∀ k, (w.thread k).SameRegisters (t.thread k)) ∧
      (launchCap ≤ (w.queue q d.prio).length → Answers (exec (.launch mk a) s) (waits w d))
    let m := bits (s.rs b) 0 9
    let relays (w : State) (d : Desc) : Prop :=
      let free := w.relayWaits m ((partCell d.partw).spg * 4096) (rscopeOf d.rscope) = false ∧
        (w.drainAll w.cc).relOpen w.cur psAll (rscopeOf d.rscope) = false
      (w.thr.vq = [] → w.thr.tq = [] → free → d.partw = w.cl.partw →
        (∃ id g, w.thr.gang = some id ∧ Sparse.find? id w.gangs = some g) →
        Answers (exec (.relay mk a b) s) fun t => t.thr.live = true ∧ t.thr.pc = d.entry ∧ t.thr.mode = .user ∧
          t.thr.park = .starting ∧ (∃ y, Sparse.find? s.ct t.cl.succ = some y ∧ y.desc = d ∧ y.mask = m)) ∧
      (¬(w.thr.vq = [] ∧ w.thr.tq = [] ∧ free) → Answers (exec (.relay mk a b) s) (waits w d))
    (s.OperandsReady [a] [] → s.thr.descHeld = none → idle → ∀ (w : State) (d : Desc), (∀ f, u.readDesc (s.rs a) f = f w d) →
      w.cur = s.cur → w.thr.pc = s.thr.pc → launches w d) ∧
    (s.OperandsReady [a] [] → ∀ d, s.thr.descHeld = some d → launches s d) ∧
    (∀ c v, s.OperandsReady [a] [] → s.thr.descHeld = none → idle → (∀ f, u.readDesc (s.rs a) f = u.trap { code := c, tval := v }) →
      exec (.launch mk a) s = .next (u.trap { code := c, tval := v })) ∧
    (idle → ∀ id g, s.thr.gang = some id → Sparse.find? id s.gangs = some g →
      (Answers (exec (.trigger mk) s) fun t => (∀ k, (s.thread k).SameRegisters (t.thread k)) ∧
        (s.thr.loop = none → t.thr.pc = s.thr.pc + 4) ∧
        ∃ h, Sparse.find? id t.gangs = some h ∧ NatSet.has h.triggered rank = true ∧
          ({ h with triggered := g.triggered } : Gang) = g) ∧
      (s.thr.vq = [] → s.thr.tq = [] → s.cl.rendez = none → (∀ h ∈ g.heirs, h.2 ≠ id) →
        Answers (exec (.retire mk) s) fun t => (t.thread s.cur).live = false ∧
          ∃ h, Sparse.find? id t.gangs = some h ∧ Sparse.find? rank h.members = some .retired)) ∧
    (s.OperandsReady [a, b] [] →
      (s.thr.descHeld = none → ∀ (w : State) (d : Desc), (∀ f, s.readDesc (s.rs a) f = f w d) → w.cur = s.cur →
        w.thr.pc = s.thr.pc → s.thr.SameRegisters w.thr →
        (∀ c, w.relayCheck d (s.rs b) = some c → exec (.relay mk a b) s = .next (w.trap { code := c, tval := s.rs a })) ∧
        (w.relayCheck d (s.rs b) = none → relays w d)) ∧
      ∀ d, s.thr.descHeld = some d → relays s d)

/-- The events of one thread: an interrupt is taken at a boundary (R235, R244); an illegal word traps (R265); a near
result is written with its flags (R195, R53); YIELD ends (R383); a member or successor starts (R159, R173); a lane
change takes effect (R61); a translation fence goes out to the combs of its scope, a comb that it
reaches acts on it at once, and acknowledges when nothing that uses an old translation is under way (R34 to R36, R83). -/
def Obligations.ThreadEvents : Prop :=
  ∀ (s : State) (slot : Nat),
    let u := s.thread slot
    let cell := slot / 4
    let others (t : State) : Prop := (∀ k, k ≠ slot → t.thread k = s.thread k) ∧ ∀ a, t.memByte a = s.memByte a
    (∀ n, u.interruptible = true → u.intCode = some n → u.vq = [] → s.unitChecks slot = false →
      Answers (exec (.interrupt slot) s) fun t =>
        let v := t.thread slot
        let m : Bool := decide (u.mode = .machine ∨ (u.csrGet csrDELEG).getLsbD (32 + n))
        let pick (sn mn : Nat) : Nat := if m then mn else sn
        let at' := if u.park = .idle then u.stepPc.pc else u.pc
        others t ∧ u.SameRegisters v ∧ v.mode = (if m then .machine else .supervisor) ∧
          v.csrGet (pick csrEPC csrMEPC) = at' ∧ v.csrGet (pick csrSEPC csrMSEPC) = at' ∧
          (v.csrGet (pick csrCAUSE csrMCAUSE)).getLsbD 63 = true ∧ bits (v.csrGet (pick csrCAUSE csrMCAUSE)) 0 16 = n ∧
          bits (v.csrGet (pick csrPSTATE csrMPSTATE)) 4 2 = u.mode.code ∧
          bits (v.csrGet (pick csrPSTATE csrMPSTATE)) 1 1 = bits (u.csrGet (pick csrPSTATE csrMPSTATE)) 0 1 ∧
          bits (v.csrGet (pick csrPSTATE csrMPSTATE)) 0 1 = 0 ∧ v.pc = u.csrGet (pick csrTVEC csrMTVEC) &&& ~~~3) ∧
    (u.vq = [] → (u.interruptible = false ∨ u.intCode = none ∨ s.unitChecks slot = true) → exec (.interrupt slot) s = .next s) ∧
    (∀ w : BitVec 32, s.thr.inBody = false →
      exec (.illegalInstruction w) s = .next (s.trap { code := 0x01, tval := w.setWidth 64 })) ∧
    (∀ p v, (u.pend.find? fun p => p.value.isSome && p.far.isNone) = some p → p.value = some v → p.poisoned = false → p.reg < 32 →
      Answers (exec (.resultWritten slot) s) fun t => others t ∧
        u.Wrote (t.thread slot) (BitVec.ofNat 5 p.reg) v ∧ (t.thread slot).pend = u.pend.erase p ∧
        u.Raised (t.thread slot) p.flags ∧ (t.thread slot).pc = u.pc ∧
        ∀ l, p.line = some l → ∀ x ∈ (t.cell cell).l1, x.line ≠ l) ∧
    (∀ till mk, u.park = .yield till mk →
      (s.cycle < till → exec (.yieldEnd slot) s = .next s) ∧
      (till ≤ s.cycle → Answers (exec (.yieldEnd slot) s) fun t => others t ∧ u.SameRegisters (t.thread slot) ∧
        (t.thread slot).pc = u.stepPc.pc ∧
        (t.thread slot).park = if mk && (t.thread slot).anyPending then .marker else .running)) ∧
    (u.live = true → u.park = .starting → u.stopped = false → (s.cell cell).clear ≤ s.cycle →
      (∀ x, Sparse.find? (slot % 4) (s.cell cell).succ = some x → Answers (exec (.successorStart slot) s) fun t =>
        others t ∧ ({ t.thread slot with park := u.park } : Thread) = u ∧ (t.thread slot).park = .running ∧
          Sparse.find? (slot % 4) (t.cell cell).succ = none ∧ (x.desc.rscope ≠ 1 → (t.cell cell).l1 = [])) ∧
      (Sparse.find? (slot % 4) (s.cell cell).succ = none → u.resident = true →
        Answers (exec (.memberStart slot) s) fun t => others t ∧
          ({ t.thread slot with park := u.park } : Thread) = u ∧ (t.thread slot).park = .running ∧ (t.cell cell).l1 = [])) ∧
    (∀ v d old mk, (s.cell cell).laneNext = some (slot, v, d, old, mk) → d < 32 → s.lanesIdle cell = true →
      Answers (exec (.lanectlWrite cell) s) fun t => (t.cell cell).lanectl = v ∧ (t.cell cell).laneNext = none ∧
        (t.thread slot).park = (if mk && (t.thread slot).anyPending then .marker else .running) ∧ (t.thread slot).readS (BitVec.ofNat 5 d) = (if d = 31 then 0 else old) ∧
        (∀ k, k / 4 ≠ cell → t.thread k = s.thread k) ∧ ∀ a, t.memByte a = s.memByte a) ∧
    ((s.fences.find? fun f => decide (f.slot = slot) && !f.sent) = none → exec (.tfenceBroadcast slot) s = .next s) ∧
    (∀ f, (s.fences.find? fun f => decide (f.slot = slot) && !f.sent) = some f →
      Answers (exec (.tfenceBroadcast slot) s) fun t => t.threads = s.threads ∧ t.mem = s.mem ∧
        t.fences.length = s.fences.length ∧
        ({ f with sent := true, waiting := tfenceCombs (combOf cell) f.word ++ s.tfencePeers f.word } : TFence) ∈ t.fences ∧
        ∃ g ∈ t.flitsAt (combOf cell), g.tc = 7 ∧ g.load = .mgmt (.fence slot)) ∧
    (∀ comb f, (s.fences.find? fun f => decide (f.slot = slot) && f.waiting.elem comb) = some f →
      let t := s.manage comb (.fence slot)
      (∀ k, (s.thread k).SameRegisters (t.thread k)) ∧ ({ f with here := f.here ++ [comb] } : TFence) ∈ t.fences ∧
        (∀ p, p < 17 → ∀ e ∈ (t.cell (comb * 17 + p)).tlb, e.fenced f.addr f.word = false) ∧
        ∀ l, Sparse.find? comb t.combTlb = some l → ∀ e ∈ l, e.fenced f.addr f.word = false) ∧
    (∀ comb f, (s.fences.find? fun f => decide (f.slot = slot) && f.here.elem comb) = some f →
      let waits : Prop := s.combBusy comb = true ∨ s.combStreams comb f.addr f.word = true
      (waits → exec (.tfenceAck comb slot) s = .next s) ∧
      (¬waits → Answers (exec (.tfenceAck comb slot) s) fun t => (∀ k, (s.thread k).SameRegisters (t.thread k)) ∧
        (∀ g ∈ t.fences, g.slot = slot → comb ∉ g.here) ∧
        (∀ c, combOf c = comb → ∀ k ∈ (t.cell c).stream, ∀ e ∈ k.held, e.fenced f.addr f.word = false) ∧
        ∃ g ∈ t.flitsAt comb, g.tc = 7 ∧ g.dst = s.fenceHome slot ∧ g.load = .mgmt (.ack slot comb))) ∧
    ∀ comb r, let t := s.manage r (.ack slot comb)
      t.threads = s.threads ∧ t.mem = s.mem ∧ ∀ f ∈ t.fences, f.slot = slot → comb ∉ f.waiting

/-- The host's accesses (R404 to R408), the events of start-up and reset (R411 to R413, R450 to R453, R459), alarms,
freezing, attestation and power (R414 to R416), and writes of window registers by machine-mode firmware. -/
def Obligations.HostAndBootEvents : Prop :=
  ∀ (s : State) (v : Word) (n f : Nat),
    let quiet (t : State) : Prop := t.threads = s.threads ∧ t.mem = s.mem ∧ t.cells = s.cells
    let hp := s.dev (hpstatKey f)
    let idle : Prop := s.hostq = [] ∧ s.requests .host = []
    (∀ op i, s.requests .host ≠ [] →
      (∃ vf, op = .post f vf v ∧ i = .hpost f vf v) ∨ (op = .msg f v ∧ i = .hmsg f v) ∨
        (op = .write n v ∧ i = .hostWrite n v) ∨ (op = .read n ∧ i = .hostRead n) →
      exec i s = .next { s with hostq := s.hostq ++ [op] }) ∧
    (∀ vf, idle → bits hp 63 1 = 0 → Answers (exec (.hpost f vf v) s) fun t => quiet t ∧
      t.posts = s.posts ++ [⟨f, vf, v, s.cycle⟩] ∧ bits (t.dev (hpstatKey f)) 63 1 = 1) ∧
    (∀ vf, idle → bits hp 63 1 = 1 → Answers (exec (.hpost f vf v) s) fun t => quiet t ∧ t.posts = s.posts ∧
      bits (t.dev (hpstatKey f)) 16 16 = min (bits hp 16 16 + 1) 65535) ∧
    (let w := s.dev (blockReg 8 (0x2_0100 + 8 * f))
     let slot := s.cellOfLogical (bits w 2 14) * 4 + bits w 0 2
     idle → s.mcAt (slot / 4) (bits w 26 6) < 2 ^ 32 - 1 → Answers (exec (.hmsg f v) s) fun t =>
       (t.thread slot).readMb (bits w 24 2) = v ∧ t.mcAt (slot / 4) (bits w 26 6) = s.mcAt (slot / 4) (bits w 26 6) + 1 ∧
       (∀ k, k ≠ slot → t.thread k = s.thread k) ∧ t.mem = s.mem) ∧
    (s.boot.minimal = true → idle → Answers (exec (.hostWrite n v) s) quiet ∧ Answers (exec (.hostRead n) s) quiet) ∧
    (∀ a ty, s.boot.minimal = false → s.physLoc (s.barPa n) .nc true = some (.mem a ty) → idle →
      exec (.hostWrite n v) s = .next (s.homeRequest (hostPkt .ncwr (a / 128)
        { NcOp.new .host with addr := a, n := 8, data := putBytes 0 (a % 128) 8 v.toNat, mask := byteMask (a % 128) 8 })) ∧
      (Sparse.find? (a / 128) s.homes = none → (s.dirOf (a / 128)).st = .i → s.NoErrors →
        Answers (exec (.hostWrite n v) s) fun t => t.threads = s.threads ∧ t.cells = s.cells ∧
          (∀ i, i < 8 → t.memByte (a + i) = v.extractLsb' (8 * i) 8) ∧
          ∀ b, (b < a ∨ a + 8 ≤ b) → t.memByte b = s.memByte b)) ∧
    (∀ a ty, s.boot.minimal = false → s.physLoc (s.barPa n) .nc false = some (.mem a ty) → idle → Sparse.find? (a / 128) s.homes = none →
      (s.dirOf (a / 128)).st = .i → s.NoErrors →
      Answers (exec (.hostRead n) s) fun t => quiet t ∧ t.hostData = BitVec.ofNat 64 (s.memRead a 8)) ∧
    (∀ o, s.boot.minimal = false → s.physLoc (s.barPa n) .nc false = some (.dev o) → o % 8 = 0 → idle → Answers (exec (.hostRead n) s) fun t =>
      t.hostData = (s.devRead .machine o).1 ∧ t.mem = (s.devRead .machine o).2.mem) ∧
    (f < 8 → idle → let t := s.hostSend (.read0 none (0x1000 * f + 8))
      quiet t ∧ t.hostData = hp ∧ bits (t.dev (hpstatKey f)) 16 16 = 0) ∧
    Answers (exec (.hintr v) s) (fun t => quiet t ∧ t.msix = if v.toNat < 2048 then s.msix ++ [v.toNat] else s.msix) ∧
    (bits v 6 2 = 0 → let slot := (n * 17 + s.physOfLogical n (bits v 2 4)) * 4 + bits v 0 2
      Answers (exec (.swint n v) s) fun t => bits ((t.thread slot).csrGet csrIPEND) 3 1 = 1 ∧
        bits ((t.thread slot).csrGet csrISWVAL) 0 56 = bits v 8 56 ∧
        (bits ((s.thread slot).csrGet csrIPEND) 3 1 = 1 → bits ((t.thread slot).csrGet csrISWVAL) 63 1 = 1) ∧
        (∀ k, k ≠ slot → t.thread k = s.thread k) ∧ t.mem = s.mem) ∧
    (s.boot.stage = 1 → Answers (exec (.signatureVerify true) s) fun t => t.boot.stage = 2 ∧ t.boot.wdogFrom = some s.cycle ∧
      (t.thread 0).live = true ∧ (t.thread 0).mode = .machine ∧ (t.thread 0).pc = BitVec.ofNat 64 Config.romBase ∧
      (t.thread 0).readS 1 = 1 ∧ ∀ k, k ≠ 0 → t.thread k = s.thread k) ∧
    (s.boot.stage = 1 → Answers (exec (.signatureVerify false) s) fun t =>
      t.boot.attempts = min 3 (s.boot.attempts + 1) ∧ t.boot.reason = 1 ∧ ∀ k, 4 ≤ k → (t.thread k).live = false) ∧
    (s.startable n = true → Answers (exec (.resetThreadStart n) s) fun t => (t.thread (n * 4)).live = true ∧
      (t.thread (n * 4)).mode = .machine ∧ (t.thread (n * 4)).pc = BitVec.ofNat 64 Config.romBase ∧
      (t.cell n).booted = true ∧ t.mem = s.mem ∧ ∀ k, k ≠ n * 4 → t.thread k = s.thread k) ∧
    (s.wdogDue = false → exec .bootWatchdog s = .next s) ∧
    (s.wdogDue = true → Answers (exec .bootWatchdog s) fun t => t.boot.reason = 2 ∧ t.boot.attempts = min 3 (s.boot.attempts + 1)) ∧
    (s.boot.minimal = false → Answers (exec .bootctlOk s) fun t => quiet t ∧ t.boot.stage = 7 ∧ t.boot.attempts = 0 ∧ t.boot.wdogFrom = none) ∧
    (s.boot.alarmPending = [] → Answers (exec .moduleReset s) fun t => t.mem = s.dram ∧ t.hostMem = s.hostMem ∧ t.fuses = s.fuses ∧
      t.pwrlim = s.pwrlim ∧ (∀ k, (t.thread k).live = false) ∧ t.boot.attempts = s.boot.attempts) ∧
    (s.boot.alarmPending = [] → Answers (exec .coldPowerCycle s) fun t => t.mem = [] ∧ t.pwrlim = 3600 ∧ t.fuses = s.fuses ∧
      (∀ k, (t.thread k).live = false) ∧ t.boot.attempts = (if s.boot.flashed then 0 else s.boot.attempts) ∧ t.boot.flashed = false) ∧
    Answers (exec .flashUpdate s) (fun t => quiet t ∧ t.boot.signed = true ∧ t.boot.flashed = true) ∧
    Answers (exec (.wgctl v) s) (fun t => quiet t ∧ t.boot.floodFrom = some s.cycle ∧ t.boot.flood = bits v 0 8 ∧
      t.boot.replies = [] ∧ t.boot.replied = [] ∧ t.boot.reached = [(0, (0, 0))] ∧
      ∀ p, p = 1 ∨ p = 2 → ∃ g ∈ t.flitsAt 0, g.out = some p ∧ g.load = .mgmt (.waggle (bits v 0 8) 0 0 (opposite p))) ∧
    (∀ c d g m, (s.readyHeads c n).find? (·.isWaggle) = some g → g.load = .mgmt m → meshNext c n = some d →
      exec (.wagglePacket c n) s = .next ((s.takeFlit c g).manage d m)) ∧
    (∀ d xy hops inp, s.boot.floodFrom.isSome = true → Sparse.find? d s.boot.reached = none →
      let t := s.manage d (.waggle s.boot.flood xy hops inp)
      let me := (meshNext xy (opposite inp)).getD xy
      quiet t ∧ Sparse.find? d t.boot.reached = some (me, hops + 1) ∧
        ∀ p e, meshNext d p = some e → p ≠ inp → ∃ g ∈ t.flitsAt d, g.tc = 7 ∧ g.dst = e ∧ g.out = some p ∧
          g.load = .mgmt (.waggle s.boot.flood me (hops + 1) (opposite p))) ∧
    (∀ xy hops, Sparse.find? n s.boot.reached = some (xy, hops) → s.boot.floodFrom.isSome = true →
      NatSet.has s.boot.replied n = false → s.linkDown n = false → Answers (exec (.waggleReply n) s) fun t => quiet t ∧
        NatSet.has t.boot.replied n = true ∧
        ∃ g ∈ t.flitsAt n, g.tc = 7 ∧ g.dst = 0 ∧ g.load = .mgmt (.reply n s.boot.flood)) ∧
    (∀ xy hops, Sparse.find? n s.boot.reached = some (xy, hops) → s.boot.floodFrom.isSome = true →
      NatSet.has s.boot.replies n = false → xy < 1024 → let t := s.manage 0 (.reply n s.boot.flood)
        quiet t ∧ NatSet.has t.boot.replies n = true ∧ t.dev (combReg 0 (0xE_1000 + 8 * xy)) = s.usable n) ∧
    (∀ c, s.boot.floodFrom = some c → c + 65536 ≤ s.cycle → Answers (exec .waggleTimeout s) fun t => t.boot.reason = 3) ∧
    Answers (exec (.bbctl v) s) (fun t => quiet t ∧ t.boot.bcast =
      some (bits v 0 8 + 1, bits v 34 6, bits v 16 18, bits (s.dev (combReg 0 0xE_0010)) 7 45 * 128)) ∧
    (∀ left mc off src, s.boot.bcast = some (left, mc, off, src) → Answers (exec .bootBroadcastPacket s) fun t =>
      t.mem = s.mem ∧ (∃ g ∈ t.flitsAt 0, g.tc = 7 ∧ g.out = some 7 ∧
        g.load = .mgmt (.boot off mc ((s.coherent (src / 128)).2.lineData (src / 128)) (s.coherent (src / 128)).1)) ∧
      t.boot.bcast = if left ≤ 1 then none else some (left - 1, mc, off + 128, src + 128)) ∧
    (∀ off mc d p, p < 17 → s.running (n * 17 + p) = true → s.mcAt (n * 17 + p) mc < 2 ^ 32 - 1 →
      let t := s.manage n (.boot off mc d false)
      t.mem = s.mem ∧ t.mcAt (n * 17 + p) mc = s.mcAt (n * 17 + p) mc + 1 ∧
        ∀ i, i < 128 → Bytes.get zeroByte (t.cell (n * 17 + p)).pool (off + i) = byteOf d i) ∧
    (n < 1024 → Answers (exec (.sparemap n v) s) fun t => t.mem = s.mem ∧ t.dev (combReg n 0x9_0000) = v &&& 31 ∧
      (∀ k, k / 4 = n * 17 + min (bits v 0 5) 16 → (t.thread k).live = false) ∧
      ∀ k, k / 68 ≠ n → t.thread k = s.thread k) ∧
    (s.frozen = true → Answers (exec (.alarm n) s) fun t => quiet t ∧ t.boot.alarmPending = s.boot.alarmPending ++ [n]) ∧
    (s.frozen = false → s.boot.policy ≠ 0 → Answers (exec (.alarm n) s) fun t => t.boot.keys = false ∧ t.boot.locked = true ∧
      t.boot.minimal = true ∧ t.boot.reason = 4 ∧ t.mem = s.mem) ∧
    (s.frozen = false → s.boot.policy = 0 → Answers (exec (.alarm n) s) fun t => t.boot.reason = 4) ∧
    Answers (exec .freeze s) (fun t => quiet t ∧ t.frozen = true) ∧
    (∀ x, s.boot.keys = true → Answers (exec (.attestation x) s) fun t => quiet t ∧ t.report = Config.attestationSignature x) ∧
    Answers (exec (.pwrlim n) s) (fun t => quiet t ∧ t.pwrlim = if 1000 ≤ n ∧ n ≤ 3600 then n else s.pwrlim) ∧
    (n < 16 → ∀ up, Answers (exec (.islandClockStep n up) s) fun t => quiet t ∧
      let a := blockReg 8 (0x2_2000 + 8 * n)
      t.dev a = BitVec.ofNat 64 (if up then min 25 (bits (s.dev a) 0 8 + 1) else max 10 (bits (s.dev a) 0 8 - 1))) ∧
    (n % 8 = 0 → (n < 0x4000_0000 → n % 0x10_0000 ∉ [0x9_0000, 0xB_0000, 0xD_0000]) →
      n ∉ [combReg 0 0xE_0000, combReg 0 0xE_0018, blockReg 8 0x2_0008, propolisReg 8] →
      ¬(blockReg 8 0x2_1000 ≤ n ∧ n < blockReg 8 0x2_1060) →
      Answers (exec (.registerWrite n v) s) fun t => quiet t ∧
        t.dev n = writeFields (devFields n) .machine v (BitVec.allOnes 64) (s.dev n) ∧ ∀ k, k ≠ n → t.dev k = s.dev k) ∧
    (f < 12 → let a := blockReg 8 (0x2_1000 + 8 * f)
      Answers (exec (.registerWrite a v) s) fun t => quiet t ∧ bits (t.dev a) 63 1 = bits v 63 1 ∧
        bits (t.dev a) 0 4 = (if bits v 63 1 = 0 then 0 else if bits (s.dev a) 63 1 = 0 then 1 else bits (s.dev a) 0 4)) ∧
    ∀ h lv ts, s.burCheck n = some (h, lv, ts) → (s.queue (unitOf lv 0) 0).length < launchCap →
      Answers (exec (.burmealLoad n) s) fun t => quiet t ∧ t.burmeal.length = s.burmeal.length + 1 ∧
        ∃ d, t.queue (unitOf lv 0) d.prio = s.queue (unitOf lv 0) d.prio ++ [Launch.new d]

/-- The events of the schedulers, the barrier trees, the mailboxes and the task units. A scheduler places the first
head that may go (R159, R182, R183), chooses a victim for one that waited too long (R184) and reports a victim
that stops late; a complete gang leaves its cells (R162) once its trigger list is launched, whose descriptors are read
once each (R176, R177), and its add of 1 to the completion word has come back, both behind a release (R145); arrivals climb the tree by the entries of its routers and a completion comes down (R82, R384); a message is deposited, behind those before it between its two
cells, and after a write of the same cycle (R73, R209, R382); a released task enters its queue
(R189); overdue tasks age (R191) where TUCTL says so (R192). -/
def Obligations.SchedulingEvents : Prop :=
  ∀ (s : State) (n id c : Nat),
    let still (t : State) : Prop := t.threads = s.threads ∧ t.mem = s.mem
    let waits (p : Nat) (l : Launch) : Prop := (s.queue n p).head? = some l ∧ l.ready = true
    (∀ p l x, p < 8 → waits p l → s.findPlace n [] l.desc = some x → l.resumed = false → l.done = [] →
      (∀ q l', p < q → q < 8 → waits q l' → s.findPlace n [] l'.desc = none) →
      Answers (exec (.gangPlacement n) s) fun t => t.mem = s.mem ∧ t.nextGang = s.nextGang + 1 ∧
        t.queue n p = (s.queue n p).drop 1 ∧
        (∃ g, Sparse.find? s.nextGang t.gangs = some g ∧ g.desc = l.desc ∧ g.cells = x.cells ∧ g.combs = x.combs ∧
          g.w = x.w ∧ g.h = x.h ∧ g.routes = torusRoutes x.w x.h x.combs ∧ g.stopped = false ∧ g.victim = none) ∧
        (∀ k ∈ x.cells, (t.cell k).gang = some s.nextGang ∧ (t.cell k).partw = l.desc.partw ∧ (t.cell k).mc = [] ∧
          (t.cell k).bars = [] ∧ s.cycle < (t.cell k).clear) ∧
        (x.cells.Nodup → l.desc.k ≤ 4 → l.desc.n ≤ x.cells.length → ∀ r, r < l.desc.n * l.desc.k →
          let u := t.thread (x.cells.getD (r / l.desc.k) 0 * 4 + r % l.desc.k)
          u.live = true ∧ u.gang = some s.nextGang ∧ u.rank = r ∧ u.pc = l.desc.entry ∧ u.mode = .user ∧ u.park = .starting ∧
            u.readS 0 = l.desc.args ∧ u.readS 1 = BitVec.ofNat 64 r ∧
            u.readS 2 = BitVec.ofNat 64 (l.desc.n * l.desc.k) ∧ u.readS 3 = l.desc.addr)) ∧
    ((∀ p l, p < 8 → waits p l → s.findPlace n [] l.desc = none) → exec (.gangPlacement n) s = .next s) ∧
    ((∀ e ∈ s.gangs, e.2.victim = none) → bits (s.gsctl n) 32 1 = 0 → exec (.preemption n) s = .next s) ∧
    (let late (p : Nat) : Prop := bits (s.gsctl n) 0 32 ≤ s.cycle - Sparse.getD s.headSince (n * 8 + p) 0
     ∀ p l x, (∀ e ∈ s.gangs, e.2.victim = none) → bits (s.gsctl n) 32 1 = 1 → p < 8 → waits p l → late p →
      s.findPlace n [] l.desc = none →
      s.findPlace n ((s.gangs.filter fun e => s.mayPreempt p e.1 e.2).map (·.1)) l.desc = some x →
      (∀ q l', p < q → q < 8 → waits q l' → ¬ late q) →
      Answers (exec (.preemption n) s) fun t => t.mem = s.mem ∧ (∀ k, (s.thread k).SameRegisters (t.thread k)) ∧ t.queues = s.queues ∧
        (∀ v g, v ∈ s.overlapping l.desc.level x → Sparse.find? v s.gangs = some g →
          ∃ g', Sparse.find? v t.gangs = some g' ∧ g'.victim = some s.cycle ∧ { g' with victim := none } = g) ∧
        ∀ k, k ∉ s.overlapping l.desc.level x → Sparse.find? k t.gangs = Sparse.find? k s.gangs) ∧
    (∀ g, Sparse.find? id s.gangs = some g →
      (∀ c, g.victim = some c → g.late = false → c + 1048576 ≤ s.cycle →
        Answers (exec (.victimStopTimeout id) s) fun t => t.mem = s.mem ∧ (∀ k, (s.thread k).SameRegisters (t.thread k)) ∧
          Sparse.find? id t.gangs = some { g with late := true } ∧
          (g.frame < 8 → bits ((t.thread (s.mcdest g.frame)).csrGet csrIPEND) (22 + g.frame) 1 = 1)) ∧
      ((g.victim = none ∨ g.late = true) → exec (.victimStopTimeout id) s = .next s) ∧
      (let gone (t : State) : Prop := Sparse.find? id t.gangs = none ∧ ∀ k ∈ g.cells, (t.cell k).gang ≠ some id
       let begins (i : Instr) : Prop := Answers (exec i s) fun t => still t ∧ ∃ h, Sparse.find? id t.gangs = some h ∧
         { h with rel := none } = g ∧ ∃ l, h.rel = some (s.nextTag, l) ∧
           ∀ a ∈ s.accepted, (∃ k ∈ g.cells, combOf k = a.comb) → s.inReach .module a.line = true → a ∈ l
       (g.complete = true → g.trigDone = true → g.doneAdded = false → g.trigLeft = [] →
        (g.desc.done = 0 → Answers (exec (.gangComplete id) s) fun t => still t ∧ gone t) ∧
        (g.desc.done ≠ 0 → g.doneBack = some false → Answers (exec (.gangComplete id) s) fun t => still t ∧ gone t) ∧
        (g.desc.done ≠ 0 → g.doneBack = some true → Answers (exec (.gangComplete id) s) fun t => t.mem = s.mem ∧ gone t ∧
          (∀ k, (s.thread k).SameRegisters (t.thread k)) ∧
          (g.frame < 8 → bits ((t.thread (s.mcdest g.frame)).csrGet csrIPEND) (22 + g.frame) 1 = 1)) ∧
        (g.desc.done ≠ 0 → g.doneBack = none →
          (g.doneSent = true → exec (.gangComplete id) s = .next s) ∧
          (g.doneSent = false → g.rel = none → begins (.gangComplete id)) ∧
          (g.doneSent = false → g.rel ≠ none → s.schedPerformed g = false → exec (.gangComplete id) s = .next s) ∧
          (g.doneSent = false → s.schedPerformed g = true → g.mig = none → ∀ s' pa ty ls h,
            (s.touchCtx g.desc.ctx).resolve (g.cells.headD 0) (s.schedXlate g.desc.ctx) pathFA .far g.desc.done 8 =
              .ok s' (.mem pa ty :: ls) → Sparse.find? id s'.gangs = some h →
            Answers (exec (.gangComplete id) s) fun t => Sparse.find? id t.gangs = some { h with doneSent := true } ∧ t.mem = s'.mem ∧
              ∃ q ∈ t.packets, q.op = .faop ∧ q.line = pa / 128 ∧ ∃ x, q.nc = some x ∧ x.addr = pa ∧ x.n = 8 ∧
                x.aop = amoCode .add ∧ x.val = 1 ∧ x.who = .sched (combOf (g.cells.headD 0)) id))) ∧
       (∀ a rest, g.trigDone = true → g.trigLeft = a :: rest → g.trigDesc = none → g.rel = none → begins (.triggerListLaunch id))) ∧
      ((g.complete = false ∨ g.trigDone = false ∨ g.trigLeft ≠ [] ∨ g.doneAdded = true) → exec (.gangComplete id) s = .next s) ∧
      (g.trigDone = false → g.trigComplete = true → Answers (exec (.triggerListLaunch id) s) fun t => still t ∧
        Sparse.find? id t.gangs = some { g with trigDone := true, trigLeft := g.desc.trigs.filter fun a => decide (a ≠ 0) }) ∧
      (g.trigDone = false → g.trigComplete = false → exec (.triggerListLaunch id) s = .next s) ∧
      (∀ a s' l d, g.mig = none →
        (s.touchCtx g.desc.ctx).resolve (g.cells.headD 0) (s.schedXlate g.desc.ctx) pathLS .read a 1 = .ok s' l → descMemory l = true →
        let r := s'.unitRead (g.cells.headD 0) .user (locsFrom (l.headD (.own 0)) 256)
        let w := r.2.2.touchCtx (descOf a (descWords r.1)).ctx
        r.2.1 = false → w.descCheck (some g.desc.ctx) a (descWords r.1) = .ok d → s.readTrigger id g a = (w, some (some d))) ∧
      (∀ a rest d s1, g.trigDone = true → g.trigLeft = a :: rest →
        (g.trigDesc = some d ∧ s1 = s ∨
          g.trigDesc = none ∧ s.schedPerformed g = true ∧ s.readTrigger id g a = (s1, some (some d))) →
        let q (t : State) := t.queue (unitOf d.level g.frame) d.prio
        ((q s1).length < 256 → Answers (exec (.triggerListLaunch id) s) fun t =>
          q t = q s1 ++ [Launch.new { d with wv := d.wv && decide ((s1.ctr d.wframe d.wctr).count ≠ 0) }]) ∧
        (256 ≤ (q s1).length → ∀ g', Sparse.find? id s1.gangs = some g' → Answers (exec (.triggerListLaunch id) s) fun t =>
          t.queues = s1.queues ∧ Sparse.find? id t.gangs = some { g' with trigDesc := some d }))) ∧
    (∀ g b, Sparse.find? id s.gangs = some g → Sparse.find? (id * 512 + n) s.gbars = some b →
      let e : Word := s.treeAt g c
      let up := bits e 36 4
      let ready (x : Nat × Nat) : Prop := x.1 % 1024 = c ∧
        if up = 0 then x.1 / 1024 = b.gen ∧ b.exp ≤ x.2
        else (g.subtree c).length ≤ x.2 ∨ (b.genNow ≠ x.1 / 1024 ∧ s.arrivalsBelow id n g b c (x.1 / 1024) = false)
      (((∀ x ∈ b.below, ¬ready x) ∨ e.getLsbD 63 = false) → exec (.barrierArrival id n c) s = .next s) ∧
      (∀ x ∈ b.below, ready x → (∀ y ∈ b.below, ready y → y = x) → e.getLsbD 63 = true →
        (up ≠ 0 → Answers (exec (.barrierArrival id n c) s) fun t => still t ∧
          (∃ b', Sparse.find? (id * 512 + n) t.gbars = some b' ∧ b'.below = Sparse.erase x.1 b.below ∧
            { b' with below := b.below } = b) ∧
          ∀ p, meshNext c (up - 1) = some p →
            ∃ f ∈ t.flitsAt c, f.out = some (up - 1) ∧ f.tc = b.tc ∧ f.load = .arrive id n (x.1 / 1024) x.2) ∧
        (up = 0 → Answers (exec (.barrierArrival id n c) s) fun t => t.mem = s.mem ∧ (b.joins = [] → t.threads = s.threads) ∧
          ∃ b', Sparse.find? (id * 512 + n) t.gbars = some b' ∧ b'.gen = (b.gen + 1) % 65536 ∧ b'.came = b.came.drop b.exp ∧
            b'.below = Sparse.erase x.1 b.below ∧ b'.down = b.down ++ [genAt b'.gen c] ∧ b'.exp = b.exp ∧
            ∀ j ∈ b'.joins, j ∈ b.joins ∧ j.2 / 2 ^ 64 ≠ b.gen)) ∧
      (∀ gen m, let t := s.sinkArrivals id n c gen m
        let k := genAt gen c
        still t ∧ ∃ b', Sparse.find? (id * 512 + n) t.gbars = some b' ∧ { b' with below := b.below } = b ∧
          Sparse.getD b'.below k 0 = Sparse.getD b.below k 0 + m ∧ ∀ i, i ≠ k → Sparse.getD b'.below i 0 = Sparse.getD b.below i 0) ∧
      (∀ gen, let t := s.sinkCompletion id n c gen
        still t ∧ Sparse.find? (id * 512 + n) t.gbars = some { b with down := b.down ++ [genAt gen c] }) ∧
      ((∀ k ∈ b.down, k % 1024 ≠ c) → exec (.barrierCompletion id n c) s = .next s) ∧
      (∀ k, (b.down.find? fun k => decide (k % 1024 = c)) = some k → Answers (exec (.barrierCompletion id n c) s) fun t => still t ∧
        Sparse.find? (id * 512 + n) t.gbars = some { b with down := b.down.erase k } ∧
        (∀ p q, p < 4 → e.getLsbD (32 + p) = true → meshNext c p = some q →
          ∃ f ∈ t.flitsAt c, f.out = some p ∧ f.tc = b.tc ∧ f.load = .complete id n (k / 1024)) ∧
        ∀ p, p < 17 → e.getLsbD p = true → ((s.cell (c * 17 + p)).bar n).bind = .gang →
          ((s.cell (c * 17 + p)).bar n).gid = id → ((t.cell (c * 17 + p)).bar n).gen = k / 1024)) ∧
    (let behind (m : Deposit) : Prop := ∃ o ∈ s.msgs.take n, cellOf o.from_ = cellOf m.from_ ∧ cellOf o.slot = cellOf m.slot
     ∀ m, s.msgs[n]? = some m →
      (behind m → exec (.deposit n) s = .next s) ∧
      (¬ behind m → s.mcAt (cellOf m.slot) m.mc < 2 ^ 32 - 1 → Answers (exec (.deposit n) s) fun t => t.mem = s.mem ∧
        t.msgs = s.msgs.eraseIdx n ∧ t.mcAt (cellOf m.slot) m.mc = s.mcAt (cellOf m.slot) m.mc + 1 ∧
        (t.thread m.slot).readMb m.mb = (if m.nodep then (s.thread m.slot).readMb m.mb else m.word) ∧
        (m.nodep = false → m.mb < 4 → (s.thread m.slot).mbWrote = some (m.mb, s.cycle) →
          bits ((t.thread m.slot).csrGet csrMBSTAT) m.mb 1 = 1) ∧
        ∀ k, k ≠ m.slot → t.thread k = s.thread k)) ∧
    (∀ p r, p < 8 → (s.readyQ n p).length < 4096 → firstHeld (s.heldTasks n p) = some r →
      (∀ q, p < q → q < 8 → s.heldTasks n q = []) → Answers (exec (.taskEnqueue n) s) fun t => still t ∧
        t.readyQ n p = insertReady { r with since := s.cycle } (s.readyQ n p) ∧
        (t.ctr n r.ctr).held = (s.ctr n r.ctr).held.erase r) ∧
    (bits (s.dev (combReg (frameComb n) 0xB_0000)) 0 1 = 0 → exec (.taskAging n) s = .next s) ∧
    (∀ p r, bits (s.dev (combReg (frameComb n) 0xB_0000)) 0 1 = 1 → p < 7 → s.readyQ n p = [r] → r.since + 65536 ≤ s.cycle →
      s.heldTasks n (p + 1) = [] →
      (∀ q, q < 8 → q ≠ p → s.readyQ n q = []) → Answers (exec (.taskAging n) s) fun t => still t ∧
        t.readyQ n p = [] ∧ t.readyQ n (p + 1) = [{ r with prio := p + 1, since := s.cycle }]) ∧
    ∀ v : Word, n < 8 → Answers (exec (.tuctlWrite n v) s) fun t => still t ∧
      bits (t.dev (combReg (frameComb n) 0xB_0000)) 0 1 = bits v 0 1 ∧ (bits v 0 1 = 0 → t.ready = s.ready)

/-- The events of the queues: the clusters whose arbiters choose a thread are charged and run an element group of its
queue head each, which is complete once every cluster has run it (R200 to R202); a cluster loses a cycle to the scalar ports
(R316); stage A of a predicate runs ahead of the escalation queues of its clusters (R398); credits are granted anew (R201); a ring
that blocks too long traps (R204); the matrix arbiter takes the next queue (R205), whose head runs (R340, R354); an
element under escalation is settled by its cluster's engine, and what is settled is committed in order (R398, R399). -/
def Obligations.QueueEvents : Prop :=
  ∀ (s : State) (slot cell cluster : Nat),
    let u := s.thread slot
    let still (t : State) : Prop := t.threads = s.threads ∧ t.mem = s.mem
    let esi (e : QEntry) : Word := e.prog.getD (u.csrGet csrESI)
    let gone (s' t : State) (e : QEntry) : Prop := t.mem = s'.mem ∧ t.thread slot = (s'.thread slot).queueDone e.seq ∧
      ∀ k, k ≠ slot → t.thread k = s'.thread k
    (u.vq = [] → exec (.vectorStep slot) s = .next s) ∧
    (∀ e, s.qHead slot false = some e → s.noGroups slot e = true → exec (.vectorStep slot) s = .next (s.qStep slot false).1) ∧
    (∀ e, s.qHead slot false = some e → s.noGroups slot e = false → s.lanesFor slot = [] →
      exec (.vectorStep slot) s = .next (if (s.qStep slot false).2 then s else (s.qStep slot false).1)) ∧
    (∀ e cs, s.qHead slot false = some e → s.noGroups slot e = false → s.lanesFor slot = cs → cs ≠ [] →
      let s0 := (s.portSlip slot cs).1
      let ds := (s.portSlip slot cs).2
      let busy : Prop := 0 ∈ cs ∧ u.issuedAt = some s.cycle
      (busy → ds = cs.filter (fun c => decide (c ≠ 0)) ∧
        bits ((s0.thread slot).csrGet csrISSUESTAT) 32 32 = min (bits (u.csrGet csrISSUESTAT) 32 32 + 1) (2 ^ 32 - 1)) ∧
      (¬busy → s0 = s ∧ ds = cs) ∧
      (∀ c ∈ cs, (s.laneChoice (s.laneReady (slot / 4)) (slot / 4) c).map (·.1) = some (slot % 4) ∧ s.slipOk slot c = true) ∧
      (∀ g, e.kind.geom = some g → exec (.vectorStep slot) s = .next (s0.stageSteps slot e g ds)) ∧
      (e.kind.geom = none →
        let s1 := s0.laneSteps slot ds
        (∀ c ∈ ds, (s1.thread slot).leadAt c = u.leadAt c + 1 ∧ Sparse.getD (s1.cell (slot / 4)).ptr c 3 = slot % 4 ∧
          Sparse.getD (s1.cell (slot / 4)).mcredit (c * 4 + slot % 4) 0 =
            Sparse.getD (s.cell (slot / 4)).mcredit (c * 4 + slot % 4) 0 - 1) ∧
        (∀ c, c ∉ ds → (s1.thread slot).leadAt c = u.leadAt c ∧
          Sparse.getD (s1.cell (slot / 4)).ptr c 3 = Sparse.getD (s.cell (slot / 4)).ptr c 3) ∧
        (s1.groupDone slot = false → exec (.vectorStep slot) s = .next s1) ∧
        (s1.groupDone slot = true → ∀ q s', u.vq = e :: q → u.tq = [] →
          let s2 := s1.updThread slot fun t => { t with lead := t.lead.filterMap fun e => if e.2 ≤ 1 then none else some (e.1, e.2 - 1) }
          (s2.vecStep slot e (esi e) = .done s' → Answers (exec (.vectorStep slot) s) fun t => gone s' t e ∧ t.cells = s'.cells) ∧
          ∀ x, s2.vecStep slot e (esi e) = .more s' x → Answers (exec (.vectorStep slot) s) fun t => t.mem = s'.mem ∧
            t.cells = s'.cells ∧
            (t.thread slot).vq = (s'.thread slot).vq.map fun f => if f.seq = e.seq then { f with prog := some x } else f))) ∧
    (∀ e g c k, s.stageNext slot e c = some k →
      let n := (s.cell (slot / 4)).clusters
      let t := s.stageA slot e g c k
      let old := u.predOf e
      let mine (i : Nat) : Prop := k * (512 / e.w) ≤ i ∧ i < (k + 1) * (512 / e.w) ∧ i < e.len ∧ bits (esi e) 0 16 ≤ i ∧
        e.clusterOf n i = c ∧ u.vActive e i = true
      (Sparse.getD old.queues c []).length + e.share n c ≤ 16 ∧ t.mem = s.mem ∧ t.cells = s.cells ∧
        ∃ p, (t.thread slot).pred = some p ∧ p.seq = e.seq ∧ Sparse.getD p.groups c 0 = k + 1 ∧
          (∀ i, mine i → if u.geomEscalates e g i then i ∈ Sparse.getD p.queues c [] else NatSet.has p.settled i = true) ∧
          ∀ d, d ≠ c → Sparse.getD p.groups d 0 = Sparse.getD old.groups d 0 ∧
            Sparse.getD p.queues d [] = Sparse.getD old.queues d []) ∧
    Answers (exec (.vectorCreditRound cell cluster) s) (fun t => still t ∧
      Sparse.getD (t.cell cell).rounds cluster 0 = s.cycle / 16 ∧ ∀ j, j < (s.cell cell).nthr →
      let v := s.thread (cell * 4 + j)
      Sparse.getD (t.cell cell).mcredit (cluster * 4 + j) 0 = bits (v.csrGet csrLEASE) 16 5 ∧
      Sparse.getD (t.cell cell).pcredit (cluster * 4 + j) 0 = v.leasePref - bits (v.csrGet csrLEASE) 16 5) ∧
    ((u.ringSince = none ∨ u.vq = []) → exec (.ringStall slot) s = .next s) ∧
    (∀ w e q, u.ringSince = some w → u.vq = e :: q →
      ((e.ringTo = 0 ∨ s.cycle ≤ w.since + e.ringTo ∨ (s.qStep slot false).2 = true) → exec (.ringStall slot) s = .next s) ∧
      (e.ringTo ≠ 0 → w.since + e.ringTo < s.cycle → (s.qStep slot false).2 = false →
        Answers (exec (.ringStall slot) s) fun t =>
          let v := t.thread slot
          let at' (mn sn : Nat) : Word := v.csrGet (if v.mode = .machine then mn else sn)
          t.mem = s.mem ∧ (∀ k, k ≠ slot → t.thread k = s.thread k) ∧ u.SameRegisters v ∧ v.mode = u.trapMode { code := 0x0D } ∧
            bits (at' csrMCAUSE csrCAUSE) 0 16 = 0x0D ∧ at' csrMEPC csrEPC = e.pc ∧ at' csrMSEPC csrSEPC = u.pc ∧
            ∀ r, s.ringBlocks (slot / 4) e 1 = some r → at' csrMTVAL csrTVAL = BitVec.ofNat 64 r)) ∧
    ((u.tq = [] ∨ (s.cell (slot / 4)).unit ≠ some slot) → exec (.tileInstructionStart slot) s = .next s) ∧
    (∀ e q, u.tq = e :: q → e.kind.isTmma = true → exec (.tileInstructionStart slot) s = .next s) ∧
    (∀ e q, u.tq = e :: q → e.kind.isTmma = false → u.vq = [] → u.stopped = false → s.inReplay slot = false →
      (s.cell (slot / 4)).unit = some slot →
      (∀ s', s.tileStep slot e (esi e) = .done s' → (∀ f ∈ q, f.seq ≠ e.seq) → (s'.thread slot).tq = u.tq →
        Answers (exec (.tileInstructionStart slot) s) fun t => gone s' t e ∧ (t.cell (slot / 4)).unit = none) ∧
      ∀ s' x, s.tileStep slot e (esi e) = .more s' x → (s'.thread slot).tq = u.tq →
        Answers (exec (.tileInstructionStart slot) s) fun t => t.mem = s'.mem ∧ t.cells = s'.cells ∧
          (t.thread slot).tq = u.tq.map fun f => if f.seq = e.seq then { f with prog := some x } else f) ∧
    ((s.cell cell).unit.isSome = true → exec (.matrixArbiterSelect cell) s = .next s) ∧
    ((s.cell cell).unit = none → (∀ j, j < 4 → (s.thread (cell * 4 + j)).tq = []) → exec (.matrixArbiterSelect cell) s = .next s) ∧
    (∀ k, (s.cell cell).unit = none → k < 4 →
      let j (i : Nat) : Nat := ((s.cell cell).mlast + 1 + i) % 4
      (s.thread (cell * 4 + j k)).tq ≠ [] → (∀ i, i < k → (s.thread (cell * 4 + j i)).tq = []) →
      (s.tmmaRefused (cell * 4 + j k) = false → Answers (exec (.matrixArbiterSelect cell) s) fun t => still t ∧
        (t.cell cell).unit = some (cell * 4 + j k) ∧ (t.cell cell).mlast = j k) ∧
      (s.tmmaRefused (cell * 4 + j k) = true → exec (.matrixArbiterSelect cell) s =
        .next ((s.setCell cell { s.cell cell with mlast := j k }).qStep (cell * 4 + j k) true).1)) ∧
    ((s.cell cell).unit = none → exec (.tmmaComplete cell) s = .next s) ∧
    (∀ e q s', (s.cell (slot / 4)).unit = some slot → u.tq = e :: q → e.kind.isTmma = true → u.vq = [] → u.stopped = false →
      s.inReplay slot = false → s.tileStep slot e (esi e) = .done s' → Answers (exec (.tmmaComplete (slot / 4)) s) fun t => gone s' t e ∧
        (t.cell (slot / 4)).unit = none) ∧
    ((u.vq = [] ∨ u.pred = none ∨ ∃ p, u.pred = some p ∧ p.busy = []) → exec (.escalationSettle slot) s = .next s) ∧
    (∀ e c i rest, Sparse.getD (u.predOf e).queues c [] = i :: rest → ∃ p, (u.settleHead e c).pred = some p ∧
      Sparse.getD p.queues c [] = rest ∧ NatSet.has p.settled i = true ∧ u.SameRegisters (u.settleHead e c)) ∧
    ∀ e q g p c, u.vq = e :: q → e.kind.geom = some g → u.pred = some p → p.seq = e.seq →
      p.busy[s.cycle / 2 % p.busy.length]? = some c →
      let s1 := s.updThread slot (·.settleHead e c)
      (∀ s', s1.geomFlush slot e g = .wait s' → exec (.escalationSettle slot) s = .next s') ∧
      (∀ s', s1.geomFlush slot e g = .done s' → Answers (exec (.escalationSettle slot) s) fun t => gone s' t e) ∧
      ∀ s' x, s1.geomFlush slot e g = .more s' x → Answers (exec (.escalationSettle slot) s) fun t => t.mem = s'.mem ∧
        t.cells = s'.cells ∧
        (t.thread slot).vq = (s'.thread slot).vq.map fun f => if f.seq = e.seq then { f with prog := some x } else f

/-- The events of the stream engine and the fabric: a free port starts its first command (R206); a running command
copies the elements of its next destination line, or one of them, and completes (R371); one that has stopped leaves when
its writes have landed (R55); a send opens a route with its first packet, goes
on along it, and leaves it by a closing or a truncation marker (R77, R80, R81, R372); a packet lands in the receiver's
scratchpad and is counted, or is discarded beyond it (R149, R373); a multicast packet leaves for the root of the tree and
lands in every cell that receives it (R82, R385). -/
def Obligations.StreamEvents : Prop :=
  ∀ (s : State) (cell port : Nat),
    let still (t : State) : Prop := t.threads = s.threads ∧ t.mem = s.mem
    let running := (s.cell cell).runningCmd port
    let first := (s.cell cell).stream.find? fun k => decide (k.port = port) && k.running
    let left (t : State) (k : Cmd) : Prop := ∀ q ∈ (t.cell cell).stream, ¬ (q.slot = k.slot ∧ q.id = k.id)
    let at' (t : State) (k : Cmd) (e : Nat) : Prop := ∃ q ∈ (t.cell cell).stream, q.slot = k.slot ∧ q.id = k.id ∧ q.elem = e
    let strtc (k : Cmd) : Nat := bits ((s.thread k.slot).csrGet csrNETCTL) 0 2
    let lands (t : State) (d o n v mc : Nat) : Prop := t.mem = s.mem ∧ t.poolRead d o n = v % 2 ^ (8 * n) ∧
      t.mcAt d mc = s.mcAt d mc + 1 ∧ ∀ a, (a < o ∨ o + n ≤ a) → t.poolByte d a = s.poolByte d a
    let goes (k : Cmd) (op : RouteOp) (r : Route) (t : State) : Prop :=
      let p := s.sendPacket cell k k.elem
      t.mem = s.mem ∧ at' t k (k.elem + 1) ∧ Sparse.find? port (t.cell cell).ports = some { r with flits := r.flits + 1 } ∧
      ∃ f ∈ t.flitsAt (combOf cell), f.tc = r.tc ∧ f.dst = combOf r.cell ∧ f.ep = physOf r.cell ∧
        f.load = .route ⟨op, cell, port, (r.flits + 1) % 512, r.cell, swDspoff k.word + 128 * k.elem,
          min 128 (k.denseBytes - 128 * k.elem), p.val, p.words, swDmc k.word, k.slot, k.id, 128 * k.elem⟩
    let sends (k : Cmd) : Prop := running = some k ∧ k.kind = .send ∧ k.elem < k.packets ∧ (s.sendPacket cell k k.elem).short = false
    let marked (op : RouteOp) (r : Route) (t : State) : Prop := still t ∧ Sparse.find? port (t.cell cell).ports = none ∧
      ∃ f ∈ t.flitsAt (combOf cell), f.tc = r.tc ∧ f.dst = combOf r.cell ∧
        f.load = .route ⟨op, cell, port, r.flits % 512, r.cell, 0, 0, 0, [], 0, r.slot, 0, 0⟩
    (∀ k, (s.cell cell).stream.find? (fun k => decide (k.port = port)) = some k →
      ((k.running = true ∨ k.ending = true ∨ s.mayStart cell k = false) → exec (.streamDispatch cell port) s = .next s) ∧
      (k.running = false → k.ending = false → s.mayStart cell k = true →
        (swRel k.word = false ∨ k.mcast.isSome = true → Answers (exec (.streamDispatch cell port) s) fun t => still t ∧
          (t.cell cell).runningCmd port = some { k with running := true }) ∧
        (swRel k.word = true → k.mcast = none →
          let v := s.relDrain k.slot psAll .module
          (v.relOpen k.slot psAll .module = true → exec (.streamDispatch cell port) s = .next v) ∧
          (v.relOpen k.slot psAll .module = false → k ∈ (v.cell cell).stream →
            Answers (exec (.streamDispatch cell port) s) fun t => t.mem = v.mem ∧ { k with running := true } ∈ (t.cell cell).stream)))) ∧
    (first = none → exec (.streamCommandComplete cell port) s = .next s) ∧
    (running = none → exec (.openRoute cell port) s = .next s ∧ exec (.dataFlit cell port) s = .next s) ∧
    (∀ k, first = some k → k.ending = true →
      (s.cmdFlying k = false → s.cmdInFlight k = false → Answers (exec (.streamCommandComplete cell port) s) fun t => left t k) ∧
      ((s.cmdFlying k = true ∨ s.cmdInFlight k = true) → exec (.streamCommandComplete cell port) s = .next s)) ∧
    (∀ k, first = some k → k.ending = false → k.kind = .send ∨ k.kind = .mcast →
      (k.packets ≤ k.elem → s.cmdFlying k = false → Answers (exec (.streamCommandComplete cell port) s) fun t => left t k) ∧
      ((k.elem < k.packets ∨ s.cmdFlying k = true) → exec (.streamCommandComplete cell port) s = .next s)) ∧
    (∀ k, first = some k → k.ending = false → k.kind ≠ .send → k.kind ≠ .mcast → (∀ p, k.mig ≠ some (p, false)) → patCount k.pat ≤ k.elem →
      (s.cmdInFlight k = false → Answers (exec (.streamCommandComplete cell port) s) fun t => left t k) ∧
      (s.cmdInFlight k = true → exec (.streamCommandComplete cell port) s = .next s)) ∧
    (∀ k m, first = some k → k.ending = false → k.kind = .copy → swCvt k.word = false → k.mig = none →
      let n := patEsz k.pat
      let src (i : Nat) : Nat := ((swSpoff k.word : Int) + patOffset k.pat (k.elem + i)).toNat
      let dst (i : Nat) : Nat := swDspoff k.word + (k.elem + i) * n
      0 < m → k.elem + m ≤ patCount k.pat → (∀ i, i < m → dst i / 128 = dst 0 / 128) →
      (if s.apart then m = 1 else k.elem + m = patCount k.pat ∨ dst m / 128 ≠ dst 0 / 128) →
      (∀ i, i < m → s.poolPoisoned cell (src i) n = false) →
      (∀ i j, i < m → j < m → src i + n ≤ dst j ∨ dst j + n ≤ src i) →
      Answers (exec (.streamCommandComplete cell port) s) fun t => at' t k (k.elem + m) ∧
        (∀ i, i < m → t.poolRead cell (dst i) n = s.poolRead cell (src i) n) ∧
        ∀ a, (a < dst 0 ∨ dst m ≤ a) → t.poolByte cell a = s.poolByte cell a) ∧
    (∀ k d, sends k → s.gangCell k.slot (swDcell k.word) = some d → Sparse.find? port (s.cell cell).ports = none →
      Answers (exec (.openRoute cell port) s) (goes k .opening ⟨k.slot, swDcell k.word, d, strtc k, 0, none⟩)) ∧
    (∀ k r, sends k → Sparse.find? port (s.cell cell).ports = some r → r.slot = k.slot → r.dcell = swDcell k.word →
      r.due = none → Answers (exec (.dataFlit cell port) s) (goes k .data r)) ∧
    (∀ k, running = some k → (s.sendPacket cell k k.elem).short = true →
      exec (.openRoute cell port) s = .next s ∧ exec (.dataFlit cell port) s = .next s) ∧
    (Sparse.find? port (s.cell cell).ports = none → exec (.dataFlit cell port) s = .next s ∧
      exec (.closeRoute cell port) s = .next s ∧ exec (.truncRoute cell port) s = .next s) ∧
    (∀ r, Sparse.find? port (s.cell cell).ports = some r →
      (r.due = some false → Answers (exec (.closeRoute cell port) s) (marked .close r)) ∧
      (r.due = none → (∀ k, running = some k → r.slot = k.slot ∧ r.dcell = swDcell k.word) →
        exec (.closeRoute cell port) s = .next s) ∧
      (∀ k, r.due = none → running = some k → (r.slot ≠ k.slot ∨ r.dcell ≠ swDcell k.word) →
        Answers (exec (.closeRoute cell port) s) (marked .close r)) ∧
      (r.due = some true → Answers (exec (.truncRoute cell port) s) (marked .trunc r)) ∧
      (r.due ≠ some true → exec (.truncRoute cell port) s = .next s)) ∧
    (∀ f : RouteFlit,
      (f.op = .close ∨ f.op = .trunc → s.routeLands f = s) ∧
      (f.op = .opening ∨ f.op = .data →
        (f.off + f.n ≤ (s.cell f.dcell).spadBytes → s.mcAt f.dcell f.mc < 2 ^ 32 - 1 →
          lands (s.routeLands f) f.dcell f.off f.n f.val f.mc) ∧
        ((s.cell f.dcell).spadBytes < f.off + f.n → let t := s.routeLands f
          t.mem = s.mem ∧ (t.cell f.dcell).pool = (s.cell f.dcell).pool ∧ (t.cell f.dcell).mc = (s.cell f.dcell).mc ∧
            ∀ r, Sparse.find? f.port (s.cell f.cell).ports = some r →
              Sparse.find? f.port (t.cell f.cell).ports = some { r with due := some true }))) ∧
    ((s.cell cell).runningCmd 8 = none → exec (.mcast cell) s = .next s) ∧
    (∀ k w m i g, (s.cell cell).runningCmd 8 = some k → k.mcast = some (w, m) → k.elem < k.packets →
      (s.thread k.slot).gang = some i → Sparse.find? i s.gangs = some g →
      let o := bits w 0 18 + 128 * k.elem
      let p := s.castPacket cell w k.elem
      Answers (exec (.mcast cell) s) fun t => t.mem = s.mem ∧ at' t k (k.elem + 1) ∧ p.val = s.poolRead cell o 128 ∧
        ∃ f ∈ t.flitsAt (combOf cell), f.tc = strtc k ∧ f.dst = g.root ∧ f.out = none ∧
          f.load = .cast ⟨g.tree, cell, o, p.val, p.words, bits w 26 6, if w.getLsbD 32 then some m else none, k.slot, k.id,
            128 * k.elem⟩) ∧
    ∀ f : CastFlit,
      let wanted : Prop := cell ≠ f.cell ∧ ∀ m, f.ranks = some m → ∃ i x r, (s.cell cell).gang = some i ∧
        Sparse.find? i s.gangs = some x ∧ r < x.desc.k ∧ m.getLsbD (x.cells.idxOf cell * x.desc.k + r) = true
      (¬ wanted → s.castLands cell f = s) ∧
      (wanted → f.off + 128 ≤ (s.cell cell).spadBytes → s.mcAt cell f.mc < 2 ^ 32 - 1 →
        lands (s.castLands cell f) cell f.off 128 f.val f.mc)

/-- The events of memory: a walk sends the accesses of an entry on or into the replay queue (R33, R37), which they leave by a
timeout (R38, R39) or a release, which wins over a timeout of its cycle; entries drain by age to the slice, the home or the host (R49, R50); epochs advance (R52); fills are served (R47, R53); the
scrubber corrects a row (R64); rows are remapped (R110); the forager reads and keeps time (R117, R118); and a slice
serves local accesses and the writes it has accepted (R84, R88). -/
def Obligations.MemoryEvents : Prop :=
  ∀ (s : State) (n line : Nat),
    let still (t : State) : Prop := t.threads = s.threads ∧ t.mem = s.mem
    let q := s.replayOf n
    let c := s.cell n
    let sent (t : State) (op : CohOp) (comb : Nat) (l : Nat) : Prop :=
      ∃ p ∈ t.packets, p.op = op ∧ p.line = l ∧ p.comb = comb ∧ p.req = comb
    let asks (comb l : Nat) (t : State) : Prop := still t ∧ (t.slice comb l).st = .isD ∧ sent t .gets comb l
    let st := (s.slice n line).st
    let room (comb l : Nat) : Prop := (s.sliceSet comb l).length < 12 ∧ s.mayAsk comb = true
    let blk := s.block n
    let goes (t : State) (r : Replay) : Prop := t.replayOf n = q.erase r ∧ (∀ k, k ∉ r.slots → t.thread k = s.thread k) ∧
      ∀ k, k ∈ r.slots → (s.thread k).SameRegisters (t.thread k) ∧ (t.thread k).pc = (s.thread k).pc ∧
        ((s.thread k).park = .replay → (t.thread k).park = .running)
    let bytes (t : State) (l : Nat) (data : BitVec 1024) (mask : BitVec 128) : Prop :=
      (∀ i, i < 128 → t.memByte (l * 128 + i) = if mask.getLsbD i then data.extractLsb' (8 * i) 8 else s.memByte (l * 128 + i)) ∧
      ∀ a, a / 128 ≠ l → t.memByte a = s.memByte a
    (q.find? (·.outside) = none → exec (.pageWalk n) s = .next s) ∧
    (∀ r, q.find? (·.outside) = some r → s.replayXlate r = none → exec (.pageWalk n) s = .next (s.leaveEntry n false r)) ∧
    (∀ r x s', q.find? (·.outside) = some r → s.replayXlate r = some x →
      let w := s.lookup x.1 x.2 pathLS .read (pageVa r.page)
      let free : Prop := (q.filter fun x => !x.outside).length < 64
      (∀ pg, w = .migrate s' pg → free → Answers (exec (.pageWalk n) s) fun t => t.threads = s'.threads ∧ t.mem = s'.mem ∧
        { r with outside := false, since := s.cycle } ∈ t.replayOf n) ∧
      (∀ pg, w = .migrate s' pg → ¬ free → exec (.pageWalk n) s = .next s') ∧
      (w = .wait s' → exec (.pageWalk n) s = .next s') ∧
      (((∃ v, w = .ok s' v) ∨ ∃ f, w = .fault s' f) → exec (.pageWalk n) s = .next (s'.leaveEntry n false r))) ∧
    (∀ r late, let t := s.leaveEntry n late r
      let mig : Option (Nat × Bool) := if late then some (r.page, true) else none
      goes t r ∧ t.mem = s.mem ∧
        (∀ k, k ∈ r.slots → (t.thread k).migTimeout = if late then some r.page else (s.thread k).migTimeout) ∧
        (∀ e, e ∈ r.cmds → ∀ k ∈ (t.cell (cellOf e.1)).stream, k.slot = e.1 → k.id = e.2 → k.mig = mig) ∧
        ∀ g, g ∈ r.gangs → ∀ h, Sparse.find? g t.gangs = some h → h.mig = mig) ∧
    (let lim := bits (s.dev (combReg n 0xA_0000)) 0 32
     let due (r : Replay) : Bool := !r.outside && decide (lim ≠ 0 ∧ r.since + lim ≤ s.cycle) &&
       !(s.flitsAt n).any (·.isRelease r.asid r.page)
     (q.find? due = none → exec (.migrationTimeout n) s = .next s) ∧
     (lim = 0 → exec (.migrationTimeout n) s = .next s) ∧
     ∀ r, q.find? due = some r → exec (.migrationTimeout n) s = .next (s.leaveEntry n true r)) ∧
    (let come (k : Nat) : Prop := ∃ e ∈ s.flits, e.1 = k ∧ e.2.any (·.isRelease n line) = true
     Answers (exec (.pageRelease n line) s) fun t => t.mem = s.mem ∧
      (∀ k, come k → (∀ r ∈ t.replayOf k, ¬ (r.asid = n ∧ r.page = line)) ∧ (∀ f ∈ t.flitsAt k, f.isRelease n line = false) ∧
        ∀ r ∈ s.replayOf k, r.asid = n → r.page = line → ∀ i ∈ r.slots, (s.thread i).park = .replay →
          (t.thread i).park = .running) ∧
      (∀ k, ¬ come k → t.replayOf k = s.replayOf k) ∧
      ∀ k, (t.thread k).pc = (s.thread k).pc ∧ (s.thread k).SameRegisters (t.thread k)) ∧
    ((∀ w ∈ c.wcb, s.cycle < w.born + 256) → Answers (exec (.entryAgeDrain n) s) fun t => still t ∧ ∀ k, t.cell k = s.cell k) ∧
    (∀ w, c.wcb = [w] → w.born + 256 ≤ s.cycle →
      let drains (P : State → Prop) : Prop := Answers (exec (.entryAgeDrain n) s) fun t => t.threads = s.threads ∧ (t.cell n).wcb = [] ∧ P t
      (w.nc = false → s.sliceOwns (combOf n) w.line = true → drains fun t => bytes t w.line w.data w.mask ∧
        (t.slice (combOf n) w.line).st = .m) ∧
      (w.nc = false → s.sliceOwns (combOf n) w.line = false → drains fun t => t.mem = s.mem ∧
        t.accepted = s.accepted ++ [⟨combOf n, w.line, w.data, w.mask, decide (w.pois ≠ 0), n⟩]) ∧
      (w.nc = true → regionAt (w.line * 128) ≠ .host → drains fun t => t.mem = s.mem ∧
        ∃ p ∈ t.packets, p.op = .ncwr ∧ p.line = w.line ∧ p.pois = decide (w.pois ≠ 0) ∧
          ∃ o, p.nc = some o ∧ o.who = .buffer n ∧ o.data = w.data ∧ o.mask = w.mask) ∧
      (w.nc = true → regionAt (w.line * 128) = .host →
        (bits (s.dev (blockReg 8 0x2_0020)) 0 1 = 1 → drains fun t => t.mem = s.mem ∧ ∀ i, i < 128 →
          let a := s.hostAddr (w.line * 128) + i
          Bytes.get zeroByte t.hostMem a = if w.mask.getLsbD i then byteOf w.data i else Bytes.get zeroByte s.hostMem a) ∧
        (bits (s.dev (blockReg 8 0x2_0020)) 0 1 = 0 → drains fun t => t.mem = s.mem ∧ t.hostMem = s.hostMem))) ∧
    (s.cycle < (c.epoch + 1) * 4096 → exec (.epochAdvance n) s = .next s) ∧
    ((c.epoch + 1) * 4096 ≤ s.cycle → Answers (exec (.epochAdvance n) s) fun t => still t ∧
      (t.cell n).epoch = s.cycle / 4096 ∧ (t.cell n).l1 = c.l1.filter fun l => decide (s.cycle / 4096 ≤ l.epoch + 1)) ∧
    (c.fills = [] → exec (.l1Fill n) s = .next s) ∧
    (∀ f rest, c.fills = f :: rest →
      (s.sliceHas (combOf n) f.line = true → Answers (exec (.l1Fill n) s) fun t => still t ∧ (t.cell n).fills = rest ∧
        if f.installable ∧ (∀ w ∈ c.wcb, w.line ≠ f.line) then
          ∃ l ∈ (t.cell n).l1, l.line = f.line ∧ l.data = s.lineData f.line ∧ l.epoch = s.cycle / 4096 ∧ l.pois = s.linePois (combOf n) f.line
        else (t.cell n).l1 = c.l1) ∧
      ((s.slice (combOf n) f.line).st = .i → room (combOf n) f.line →
        Answers (exec (.l1Fill n) s) fun t => asks (combOf n) f.line t ∧ (t.cell n).fills = c.fills)) ∧
    (s.sliceHas (combOf n) line = true → (s.slice (combOf n) line).pois = true → exec (.icacheFill n line) s = .next s) ∧
    (s.sliceHas (combOf n) line = true → (s.slice (combOf n) line).pois = false → Answers (exec (.icacheFill n line) s) fun t =>
      still t ∧ ∃ l ∈ (t.cell n).icache, l.line = line ∧ l.data = s.lineData line ∧ l.bad = false) ∧
    ((s.slice (combOf n) line).st = .i → room (combOf n) line → Answers (exec (.icacheFill n line) s) (asks (combOf n) line)) ∧
    Answers (exec (.poolScrub n line) s) (fun t => still t ∧ (t.cell n).pool = c.pool ∧
      (∀ w ∈ (t.cell n).latent, w / 8 ≠ line) ∧
      bits (t.cell n).cellerr 48 16 = min 65535 (bits c.cellerr 48 16 + (c.latent.filter fun w => decide (w / 8 = line)).length)) ∧
    (blk.remapWait = [] → exec (.rowRemap n) s = .next s) ∧
    (∀ pch bank row rest, blk.remapWait = (pch, bank, row) :: rest → (∀ r ∈ blk.remap, r.bad1 = false) →
      Answers (exec (.rowRemap n) s) fun t => t.mem = s.mem ∧ (∀ k, (s.thread k).SameRegisters (t.thread k)) ∧ (t.block n).remapWait = rest ∧
        let used := (blk.bankRemaps pch bank).length
        (t.block n).remap = (if 4 ≤ used then blk.remap else blk.remap ++ [⟨pch, bank, blk.rowNow pch bank row, used, false, false, false⟩]) ∧
        (used < 4 → ∀ l ∈ s.rowLines n pch bank row, Sparse.find? l blk.errs = some false →
          Sparse.find? l (t.block n).errs = none)) ∧
    ((∀ r ∈ blk.remap, r.flashed = true) → exec (.remapFlashWrite n) s = .next s) ∧
    (∀ l r rest, blk.remap = l ++ r :: rest → (∀ x ∈ l, x.flashed = true) → r.flashed = false →
      Answers (exec (.remapFlashWrite n) s) fun t => still t ∧ (t.block n).remap = l ++ { r with flashed := true } :: rest) ∧
    ((9 ≤ n ∨ bits (s.dev (forctl n)) 8 1 = 0 ∨ s.foragerMay n (s.blockPa n / 128 + blk.pass) = false) → exec (.foragerRead n) s = .next s) ∧
    (n < 9 → bits (s.dev (forctl n)) 8 1 = 1 → s.foragerMay n (s.blockPa n / 128 + blk.pass) = true → Answers (exec (.foragerRead n) s) fun t => t.mem = s.mem ∧
      (t.block n).pass = (if blockLines n ≤ blk.pass + 1 then 0 else blk.pass + 1) ∧
      let l := s.blockPa n / 128 + blk.pass
      (Sparse.find? l s.homes = none → (∀ m, s.mscFind l = some m → m.dirty = none) →
        Sparse.find? l (s.block (blockOf l).1).errs = some true → NatSet.has t.mpoison l = true)) ∧
    (9 ≤ n → exec (.foragerLag n) s = .next s) ∧
    (n < 9 → Answers (exec (.foragerLag n) s) fun t => t.mem = s.mem ∧ (t.block n).lagAt = s.cycle / 2500000000 ∧
      let gone := (s.cycle - blk.passStart) * 100 / (max 1 (bits (s.dev (forctl n)) 32 16) * 150000000000)
      let lag := min 100 (gone - blk.pass * 100 / blockLines n)
      bits (t.dev (forstat n)) 23 7 = lag ∧
      bits (t.dev (forstat n)) 30 2 =
        levelNext (decide (bits (s.dev (forctl n)) 10 1 = 1)) (bits (s.dev (forstat n)) 30 2) lag) ∧
    (st = .i → room n line → Answers (exec (.localRead n line) s) (asks n line) ∧
      Answers (exec (.localWrite n line) s) fun t => still t ∧ (t.slice n line).st = .imD ∧ sent t .getm n line) ∧
    (st ≠ .i → exec (.localRead n line) s = .next s) ∧
    ((st = .s ∨ st = .o) → s.mayAsk n = true → Answers (exec (.localWrite n line) s) fun t => still t ∧
      (t.slice n line).st = (if st = .s then .smA else .omA) ∧ sent t .upg n line) ∧
    (st ∈ [.i, .s, .o] → s.mayAsk n = false → exec (.localWrite n line) s = .next s ∧ exec (.localRead n line) s = .next s) ∧
    (st = .e ∨ st = .m →
      let mine (a : Accepted) : Bool := decide (a.comb = n ∧ a.line = line)
      Answers (exec (.localWrite n line) s) fun t => t.threads = s.threads ∧ (t.slice n line).st = .m ∧
        (∀ a ∈ t.accepted, mine a = false) ∧ (s.accepted.filter mine = [] → t.mem = s.mem) ∧
        ∀ a, s.accepted.filter mine = [a] → bytes t line a.data a.mask) ∧
    (st ∉ [.i, .s, .o, .e, .m] → exec (.localWrite n line) s = .next s)

/-- The packets of the coherence protocol (R84 to R94, R100, R253). A packet that has arrived is taken
when no earlier one of an ordered class with the same two ends waits there (R73). A request finds its line busy or
starts (R90, R91); a probed slice answers (R88, R89); data and grants end in S, E or M; replies let the home go on. -/
def Obligations.CoherencePackets : Prop :=
  ∀ (s : State) (n : Nat),
    (∀ e ∈ [(CohOp.gets, Instr.gets n), (.getm, .getm n), (.upg, .upg n), (.ncrd, .ncrd n), (.ncwr, .ncwr n), (.faop, .faop n),
        (.fwds, .fwds n), (.fwdm, .fwdm n), (.inv, .inv n), (.rcl, .rcl n), (.datas, .datas n), (.datae, .datae n),
        (.datam, .datam n), (.datamg, .datamg n), (.go, .go n), (.iack, .iack n), (.facks, .facks n), (.facko, .facko n),
        (.facki, .facki n), (.fackn, .fackn n), (.cmp, .cmp n), (.wback, .wback n), (.ncrsp, .ncrsp n), (.rcld, .rcld n),
        (.wbd, .wbd n)],
      (∀ p, s.net[n]? = some p → p.op ≠ e.1) → exec e.2 s = .next s) ∧
    ∀ p, s.net[n]? = some p →
      (p.op.cls = 1 ∨ p.op.cls = 2 ∨ ∀ q ∈ s.net.take n, ¬ (q.op.cls = p.op.cls ∧ (q.src = p.src ∨ p.op.cls = 0) ∧ q.dst = p.dst)) →
      let line := p.line
      let r := p.req
      let d := s.dirOf line
      let own := s.combAt d.owner
      let l := s.slice p.comb line
      let idle : Prop := Sparse.find? line s.homes = none
      let tx : HomeTx := ⟨p, 0, false, false, false, false, false, [], []⟩
      let here : Prop := s.lost p = false
      let alone (c : Nat) : DirEntry := ⟨.ex, s.pointer c, [], false, 0, 0⟩
      let sent (t : State) (op : CohOp) (comb req : Nat) : Prop :=
        ∃ q ∈ t.packets, q.op = op ∧ q.line = line ∧ q.comb = comb ∧ q.req = req
      let home (t : State) (x : HomeTx) : Prop := Sparse.find? line t.homes = some x
      let slice (t : State) (st : Moesi) : Prop := (t.slice p.comb line).st = st ∧
        ∀ c k, ¬ (c = p.comb ∧ k = line) → c < 8192 → p.comb < 8192 → t.slice c k = s.slice c k
      let takes (e : Instr) (P : State → Prop) : Prop := Answers (exec e s) fun t => t.net = s.net.eraseIdx n ∧ P t
      let mine (a : Accepted) : Bool := decide (a.comb = p.comb ∧ a.line = line)
      let bytes (t : State) (b : BitVec 1024) (m : BitVec 128) : Prop :=
        (∀ i, i < 128 → t.memByte (line * 128 + i) = if m.getLsbD i then b.extractLsb' (8 * i) 8 else s.memByte (line * 128 + i)) ∧
        ∀ a, a / 128 ≠ line → t.memByte a = s.memByte a
      let data (e : Instr) (st : Moesi) : Prop :=
        takes e fun t => t.threads = s.threads ∧ slice t st ∧ sent t .cmp p.comb p.comb ∧
          (st ≠ .m ∨ s.accepted.filter mine = [] → t.mem = s.mem) ∧
          (st = .m → (∀ a ∈ t.accepted, mine a = false) ∧ ∀ a, s.accepted.filter mine = [a] → bytes t a.data a.mask)
      let answers (t : State) (o : NcOp) (pois : Bool) : Prop := o.who ≠ .host →
        ∃ x ∈ t.packets, x.op = .ncrsp ∧ x.line = line ∧ x.comb = p.comb ∧ x.req = r ∧ x.pois = pois ∧ x.nc = some o
      let ended (t : State) : Prop := Sparse.find? line t.homes = none
      (∀ e x, (p.op, e) ∈ [(CohOp.gets, Instr.gets n), (.getm, .getm n), (.upg, .upg n), (.ncrd, .ncrd n), (.ncwr, .ncwr n),
          (.faop, .faop n)] → here → home s x →
        takes e fun t => t.mem = s.mem ∧ t.threads = s.threads ∧ home t { x with waiting := x.waiting ++ [p] }) ∧
      (∀ e, (p.op, e) ∈ [(CohOp.gets, Instr.gets n), (.getm, .getm n), (.upg, .upg n), (.ncrd, .ncrd n), (.ncwr, .ncwr n),
          (.faop, .faop n)] → s.lost p = true → exec e s = .next { s with net := s.net.eraseIdx n }) ∧
      (p.op = .gets → here → idle →
        (d.st = .i → takes (.gets n) fun t => t.mem = s.mem ∧ home t { tx with sent := true } ∧ t.dirOf line = alone r ∧
          sent t .datae r r) ∧
        (d.st = .s → takes (.gets n) fun t => t.mem = s.mem ∧ home t { tx with sent := true } ∧
          t.dirOf line = d.addSharer s.node (s.pointer r) ∧ sent t .datas r r) ∧
        (d.st = .ex ∨ d.st = .os → takes (.gets n) fun t => t.mem = s.mem ∧ home t { tx with probe := true } ∧
          t.dirOf line = d ∧ sent t .fwds own r)) ∧
      (∀ e, (p.op, e) ∈ [(CohOp.getm, Instr.getm n), (.upg, .upg n)] → here → idle →
        (d.st = .i → takes e fun t => t.mem = s.mem ∧ home t { tx with sent := true } ∧ t.dirOf line = alone r ∧ sent t .datam r r) ∧
        (d.st = .ex → takes e fun t => t.mem = s.mem ∧ home t { tx with probe := true } ∧ t.dirOf line = d ∧ sent t .fwdm own r) ∧
        (let cs := s.sharerCombs d [r]
         d.st = .s → cs ≠ [] → takes e fun t => t.mem = s.mem ∧ t.dirOf line = d ∧
          (∃ f, home t { tx with acks := cs.length, far := cs.filter (fun c => decide (1024 ≤ c)), fwd := f }) ∧
          ∀ c ∈ cs, sent t .inv c r) ∧
        (d.st = .s → d.ovf = false → d.sharers = [s.pointer r] → r < 1024 → p.op = .upg → takes e fun t => t.mem = s.mem ∧
          home t { tx with fwd := true, sent := true } ∧ t.dirOf line = alone r ∧ sent t .go r r)) ∧
      (p.op = .ncwr → here → idle → d.st = .i → ∀ o, p.nc = some o → s.NoErrors → takes (.ncwr n) fun t => ended t ∧
        t.dirOf line = .invalid ∧ bytes t o.data o.mask ∧ answers t o false) ∧
      (p.op = .ncrd → here → idle → ∀ o, p.nc = some o → o.who ≠ .host →
        (d.st = .i ∨ d.st = .s → takes (.ncrd n) fun t => ended t ∧ t.mem = s.mem ∧ (d.st = .s → t.dirOf line = d) ∧
          answers t { o with data := s.lineData line } (s.homePoison line).1)) ∧
      (p.op = .faop → here → idle → d.st = .i → ∀ o, p.nc = some o → o.addr / 128 = line → o.addr % 128 + o.n ≤ 128 →
        let old := s.memRead o.addr o.n
        let v := amoApply (amoOfCode (o.aop % 16)) (8 * o.n) (fpRmOf (BitVec.ofNat 64 (o.aop / 16))) old o.val.toNat o.cmpv.toNat
        ((s.farTouch line).1 = false → takes (.faop n) fun t => ended t ∧ t.dirOf line = .invalid ∧
          t.memRead o.addr o.n = (if v.2.2 then v.1 % 256 ^ o.n else old) ∧
          (∀ a, (a < o.addr ∨ o.addr + o.n ≤ a) → t.memByte a = s.memByte a) ∧
          answers t { o with data := BitVec.ofNat 1024 old, flags := v.2.1 } false) ∧
        ((s.farTouch line).1 = true → takes (.faop n) fun t => ended t ∧ t.mem = s.mem ∧ answers t o true)) ∧
      (∀ e, (p.op, e) ∈ [(CohOp.inv, Instr.inv n), (.fwds, .fwds n), (.fwdm, .fwdm n), (.rcl, .rcl n)] → l.st = .miA ∨ l.st = .oiA →
        takes e fun t => slice t l.st ∧ t.packets.length + 1 = s.packets.length ∧
          (t.slice p.comb line).deferred.length = l.deferred.length + 1) ∧
      (p.op = .inv → (l.st ∈ [.s, .e, .o, .m, .i] → takes (.inv n) fun t => slice t .i ∧ sent t .iack p.comb r) ∧
        (l.st ∈ [.smA, .omA] → takes (.inv n) fun t => slice t .imD ∧ sent t .iack p.comb r)) ∧
      (p.op = .fwds →
        (l.st = .e → takes (.fwds n) fun t => slice t .s ∧ sent t .datas r r ∧ sent t .facks p.comb r) ∧
        (l.st = .m ∨ l.st = .o → takes (.fwds n) fun t => slice t .o ∧ sent t .datas r r ∧ sent t .facko p.comb r) ∧
        (l.st = .omA → takes (.fwds n) fun t => slice t .omA ∧ sent t .datas r r ∧ sent t .facko p.comb r) ∧
        (l.st ∈ [.isD, .imD, .smA] → takes (.fwds n) fun t => slice t l.st ∧ sent t .fackn p.comb r) ∧
        (l.st = .i ∨ l.st = .s → takes (.fwds n) fun t => slice t .i ∧ sent t .fackn p.comb r)) ∧
      (p.op = .fwdm →
        (l.st ∈ [.e, .o, .m] → takes (.fwdm n) fun t => slice t .i ∧ sent t .datamg r r ∧ sent t .facki p.comb r) ∧
        (l.st = .omA → takes (.fwdm n) fun t => slice t .imD ∧ sent t .datamg r r ∧ sent t .facki p.comb r) ∧
        (l.st = .i ∨ l.st = .s → takes (.fwdm n) fun t => slice t .i ∧ sent t .fackn p.comb r)) ∧
      (p.op = .rcl →
        (l.st ∈ [.e, .o, .m] → takes (.rcl n) fun t => slice t .i ∧ sent t .rcld p.comb r) ∧
        (l.st = .omA → takes (.rcl n) fun t => slice t .imD ∧ sent t .rcld p.comb r) ∧
        (l.st = .i ∨ l.st = .s → takes (.rcl n) fun t => slice t .i ∧ sent t .fackn p.comb r)) ∧
      (p.op = .datas → l.st = .isD → data (.datas n) .s) ∧
      (p.op = .datae → l.st = .isD → data (.datae n) .e) ∧
      (p.op = .datam → l.st ∈ [.imD, .smA, .omA] → data (.datam n) .m) ∧
      (p.op = .datamg → l.st = .imD →
        (l.gotGo = true → data (.datamg n) .m) ∧
        (l.gotGo = false → takes (.datamg n) fun t => slice t .imD ∧ (t.slice p.comb line).gotData = true)) ∧
      (p.op = .go →
        (l.st = .smA ∨ l.st = .omA ∨ (l.st = .imD ∧ l.gotData = true) → data (.go n) .m) ∧
        (l.st = .imD → l.gotData = false → takes (.go n) fun t => slice t .imD ∧ (t.slice p.comb line).gotGo = true)) ∧
      (p.op = .wback → l.st = .miA ∨ l.st = .oiA → l.deferred = [] → takes (.wback n) fun t => slice t .i ∧ t.mem = s.mem) ∧
      (∀ x, home s x → x.acks = 0 → x.sent = false → x.waiting = [] →
        (p.op = .facks → x.probe = true → x.cmp = false → takes (.facks n) fun t => home t { x with probe := false, sent := true } ∧
          t.dirOf line = (⟨.s, 0, [d.owner], false, 0, 0⟩ : DirEntry).addSharer s.node (s.pointer x.pkt.req)) ∧
        (p.op = .facko → x.probe = true → x.cmp = false → takes (.facko n) fun t => home t { x with probe := false, sent := true } ∧
          (x.gone = false → (t.dirOf line).st = .os ∧ (t.dirOf line).owner = d.owner) ∧
          (x.gone = true → (t.dirOf line).st = .s ∧ (t.dirOf line).owner = 0)) ∧
        (p.op = .facki → x.pkt.op = .getm → takes (.facki n) fun t => home t { x with probe := false, fwd := true, sent := true } ∧
          t.dirOf line = alone x.pkt.req ∧ sent t .go x.pkt.req x.pkt.req) ∧
        (p.op = .fackn → x.pkt.op = .gets → d.st = .ex → x.cmp = false → takes (.fackn n) fun t =>
          home t { x with probe := false, sent := true } ∧ t.dirOf line = alone x.pkt.req ∧ sent t .datae x.pkt.req x.pkt.req) ∧
        (p.op = .fackn → x.pkt.op = .gets → d.st = .os → x.cmp = false → takes (.fackn n) fun t =>
          home t { x with probe := false, sent := true } ∧ sent t .datas x.pkt.req x.pkt.req ∧
          t.dirOf line = ({ d with st := .s, owner := 0 } : DirEntry).addSharer s.node (s.pointer x.pkt.req)) ∧
        (p.op = .rcld → x.pkt.op = .ncwr → p.pois = false → s.NoErrors → ∀ o, x.pkt.nc = some o → takes (.rcld n) fun t =>
          ended t ∧ t.dirOf line = .invalid ∧ bytes t o.data o.mask)) ∧
      (∀ x, home s x → x.pkt.op = .rcl → x.acks = 1 → x.probe = false → x.sent = false → x.waiting = [] →
        (p.op = .fackn → takes (.fackn n) fun t => ended t ∧ t.dirOf line = .invalid ∧ t.mem = s.mem) ∧
        (p.op = .rcld → takes (.rcld n) fun t => ended t ∧ t.dirOf line = .invalid ∧ ∀ a, t.memByte a = s.memByte a)) ∧
      (∀ x, home s x → p.op = .iack →
        (1 < x.acks → takes (.iack n) fun t => t.mem = s.mem ∧ home t (x.acked p.comb) ∧ (x.acked p.comb).acks = x.acks - 1) ∧
        (x.acks = 1 → x.probe = false → x.sent = false → x.pkt.op = .getm → x.fwd = false → takes (.iack n) fun t =>
          t.mem = s.mem ∧ home t { x.acked p.comb with acks := 0, sent := true } ∧ t.dirOf line = alone x.pkt.req ∧
          sent t .datam x.pkt.req x.pkt.req)) ∧
      (∀ x, home s x → p.op = .cmp → x.acks = 0 → x.probe = false → x.sent = true → x.waiting = [] →
        takes (.cmp n) fun t => t.mem = s.mem ∧ Sparse.find? line t.homes = none) ∧
      (p.op = .wbd → takes (.wbd n) fun t => (∀ a, t.memByte a = s.memByte a) ∧ sent t .wback p.comb p.comb ∧
        (idle → d.owner = s.pointer p.comb → (d.st = .ex → t.dirOf line = .invalid) ∧
          (d.st = .os → t.dirOf line = { d with st := .s, owner := 0 })) ∧
        (∀ x, home s x → x.probe = true → x.pkt.op ≠ .rcl → d.owner = s.pointer p.comb → d.st = .ex ∨ d.st = .os →
          t.dirOf line = d ∧ home t { x with gone := true }) ∧
        (d.owner ≠ s.pointer p.comb → t.dirOf line = d) ∧
        (idle → d.owner ≠ s.pointer p.comb → let o := blockReg (blockOf line).1 0x38
          bits (t.dev o) 0 32 = min (2 ^ 32 - 1) (bits (s.dev o) 0 32 + 1)) ∧
        (p.pois = true → idle → s.fencedLine line = false → d.st = .ex → d.owner = s.pointer p.comb →
          NatSet.has t.mpoison line = true)) ∧
      ((p.op = .ncrsp → ∀ o slot, p.nc = some o → o.who = .scalar slot ∨ o.who = .queue slot →
        let u := s.thread slot
        (∀ h, (u.reads.find? fun h => decide (h.tag = o.tag)) = some h → takes (.ncrsp n) fun t => t.mem = s.mem ∧
          (∀ k, k ≠ slot → t.thread k = s.thread k) ∧
          (t.thread slot).reads = u.reads.replace h
            { h with got := some (o.data.toNat / 2 ^ (8 * (h.pa % 128)) % 2 ^ (8 * h.n), p.pois) }) ∧
        ((u.reads.find? fun h => decide (h.tag = o.tag)) = none →
          (∀ q, (u.pend.find? fun q => decide (q.far = some o.tag)) = some q → u.live = true → u.resident = true → q.reg < 32 →
            p.pois = false → takes (.ncrsp n) fun t => t.mem = s.mem ∧ (∀ k, k ≠ slot → t.thread k = s.thread k) ∧
              u.Wrote (t.thread slot) (BitVec.ofNat 5 q.reg) (amoOld (amoOfCode (o.aop % 16)) o.n o.data.toNat) ∧
              (t.thread slot).pend = u.pend.erase q ∧ u.Raised (t.thread slot) o.flags) ∧
          ((u.pend.find? fun q => decide (q.far = some o.tag)) = none → o.fp = false →
            takes (.ncrsp n) fun t => t.mem = s.mem ∧ t.threads = s.threads))) ∧
      (p.op = .ncrsp → ∀ o c g h, p.nc = some o → o.who = .sched c g → Sparse.find? g s.gangs = some h →
        takes (.ncrsp n) fun t => t.mem = s.mem ∧ t.threads = s.threads ∧
          Sparse.find? g t.gangs = some { h with doneBack := some p.pois }))

/-- The events of the mesh and the hive: a port sends one flit of those that are ready, by priority, turn and mark (R75,
R76), on its next hop along its route (R72) or to its endpoint; packets that spread are copied (R82, R83), and one with a
reserved code is discarded (R68); a head that waited too long is marked (R78); a link replays and after 16 failed replays
fails with its other end (R70, R71); packets between modules cross the gateways, and a hive link comes up, replays, fails or
loses lanes (R95, R96, R410). -/
def Obligations.FabricEvents : Prop :=
  ∀ (s : State) (comb port : Nat),
    let quiet (t : State) : Prop := t.threads = s.threads ∧ t.mem = s.mem ∧ t.cells = s.cells
    let o := s.port comb port
    let w := s.dev (hvstat port)
    let ready := s.readyHeads comb port
    let sends (f : Flit) : Prop := Answers (exec (.arbitrate comb port) s) fun t =>
      ∃ (s1 : State) (v : Nat), ({ s1 with flits := s.flits, outs := s.outs } : State) = s ∧
        s1.flitsAt comb = dropFlit s.cycle f (s.flitsAt comb) ∧ (s1.port comb port).replays = 0 ∧
        (s1.port comb port).failed = o.failed ∧ t = (s1.sendOut comb port v f).castPump comb 16
    (ready = [] → exec (.arbitrate comb port) s = .next s) ∧
    (port < 4 → o.failed = true → ready = []) ∧
    (∀ f, ready = [f] → f.tc < 8 → sends f) ∧
    (∀ f, f ∈ ready → (f.tc = 6 ∨ f.tc = 7) →
      ((∀ x ∈ ready, x ≠ f → x.tc < 6) → sends f) ∧ (f.esc = true → (∀ x ∈ ready, x.esc = true → x = f) → sends f)) ∧
    (∀ f k, Sparse.getD s.castBuf comb [] = [] → s.castPump comb k = s ∧ (4 ≤ port → ∀ v, s.sendOut comb port v f = s.sink comb port f)) ∧
    (∀ f : Flit, f.out = none → f.dst ≠ comb → f.load.cls ≠ 1 → f.load.cls ≠ 2 → s.wants comb f =
      if comb % 32 < f.dst % 32 then some 1 else if f.dst % 32 < comb % 32 then some 3
      else if comb / 32 < f.dst / 32 then some 2 else if f.dst / 32 < comb / 32 then some 0 else none) ∧
    (∀ f : Flit, s.sink comb 8 f = s.hiveLeaves (gatewayPort comb) f.load) ∧
    (∀ f : Flit, port ≠ 8 → (∀ x, f.load = .coh x → s.sink comb port f = { s with net := s.net ++ [x] }) ∧
      (∀ d, f.load = .msg d → s.sink comb port f = { s with msgs := s.msgs ++ [d] }) ∧
      (∀ x, f.load = .route x → s.sink comb port f = s.routeLands x) ∧
      (∀ c, f.load = .cast c → port = 4 → s.sink comb port f = s.castLands (comb * 17 + f.ep) c) ∧
      (∀ m, f.load = .mgmt m → s.sink comb port f = s.manage comb m)) ∧
    (∀ f c v, meshNext comb port = some c →
      (∀ g id gen m, f.load = .arrive g id gen m → s.sendOut comb port v f = s.sinkArrivals g id c gen m) ∧
      (∀ g id gen, f.load = .complete g id gen → s.sendOut comb port v f = s.sinkCompletion g id c gen) ∧
      (f.load.cls < 4 ∨ f.load.cls = 6 ∨ (∃ d, f.load = .msg d) ∨ (∃ x, f.load = .route x) → f.rect = none → f.ep ≤ 21 →
        let t := s.sendOut comb port v f
        quiet t ∧ t.net = s.net ∧ t.msgs = s.msgs ∧
          t.flitsAt c = s.flitsAt c ++ [{ f with inp := (port + 2) % 4, vc := v, since := s.cycle, out := none }])) ∧
    (∀ f : Flit, f.load = .junk ∨ 21 < f.ep % 32 → let t := s.enter comb f
      quiet t ∧ t.flits = s.flits ∧ bits (t.dev (combReg comb 0x8_0048)) 0 16 = min 65535 (bits (s.dev (combReg comb 0x8_0048)) 0 16 + 1)) ∧
    (∀ (f : Flit) x0 y0 x1 y1, f.rect = some (x0, y0, x1, y1) → f.ep ≤ 21 → f.load ≠ .junk → f.out.isSome = true ∨ f.dst = comb →
      let t := s.enter comb f
      let copy (p : Nat) : Prop := ∃ g ∈ t.flitsAt comb, g.out = some p ∧ g.load = f.load ∧ g.rect = f.rect
      quiet t ∧ copy 7 ∧ (comb / 32 = y0 → comb % 32 < x1 → copy 1) ∧ (comb / 32 < y1 → copy 2)) ∧
    (∀ (f : Flit) c, f.rect = none → f.ep ≤ 21 → f.load = .cast c → f.out.isSome = true →
      let e := s.dev (treeReg comb c.tree)
      let t := s.enter comb f
      quiet t ∧ (e.getLsbD 63 = false → t = s) ∧ (e.getLsbD 63 = true →
        (∀ p, p < 4 → e.getLsbD (32 + p) = true → ∃ g ∈ t.flitsAt comb, g.out = some p ∧ g.load = f.load) ∧
        ∀ q, q < 17 → e.getLsbD q = true → ∃ g ∈ t.flitsAt comb, g.out = some 4 ∧ g.ep = q ∧ g.load = f.load)) ∧
    (s.overdue comb port = [] → exec (.recoveryTimeout comb port) s = .next s) ∧
    (∀ f rest, s.overdue comb port = f :: rest → Answers (exec (.recoveryTimeout comb port) s) fun t => quiet t ∧ t.net = s.net ∧
      (∃ g ∈ t.flitsAt comb, g.esc = true ∧ g.load = f.load ∧ g.dst = f.dst ∧
        (f.load.cls = 1 ∨ f.load.cls = 2 → f.inp < 4 → g.vc = 1)) ∧
      bits (t.dev (combReg comb 0x8_0048)) 32 32 = min (2 ^ 32 - 1) (bits (s.dev (combReg comb 0x8_0048)) 32 32 + 1)) ∧
    (∀ f, f ∈ s.overdue comb port → f.inp = port ∧ f.esc = false ∧ f.load.cls ≠ 4 ∧
      f.since + max 256 (bits (s.dev (combReg comb 0x8_0040)) 0 16) < s.cycle) ∧
    ((meshNext comb port = none ∨ o.failed = true ∨ 1024 ≤ comb) → exec (.linkReplay comb port) s = .next s) ∧
    (∀ c, meshNext comb port = some c → o.failed = false → comb < 1024 →
      (o.replays < 16 → Answers (exec (.linkReplay comb port) s) fun t => quiet t ∧
        (t.port comb port).replays = o.replays + 1 ∧ (t.port comb port).failed = false ∧
        bits (t.dev (combReg comb 0x8_0048)) 16 16 = min 65535 (bits (s.dev (combReg comb 0x8_0048)) 16 16 + 1)) ∧
      (16 ≤ o.replays → Answers (exec (.linkReplay comb port) s) fun t => t.mem = s.mem ∧
        (t.port comb port).failed = true ∧ (t.port c ((port + 2) % 4)).failed = true)) ∧
    (port < 12 → let r := 1024 + port
      (bits w 0 4 ≠ 2 → exec (.linkReplay r 0) s = .next s) ∧
      (bits w 0 4 = 2 → (s.port r 0).replays < 16 → Answers (exec (.linkReplay r 0) s) fun t => quiet t ∧
        (t.port r 0).replays = (s.port r 0).replays + 1 ∧ bits (t.dev (hvstat port)) 0 4 = 2 ∧
        bits (t.dev (hvstat port)) 32 17 = min (2 ^ 17 - 1) (bits w 32 17 + 1)) ∧
      (bits w 0 4 = 2 → 16 ≤ (s.port r 0).replays → Answers (exec (.linkReplay r 0) s) fun t =>
        bits (t.dev (hvstat port)) 0 4 = 3 ∧ ∀ x ∈ t.hiveOut, x.port ≠ port)) ∧
    (∀ x m, s.leavesFor x = some m → s.spreads = [] → let t := s.hiveLeaves port (.coh x)
      quiet t ∧ t.hiveOut = s.hiveOut ++ [⟨port, m, .coh x, if x.op.carries then s.lineData x.line else 0⟩]) ∧
    (∀ x m d, port < 12 → m ≠ s.node → s.portTo m port = true → x.op.toHome = true → x.op.carries = false → x.comb < 1024 →
      homeNode x.line = s.node → let t := s.hiveEnters ⟨port, m, .coh x, d⟩
      quiet t ∧ ∃ q ∈ t.packets, q.op = x.op ∧ q.line = x.line ∧ q.pois = x.pois ∧ q.comb = farComb m x.comb) ∧
    (∀ node peer, (12 ≤ port ∨ 8 ≤ node ∨ bits w 63 1 = 0 ∨ bits w 0 4 = 2) → exec (.hiveLinkTraining port node peer) s = .next s) ∧
    (∀ node peer, port < 12 → node < 8 → bits w 63 1 = 1 → bits w 0 4 ≠ 2 →
      Answers (exec (.hiveLinkTraining port node peer) s) fun t => quiet t ∧
        bits (t.dev (hvstat port)) 53 3 = node ∧ bits (t.dev (hvstat port)) 4 4 = 8 ∧
        bits (t.dev (hvstat port)) 0 4 =
          if node = s.node ∨ (s.dev (blockReg 8 0x2_0010)).getLsbD (8 + node) = false then 4 else 2) ∧
    ((12 ≤ port ∨ bits w 0 4 ≠ 2) → exec (.hiveLinkFailure port) s = .next s ∧ exec (.laneFailure port) s = .next s) ∧
    (port < 12 → bits w 0 4 = 2 →
      (let across (line : Nat) (d : DirEntry) : Prop := d.st = .ex ∧ d.owner / 1024 = bits w 53 3 ∧
         s.hivePort (bits w 53 3) line = port ∧ s.fencedLine line = false
       Answers (exec (.hiveLinkFailure port) s) fun t => bits (t.dev (hvstat port)) 0 4 = 3 ∧
        (s.homes = [] → (∀ a, t.memByte a = s.memByte a) ∧
          (Sparse.sorted s.dir = true → ∀ line d, Sparse.find? line s.dir = some d → across line d →
            t.dirOf line = .invalid ∧ NatSet.has t.mpoison line = true)) ∧
        ∀ line d x, s.dir = [(line, d)] → across line d → s.homes = [(line, x)] → x.probe = true → x.acks = 0 → x.sent = false →
          x.cmp = false → x.waiting = [] → x.far = [] → x.pkt.comb < 1024 → x.pkt.op = .gets →
          Sparse.find? line t.homes = some { x with probe := false, sent := true } ∧ NatSet.has t.mpoison line = true ∧
            ∃ q ∈ t.packets, q.op = .datae ∧ q.line = line ∧ q.comb = x.pkt.req) ∧
      Answers (exec (.laneFailure port) s) fun t => quiet t ∧ bits (t.dev (hvstat port)) 4 4 = 4 ∧
        bits (t.dev (hvstat port)) 0 4 = 2)

/-- A step runs the decoded instruction (R193, R256, R265). When the next move is the issue of a thread that may issue and
has no report and no interrupt to take, the step is `exec` of the instruction that its next word decodes to, on the
state that the fetch left, with instruction forwarding (R163) and the cycle's end around it; a word that the decoder
rejects takes the illegal-instruction trap. The next word is fetched, or in a loop body stands in the loop buffer (R293). In
machine mode, at a word of the module's boot ROM, that word is the four bytes at the pc, lowest address least significant
(R5, R256). A report of poison comes before an interrupt, and an interrupt before the next instruction. An event of the agenda
is `exec` of that event, and a frozen module makes no step (R415). -/
def Obligations.StepRunsDecoded : Prop :=
  ∀ (s : State) (slot : Nat) (rest : List Move),
    let s' : State := { s with agenda := rest, phase := 5 }
    let s0 := s'.select slot
    let th := s0.thr
    let ends (o : Host.Outcome State Fault Refusal) : Host.Outcome State Fault Refusal := onNext State.tick (onNext (·.forwarded slot th) o)
    (s.agenda = [.issue slot] ++ rest → s.frozen = false → ({ s with agenda := rest } : State).mayIssue slot = true →
      (th.called = true →
        (∀ va l, th.deferred = va :: l → step s = .next (s0.takeReport va l).tick) ∧
        (th.deferred = [] → step s = .next (s0.takeInterrupt slot).tick)) ∧
      (th.called = false → th.fwdWaits = false →
        (∀ s1 w, s0.running_.nextWord = .word s1 w →
          (∀ i, decode w = .ok i → step s = ends (exec i s1.issued)) ∧
          (∀ e, decode w = .error e → step s = ends (exec (.illegalInstruction w) s1.issued))) ∧
        (∀ s1, s0.running_.nextWord = .stop s1 → step s = .next s1.tick) ∧
        (∀ w, th.loopWord = some w → s0.running_.nextWord = .word s0.running_ w) ∧
        ∀ a, th.mode = .machine → th.pc = BitVec.ofNat 64 (s.node * 2 ^ 48 + a) → Config.romBase ≤ a →
          a + 4 ≤ Config.romBase + Config.romSize → a % 4 = 0 → (∀ o ∈ s.outs, o.2.failed = false) → th.loopWord = none →
          let w := BitVec.ofNat 32 (s.memRead a 4)
          ∀ i, decode w = .ok i → step s = ends (exec i (s0.running_.upd (·.loopFill w)).issued))) ∧
    (∀ i, s.agenda = [.event i] ++ rest → s.frozen = false → isEvent i = true →
      step s = onNext State.tick (exec i { s with agenda := rest, phase := placeOf i })) ∧
    (s.agenda = [] → s.frozen = true → step s = .fault .frozen)

/-- Decoding and encoding agree: the word of every well-formed instruction decodes to that instruction, with every
operand it has, and no two well-formed instructions share a word (R256, R257, R265). -/
def Obligations.DecodeAndEncodeAgree : Prop :=
  (∀ i : Instr, i.wellFormed = true → decode (encode i) = .ok i) ∧
    (∀ i j : Instr, i.wellFormed = true → j.wellFormed = true → encode i = encode j → i = j) ∧
    ∀ (w : BitVec 32) (i : Instr), decode w = .ok i → i.wellFormed = true

/-- Every step keeps memory and DRAM in their canonical form: addresses rise and no listed byte equals what an unlisted
address reads as. -/
def Obligations.MemoryStaysCanonical : Prop :=
  ∀ s t : State, Bytes.wf romByte s.mem = true → Bytes.wf romByte s.dram = true → step s = .next t →
    Bytes.wf romByte t.mem = true ∧ Bytes.wf romByte t.dram = true

/-- The module right after reset: every cell with the reset partition (R41) and lane control (R219), every thread's
control registers at their reset values (R217), the registers of the window at theirs (R39, R67, R76, R79, R117, R185),
no thread started (R450), start-up in its first stage (R412), and memory in its canonical form. -/
def Obligations.ResetValues : Prop :=
  let s := State.reset
  (∀ c, (s.cell c).partw = 0x0680_0000_0000_000C ∧ (s.cell c).lanectl = 2 ∧ (s.cell c).gang = none ∧ (s.cell c).bars = []) ∧
    (∀ k, (s.thread k).live = false) ∧
    (∀ k, (s.thread k).csrGet csrXSEL = 0x0F ∧ (s.thread k).csrGet csrRINGCTL = 0x0010_0000_0000_0000 ∧
      (s.thread k).csrGet csrIENB = 0x0E ∧ (s.thread k).csrGet csrFPCTL = 0 ∧ (s.thread k).csrGet csrFPFLG = 0 ∧
      (s.thread k).csrGet csrLEN = 0 ∧ (s.thread k).csrGet csrEPC = 0 ∧ (s.thread k).csrGet csrMEPC = 0) ∧
    (∀ c, c < 1024 → s.dev (combReg c 0x8_0040) = 4096 ∧ s.dev (combReg c 0x9_0000) = 16 ∧
      ∀ i, i < 8 → s.dev (combReg c (0x8_0000 + 8 * i)) = 8) ∧
    s.boot.stage = 1 ∧ Bytes.wf romByte s.mem = true ∧ Bytes.wf romByte s.dram = true

/-- Words that the spec writes out decode to the instructions that it says they are (R292, R313, R325, R329, R339, R362,
R375, R388, R391), a word of a hint major that names no hint does nothing (R267), and the word of zeros is illegal. -/
def Obligations.SampleWordsDecode : Prop :=
  decode 0x0230_8848 = .ok (.div false 3 1 2) ∧ decode 0x7000_000F = .ok (.tret false) ∧
    decode 0x5840_0003 = .ok (.setvl false 4 0 .e64) ∧ decode 0x4411_0CB0 = .ok (.vfadd false 1 2 3 5 true) ∧
    decode 0x4820_8FE0 = .ok (.vfmadd false 2 1 3 31 false) ∧ decode 0x5210_83E0 = .ok (.vld false 1 1 31) ∧
    decode 0x1A30_8873 = .ok (.famoadd false 3 1 2 true .release .frame) ∧ decode 0x6680_0003 = .ok (.swaitb false 8 0) ∧
    decode 0x6E00_0003 = .ok (.retire false) ∧ decode 0x6E00_0002 = .ok (.trigger false) ∧
    decode 0x5B40_03E0 = .ok (.vorient2 false 20 0 31 false) ∧ decode 0x5B80_00BA = .ok (.vincirct false 24 0 5 true) ∧
    decode 0x7C60_0000 = .ok (.hintNop false 0x7C60_0000) ∧ ∀ i, decode 0 ≠ .ok i

end
end

