-- ==== Sys2Proof/Laws/Encoding.lean ====
section
/-! SUPPORT. Fields of encoded words: for every layout of fields that the encoder writes,
what the decoder's field reads give (`Layout`), and the decoder's arm for each major opcode
(`Major`). -/

namespace Sys2Proof.Laws

/-- A word whose fields give a well-formed instruction decodes to it. -/
theorem decode_of_fields {i : Instr} {w : BitVec 32} (h : i.wellFormed = true)
    (e : decodeFields w = .ok i) : decode w = .ok i := by
  simp [decode, e, h]

namespace Layout

theorem l1_x25_6 (x0 : BitVec 1) (x1 : BitVec 6) (x2 : BitVec 5) (x3 : BitVec 5) (x4 : BitVec 5) (x5 : BitVec 10) :
    (x0 ++ x1 ++ x2 ++ x3 ++ x4 ++ x5 : BitVec 32).extractLsb' 25 6 = x1 := by
  rw [BitVec.extractLsb'_append_eq_of_le (by decide),
    BitVec.extractLsb'_append_eq_of_le (by decide),
    BitVec.extractLsb'_append_eq_of_le (by decide),
    BitVec.extractLsb'_append_eq_of_le (by decide),
    BitVec.extractLsb'_append_eq_of_add_le (by decide),
    BitVec.extractLsb'_eq_self]

theorem l1_x0_10 (x0 : BitVec 1) (x1 : BitVec 6) (x2 : BitVec 5) (x3 : BitVec 5) (x4 : BitVec 5) (x5 : BitVec 10) :
    (x0 ++ x1 ++ x2 ++ x3 ++ x4 ++ x5 : BitVec 32).extractLsb' 0 10 = x5 := by
  rw [BitVec.extractLsb'_append_eq_of_add_le (by decide),
    BitVec.extractLsb'_eq_self]

theorem l1_b31 (x0 : Bool) (x1 : BitVec 6) (x2 : BitVec 5) (x3 : BitVec 5) (x4 : BitVec 5) (x5 : BitVec 10) :
    (BitVec.ofBool x0 ++ x1 ++ x2 ++ x3 ++ x4 ++ x5 : BitVec 32).getLsbD 31 = x0 := by
  rw [BitVec.getLsbD_append, if_neg (by decide),
    BitVec.getLsbD_append, if_neg (by decide),
    BitVec.getLsbD_append, if_neg (by decide),
    BitVec.getLsbD_append, if_neg (by decide),
    BitVec.getLsbD_append, if_neg (by decide)]
  simp

theorem l1_x20_5 (x0 : BitVec 1) (x1 : BitVec 6) (x2 : BitVec 5) (x3 : BitVec 5) (x4 : BitVec 5) (x5 : BitVec 10) :
    (x0 ++ x1 ++ x2 ++ x3 ++ x4 ++ x5 : BitVec 32).extractLsb' 20 5 = x2 := by
  rw [BitVec.extractLsb'_append_eq_of_le (by decide),
    BitVec.extractLsb'_append_eq_of_le (by decide),
    BitVec.extractLsb'_append_eq_of_le (by decide),
    BitVec.extractLsb'_append_eq_of_add_le (by decide),
    BitVec.extractLsb'_eq_self]

theorem l1_x15_5 (x0 : BitVec 1) (x1 : BitVec 6) (x2 : BitVec 5) (x3 : BitVec 5) (x4 : BitVec 5) (x5 : BitVec 10) :
    (x0 ++ x1 ++ x2 ++ x3 ++ x4 ++ x5 : BitVec 32).extractLsb' 15 5 = x3 := by
  rw [BitVec.extractLsb'_append_eq_of_le (by decide),
    BitVec.extractLsb'_append_eq_of_le (by decide),
    BitVec.extractLsb'_append_eq_of_add_le (by decide),
    BitVec.extractLsb'_eq_self]

theorem l1_x10_5 (x0 : BitVec 1) (x1 : BitVec 6) (x2 : BitVec 5) (x3 : BitVec 5) (x4 : BitVec 5) (x5 : BitVec 10) :
    (x0 ++ x1 ++ x2 ++ x3 ++ x4 ++ x5 : BitVec 32).extractLsb' 10 5 = x4 := by
  rw [BitVec.extractLsb'_append_eq_of_le (by decide),
    BitVec.extractLsb'_append_eq_of_add_le (by decide),
    BitVec.extractLsb'_eq_self]

theorem l1_and (x0 y0 : BitVec 1) (x1 y1 : BitVec 6) (x2 y2 : BitVec 5) (x3 y3 : BitVec 5) (x4 y4 : BitVec 5) (x5 y5 : BitVec 10) :
    (x0 ++ x1 ++ x2 ++ x3 ++ x4 ++ x5 : BitVec 32) &&& (y0 ++ y1 ++ y2 ++ y3 ++ y4 ++ y5) =
      (x0 &&& y0) ++ (x1 &&& y1) ++ (x2 &&& y2) ++ (x3 &&& y3) ++ (x4 &&& y4) ++ (x5 &&& y5) := by
  repeat rw [BitVec.and_append]

theorem l1_x0_4 (x0 : BitVec 1) (x1 : BitVec 6) (x2 : BitVec 5) (x3 : BitVec 5) (x4 : BitVec 5) (x5 : BitVec 10) :
    (x0 ++ x1 ++ x2 ++ x3 ++ x4 ++ x5 : BitVec 32).extractLsb' 0 4 = x5.extractLsb' 0 4 := by
  rw [BitVec.extractLsb'_append_eq_of_add_le (by decide)]

theorem l1_x6_4 (x0 : BitVec 1) (x1 : BitVec 6) (x2 : BitVec 5) (x3 : BitVec 5) (x4 : BitVec 5) (x5 : BitVec 10) :
    (x0 ++ x1 ++ x2 ++ x3 ++ x4 ++ x5 : BitVec 32).extractLsb' 6 4 = x5.extractLsb' 6 4 := by
  rw [BitVec.extractLsb'_append_eq_of_add_le (by decide)]

theorem l2_x25_6 (x0 : BitVec 1) (x1 : BitVec 6) (x2 : BitVec 5) (x3 : BitVec 5) (x4 : BitVec 15) :
    (x0 ++ x1 ++ x2 ++ x3 ++ x4 : BitVec 32).extractLsb' 25 6 = x1 := by
  rw [BitVec.extractLsb'_append_eq_of_le (by decide),
    BitVec.extractLsb'_append_eq_of_le (by decide),
    BitVec.extractLsb'_append_eq_of_le (by decide),
    BitVec.extractLsb'_append_eq_of_add_le (by decide),
    BitVec.extractLsb'_eq_self]

theorem l2_x0_10 (x0 : BitVec 1) (x1 : BitVec 6) (x2 : BitVec 5) (x3 : BitVec 5) (x4 : BitVec 15) :
    (x0 ++ x1 ++ x2 ++ x3 ++ x4 : BitVec 32).extractLsb' 0 10 = x4.extractLsb' 0 10 := by
  rw [BitVec.extractLsb'_append_eq_of_add_le (by decide)]

theorem l2_and (x0 y0 : BitVec 1) (x1 y1 : BitVec 6) (x2 y2 : BitVec 5) (x3 y3 : BitVec 5) (x4 y4 : BitVec 15) :
    (x0 ++ x1 ++ x2 ++ x3 ++ x4 : BitVec 32) &&& (y0 ++ y1 ++ y2 ++ y3 ++ y4) =
      (x0 &&& y0) ++ (x1 &&& y1) ++ (x2 &&& y2) ++ (x3 &&& y3) ++ (x4 &&& y4) := by
  repeat rw [BitVec.and_append]

theorem l2_b31 (x0 : Bool) (x1 : BitVec 6) (x2 : BitVec 5) (x3 : BitVec 5) (x4 : BitVec 15) :
    (BitVec.ofBool x0 ++ x1 ++ x2 ++ x3 ++ x4 : BitVec 32).getLsbD 31 = x0 := by
  rw [BitVec.getLsbD_append, if_neg (by decide),
    BitVec.getLsbD_append, if_neg (by decide),
    BitVec.getLsbD_append, if_neg (by decide),
    BitVec.getLsbD_append, if_neg (by decide)]
  simp

theorem l2_x20_5 (x0 : BitVec 1) (x1 : BitVec 6) (x2 : BitVec 5) (x3 : BitVec 5) (x4 : BitVec 15) :
    (x0 ++ x1 ++ x2 ++ x3 ++ x4 : BitVec 32).extractLsb' 20 5 = x2 := by
  rw [BitVec.extractLsb'_append_eq_of_le (by decide),
    BitVec.extractLsb'_append_eq_of_le (by decide),
    BitVec.extractLsb'_append_eq_of_add_le (by decide),
    BitVec.extractLsb'_eq_self]

theorem l2_x15_5 (x0 : BitVec 1) (x1 : BitVec 6) (x2 : BitVec 5) (x3 : BitVec 5) (x4 : BitVec 15) :
    (x0 ++ x1 ++ x2 ++ x3 ++ x4 : BitVec 32).extractLsb' 15 5 = x3 := by
  rw [BitVec.extractLsb'_append_eq_of_le (by decide),
    BitVec.extractLsb'_append_eq_of_add_le (by decide),
    BitVec.extractLsb'_eq_self]

theorem l2_x0_15 (x0 : BitVec 1) (x1 : BitVec 6) (x2 : BitVec 5) (x3 : BitVec 5) (x4 : BitVec 15) :
    (x0 ++ x1 ++ x2 ++ x3 ++ x4 : BitVec 32).extractLsb' 0 15 = x4 := by
  rw [BitVec.extractLsb'_append_eq_of_add_le (by decide),
    BitVec.extractLsb'_eq_self]

theorem l2_x0_3 (x0 : BitVec 1) (x1 : BitVec 6) (x2 : BitVec 5) (x3 : BitVec 5) (x4 : BitVec 15) :
    (x0 ++ x1 ++ x2 ++ x3 ++ x4 : BitVec 32).extractLsb' 0 3 = x4.extractLsb' 0 3 := by
  rw [BitVec.extractLsb'_append_eq_of_add_le (by decide)]

theorem l2_x3_12 (x0 : BitVec 1) (x1 : BitVec 6) (x2 : BitVec 5) (x3 : BitVec 5) (x4 : BitVec 15) :
    (x0 ++ x1 ++ x2 ++ x3 ++ x4 : BitVec 32).extractLsb' 3 12 = x4.extractLsb' 3 12 := by
  rw [BitVec.extractLsb'_append_eq_of_add_le (by decide)]

theorem l2_x6_4 (x0 : BitVec 1) (x1 : BitVec 6) (x2 : BitVec 5) (x3 : BitVec 5) (x4 : BitVec 15) :
    (x0 ++ x1 ++ x2 ++ x3 ++ x4 : BitVec 32).extractLsb' 6 4 = x4.extractLsb' 6 4 := by
  rw [BitVec.extractLsb'_append_eq_of_add_le (by decide)]

theorem l3_x25_6 (x0 : BitVec 1) (x1 : BitVec 6) (x2 : BitVec 5) (x3 : BitVec 5) (x4 : BitVec 9) (x5 : BitVec 6) :
    (x0 ++ x1 ++ x2 ++ x3 ++ x4 ++ x5 : BitVec 32).extractLsb' 25 6 = x1 := by
  rw [BitVec.extractLsb'_append_eq_of_le (by decide),
    BitVec.extractLsb'_append_eq_of_le (by decide),
    BitVec.extractLsb'_append_eq_of_le (by decide),
    BitVec.extractLsb'_append_eq_of_le (by decide),
    BitVec.extractLsb'_append_eq_of_add_le (by decide),
    BitVec.extractLsb'_eq_self]

theorem l3_x12_3 (x0 : BitVec 1) (x1 : BitVec 6) (x2 : BitVec 5) (x3 : BitVec 5) (x4 : BitVec 9) (x5 : BitVec 6) :
    (x0 ++ x1 ++ x2 ++ x3 ++ x4 ++ x5 : BitVec 32).extractLsb' 12 3 = x4.extractLsb' 6 3 := by
  rw [BitVec.extractLsb'_append_eq_of_le (by decide),
    BitVec.extractLsb'_append_eq_of_add_le (by decide)]

theorem l3_and (x0 y0 : BitVec 1) (x1 y1 : BitVec 6) (x2 y2 : BitVec 5) (x3 y3 : BitVec 5) (x4 y4 : BitVec 9) (x5 y5 : BitVec 6) :
    (x0 ++ x1 ++ x2 ++ x3 ++ x4 ++ x5 : BitVec 32) &&& (y0 ++ y1 ++ y2 ++ y3 ++ y4 ++ y5) =
      (x0 &&& y0) ++ (x1 &&& y1) ++ (x2 &&& y2) ++ (x3 &&& y3) ++ (x4 &&& y4) ++ (x5 &&& y5) := by
  repeat rw [BitVec.and_append]

theorem l3_b31 (x0 : Bool) (x1 : BitVec 6) (x2 : BitVec 5) (x3 : BitVec 5) (x4 : BitVec 9) (x5 : BitVec 6) :
    (BitVec.ofBool x0 ++ x1 ++ x2 ++ x3 ++ x4 ++ x5 : BitVec 32).getLsbD 31 = x0 := by
  rw [BitVec.getLsbD_append, if_neg (by decide),
    BitVec.getLsbD_append, if_neg (by decide),
    BitVec.getLsbD_append, if_neg (by decide),
    BitVec.getLsbD_append, if_neg (by decide),
    BitVec.getLsbD_append, if_neg (by decide)]
  simp

theorem l3_x20_5 (x0 : BitVec 1) (x1 : BitVec 6) (x2 : BitVec 5) (x3 : BitVec 5) (x4 : BitVec 9) (x5 : BitVec 6) :
    (x0 ++ x1 ++ x2 ++ x3 ++ x4 ++ x5 : BitVec 32).extractLsb' 20 5 = x2 := by
  rw [BitVec.extractLsb'_append_eq_of_le (by decide),
    BitVec.extractLsb'_append_eq_of_le (by decide),
    BitVec.extractLsb'_append_eq_of_le (by decide),
    BitVec.extractLsb'_append_eq_of_add_le (by decide),
    BitVec.extractLsb'_eq_self]

theorem l3_x15_5 (x0 : BitVec 1) (x1 : BitVec 6) (x2 : BitVec 5) (x3 : BitVec 5) (x4 : BitVec 9) (x5 : BitVec 6) :
    (x0 ++ x1 ++ x2 ++ x3 ++ x4 ++ x5 : BitVec 32).extractLsb' 15 5 = x3 := by
  rw [BitVec.extractLsb'_append_eq_of_le (by decide),
    BitVec.extractLsb'_append_eq_of_le (by decide),
    BitVec.extractLsb'_append_eq_of_add_le (by decide),
    BitVec.extractLsb'_eq_self]

theorem l3_x0_6 (x0 : BitVec 1) (x1 : BitVec 6) (x2 : BitVec 5) (x3 : BitVec 5) (x4 : BitVec 9) (x5 : BitVec 6) :
    (x0 ++ x1 ++ x2 ++ x3 ++ x4 ++ x5 : BitVec 32).extractLsb' 0 6 = x5 := by
  rw [BitVec.extractLsb'_append_eq_of_add_le (by decide),
    BitVec.extractLsb'_eq_self]

theorem l3_x6_4 (x0 : BitVec 1) (x1 : BitVec 6) (x2 : BitVec 5) (x3 : BitVec 5) (x4 : BitVec 9) (x5 : BitVec 6) :
    (x0 ++ x1 ++ x2 ++ x3 ++ x4 ++ x5 : BitVec 32).extractLsb' 6 4 = x4.extractLsb' 0 4 := by
  rw [BitVec.extractLsb'_append_eq_of_le (by decide),
    BitVec.extractLsb'_append_eq_of_add_le (by decide)]

theorem l4_x25_6 (x0 : BitVec 1) (x1 : BitVec 6) (x2 : BitVec 5) (x3 : BitVec 5) (x4 : BitVec 1) (x5 : BitVec 14) :
    (x0 ++ x1 ++ x2 ++ x3 ++ x4 ++ x5 : BitVec 32).extractLsb' 25 6 = x1 := by
  rw [BitVec.extractLsb'_append_eq_of_le (by decide),
    BitVec.extractLsb'_append_eq_of_le (by decide),
    BitVec.extractLsb'_append_eq_of_le (by decide),
    BitVec.extractLsb'_append_eq_of_le (by decide),
    BitVec.extractLsb'_append_eq_of_add_le (by decide),
    BitVec.extractLsb'_eq_self]

theorem l4_x14_1 (x0 : BitVec 1) (x1 : BitVec 6) (x2 : BitVec 5) (x3 : BitVec 5) (x4 : BitVec 1) (x5 : BitVec 14) :
    (x0 ++ x1 ++ x2 ++ x3 ++ x4 ++ x5 : BitVec 32).extractLsb' 14 1 = x4 := by
  rw [BitVec.extractLsb'_append_eq_of_le (by decide),
    BitVec.extractLsb'_append_eq_of_add_le (by decide),
    BitVec.extractLsb'_eq_self]

theorem l4_b31 (x0 : Bool) (x1 : BitVec 6) (x2 : BitVec 5) (x3 : BitVec 5) (x4 : BitVec 1) (x5 : BitVec 14) :
    (BitVec.ofBool x0 ++ x1 ++ x2 ++ x3 ++ x4 ++ x5 : BitVec 32).getLsbD 31 = x0 := by
  rw [BitVec.getLsbD_append, if_neg (by decide),
    BitVec.getLsbD_append, if_neg (by decide),
    BitVec.getLsbD_append, if_neg (by decide),
    BitVec.getLsbD_append, if_neg (by decide),
    BitVec.getLsbD_append, if_neg (by decide)]
  simp

theorem l4_x20_5 (x0 : BitVec 1) (x1 : BitVec 6) (x2 : BitVec 5) (x3 : BitVec 5) (x4 : BitVec 1) (x5 : BitVec 14) :
    (x0 ++ x1 ++ x2 ++ x3 ++ x4 ++ x5 : BitVec 32).extractLsb' 20 5 = x2 := by
  rw [BitVec.extractLsb'_append_eq_of_le (by decide),
    BitVec.extractLsb'_append_eq_of_le (by decide),
    BitVec.extractLsb'_append_eq_of_le (by decide),
    BitVec.extractLsb'_append_eq_of_add_le (by decide),
    BitVec.extractLsb'_eq_self]

theorem l4_x15_5 (x0 : BitVec 1) (x1 : BitVec 6) (x2 : BitVec 5) (x3 : BitVec 5) (x4 : BitVec 1) (x5 : BitVec 14) :
    (x0 ++ x1 ++ x2 ++ x3 ++ x4 ++ x5 : BitVec 32).extractLsb' 15 5 = x3 := by
  rw [BitVec.extractLsb'_append_eq_of_le (by decide),
    BitVec.extractLsb'_append_eq_of_le (by decide),
    BitVec.extractLsb'_append_eq_of_add_le (by decide),
    BitVec.extractLsb'_eq_self]

theorem l4_x0_14 (x0 : BitVec 1) (x1 : BitVec 6) (x2 : BitVec 5) (x3 : BitVec 5) (x4 : BitVec 1) (x5 : BitVec 14) :
    (x0 ++ x1 ++ x2 ++ x3 ++ x4 ++ x5 : BitVec 32).extractLsb' 0 14 = x5 := by
  rw [BitVec.extractLsb'_append_eq_of_add_le (by decide),
    BitVec.extractLsb'_eq_self]

theorem l5_x25_6 (x0 : BitVec 1) (x1 : BitVec 6) (x2 : BitVec 5) (x3 : BitVec 20) :
    (x0 ++ x1 ++ x2 ++ x3 : BitVec 32).extractLsb' 25 6 = x1 := by
  rw [BitVec.extractLsb'_append_eq_of_le (by decide),
    BitVec.extractLsb'_append_eq_of_le (by decide),
    BitVec.extractLsb'_append_eq_of_add_le (by decide),
    BitVec.extractLsb'_eq_self]

theorem l5_b31 (x0 : Bool) (x1 : BitVec 6) (x2 : BitVec 5) (x3 : BitVec 20) :
    (BitVec.ofBool x0 ++ x1 ++ x2 ++ x3 : BitVec 32).getLsbD 31 = x0 := by
  rw [BitVec.getLsbD_append, if_neg (by decide),
    BitVec.getLsbD_append, if_neg (by decide),
    BitVec.getLsbD_append, if_neg (by decide)]
  simp

theorem l5_x20_5 (x0 : BitVec 1) (x1 : BitVec 6) (x2 : BitVec 5) (x3 : BitVec 20) :
    (x0 ++ x1 ++ x2 ++ x3 : BitVec 32).extractLsb' 20 5 = x2 := by
  rw [BitVec.extractLsb'_append_eq_of_le (by decide),
    BitVec.extractLsb'_append_eq_of_add_le (by decide),
    BitVec.extractLsb'_eq_self]

theorem l5_x0_20 (x0 : BitVec 1) (x1 : BitVec 6) (x2 : BitVec 5) (x3 : BitVec 20) :
    (x0 ++ x1 ++ x2 ++ x3 : BitVec 32).extractLsb' 0 20 = x3 := by
  rw [BitVec.extractLsb'_append_eq_of_add_le (by decide),
    BitVec.extractLsb'_eq_self]

theorem l5_x0_10 (x0 : BitVec 1) (x1 : BitVec 6) (x2 : BitVec 5) (x3 : BitVec 20) :
    (x0 ++ x1 ++ x2 ++ x3 : BitVec 32).extractLsb' 0 10 = x3.extractLsb' 0 10 := by
  rw [BitVec.extractLsb'_append_eq_of_add_le (by decide)]

theorem l5_and (x0 y0 : BitVec 1) (x1 y1 : BitVec 6) (x2 y2 : BitVec 5) (x3 y3 : BitVec 20) :
    (x0 ++ x1 ++ x2 ++ x3 : BitVec 32) &&& (y0 ++ y1 ++ y2 ++ y3) =
      (x0 &&& y0) ++ (x1 &&& y1) ++ (x2 &&& y2) ++ (x3 &&& y3) := by
  repeat rw [BitVec.and_append]

theorem l6_x25_6 (x0 : BitVec 1) (x1 : BitVec 6) (x2 : BitVec 5) (x3 : BitVec 5) (x4 : BitVec 5) (x5 : BitVec 2) (x6 : BitVec 6) (x7 : BitVec 1) (x8 : BitVec 1) :
    (x0 ++ x1 ++ x2 ++ x3 ++ x4 ++ x5 ++ x6 ++ x7 ++ x8 : BitVec 32).extractLsb' 25 6 = x1 := by
  rw [BitVec.extractLsb'_append_eq_of_le (by decide),
    BitVec.extractLsb'_append_eq_of_le (by decide),
    BitVec.extractLsb'_append_eq_of_le (by decide),
    BitVec.extractLsb'_append_eq_of_le (by decide),
    BitVec.extractLsb'_append_eq_of_le (by decide),
    BitVec.extractLsb'_append_eq_of_le (by decide),
    BitVec.extractLsb'_append_eq_of_le (by decide),
    BitVec.extractLsb'_append_eq_of_add_le (by decide),
    BitVec.extractLsb'_eq_self]

theorem l6_x8_2 (x0 : BitVec 1) (x1 : BitVec 6) (x2 : BitVec 5) (x3 : BitVec 5) (x4 : BitVec 5) (x5 : BitVec 2) (x6 : BitVec 6) (x7 : BitVec 1) (x8 : BitVec 1) :
    (x0 ++ x1 ++ x2 ++ x3 ++ x4 ++ x5 ++ x6 ++ x7 ++ x8 : BitVec 32).extractLsb' 8 2 = x5 := by
  rw [BitVec.extractLsb'_append_eq_of_le (by decide),
    BitVec.extractLsb'_append_eq_of_le (by decide),
    BitVec.extractLsb'_append_eq_of_le (by decide),
    BitVec.extractLsb'_append_eq_of_add_le (by decide),
    BitVec.extractLsb'_eq_self]

theorem l6_and (x0 y0 : BitVec 1) (x1 y1 : BitVec 6) (x2 y2 : BitVec 5) (x3 y3 : BitVec 5) (x4 y4 : BitVec 5) (x5 y5 : BitVec 2) (x6 y6 : BitVec 6) (x7 y7 : BitVec 1) (x8 y8 : BitVec 1) :
    (x0 ++ x1 ++ x2 ++ x3 ++ x4 ++ x5 ++ x6 ++ x7 ++ x8 : BitVec 32) &&& (y0 ++ y1 ++ y2 ++ y3 ++ y4 ++ y5 ++ y6 ++ y7 ++ y8) =
      (x0 &&& y0) ++ (x1 &&& y1) ++ (x2 &&& y2) ++ (x3 &&& y3) ++ (x4 &&& y4) ++ (x5 &&& y5) ++ (x6 &&& y6) ++ (x7 &&& y7) ++ (x8 &&& y8) := by
  repeat rw [BitVec.and_append]

theorem l6_b31 (x0 : Bool) (x1 : BitVec 6) (x2 : BitVec 5) (x3 : BitVec 5) (x4 : BitVec 5) (x5 : BitVec 2) (x6 : BitVec 6) (x7 : BitVec 1) (x8 : BitVec 1) :
    (BitVec.ofBool x0 ++ x1 ++ x2 ++ x3 ++ x4 ++ x5 ++ x6 ++ x7 ++ x8 : BitVec 32).getLsbD 31 = x0 := by
  rw [BitVec.getLsbD_append, if_neg (by decide),
    BitVec.getLsbD_append, if_neg (by decide),
    BitVec.getLsbD_append, if_neg (by decide),
    BitVec.getLsbD_append, if_neg (by decide),
    BitVec.getLsbD_append, if_neg (by decide),
    BitVec.getLsbD_append, if_neg (by decide),
    BitVec.getLsbD_append, if_neg (by decide),
    BitVec.getLsbD_append, if_neg (by decide)]
  simp

theorem l6_x20_5 (x0 : BitVec 1) (x1 : BitVec 6) (x2 : BitVec 5) (x3 : BitVec 5) (x4 : BitVec 5) (x5 : BitVec 2) (x6 : BitVec 6) (x7 : BitVec 1) (x8 : BitVec 1) :
    (x0 ++ x1 ++ x2 ++ x3 ++ x4 ++ x5 ++ x6 ++ x7 ++ x8 : BitVec 32).extractLsb' 20 5 = x2 := by
  rw [BitVec.extractLsb'_append_eq_of_le (by decide),
    BitVec.extractLsb'_append_eq_of_le (by decide),
    BitVec.extractLsb'_append_eq_of_le (by decide),
    BitVec.extractLsb'_append_eq_of_le (by decide),
    BitVec.extractLsb'_append_eq_of_le (by decide),
    BitVec.extractLsb'_append_eq_of_le (by decide),
    BitVec.extractLsb'_append_eq_of_add_le (by decide),
    BitVec.extractLsb'_eq_self]

theorem l6_x15_5 (x0 : BitVec 1) (x1 : BitVec 6) (x2 : BitVec 5) (x3 : BitVec 5) (x4 : BitVec 5) (x5 : BitVec 2) (x6 : BitVec 6) (x7 : BitVec 1) (x8 : BitVec 1) :
    (x0 ++ x1 ++ x2 ++ x3 ++ x4 ++ x5 ++ x6 ++ x7 ++ x8 : BitVec 32).extractLsb' 15 5 = x3 := by
  rw [BitVec.extractLsb'_append_eq_of_le (by decide),
    BitVec.extractLsb'_append_eq_of_le (by decide),
    BitVec.extractLsb'_append_eq_of_le (by decide),
    BitVec.extractLsb'_append_eq_of_le (by decide),
    BitVec.extractLsb'_append_eq_of_le (by decide),
    BitVec.extractLsb'_append_eq_of_add_le (by decide),
    BitVec.extractLsb'_eq_self]

theorem l6_x0_1 (x0 : BitVec 1) (x1 : BitVec 6) (x2 : BitVec 5) (x3 : BitVec 5) (x4 : BitVec 5) (x5 : BitVec 2) (x6 : BitVec 6) (x7 : BitVec 1) (x8 : BitVec 1) :
    (x0 ++ x1 ++ x2 ++ x3 ++ x4 ++ x5 ++ x6 ++ x7 ++ x8 : BitVec 32).extractLsb' 0 1 = x8 := by
  rw [BitVec.extractLsb'_append_eq_of_add_le (by decide),
    BitVec.extractLsb'_eq_self]

theorem l6_x10_5 (x0 : BitVec 1) (x1 : BitVec 6) (x2 : BitVec 5) (x3 : BitVec 5) (x4 : BitVec 5) (x5 : BitVec 2) (x6 : BitVec 6) (x7 : BitVec 1) (x8 : BitVec 1) :
    (x0 ++ x1 ++ x2 ++ x3 ++ x4 ++ x5 ++ x6 ++ x7 ++ x8 : BitVec 32).extractLsb' 10 5 = x4 := by
  rw [BitVec.extractLsb'_append_eq_of_le (by decide),
    BitVec.extractLsb'_append_eq_of_le (by decide),
    BitVec.extractLsb'_append_eq_of_le (by decide),
    BitVec.extractLsb'_append_eq_of_le (by decide),
    BitVec.extractLsb'_append_eq_of_add_le (by decide),
    BitVec.extractLsb'_eq_self]

theorem l6_x2_6 (x0 : BitVec 1) (x1 : BitVec 6) (x2 : BitVec 5) (x3 : BitVec 5) (x4 : BitVec 5) (x5 : BitVec 2) (x6 : BitVec 6) (x7 : BitVec 1) (x8 : BitVec 1) :
    (x0 ++ x1 ++ x2 ++ x3 ++ x4 ++ x5 ++ x6 ++ x7 ++ x8 : BitVec 32).extractLsb' 2 6 = x6 := by
  rw [BitVec.extractLsb'_append_eq_of_le (by decide),
    BitVec.extractLsb'_append_eq_of_le (by decide),
    BitVec.extractLsb'_append_eq_of_add_le (by decide),
    BitVec.extractLsb'_eq_self]

theorem l7_x25_6 (x0 : BitVec 1) (x1 : BitVec 6) (x2 : BitVec 25) :
    (x0 ++ x1 ++ x2 : BitVec 32).extractLsb' 25 6 = x1 := by
  rw [BitVec.extractLsb'_append_eq_of_le (by decide),
    BitVec.extractLsb'_append_eq_of_add_le (by decide),
    BitVec.extractLsb'_eq_self]

theorem l7_b31 (x0 : Bool) (x1 : BitVec 6) (x2 : BitVec 25) :
    (BitVec.ofBool x0 ++ x1 ++ x2 : BitVec 32).getLsbD 31 = x0 := by
  rw [BitVec.getLsbD_append, if_neg (by decide),
    BitVec.getLsbD_append, if_neg (by decide)]
  simp

theorem l7_x0_25 (x0 : BitVec 1) (x1 : BitVec 6) (x2 : BitVec 25) :
    (x0 ++ x1 ++ x2 : BitVec 32).extractLsb' 0 25 = x2 := by
  rw [BitVec.extractLsb'_append_eq_of_add_le (by decide),
    BitVec.extractLsb'_eq_self]

theorem l7_x0_3 (x0 : BitVec 1) (x1 : BitVec 6) (x2 : BitVec 25) :
    (x0 ++ x1 ++ x2 : BitVec 32).extractLsb' 0 3 = x2.extractLsb' 0 3 := by
  rw [BitVec.extractLsb'_append_eq_of_add_le (by decide)]

theorem l7_x3_12 (x0 : BitVec 1) (x1 : BitVec 6) (x2 : BitVec 25) :
    (x0 ++ x1 ++ x2 : BitVec 32).extractLsb' 3 12 = x2.extractLsb' 3 12 := by
  rw [BitVec.extractLsb'_append_eq_of_add_le (by decide)]

theorem l7_and (x0 y0 : BitVec 1) (x1 y1 : BitVec 6) (x2 y2 : BitVec 25) :
    (x0 ++ x1 ++ x2 : BitVec 32) &&& (y0 ++ y1 ++ y2) =
      (x0 &&& y0) ++ (x1 &&& y1) ++ (x2 &&& y2) := by
  repeat rw [BitVec.and_append]

theorem l7_x12_3 (x0 : BitVec 1) (x1 : BitVec 6) (x2 : BitVec 25) :
    (x0 ++ x1 ++ x2 : BitVec 32).extractLsb' 12 3 = x2.extractLsb' 12 3 := by
  rw [BitVec.extractLsb'_append_eq_of_add_le (by decide)]

theorem l7_x0_10 (x0 : BitVec 1) (x1 : BitVec 6) (x2 : BitVec 25) :
    (x0 ++ x1 ++ x2 : BitVec 32).extractLsb' 0 10 = x2.extractLsb' 0 10 := by
  rw [BitVec.extractLsb'_append_eq_of_add_le (by decide)]

theorem l8_x25_6 (x0 : BitVec 1) (x1 : BitVec 6) (x2 : BitVec 10) (x3 : BitVec 5) (x4 : BitVec 6) (x5 : BitVec 4) :
    (x0 ++ x1 ++ x2 ++ x3 ++ x4 ++ x5 : BitVec 32).extractLsb' 25 6 = x1 := by
  rw [BitVec.extractLsb'_append_eq_of_le (by decide),
    BitVec.extractLsb'_append_eq_of_le (by decide),
    BitVec.extractLsb'_append_eq_of_le (by decide),
    BitVec.extractLsb'_append_eq_of_le (by decide),
    BitVec.extractLsb'_append_eq_of_add_le (by decide),
    BitVec.extractLsb'_eq_self]

theorem l8_and (x0 y0 : BitVec 1) (x1 y1 : BitVec 6) (x2 y2 : BitVec 10) (x3 y3 : BitVec 5) (x4 y4 : BitVec 6) (x5 y5 : BitVec 4) :
    (x0 ++ x1 ++ x2 ++ x3 ++ x4 ++ x5 : BitVec 32) &&& (y0 ++ y1 ++ y2 ++ y3 ++ y4 ++ y5) =
      (x0 &&& y0) ++ (x1 &&& y1) ++ (x2 &&& y2) ++ (x3 &&& y3) ++ (x4 &&& y4) ++ (x5 &&& y5) := by
  repeat rw [BitVec.and_append]

theorem l8_b31 (x0 : Bool) (x1 : BitVec 6) (x2 : BitVec 10) (x3 : BitVec 5) (x4 : BitVec 6) (x5 : BitVec 4) :
    (BitVec.ofBool x0 ++ x1 ++ x2 ++ x3 ++ x4 ++ x5 : BitVec 32).getLsbD 31 = x0 := by
  rw [BitVec.getLsbD_append, if_neg (by decide),
    BitVec.getLsbD_append, if_neg (by decide),
    BitVec.getLsbD_append, if_neg (by decide),
    BitVec.getLsbD_append, if_neg (by decide),
    BitVec.getLsbD_append, if_neg (by decide)]
  simp

theorem l8_x10_5 (x0 : BitVec 1) (x1 : BitVec 6) (x2 : BitVec 10) (x3 : BitVec 5) (x4 : BitVec 6) (x5 : BitVec 4) :
    (x0 ++ x1 ++ x2 ++ x3 ++ x4 ++ x5 : BitVec 32).extractLsb' 10 5 = x3 := by
  rw [BitVec.extractLsb'_append_eq_of_le (by decide),
    BitVec.extractLsb'_append_eq_of_le (by decide),
    BitVec.extractLsb'_append_eq_of_add_le (by decide),
    BitVec.extractLsb'_eq_self]

theorem l8_x0_4 (x0 : BitVec 1) (x1 : BitVec 6) (x2 : BitVec 10) (x3 : BitVec 5) (x4 : BitVec 6) (x5 : BitVec 4) :
    (x0 ++ x1 ++ x2 ++ x3 ++ x4 ++ x5 : BitVec 32).extractLsb' 0 4 = x5 := by
  rw [BitVec.extractLsb'_append_eq_of_add_le (by decide),
    BitVec.extractLsb'_eq_self]

theorem l9_x25_6 (x0 : BitVec 1) (x1 : BitVec 6) (x2 : BitVec 5) (x3 : BitVec 5) (x4 : BitVec 5) (x5 : BitVec 5) (x6 : BitVec 2) (x7 : BitVec 3) :
    (x0 ++ x1 ++ x2 ++ x3 ++ x4 ++ x5 ++ x6 ++ x7 : BitVec 32).extractLsb' 25 6 = x1 := by
  rw [BitVec.extractLsb'_append_eq_of_le (by decide),
    BitVec.extractLsb'_append_eq_of_le (by decide),
    BitVec.extractLsb'_append_eq_of_le (by decide),
    BitVec.extractLsb'_append_eq_of_le (by decide),
    BitVec.extractLsb'_append_eq_of_le (by decide),
    BitVec.extractLsb'_append_eq_of_le (by decide),
    BitVec.extractLsb'_append_eq_of_add_le (by decide),
    BitVec.extractLsb'_eq_self]

theorem l9_x5_5 (x0 : BitVec 1) (x1 : BitVec 6) (x2 : BitVec 5) (x3 : BitVec 5) (x4 : BitVec 5) (x5 : BitVec 5) (x6 : BitVec 2) (x7 : BitVec 3) :
    (x0 ++ x1 ++ x2 ++ x3 ++ x4 ++ x5 ++ x6 ++ x7 : BitVec 32).extractLsb' 5 5 = x5 := by
  rw [BitVec.extractLsb'_append_eq_of_le (by decide),
    BitVec.extractLsb'_append_eq_of_le (by decide),
    BitVec.extractLsb'_append_eq_of_add_le (by decide),
    BitVec.extractLsb'_eq_self]

theorem l9_x3_2 (x0 : BitVec 1) (x1 : BitVec 6) (x2 : BitVec 5) (x3 : BitVec 5) (x4 : BitVec 5) (x5 : BitVec 5) (x6 : BitVec 2) (x7 : BitVec 3) :
    (x0 ++ x1 ++ x2 ++ x3 ++ x4 ++ x5 ++ x6 ++ x7 : BitVec 32).extractLsb' 3 2 = x6 := by
  rw [BitVec.extractLsb'_append_eq_of_le (by decide),
    BitVec.extractLsb'_append_eq_of_add_le (by decide),
    BitVec.extractLsb'_eq_self]

theorem l9_x0_3 (x0 : BitVec 1) (x1 : BitVec 6) (x2 : BitVec 5) (x3 : BitVec 5) (x4 : BitVec 5) (x5 : BitVec 5) (x6 : BitVec 2) (x7 : BitVec 3) :
    (x0 ++ x1 ++ x2 ++ x3 ++ x4 ++ x5 ++ x6 ++ x7 : BitVec 32).extractLsb' 0 3 = x7 := by
  rw [BitVec.extractLsb'_append_eq_of_add_le (by decide),
    BitVec.extractLsb'_eq_self]

theorem l9_b31 (x0 : Bool) (x1 : BitVec 6) (x2 : BitVec 5) (x3 : BitVec 5) (x4 : BitVec 5) (x5 : BitVec 5) (x6 : BitVec 2) (x7 : BitVec 3) :
    (BitVec.ofBool x0 ++ x1 ++ x2 ++ x3 ++ x4 ++ x5 ++ x6 ++ x7 : BitVec 32).getLsbD 31 = x0 := by
  rw [BitVec.getLsbD_append, if_neg (by decide),
    BitVec.getLsbD_append, if_neg (by decide),
    BitVec.getLsbD_append, if_neg (by decide),
    BitVec.getLsbD_append, if_neg (by decide),
    BitVec.getLsbD_append, if_neg (by decide),
    BitVec.getLsbD_append, if_neg (by decide),
    BitVec.getLsbD_append, if_neg (by decide)]
  simp

theorem l9_x20_5 (x0 : BitVec 1) (x1 : BitVec 6) (x2 : BitVec 5) (x3 : BitVec 5) (x4 : BitVec 5) (x5 : BitVec 5) (x6 : BitVec 2) (x7 : BitVec 3) :
    (x0 ++ x1 ++ x2 ++ x3 ++ x4 ++ x5 ++ x6 ++ x7 : BitVec 32).extractLsb' 20 5 = x2 := by
  rw [BitVec.extractLsb'_append_eq_of_le (by decide),
    BitVec.extractLsb'_append_eq_of_le (by decide),
    BitVec.extractLsb'_append_eq_of_le (by decide),
    BitVec.extractLsb'_append_eq_of_le (by decide),
    BitVec.extractLsb'_append_eq_of_le (by decide),
    BitVec.extractLsb'_append_eq_of_add_le (by decide),
    BitVec.extractLsb'_eq_self]

theorem l9_x15_5 (x0 : BitVec 1) (x1 : BitVec 6) (x2 : BitVec 5) (x3 : BitVec 5) (x4 : BitVec 5) (x5 : BitVec 5) (x6 : BitVec 2) (x7 : BitVec 3) :
    (x0 ++ x1 ++ x2 ++ x3 ++ x4 ++ x5 ++ x6 ++ x7 : BitVec 32).extractLsb' 15 5 = x3 := by
  rw [BitVec.extractLsb'_append_eq_of_le (by decide),
    BitVec.extractLsb'_append_eq_of_le (by decide),
    BitVec.extractLsb'_append_eq_of_le (by decide),
    BitVec.extractLsb'_append_eq_of_le (by decide),
    BitVec.extractLsb'_append_eq_of_add_le (by decide),
    BitVec.extractLsb'_eq_self]

theorem l9_x10_5 (x0 : BitVec 1) (x1 : BitVec 6) (x2 : BitVec 5) (x3 : BitVec 5) (x4 : BitVec 5) (x5 : BitVec 5) (x6 : BitVec 2) (x7 : BitVec 3) :
    (x0 ++ x1 ++ x2 ++ x3 ++ x4 ++ x5 ++ x6 ++ x7 : BitVec 32).extractLsb' 10 5 = x4 := by
  rw [BitVec.extractLsb'_append_eq_of_le (by decide),
    BitVec.extractLsb'_append_eq_of_le (by decide),
    BitVec.extractLsb'_append_eq_of_le (by decide),
    BitVec.extractLsb'_append_eq_of_add_le (by decide),
    BitVec.extractLsb'_eq_self]

theorem l9_and (x0 y0 : BitVec 1) (x1 y1 : BitVec 6) (x2 y2 : BitVec 5) (x3 y3 : BitVec 5) (x4 y4 : BitVec 5) (x5 y5 : BitVec 5) (x6 y6 : BitVec 2) (x7 y7 : BitVec 3) :
    (x0 ++ x1 ++ x2 ++ x3 ++ x4 ++ x5 ++ x6 ++ x7 : BitVec 32) &&& (y0 ++ y1 ++ y2 ++ y3 ++ y4 ++ y5 ++ y6 ++ y7) =
      (x0 &&& y0) ++ (x1 &&& y1) ++ (x2 &&& y2) ++ (x3 &&& y3) ++ (x4 &&& y4) ++ (x5 &&& y5) ++ (x6 &&& y6) ++ (x7 &&& y7) := by
  repeat rw [BitVec.and_append]

theorem l10_x25_6 (x0 : BitVec 1) (x1 : BitVec 6) (x2 : BitVec 5) (x3 : BitVec 5) (x4 : BitVec 10) (x5 : BitVec 2) (x6 : BitVec 3) :
    (x0 ++ x1 ++ x2 ++ x3 ++ x4 ++ x5 ++ x6 : BitVec 32).extractLsb' 25 6 = x1 := by
  rw [BitVec.extractLsb'_append_eq_of_le (by decide),
    BitVec.extractLsb'_append_eq_of_le (by decide),
    BitVec.extractLsb'_append_eq_of_le (by decide),
    BitVec.extractLsb'_append_eq_of_le (by decide),
    BitVec.extractLsb'_append_eq_of_le (by decide),
    BitVec.extractLsb'_append_eq_of_add_le (by decide),
    BitVec.extractLsb'_eq_self]

theorem l10_x5_5 (x0 : BitVec 1) (x1 : BitVec 6) (x2 : BitVec 5) (x3 : BitVec 5) (x4 : BitVec 10) (x5 : BitVec 2) (x6 : BitVec 3) :
    (x0 ++ x1 ++ x2 ++ x3 ++ x4 ++ x5 ++ x6 : BitVec 32).extractLsb' 5 5 = x4.extractLsb' 0 5 := by
  rw [BitVec.extractLsb'_append_eq_of_le (by decide),
    BitVec.extractLsb'_append_eq_of_le (by decide),
    BitVec.extractLsb'_append_eq_of_add_le (by decide)]

theorem l10_and (x0 y0 : BitVec 1) (x1 y1 : BitVec 6) (x2 y2 : BitVec 5) (x3 y3 : BitVec 5) (x4 y4 : BitVec 10) (x5 y5 : BitVec 2) (x6 y6 : BitVec 3) :
    (x0 ++ x1 ++ x2 ++ x3 ++ x4 ++ x5 ++ x6 : BitVec 32) &&& (y0 ++ y1 ++ y2 ++ y3 ++ y4 ++ y5 ++ y6) =
      (x0 &&& y0) ++ (x1 &&& y1) ++ (x2 &&& y2) ++ (x3 &&& y3) ++ (x4 &&& y4) ++ (x5 &&& y5) ++ (x6 &&& y6) := by
  repeat rw [BitVec.and_append]

theorem l10_x3_2 (x0 : BitVec 1) (x1 : BitVec 6) (x2 : BitVec 5) (x3 : BitVec 5) (x4 : BitVec 10) (x5 : BitVec 2) (x6 : BitVec 3) :
    (x0 ++ x1 ++ x2 ++ x3 ++ x4 ++ x5 ++ x6 : BitVec 32).extractLsb' 3 2 = x5 := by
  rw [BitVec.extractLsb'_append_eq_of_le (by decide),
    BitVec.extractLsb'_append_eq_of_add_le (by decide),
    BitVec.extractLsb'_eq_self]

theorem l10_x0_3 (x0 : BitVec 1) (x1 : BitVec 6) (x2 : BitVec 5) (x3 : BitVec 5) (x4 : BitVec 10) (x5 : BitVec 2) (x6 : BitVec 3) :
    (x0 ++ x1 ++ x2 ++ x3 ++ x4 ++ x5 ++ x6 : BitVec 32).extractLsb' 0 3 = x6 := by
  rw [BitVec.extractLsb'_append_eq_of_add_le (by decide),
    BitVec.extractLsb'_eq_self]

theorem l10_b31 (x0 : Bool) (x1 : BitVec 6) (x2 : BitVec 5) (x3 : BitVec 5) (x4 : BitVec 10) (x5 : BitVec 2) (x6 : BitVec 3) :
    (BitVec.ofBool x0 ++ x1 ++ x2 ++ x3 ++ x4 ++ x5 ++ x6 : BitVec 32).getLsbD 31 = x0 := by
  rw [BitVec.getLsbD_append, if_neg (by decide),
    BitVec.getLsbD_append, if_neg (by decide),
    BitVec.getLsbD_append, if_neg (by decide),
    BitVec.getLsbD_append, if_neg (by decide),
    BitVec.getLsbD_append, if_neg (by decide),
    BitVec.getLsbD_append, if_neg (by decide)]
  simp

theorem l10_x20_5 (x0 : BitVec 1) (x1 : BitVec 6) (x2 : BitVec 5) (x3 : BitVec 5) (x4 : BitVec 10) (x5 : BitVec 2) (x6 : BitVec 3) :
    (x0 ++ x1 ++ x2 ++ x3 ++ x4 ++ x5 ++ x6 : BitVec 32).extractLsb' 20 5 = x2 := by
  rw [BitVec.extractLsb'_append_eq_of_le (by decide),
    BitVec.extractLsb'_append_eq_of_le (by decide),
    BitVec.extractLsb'_append_eq_of_le (by decide),
    BitVec.extractLsb'_append_eq_of_le (by decide),
    BitVec.extractLsb'_append_eq_of_add_le (by decide),
    BitVec.extractLsb'_eq_self]

theorem l10_x15_5 (x0 : BitVec 1) (x1 : BitVec 6) (x2 : BitVec 5) (x3 : BitVec 5) (x4 : BitVec 10) (x5 : BitVec 2) (x6 : BitVec 3) :
    (x0 ++ x1 ++ x2 ++ x3 ++ x4 ++ x5 ++ x6 : BitVec 32).extractLsb' 15 5 = x3 := by
  rw [BitVec.extractLsb'_append_eq_of_le (by decide),
    BitVec.extractLsb'_append_eq_of_le (by decide),
    BitVec.extractLsb'_append_eq_of_le (by decide),
    BitVec.extractLsb'_append_eq_of_add_le (by decide),
    BitVec.extractLsb'_eq_self]

theorem l11_x25_6 (x0 : BitVec 1) (x1 : BitVec 6) (x2 : BitVec 5) (x3 : BitVec 5) (x4 : BitVec 12) (x5 : BitVec 3) :
    (x0 ++ x1 ++ x2 ++ x3 ++ x4 ++ x5 : BitVec 32).extractLsb' 25 6 = x1 := by
  rw [BitVec.extractLsb'_append_eq_of_le (by decide),
    BitVec.extractLsb'_append_eq_of_le (by decide),
    BitVec.extractLsb'_append_eq_of_le (by decide),
    BitVec.extractLsb'_append_eq_of_le (by decide),
    BitVec.extractLsb'_append_eq_of_add_le (by decide),
    BitVec.extractLsb'_eq_self]

theorem l11_x0_3 (x0 : BitVec 1) (x1 : BitVec 6) (x2 : BitVec 5) (x3 : BitVec 5) (x4 : BitVec 12) (x5 : BitVec 3) :
    (x0 ++ x1 ++ x2 ++ x3 ++ x4 ++ x5 : BitVec 32).extractLsb' 0 3 = x5 := by
  rw [BitVec.extractLsb'_append_eq_of_add_le (by decide),
    BitVec.extractLsb'_eq_self]

theorem l11_and (x0 y0 : BitVec 1) (x1 y1 : BitVec 6) (x2 y2 : BitVec 5) (x3 y3 : BitVec 5) (x4 y4 : BitVec 12) (x5 y5 : BitVec 3) :
    (x0 ++ x1 ++ x2 ++ x3 ++ x4 ++ x5 : BitVec 32) &&& (y0 ++ y1 ++ y2 ++ y3 ++ y4 ++ y5) =
      (x0 &&& y0) ++ (x1 &&& y1) ++ (x2 &&& y2) ++ (x3 &&& y3) ++ (x4 &&& y4) ++ (x5 &&& y5) := by
  repeat rw [BitVec.and_append]

theorem l11_b31 (x0 : Bool) (x1 : BitVec 6) (x2 : BitVec 5) (x3 : BitVec 5) (x4 : BitVec 12) (x5 : BitVec 3) :
    (BitVec.ofBool x0 ++ x1 ++ x2 ++ x3 ++ x4 ++ x5 : BitVec 32).getLsbD 31 = x0 := by
  rw [BitVec.getLsbD_append, if_neg (by decide),
    BitVec.getLsbD_append, if_neg (by decide),
    BitVec.getLsbD_append, if_neg (by decide),
    BitVec.getLsbD_append, if_neg (by decide),
    BitVec.getLsbD_append, if_neg (by decide)]
  simp

theorem l11_x20_5 (x0 : BitVec 1) (x1 : BitVec 6) (x2 : BitVec 5) (x3 : BitVec 5) (x4 : BitVec 12) (x5 : BitVec 3) :
    (x0 ++ x1 ++ x2 ++ x3 ++ x4 ++ x5 : BitVec 32).extractLsb' 20 5 = x2 := by
  rw [BitVec.extractLsb'_append_eq_of_le (by decide),
    BitVec.extractLsb'_append_eq_of_le (by decide),
    BitVec.extractLsb'_append_eq_of_le (by decide),
    BitVec.extractLsb'_append_eq_of_add_le (by decide),
    BitVec.extractLsb'_eq_self]

theorem l11_x3_12 (x0 : BitVec 1) (x1 : BitVec 6) (x2 : BitVec 5) (x3 : BitVec 5) (x4 : BitVec 12) (x5 : BitVec 3) :
    (x0 ++ x1 ++ x2 ++ x3 ++ x4 ++ x5 : BitVec 32).extractLsb' 3 12 = x4 := by
  rw [BitVec.extractLsb'_append_eq_of_le (by decide),
    BitVec.extractLsb'_append_eq_of_add_le (by decide),
    BitVec.extractLsb'_eq_self]

theorem l11_x15_5 (x0 : BitVec 1) (x1 : BitVec 6) (x2 : BitVec 5) (x3 : BitVec 5) (x4 : BitVec 12) (x5 : BitVec 3) :
    (x0 ++ x1 ++ x2 ++ x3 ++ x4 ++ x5 : BitVec 32).extractLsb' 15 5 = x3 := by
  rw [BitVec.extractLsb'_append_eq_of_le (by decide),
    BitVec.extractLsb'_append_eq_of_le (by decide),
    BitVec.extractLsb'_append_eq_of_add_le (by decide),
    BitVec.extractLsb'_eq_self]

theorem l11_x8_2 (x0 : BitVec 1) (x1 : BitVec 6) (x2 : BitVec 5) (x3 : BitVec 5) (x4 : BitVec 12) (x5 : BitVec 3) :
    (x0 ++ x1 ++ x2 ++ x3 ++ x4 ++ x5 : BitVec 32).extractLsb' 8 2 = x4.extractLsb' 5 2 := by
  rw [BitVec.extractLsb'_append_eq_of_le (by decide),
    BitVec.extractLsb'_append_eq_of_add_le (by decide)]

theorem l11_x3_2 (x0 : BitVec 1) (x1 : BitVec 6) (x2 : BitVec 5) (x3 : BitVec 5) (x4 : BitVec 12) (x5 : BitVec 3) :
    (x0 ++ x1 ++ x2 ++ x3 ++ x4 ++ x5 : BitVec 32).extractLsb' 3 2 = x4.extractLsb' 0 2 := by
  rw [BitVec.extractLsb'_append_eq_of_le (by decide),
    BitVec.extractLsb'_append_eq_of_add_le (by decide)]

theorem l12_x25_6 (x0 : BitVec 1) (x1 : BitVec 6) (x2 : BitVec 5) (x3 : BitVec 5) (x4 : BitVec 1) (x5 : BitVec 2) (x6 : BitVec 12) :
    (x0 ++ x1 ++ x2 ++ x3 ++ x4 ++ x5 ++ x6 : BitVec 32).extractLsb' 25 6 = x1 := by
  rw [BitVec.extractLsb'_append_eq_of_le (by decide),
    BitVec.extractLsb'_append_eq_of_le (by decide),
    BitVec.extractLsb'_append_eq_of_le (by decide),
    BitVec.extractLsb'_append_eq_of_le (by decide),
    BitVec.extractLsb'_append_eq_of_le (by decide),
    BitVec.extractLsb'_append_eq_of_add_le (by decide),
    BitVec.extractLsb'_eq_self]

theorem l12_x12_3 (x0 : BitVec 1) (x1 : BitVec 6) (x2 : BitVec 5) (x3 : BitVec 5) (x4 : BitVec 1) (x5 : BitVec 2) (x6 : BitVec 12) :
    (x0 ++ x1 ++ x2 ++ x3 ++ x4 ++ x5 ++ x6 : BitVec 32).extractLsb' 12 3 = x4 ++ x5 := by
  rw [BitVec.extractLsb'_append_eq_of_le (by decide)]
  ext i hi
  simp
  grind

theorem l12_b31 (x0 : Bool) (x1 : BitVec 6) (x2 : BitVec 5) (x3 : BitVec 5) (x4 : BitVec 1) (x5 : BitVec 2) (x6 : BitVec 12) :
    (BitVec.ofBool x0 ++ x1 ++ x2 ++ x3 ++ x4 ++ x5 ++ x6 : BitVec 32).getLsbD 31 = x0 := by
  rw [BitVec.getLsbD_append, if_neg (by decide),
    BitVec.getLsbD_append, if_neg (by decide),
    BitVec.getLsbD_append, if_neg (by decide),
    BitVec.getLsbD_append, if_neg (by decide),
    BitVec.getLsbD_append, if_neg (by decide),
    BitVec.getLsbD_append, if_neg (by decide)]
  simp

theorem l12_x20_5 (x0 : BitVec 1) (x1 : BitVec 6) (x2 : BitVec 5) (x3 : BitVec 5) (x4 : BitVec 1) (x5 : BitVec 2) (x6 : BitVec 12) :
    (x0 ++ x1 ++ x2 ++ x3 ++ x4 ++ x5 ++ x6 : BitVec 32).extractLsb' 20 5 = x2 := by
  rw [BitVec.extractLsb'_append_eq_of_le (by decide),
    BitVec.extractLsb'_append_eq_of_le (by decide),
    BitVec.extractLsb'_append_eq_of_le (by decide),
    BitVec.extractLsb'_append_eq_of_le (by decide),
    BitVec.extractLsb'_append_eq_of_add_le (by decide),
    BitVec.extractLsb'_eq_self]

theorem l12_x15_5 (x0 : BitVec 1) (x1 : BitVec 6) (x2 : BitVec 5) (x3 : BitVec 5) (x4 : BitVec 1) (x5 : BitVec 2) (x6 : BitVec 12) :
    (x0 ++ x1 ++ x2 ++ x3 ++ x4 ++ x5 ++ x6 : BitVec 32).extractLsb' 15 5 = x3 := by
  rw [BitVec.extractLsb'_append_eq_of_le (by decide),
    BitVec.extractLsb'_append_eq_of_le (by decide),
    BitVec.extractLsb'_append_eq_of_le (by decide),
    BitVec.extractLsb'_append_eq_of_add_le (by decide),
    BitVec.extractLsb'_eq_self]

theorem l12_x12_2 (x0 : BitVec 1) (x1 : BitVec 6) (x2 : BitVec 5) (x3 : BitVec 5) (x4 : BitVec 1) (x5 : BitVec 2) (x6 : BitVec 12) :
    (x0 ++ x1 ++ x2 ++ x3 ++ x4 ++ x5 ++ x6 : BitVec 32).extractLsb' 12 2 = x5 := by
  rw [BitVec.extractLsb'_append_eq_of_le (by decide),
    BitVec.extractLsb'_append_eq_of_add_le (by decide),
    BitVec.extractLsb'_eq_self]

theorem l12_x0_12 (x0 : BitVec 1) (x1 : BitVec 6) (x2 : BitVec 5) (x3 : BitVec 5) (x4 : BitVec 1) (x5 : BitVec 2) (x6 : BitVec 12) :
    (x0 ++ x1 ++ x2 ++ x3 ++ x4 ++ x5 ++ x6 : BitVec 32).extractLsb' 0 12 = x6 := by
  rw [BitVec.extractLsb'_append_eq_of_add_le (by decide),
    BitVec.extractLsb'_eq_self]

theorem l13_x25_6 (x0 : BitVec 1) (x1 : BitVec 6) (x2 : BitVec 5) (x3 : BitVec 5) (x4 : BitVec 7) (x5 : BitVec 3) (x6 : BitVec 2) (x7 : BitVec 3) :
    (x0 ++ x1 ++ x2 ++ x3 ++ x4 ++ x5 ++ x6 ++ x7 : BitVec 32).extractLsb' 25 6 = x1 := by
  rw [BitVec.extractLsb'_append_eq_of_le (by decide),
    BitVec.extractLsb'_append_eq_of_le (by decide),
    BitVec.extractLsb'_append_eq_of_le (by decide),
    BitVec.extractLsb'_append_eq_of_le (by decide),
    BitVec.extractLsb'_append_eq_of_le (by decide),
    BitVec.extractLsb'_append_eq_of_le (by decide),
    BitVec.extractLsb'_append_eq_of_add_le (by decide),
    BitVec.extractLsb'_eq_self]

theorem l13_x8_2 (x0 : BitVec 1) (x1 : BitVec 6) (x2 : BitVec 5) (x3 : BitVec 5) (x4 : BitVec 7) (x5 : BitVec 3) (x6 : BitVec 2) (x7 : BitVec 3) :
    (x0 ++ x1 ++ x2 ++ x3 ++ x4 ++ x5 ++ x6 ++ x7 : BitVec 32).extractLsb' 8 2 = x4.extractLsb' 0 2 := by
  rw [BitVec.extractLsb'_append_eq_of_le (by decide),
    BitVec.extractLsb'_append_eq_of_le (by decide),
    BitVec.extractLsb'_append_eq_of_le (by decide),
    BitVec.extractLsb'_append_eq_of_add_le (by decide)]

theorem l13_and (x0 y0 : BitVec 1) (x1 y1 : BitVec 6) (x2 y2 : BitVec 5) (x3 y3 : BitVec 5) (x4 y4 : BitVec 7) (x5 y5 : BitVec 3) (x6 y6 : BitVec 2) (x7 y7 : BitVec 3) :
    (x0 ++ x1 ++ x2 ++ x3 ++ x4 ++ x5 ++ x6 ++ x7 : BitVec 32) &&& (y0 ++ y1 ++ y2 ++ y3 ++ y4 ++ y5 ++ y6 ++ y7) =
      (x0 &&& y0) ++ (x1 &&& y1) ++ (x2 &&& y2) ++ (x3 &&& y3) ++ (x4 &&& y4) ++ (x5 &&& y5) ++ (x6 &&& y6) ++ (x7 &&& y7) := by
  repeat rw [BitVec.and_append]

theorem l13_x5_3 (x0 : BitVec 1) (x1 : BitVec 6) (x2 : BitVec 5) (x3 : BitVec 5) (x4 : BitVec 7) (x5 : BitVec 3) (x6 : BitVec 2) (x7 : BitVec 3) :
    (x0 ++ x1 ++ x2 ++ x3 ++ x4 ++ x5 ++ x6 ++ x7 : BitVec 32).extractLsb' 5 3 = x5 := by
  rw [BitVec.extractLsb'_append_eq_of_le (by decide),
    BitVec.extractLsb'_append_eq_of_le (by decide),
    BitVec.extractLsb'_append_eq_of_add_le (by decide),
    BitVec.extractLsb'_eq_self]

theorem l13_b31 (x0 : Bool) (x1 : BitVec 6) (x2 : BitVec 5) (x3 : BitVec 5) (x4 : BitVec 7) (x5 : BitVec 3) (x6 : BitVec 2) (x7 : BitVec 3) :
    (BitVec.ofBool x0 ++ x1 ++ x2 ++ x3 ++ x4 ++ x5 ++ x6 ++ x7 : BitVec 32).getLsbD 31 = x0 := by
  rw [BitVec.getLsbD_append, if_neg (by decide),
    BitVec.getLsbD_append, if_neg (by decide),
    BitVec.getLsbD_append, if_neg (by decide),
    BitVec.getLsbD_append, if_neg (by decide),
    BitVec.getLsbD_append, if_neg (by decide),
    BitVec.getLsbD_append, if_neg (by decide),
    BitVec.getLsbD_append, if_neg (by decide)]
  simp

theorem l13_x20_5 (x0 : BitVec 1) (x1 : BitVec 6) (x2 : BitVec 5) (x3 : BitVec 5) (x4 : BitVec 7) (x5 : BitVec 3) (x6 : BitVec 2) (x7 : BitVec 3) :
    (x0 ++ x1 ++ x2 ++ x3 ++ x4 ++ x5 ++ x6 ++ x7 : BitVec 32).extractLsb' 20 5 = x2 := by
  rw [BitVec.extractLsb'_append_eq_of_le (by decide),
    BitVec.extractLsb'_append_eq_of_le (by decide),
    BitVec.extractLsb'_append_eq_of_le (by decide),
    BitVec.extractLsb'_append_eq_of_le (by decide),
    BitVec.extractLsb'_append_eq_of_le (by decide),
    BitVec.extractLsb'_append_eq_of_add_le (by decide),
    BitVec.extractLsb'_eq_self]

theorem l13_x15_5 (x0 : BitVec 1) (x1 : BitVec 6) (x2 : BitVec 5) (x3 : BitVec 5) (x4 : BitVec 7) (x5 : BitVec 3) (x6 : BitVec 2) (x7 : BitVec 3) :
    (x0 ++ x1 ++ x2 ++ x3 ++ x4 ++ x5 ++ x6 ++ x7 : BitVec 32).extractLsb' 15 5 = x3 := by
  rw [BitVec.extractLsb'_append_eq_of_le (by decide),
    BitVec.extractLsb'_append_eq_of_le (by decide),
    BitVec.extractLsb'_append_eq_of_le (by decide),
    BitVec.extractLsb'_append_eq_of_le (by decide),
    BitVec.extractLsb'_append_eq_of_add_le (by decide),
    BitVec.extractLsb'_eq_self]

theorem l13_x3_2 (x0 : BitVec 1) (x1 : BitVec 6) (x2 : BitVec 5) (x3 : BitVec 5) (x4 : BitVec 7) (x5 : BitVec 3) (x6 : BitVec 2) (x7 : BitVec 3) :
    (x0 ++ x1 ++ x2 ++ x3 ++ x4 ++ x5 ++ x6 ++ x7 : BitVec 32).extractLsb' 3 2 = x6 := by
  rw [BitVec.extractLsb'_append_eq_of_le (by decide),
    BitVec.extractLsb'_append_eq_of_add_le (by decide),
    BitVec.extractLsb'_eq_self]

theorem l14_x25_6 (x0 : BitVec 1) (x1 : BitVec 6) (x2 : BitVec 5) (x3 : BitVec 5) (x4 : BitVec 5) (x5 : BitVec 2) (x6 : BitVec 3) (x7 : BitVec 2) (x8 : BitVec 3) :
    (x0 ++ x1 ++ x2 ++ x3 ++ x4 ++ x5 ++ x6 ++ x7 ++ x8 : BitVec 32).extractLsb' 25 6 = x1 := by
  rw [BitVec.extractLsb'_append_eq_of_le (by decide),
    BitVec.extractLsb'_append_eq_of_le (by decide),
    BitVec.extractLsb'_append_eq_of_le (by decide),
    BitVec.extractLsb'_append_eq_of_le (by decide),
    BitVec.extractLsb'_append_eq_of_le (by decide),
    BitVec.extractLsb'_append_eq_of_le (by decide),
    BitVec.extractLsb'_append_eq_of_le (by decide),
    BitVec.extractLsb'_append_eq_of_add_le (by decide),
    BitVec.extractLsb'_eq_self]

theorem l14_x8_2 (x0 : BitVec 1) (x1 : BitVec 6) (x2 : BitVec 5) (x3 : BitVec 5) (x4 : BitVec 5) (x5 : BitVec 2) (x6 : BitVec 3) (x7 : BitVec 2) (x8 : BitVec 3) :
    (x0 ++ x1 ++ x2 ++ x3 ++ x4 ++ x5 ++ x6 ++ x7 ++ x8 : BitVec 32).extractLsb' 8 2 = x5 := by
  rw [BitVec.extractLsb'_append_eq_of_le (by decide),
    BitVec.extractLsb'_append_eq_of_le (by decide),
    BitVec.extractLsb'_append_eq_of_le (by decide),
    BitVec.extractLsb'_append_eq_of_add_le (by decide),
    BitVec.extractLsb'_eq_self]

theorem l14_and (x0 y0 : BitVec 1) (x1 y1 : BitVec 6) (x2 y2 : BitVec 5) (x3 y3 : BitVec 5) (x4 y4 : BitVec 5) (x5 y5 : BitVec 2) (x6 y6 : BitVec 3) (x7 y7 : BitVec 2) (x8 y8 : BitVec 3) :
    (x0 ++ x1 ++ x2 ++ x3 ++ x4 ++ x5 ++ x6 ++ x7 ++ x8 : BitVec 32) &&& (y0 ++ y1 ++ y2 ++ y3 ++ y4 ++ y5 ++ y6 ++ y7 ++ y8) =
      (x0 &&& y0) ++ (x1 &&& y1) ++ (x2 &&& y2) ++ (x3 &&& y3) ++ (x4 &&& y4) ++ (x5 &&& y5) ++ (x6 &&& y6) ++ (x7 &&& y7) ++ (x8 &&& y8) := by
  repeat rw [BitVec.and_append]

theorem l14_x5_3 (x0 : BitVec 1) (x1 : BitVec 6) (x2 : BitVec 5) (x3 : BitVec 5) (x4 : BitVec 5) (x5 : BitVec 2) (x6 : BitVec 3) (x7 : BitVec 2) (x8 : BitVec 3) :
    (x0 ++ x1 ++ x2 ++ x3 ++ x4 ++ x5 ++ x6 ++ x7 ++ x8 : BitVec 32).extractLsb' 5 3 = x6 := by
  rw [BitVec.extractLsb'_append_eq_of_le (by decide),
    BitVec.extractLsb'_append_eq_of_le (by decide),
    BitVec.extractLsb'_append_eq_of_add_le (by decide),
    BitVec.extractLsb'_eq_self]

theorem l14_b31 (x0 : Bool) (x1 : BitVec 6) (x2 : BitVec 5) (x3 : BitVec 5) (x4 : BitVec 5) (x5 : BitVec 2) (x6 : BitVec 3) (x7 : BitVec 2) (x8 : BitVec 3) :
    (BitVec.ofBool x0 ++ x1 ++ x2 ++ x3 ++ x4 ++ x5 ++ x6 ++ x7 ++ x8 : BitVec 32).getLsbD 31 = x0 := by
  rw [BitVec.getLsbD_append, if_neg (by decide),
    BitVec.getLsbD_append, if_neg (by decide),
    BitVec.getLsbD_append, if_neg (by decide),
    BitVec.getLsbD_append, if_neg (by decide),
    BitVec.getLsbD_append, if_neg (by decide),
    BitVec.getLsbD_append, if_neg (by decide),
    BitVec.getLsbD_append, if_neg (by decide),
    BitVec.getLsbD_append, if_neg (by decide)]
  simp

theorem l14_x15_5 (x0 : BitVec 1) (x1 : BitVec 6) (x2 : BitVec 5) (x3 : BitVec 5) (x4 : BitVec 5) (x5 : BitVec 2) (x6 : BitVec 3) (x7 : BitVec 2) (x8 : BitVec 3) :
    (x0 ++ x1 ++ x2 ++ x3 ++ x4 ++ x5 ++ x6 ++ x7 ++ x8 : BitVec 32).extractLsb' 15 5 = x3 := by
  rw [BitVec.extractLsb'_append_eq_of_le (by decide),
    BitVec.extractLsb'_append_eq_of_le (by decide),
    BitVec.extractLsb'_append_eq_of_le (by decide),
    BitVec.extractLsb'_append_eq_of_le (by decide),
    BitVec.extractLsb'_append_eq_of_le (by decide),
    BitVec.extractLsb'_append_eq_of_add_le (by decide),
    BitVec.extractLsb'_eq_self]

theorem l14_x10_5 (x0 : BitVec 1) (x1 : BitVec 6) (x2 : BitVec 5) (x3 : BitVec 5) (x4 : BitVec 5) (x5 : BitVec 2) (x6 : BitVec 3) (x7 : BitVec 2) (x8 : BitVec 3) :
    (x0 ++ x1 ++ x2 ++ x3 ++ x4 ++ x5 ++ x6 ++ x7 ++ x8 : BitVec 32).extractLsb' 10 5 = x4 := by
  rw [BitVec.extractLsb'_append_eq_of_le (by decide),
    BitVec.extractLsb'_append_eq_of_le (by decide),
    BitVec.extractLsb'_append_eq_of_le (by decide),
    BitVec.extractLsb'_append_eq_of_le (by decide),
    BitVec.extractLsb'_append_eq_of_add_le (by decide),
    BitVec.extractLsb'_eq_self]

theorem l14_x3_2 (x0 : BitVec 1) (x1 : BitVec 6) (x2 : BitVec 5) (x3 : BitVec 5) (x4 : BitVec 5) (x5 : BitVec 2) (x6 : BitVec 3) (x7 : BitVec 2) (x8 : BitVec 3) :
    (x0 ++ x1 ++ x2 ++ x3 ++ x4 ++ x5 ++ x6 ++ x7 ++ x8 : BitVec 32).extractLsb' 3 2 = x7 := by
  rw [BitVec.extractLsb'_append_eq_of_le (by decide),
    BitVec.extractLsb'_append_eq_of_add_le (by decide),
    BitVec.extractLsb'_eq_self]

theorem l15_x25_6 (x0 : BitVec 1) (x1 : BitVec 6) (x2 : BitVec 5) (x3 : BitVec 5) (x4 : BitVec 5) (x5 : BitVec 3) (x6 : BitVec 1) (x7 : BitVec 1) (x8 : BitVec 2) (x9 : BitVec 3) :
    (x0 ++ x1 ++ x2 ++ x3 ++ x4 ++ x5 ++ x6 ++ x7 ++ x8 ++ x9 : BitVec 32).extractLsb' 25 6 = x1 := by
  rw [BitVec.extractLsb'_append_eq_of_le (by decide),
    BitVec.extractLsb'_append_eq_of_le (by decide),
    BitVec.extractLsb'_append_eq_of_le (by decide),
    BitVec.extractLsb'_append_eq_of_le (by decide),
    BitVec.extractLsb'_append_eq_of_le (by decide),
    BitVec.extractLsb'_append_eq_of_le (by decide),
    BitVec.extractLsb'_append_eq_of_le (by decide),
    BitVec.extractLsb'_append_eq_of_le (by decide),
    BitVec.extractLsb'_append_eq_of_add_le (by decide),
    BitVec.extractLsb'_eq_self]

theorem l15_x5_5 (x0 : BitVec 1) (x1 : BitVec 6) (x2 : BitVec 5) (x3 : BitVec 5) (x4 : BitVec 5) (x5 : BitVec 3) (x6 : BitVec 1) (x7 : BitVec 1) (x8 : BitVec 2) (x9 : BitVec 3) :
    (x0 ++ x1 ++ x2 ++ x3 ++ x4 ++ x5 ++ x6 ++ x7 ++ x8 ++ x9 : BitVec 32).extractLsb' 5 5 = x5 ++ x6 ++ x7 := by
  rw [BitVec.extractLsb'_append_eq_of_le (by decide),
    BitVec.extractLsb'_append_eq_of_le (by decide)]
  ext i hi
  simp
  grind

theorem l15_x0_3 (x0 : BitVec 1) (x1 : BitVec 6) (x2 : BitVec 5) (x3 : BitVec 5) (x4 : BitVec 5) (x5 : BitVec 3) (x6 : BitVec 1) (x7 : BitVec 1) (x8 : BitVec 2) (x9 : BitVec 3) :
    (x0 ++ x1 ++ x2 ++ x3 ++ x4 ++ x5 ++ x6 ++ x7 ++ x8 ++ x9 : BitVec 32).extractLsb' 0 3 = x9 := by
  rw [BitVec.extractLsb'_append_eq_of_add_le (by decide),
    BitVec.extractLsb'_eq_self]

theorem l15_b31 (x0 : Bool) (x1 : BitVec 6) (x2 : BitVec 5) (x3 : BitVec 5) (x4 : BitVec 5) (x5 : BitVec 3) (x6 : BitVec 1) (x7 : BitVec 1) (x8 : BitVec 2) (x9 : BitVec 3) :
    (BitVec.ofBool x0 ++ x1 ++ x2 ++ x3 ++ x4 ++ x5 ++ x6 ++ x7 ++ x8 ++ x9 : BitVec 32).getLsbD 31 = x0 := by
  rw [BitVec.getLsbD_append, if_neg (by decide),
    BitVec.getLsbD_append, if_neg (by decide),
    BitVec.getLsbD_append, if_neg (by decide),
    BitVec.getLsbD_append, if_neg (by decide),
    BitVec.getLsbD_append, if_neg (by decide),
    BitVec.getLsbD_append, if_neg (by decide),
    BitVec.getLsbD_append, if_neg (by decide),
    BitVec.getLsbD_append, if_neg (by decide),
    BitVec.getLsbD_append, if_neg (by decide)]
  simp

theorem l15_x20_5 (x0 : BitVec 1) (x1 : BitVec 6) (x2 : BitVec 5) (x3 : BitVec 5) (x4 : BitVec 5) (x5 : BitVec 3) (x6 : BitVec 1) (x7 : BitVec 1) (x8 : BitVec 2) (x9 : BitVec 3) :
    (x0 ++ x1 ++ x2 ++ x3 ++ x4 ++ x5 ++ x6 ++ x7 ++ x8 ++ x9 : BitVec 32).extractLsb' 20 5 = x2 := by
  rw [BitVec.extractLsb'_append_eq_of_le (by decide),
    BitVec.extractLsb'_append_eq_of_le (by decide),
    BitVec.extractLsb'_append_eq_of_le (by decide),
    BitVec.extractLsb'_append_eq_of_le (by decide),
    BitVec.extractLsb'_append_eq_of_le (by decide),
    BitVec.extractLsb'_append_eq_of_le (by decide),
    BitVec.extractLsb'_append_eq_of_le (by decide),
    BitVec.extractLsb'_append_eq_of_add_le (by decide),
    BitVec.extractLsb'_eq_self]

theorem l15_x15_5 (x0 : BitVec 1) (x1 : BitVec 6) (x2 : BitVec 5) (x3 : BitVec 5) (x4 : BitVec 5) (x5 : BitVec 3) (x6 : BitVec 1) (x7 : BitVec 1) (x8 : BitVec 2) (x9 : BitVec 3) :
    (x0 ++ x1 ++ x2 ++ x3 ++ x4 ++ x5 ++ x6 ++ x7 ++ x8 ++ x9 : BitVec 32).extractLsb' 15 5 = x3 := by
  rw [BitVec.extractLsb'_append_eq_of_le (by decide),
    BitVec.extractLsb'_append_eq_of_le (by decide),
    BitVec.extractLsb'_append_eq_of_le (by decide),
    BitVec.extractLsb'_append_eq_of_le (by decide),
    BitVec.extractLsb'_append_eq_of_le (by decide),
    BitVec.extractLsb'_append_eq_of_le (by decide),
    BitVec.extractLsb'_append_eq_of_add_le (by decide),
    BitVec.extractLsb'_eq_self]

theorem l15_x10_5 (x0 : BitVec 1) (x1 : BitVec 6) (x2 : BitVec 5) (x3 : BitVec 5) (x4 : BitVec 5) (x5 : BitVec 3) (x6 : BitVec 1) (x7 : BitVec 1) (x8 : BitVec 2) (x9 : BitVec 3) :
    (x0 ++ x1 ++ x2 ++ x3 ++ x4 ++ x5 ++ x6 ++ x7 ++ x8 ++ x9 : BitVec 32).extractLsb' 10 5 = x4 := by
  rw [BitVec.extractLsb'_append_eq_of_le (by decide),
    BitVec.extractLsb'_append_eq_of_le (by decide),
    BitVec.extractLsb'_append_eq_of_le (by decide),
    BitVec.extractLsb'_append_eq_of_le (by decide),
    BitVec.extractLsb'_append_eq_of_le (by decide),
    BitVec.extractLsb'_append_eq_of_add_le (by decide),
    BitVec.extractLsb'_eq_self]

theorem l15_b6 (x0 : BitVec 1) (x1 : BitVec 6) (x2 : BitVec 5) (x3 : BitVec 5) (x4 : BitVec 5) (x5 : BitVec 3) (x6 : Bool) (x7 : BitVec 1) (x8 : BitVec 2) (x9 : BitVec 3) :
    (x0 ++ x1 ++ x2 ++ x3 ++ x4 ++ x5 ++ BitVec.ofBool x6 ++ x7 ++ x8 ++ x9 : BitVec 32).getLsbD 6 = x6 := by
  rw [BitVec.getLsbD_append, if_neg (by decide),
    BitVec.getLsbD_append, if_neg (by decide),
    BitVec.getLsbD_append, if_neg (by decide),
    BitVec.getLsbD_append, if_pos (by decide)]
  simp

theorem l15_x3_2 (x0 : BitVec 1) (x1 : BitVec 6) (x2 : BitVec 5) (x3 : BitVec 5) (x4 : BitVec 5) (x5 : BitVec 3) (x6 : BitVec 1) (x7 : BitVec 1) (x8 : BitVec 2) (x9 : BitVec 3) :
    (x0 ++ x1 ++ x2 ++ x3 ++ x4 ++ x5 ++ x6 ++ x7 ++ x8 ++ x9 : BitVec 32).extractLsb' 3 2 = x8 := by
  rw [BitVec.extractLsb'_append_eq_of_le (by decide),
    BitVec.extractLsb'_append_eq_of_add_le (by decide),
    BitVec.extractLsb'_eq_self]

theorem l16_x25_6 (x0 : BitVec 1) (x1 : BitVec 6) (x2 : BitVec 5) (x3 : BitVec 5) (x4 : BitVec 5) (x5 : BitVec 7) (x6 : BitVec 3) :
    (x0 ++ x1 ++ x2 ++ x3 ++ x4 ++ x5 ++ x6 : BitVec 32).extractLsb' 25 6 = x1 := by
  rw [BitVec.extractLsb'_append_eq_of_le (by decide),
    BitVec.extractLsb'_append_eq_of_le (by decide),
    BitVec.extractLsb'_append_eq_of_le (by decide),
    BitVec.extractLsb'_append_eq_of_le (by decide),
    BitVec.extractLsb'_append_eq_of_le (by decide),
    BitVec.extractLsb'_append_eq_of_add_le (by decide),
    BitVec.extractLsb'_eq_self]

theorem l16_x8_2 (x0 : BitVec 1) (x1 : BitVec 6) (x2 : BitVec 5) (x3 : BitVec 5) (x4 : BitVec 5) (x5 : BitVec 7) (x6 : BitVec 3) :
    (x0 ++ x1 ++ x2 ++ x3 ++ x4 ++ x5 ++ x6 : BitVec 32).extractLsb' 8 2 = x5.extractLsb' 5 2 := by
  rw [BitVec.extractLsb'_append_eq_of_le (by decide),
    BitVec.extractLsb'_append_eq_of_add_le (by decide)]

theorem l16_x3_2 (x0 : BitVec 1) (x1 : BitVec 6) (x2 : BitVec 5) (x3 : BitVec 5) (x4 : BitVec 5) (x5 : BitVec 7) (x6 : BitVec 3) :
    (x0 ++ x1 ++ x2 ++ x3 ++ x4 ++ x5 ++ x6 : BitVec 32).extractLsb' 3 2 = x5.extractLsb' 0 2 := by
  rw [BitVec.extractLsb'_append_eq_of_le (by decide),
    BitVec.extractLsb'_append_eq_of_add_le (by decide)]

theorem l16_and (x0 y0 : BitVec 1) (x1 y1 : BitVec 6) (x2 y2 : BitVec 5) (x3 y3 : BitVec 5) (x4 y4 : BitVec 5) (x5 y5 : BitVec 7) (x6 y6 : BitVec 3) :
    (x0 ++ x1 ++ x2 ++ x3 ++ x4 ++ x5 ++ x6 : BitVec 32) &&& (y0 ++ y1 ++ y2 ++ y3 ++ y4 ++ y5 ++ y6) =
      (x0 &&& y0) ++ (x1 &&& y1) ++ (x2 &&& y2) ++ (x3 &&& y3) ++ (x4 &&& y4) ++ (x5 &&& y5) ++ (x6 &&& y6) := by
  repeat rw [BitVec.and_append]

theorem l16_x0_3 (x0 : BitVec 1) (x1 : BitVec 6) (x2 : BitVec 5) (x3 : BitVec 5) (x4 : BitVec 5) (x5 : BitVec 7) (x6 : BitVec 3) :
    (x0 ++ x1 ++ x2 ++ x3 ++ x4 ++ x5 ++ x6 : BitVec 32).extractLsb' 0 3 = x6 := by
  rw [BitVec.extractLsb'_append_eq_of_add_le (by decide),
    BitVec.extractLsb'_eq_self]

theorem l16_b31 (x0 : Bool) (x1 : BitVec 6) (x2 : BitVec 5) (x3 : BitVec 5) (x4 : BitVec 5) (x5 : BitVec 7) (x6 : BitVec 3) :
    (BitVec.ofBool x0 ++ x1 ++ x2 ++ x3 ++ x4 ++ x5 ++ x6 : BitVec 32).getLsbD 31 = x0 := by
  rw [BitVec.getLsbD_append, if_neg (by decide),
    BitVec.getLsbD_append, if_neg (by decide),
    BitVec.getLsbD_append, if_neg (by decide),
    BitVec.getLsbD_append, if_neg (by decide),
    BitVec.getLsbD_append, if_neg (by decide),
    BitVec.getLsbD_append, if_neg (by decide)]
  simp

theorem l16_x15_5 (x0 : BitVec 1) (x1 : BitVec 6) (x2 : BitVec 5) (x3 : BitVec 5) (x4 : BitVec 5) (x5 : BitVec 7) (x6 : BitVec 3) :
    (x0 ++ x1 ++ x2 ++ x3 ++ x4 ++ x5 ++ x6 : BitVec 32).extractLsb' 15 5 = x3 := by
  rw [BitVec.extractLsb'_append_eq_of_le (by decide),
    BitVec.extractLsb'_append_eq_of_le (by decide),
    BitVec.extractLsb'_append_eq_of_le (by decide),
    BitVec.extractLsb'_append_eq_of_add_le (by decide),
    BitVec.extractLsb'_eq_self]

theorem l16_x10_5 (x0 : BitVec 1) (x1 : BitVec 6) (x2 : BitVec 5) (x3 : BitVec 5) (x4 : BitVec 5) (x5 : BitVec 7) (x6 : BitVec 3) :
    (x0 ++ x1 ++ x2 ++ x3 ++ x4 ++ x5 ++ x6 : BitVec 32).extractLsb' 10 5 = x4 := by
  rw [BitVec.extractLsb'_append_eq_of_le (by decide),
    BitVec.extractLsb'_append_eq_of_le (by decide),
    BitVec.extractLsb'_append_eq_of_add_le (by decide),
    BitVec.extractLsb'_eq_self]

theorem l17_x25_6 (x0 : BitVec 1) (x1 : BitVec 6) (x2 : BitVec 5) (x3 : BitVec 5) (x4 : BitVec 3) (x5 : BitVec 12) :
    (x0 ++ x1 ++ x2 ++ x3 ++ x4 ++ x5 : BitVec 32).extractLsb' 25 6 = x1 := by
  rw [BitVec.extractLsb'_append_eq_of_le (by decide),
    BitVec.extractLsb'_append_eq_of_le (by decide),
    BitVec.extractLsb'_append_eq_of_le (by decide),
    BitVec.extractLsb'_append_eq_of_le (by decide),
    BitVec.extractLsb'_append_eq_of_add_le (by decide),
    BitVec.extractLsb'_eq_self]

theorem l17_x12_3 (x0 : BitVec 1) (x1 : BitVec 6) (x2 : BitVec 5) (x3 : BitVec 5) (x4 : BitVec 3) (x5 : BitVec 12) :
    (x0 ++ x1 ++ x2 ++ x3 ++ x4 ++ x5 : BitVec 32).extractLsb' 12 3 = x4 := by
  rw [BitVec.extractLsb'_append_eq_of_le (by decide),
    BitVec.extractLsb'_append_eq_of_add_le (by decide),
    BitVec.extractLsb'_eq_self]

theorem l17_b31 (x0 : Bool) (x1 : BitVec 6) (x2 : BitVec 5) (x3 : BitVec 5) (x4 : BitVec 3) (x5 : BitVec 12) :
    (BitVec.ofBool x0 ++ x1 ++ x2 ++ x3 ++ x4 ++ x5 : BitVec 32).getLsbD 31 = x0 := by
  rw [BitVec.getLsbD_append, if_neg (by decide),
    BitVec.getLsbD_append, if_neg (by decide),
    BitVec.getLsbD_append, if_neg (by decide),
    BitVec.getLsbD_append, if_neg (by decide),
    BitVec.getLsbD_append, if_neg (by decide)]
  simp

theorem l17_x20_5 (x0 : BitVec 1) (x1 : BitVec 6) (x2 : BitVec 5) (x3 : BitVec 5) (x4 : BitVec 3) (x5 : BitVec 12) :
    (x0 ++ x1 ++ x2 ++ x3 ++ x4 ++ x5 : BitVec 32).extractLsb' 20 5 = x2 := by
  rw [BitVec.extractLsb'_append_eq_of_le (by decide),
    BitVec.extractLsb'_append_eq_of_le (by decide),
    BitVec.extractLsb'_append_eq_of_le (by decide),
    BitVec.extractLsb'_append_eq_of_add_le (by decide),
    BitVec.extractLsb'_eq_self]

theorem l17_x15_5 (x0 : BitVec 1) (x1 : BitVec 6) (x2 : BitVec 5) (x3 : BitVec 5) (x4 : BitVec 3) (x5 : BitVec 12) :
    (x0 ++ x1 ++ x2 ++ x3 ++ x4 ++ x5 : BitVec 32).extractLsb' 15 5 = x3 := by
  rw [BitVec.extractLsb'_append_eq_of_le (by decide),
    BitVec.extractLsb'_append_eq_of_le (by decide),
    BitVec.extractLsb'_append_eq_of_add_le (by decide),
    BitVec.extractLsb'_eq_self]

theorem l17_x0_12 (x0 : BitVec 1) (x1 : BitVec 6) (x2 : BitVec 5) (x3 : BitVec 5) (x4 : BitVec 3) (x5 : BitVec 12) :
    (x0 ++ x1 ++ x2 ++ x3 ++ x4 ++ x5 : BitVec 32).extractLsb' 0 12 = x5 := by
  rw [BitVec.extractLsb'_append_eq_of_add_le (by decide),
    BitVec.extractLsb'_eq_self]

theorem l18_x25_6 (x0 : BitVec 1) (x1 : BitVec 6) (x2 : BitVec 5) (x3 : BitVec 8) (x4 : BitVec 2) (x5 : BitVec 10) :
    (x0 ++ x1 ++ x2 ++ x3 ++ x4 ++ x5 : BitVec 32).extractLsb' 25 6 = x1 := by
  rw [BitVec.extractLsb'_append_eq_of_le (by decide),
    BitVec.extractLsb'_append_eq_of_le (by decide),
    BitVec.extractLsb'_append_eq_of_le (by decide),
    BitVec.extractLsb'_append_eq_of_le (by decide),
    BitVec.extractLsb'_append_eq_of_add_le (by decide),
    BitVec.extractLsb'_eq_self]

theorem l18_x12_3 (x0 : BitVec 1) (x1 : BitVec 6) (x2 : BitVec 5) (x3 : BitVec 8) (x4 : BitVec 2) (x5 : BitVec 10) :
    (x0 ++ x1 ++ x2 ++ x3 ++ x4 ++ x5 : BitVec 32).extractLsb' 12 3 = x3.extractLsb' 0 3 := by
  rw [BitVec.extractLsb'_append_eq_of_le (by decide),
    BitVec.extractLsb'_append_eq_of_le (by decide),
    BitVec.extractLsb'_append_eq_of_add_le (by decide)]

theorem l18_and (x0 y0 : BitVec 1) (x1 y1 : BitVec 6) (x2 y2 : BitVec 5) (x3 y3 : BitVec 8) (x4 y4 : BitVec 2) (x5 y5 : BitVec 10) :
    (x0 ++ x1 ++ x2 ++ x3 ++ x4 ++ x5 : BitVec 32) &&& (y0 ++ y1 ++ y2 ++ y3 ++ y4 ++ y5) =
      (x0 &&& y0) ++ (x1 &&& y1) ++ (x2 &&& y2) ++ (x3 &&& y3) ++ (x4 &&& y4) ++ (x5 &&& y5) := by
  repeat rw [BitVec.and_append]

theorem l18_b31 (x0 : Bool) (x1 : BitVec 6) (x2 : BitVec 5) (x3 : BitVec 8) (x4 : BitVec 2) (x5 : BitVec 10) :
    (BitVec.ofBool x0 ++ x1 ++ x2 ++ x3 ++ x4 ++ x5 : BitVec 32).getLsbD 31 = x0 := by
  rw [BitVec.getLsbD_append, if_neg (by decide),
    BitVec.getLsbD_append, if_neg (by decide),
    BitVec.getLsbD_append, if_neg (by decide),
    BitVec.getLsbD_append, if_neg (by decide),
    BitVec.getLsbD_append, if_neg (by decide)]
  simp

theorem l18_x20_5 (x0 : BitVec 1) (x1 : BitVec 6) (x2 : BitVec 5) (x3 : BitVec 8) (x4 : BitVec 2) (x5 : BitVec 10) :
    (x0 ++ x1 ++ x2 ++ x3 ++ x4 ++ x5 : BitVec 32).extractLsb' 20 5 = x2 := by
  rw [BitVec.extractLsb'_append_eq_of_le (by decide),
    BitVec.extractLsb'_append_eq_of_le (by decide),
    BitVec.extractLsb'_append_eq_of_le (by decide),
    BitVec.extractLsb'_append_eq_of_add_le (by decide),
    BitVec.extractLsb'_eq_self]

theorem l18_x10_2 (x0 : BitVec 1) (x1 : BitVec 6) (x2 : BitVec 5) (x3 : BitVec 8) (x4 : BitVec 2) (x5 : BitVec 10) :
    (x0 ++ x1 ++ x2 ++ x3 ++ x4 ++ x5 : BitVec 32).extractLsb' 10 2 = x4 := by
  rw [BitVec.extractLsb'_append_eq_of_le (by decide),
    BitVec.extractLsb'_append_eq_of_add_le (by decide),
    BitVec.extractLsb'_eq_self]

theorem l18_x0_10 (x0 : BitVec 1) (x1 : BitVec 6) (x2 : BitVec 5) (x3 : BitVec 8) (x4 : BitVec 2) (x5 : BitVec 10) :
    (x0 ++ x1 ++ x2 ++ x3 ++ x4 ++ x5 : BitVec 32).extractLsb' 0 10 = x5 := by
  rw [BitVec.extractLsb'_append_eq_of_add_le (by decide),
    BitVec.extractLsb'_eq_self]

theorem l19_and (x0 y0 : BitVec 1) (x1 y1 : BitVec 31) :
    (x0 ++ x1 : BitVec 32) &&& (y0 ++ y1) =
      (x0 &&& y0) ++ (x1 &&& y1) := by
  repeat rw [BitVec.and_append]

theorem l19_x25_6 (x0 : BitVec 1) (x1 : BitVec 31) :
    (x0 ++ x1 : BitVec 32).extractLsb' 25 6 = x1.extractLsb' 25 6 := by
  rw [BitVec.extractLsb'_append_eq_of_add_le (by decide)]

theorem l19_x20_5 (x0 : BitVec 1) (x1 : BitVec 31) :
    (x0 ++ x1 : BitVec 32).extractLsb' 20 5 = x1.extractLsb' 20 5 := by
  rw [BitVec.extractLsb'_append_eq_of_add_le (by decide)]

theorem l19_x12_3 (x0 : BitVec 1) (x1 : BitVec 31) :
    (x0 ++ x1 : BitVec 32).extractLsb' 12 3 = x1.extractLsb' 12 3 := by
  rw [BitVec.extractLsb'_append_eq_of_add_le (by decide)]

theorem l19_x0_31 (x0 : BitVec 1) (x1 : BitVec 31) :
    (x0 ++ x1 : BitVec 32).extractLsb' 0 31 = x1 := by
  rw [BitVec.extractLsb'_append_eq_of_add_le (by decide),
    BitVec.extractLsb'_eq_self]

theorem l19_b31 (x0 : Bool) (x1 : BitVec 31) :
    (BitVec.ofBool x0 ++ x1 : BitVec 32).getLsbD 31 = x0 := by
  rw [BitVec.getLsbD_append, if_neg (by decide)]
  simp

theorem l20_x25_6 (x0 : BitVec 1) (x1 : BitVec 6) (x2 : BitVec 5) (x3 : BitVec 5) (x4 : BitVec 13) (x5 : BitVec 2) :
    (x0 ++ x1 ++ x2 ++ x3 ++ x4 ++ x5 : BitVec 32).extractLsb' 25 6 = x1 := by
  rw [BitVec.extractLsb'_append_eq_of_le (by decide),
    BitVec.extractLsb'_append_eq_of_le (by decide),
    BitVec.extractLsb'_append_eq_of_le (by decide),
    BitVec.extractLsb'_append_eq_of_le (by decide),
    BitVec.extractLsb'_append_eq_of_add_le (by decide),
    BitVec.extractLsb'_eq_self]

theorem l20_x0_10 (x0 : BitVec 1) (x1 : BitVec 6) (x2 : BitVec 5) (x3 : BitVec 5) (x4 : BitVec 13) (x5 : BitVec 2) :
    (x0 ++ x1 ++ x2 ++ x3 ++ x4 ++ x5 : BitVec 32).extractLsb' 0 10 = (x4.extractLsb' 0 8) ++ x5 := by
  ext i hi
  simp
  grind

theorem l20_and (x0 y0 : BitVec 1) (x1 y1 : BitVec 6) (x2 y2 : BitVec 5) (x3 y3 : BitVec 5) (x4 y4 : BitVec 13) (x5 y5 : BitVec 2) :
    (x0 ++ x1 ++ x2 ++ x3 ++ x4 ++ x5 : BitVec 32) &&& (y0 ++ y1 ++ y2 ++ y3 ++ y4 ++ y5) =
      (x0 &&& y0) ++ (x1 &&& y1) ++ (x2 &&& y2) ++ (x3 &&& y3) ++ (x4 &&& y4) ++ (x5 &&& y5) := by
  repeat rw [BitVec.and_append]

theorem l20_b31 (x0 : Bool) (x1 : BitVec 6) (x2 : BitVec 5) (x3 : BitVec 5) (x4 : BitVec 13) (x5 : BitVec 2) :
    (BitVec.ofBool x0 ++ x1 ++ x2 ++ x3 ++ x4 ++ x5 : BitVec 32).getLsbD 31 = x0 := by
  rw [BitVec.getLsbD_append, if_neg (by decide),
    BitVec.getLsbD_append, if_neg (by decide),
    BitVec.getLsbD_append, if_neg (by decide),
    BitVec.getLsbD_append, if_neg (by decide),
    BitVec.getLsbD_append, if_neg (by decide)]
  simp

theorem l20_x20_5 (x0 : BitVec 1) (x1 : BitVec 6) (x2 : BitVec 5) (x3 : BitVec 5) (x4 : BitVec 13) (x5 : BitVec 2) :
    (x0 ++ x1 ++ x2 ++ x3 ++ x4 ++ x5 : BitVec 32).extractLsb' 20 5 = x2 := by
  rw [BitVec.extractLsb'_append_eq_of_le (by decide),
    BitVec.extractLsb'_append_eq_of_le (by decide),
    BitVec.extractLsb'_append_eq_of_le (by decide),
    BitVec.extractLsb'_append_eq_of_add_le (by decide),
    BitVec.extractLsb'_eq_self]

theorem l20_x15_5 (x0 : BitVec 1) (x1 : BitVec 6) (x2 : BitVec 5) (x3 : BitVec 5) (x4 : BitVec 13) (x5 : BitVec 2) :
    (x0 ++ x1 ++ x2 ++ x3 ++ x4 ++ x5 : BitVec 32).extractLsb' 15 5 = x3 := by
  rw [BitVec.extractLsb'_append_eq_of_le (by decide),
    BitVec.extractLsb'_append_eq_of_le (by decide),
    BitVec.extractLsb'_append_eq_of_add_le (by decide),
    BitVec.extractLsb'_eq_self]

theorem l20_x0_2 (x0 : BitVec 1) (x1 : BitVec 6) (x2 : BitVec 5) (x3 : BitVec 5) (x4 : BitVec 13) (x5 : BitVec 2) :
    (x0 ++ x1 ++ x2 ++ x3 ++ x4 ++ x5 : BitVec 32).extractLsb' 0 2 = x5 := by
  rw [BitVec.extractLsb'_append_eq_of_add_le (by decide),
    BitVec.extractLsb'_eq_self]

theorem l20_x6_4 (x0 : BitVec 1) (x1 : BitVec 6) (x2 : BitVec 5) (x3 : BitVec 5) (x4 : BitVec 13) (x5 : BitVec 2) :
    (x0 ++ x1 ++ x2 ++ x3 ++ x4 ++ x5 : BitVec 32).extractLsb' 6 4 = x4.extractLsb' 4 4 := by
  rw [BitVec.extractLsb'_append_eq_of_le (by decide),
    BitVec.extractLsb'_append_eq_of_add_le (by decide)]

theorem l21_x25_6 (x0 : BitVec 1) (x1 : BitVec 6) (x2 : BitVec 5) (x3 : BitVec 5) (x4 : BitVec 5) (x5 : BitVec 5) (x6 : BitVec 5) :
    (x0 ++ x1 ++ x2 ++ x3 ++ x4 ++ x5 ++ x6 : BitVec 32).extractLsb' 25 6 = x1 := by
  rw [BitVec.extractLsb'_append_eq_of_le (by decide),
    BitVec.extractLsb'_append_eq_of_le (by decide),
    BitVec.extractLsb'_append_eq_of_le (by decide),
    BitVec.extractLsb'_append_eq_of_le (by decide),
    BitVec.extractLsb'_append_eq_of_le (by decide),
    BitVec.extractLsb'_append_eq_of_add_le (by decide),
    BitVec.extractLsb'_eq_self]

theorem l21_x0_4 (x0 : BitVec 1) (x1 : BitVec 6) (x2 : BitVec 5) (x3 : BitVec 5) (x4 : BitVec 5) (x5 : BitVec 5) (x6 : BitVec 5) :
    (x0 ++ x1 ++ x2 ++ x3 ++ x4 ++ x5 ++ x6 : BitVec 32).extractLsb' 0 4 = x6.extractLsb' 0 4 := by
  rw [BitVec.extractLsb'_append_eq_of_add_le (by decide)]

theorem l21_and (x0 y0 : BitVec 1) (x1 y1 : BitVec 6) (x2 y2 : BitVec 5) (x3 y3 : BitVec 5) (x4 y4 : BitVec 5) (x5 y5 : BitVec 5) (x6 y6 : BitVec 5) :
    (x0 ++ x1 ++ x2 ++ x3 ++ x4 ++ x5 ++ x6 : BitVec 32) &&& (y0 ++ y1 ++ y2 ++ y3 ++ y4 ++ y5 ++ y6) =
      (x0 &&& y0) ++ (x1 &&& y1) ++ (x2 &&& y2) ++ (x3 &&& y3) ++ (x4 &&& y4) ++ (x5 &&& y5) ++ (x6 &&& y6) := by
  repeat rw [BitVec.and_append]

theorem l21_b31 (x0 : Bool) (x1 : BitVec 6) (x2 : BitVec 5) (x3 : BitVec 5) (x4 : BitVec 5) (x5 : BitVec 5) (x6 : BitVec 5) :
    (BitVec.ofBool x0 ++ x1 ++ x2 ++ x3 ++ x4 ++ x5 ++ x6 : BitVec 32).getLsbD 31 = x0 := by
  rw [BitVec.getLsbD_append, if_neg (by decide),
    BitVec.getLsbD_append, if_neg (by decide),
    BitVec.getLsbD_append, if_neg (by decide),
    BitVec.getLsbD_append, if_neg (by decide),
    BitVec.getLsbD_append, if_neg (by decide),
    BitVec.getLsbD_append, if_neg (by decide)]
  simp

theorem l21_x20_5 (x0 : BitVec 1) (x1 : BitVec 6) (x2 : BitVec 5) (x3 : BitVec 5) (x4 : BitVec 5) (x5 : BitVec 5) (x6 : BitVec 5) :
    (x0 ++ x1 ++ x2 ++ x3 ++ x4 ++ x5 ++ x6 : BitVec 32).extractLsb' 20 5 = x2 := by
  rw [BitVec.extractLsb'_append_eq_of_le (by decide),
    BitVec.extractLsb'_append_eq_of_le (by decide),
    BitVec.extractLsb'_append_eq_of_le (by decide),
    BitVec.extractLsb'_append_eq_of_le (by decide),
    BitVec.extractLsb'_append_eq_of_add_le (by decide),
    BitVec.extractLsb'_eq_self]

theorem l21_x15_5 (x0 : BitVec 1) (x1 : BitVec 6) (x2 : BitVec 5) (x3 : BitVec 5) (x4 : BitVec 5) (x5 : BitVec 5) (x6 : BitVec 5) :
    (x0 ++ x1 ++ x2 ++ x3 ++ x4 ++ x5 ++ x6 : BitVec 32).extractLsb' 15 5 = x3 := by
  rw [BitVec.extractLsb'_append_eq_of_le (by decide),
    BitVec.extractLsb'_append_eq_of_le (by decide),
    BitVec.extractLsb'_append_eq_of_le (by decide),
    BitVec.extractLsb'_append_eq_of_add_le (by decide),
    BitVec.extractLsb'_eq_self]

theorem l21_x10_5 (x0 : BitVec 1) (x1 : BitVec 6) (x2 : BitVec 5) (x3 : BitVec 5) (x4 : BitVec 5) (x5 : BitVec 5) (x6 : BitVec 5) :
    (x0 ++ x1 ++ x2 ++ x3 ++ x4 ++ x5 ++ x6 : BitVec 32).extractLsb' 10 5 = x4 := by
  rw [BitVec.extractLsb'_append_eq_of_le (by decide),
    BitVec.extractLsb'_append_eq_of_le (by decide),
    BitVec.extractLsb'_append_eq_of_add_le (by decide),
    BitVec.extractLsb'_eq_self]

theorem l21_x5_5 (x0 : BitVec 1) (x1 : BitVec 6) (x2 : BitVec 5) (x3 : BitVec 5) (x4 : BitVec 5) (x5 : BitVec 5) (x6 : BitVec 5) :
    (x0 ++ x1 ++ x2 ++ x3 ++ x4 ++ x5 ++ x6 : BitVec 32).extractLsb' 5 5 = x5 := by
  rw [BitVec.extractLsb'_append_eq_of_le (by decide),
    BitVec.extractLsb'_append_eq_of_add_le (by decide),
    BitVec.extractLsb'_eq_self]

theorem l22_x25_6 (x0 : BitVec 1) (x1 : BitVec 6) (x2 : BitVec 5) (x3 : BitVec 5) (x4 : BitVec 5) (x5 : BitVec 5) (x6 : BitVec 1) (x7 : BitVec 4) :
    (x0 ++ x1 ++ x2 ++ x3 ++ x4 ++ x5 ++ x6 ++ x7 : BitVec 32).extractLsb' 25 6 = x1 := by
  rw [BitVec.extractLsb'_append_eq_of_le (by decide),
    BitVec.extractLsb'_append_eq_of_le (by decide),
    BitVec.extractLsb'_append_eq_of_le (by decide),
    BitVec.extractLsb'_append_eq_of_le (by decide),
    BitVec.extractLsb'_append_eq_of_le (by decide),
    BitVec.extractLsb'_append_eq_of_le (by decide),
    BitVec.extractLsb'_append_eq_of_add_le (by decide),
    BitVec.extractLsb'_eq_self]

theorem l22_x0_4 (x0 : BitVec 1) (x1 : BitVec 6) (x2 : BitVec 5) (x3 : BitVec 5) (x4 : BitVec 5) (x5 : BitVec 5) (x6 : BitVec 1) (x7 : BitVec 4) :
    (x0 ++ x1 ++ x2 ++ x3 ++ x4 ++ x5 ++ x6 ++ x7 : BitVec 32).extractLsb' 0 4 = x7 := by
  rw [BitVec.extractLsb'_append_eq_of_add_le (by decide),
    BitVec.extractLsb'_eq_self]

theorem l22_b31 (x0 : Bool) (x1 : BitVec 6) (x2 : BitVec 5) (x3 : BitVec 5) (x4 : BitVec 5) (x5 : BitVec 5) (x6 : BitVec 1) (x7 : BitVec 4) :
    (BitVec.ofBool x0 ++ x1 ++ x2 ++ x3 ++ x4 ++ x5 ++ x6 ++ x7 : BitVec 32).getLsbD 31 = x0 := by
  rw [BitVec.getLsbD_append, if_neg (by decide),
    BitVec.getLsbD_append, if_neg (by decide),
    BitVec.getLsbD_append, if_neg (by decide),
    BitVec.getLsbD_append, if_neg (by decide),
    BitVec.getLsbD_append, if_neg (by decide),
    BitVec.getLsbD_append, if_neg (by decide),
    BitVec.getLsbD_append, if_neg (by decide)]
  simp

theorem l22_x20_5 (x0 : BitVec 1) (x1 : BitVec 6) (x2 : BitVec 5) (x3 : BitVec 5) (x4 : BitVec 5) (x5 : BitVec 5) (x6 : BitVec 1) (x7 : BitVec 4) :
    (x0 ++ x1 ++ x2 ++ x3 ++ x4 ++ x5 ++ x6 ++ x7 : BitVec 32).extractLsb' 20 5 = x2 := by
  rw [BitVec.extractLsb'_append_eq_of_le (by decide),
    BitVec.extractLsb'_append_eq_of_le (by decide),
    BitVec.extractLsb'_append_eq_of_le (by decide),
    BitVec.extractLsb'_append_eq_of_le (by decide),
    BitVec.extractLsb'_append_eq_of_le (by decide),
    BitVec.extractLsb'_append_eq_of_add_le (by decide),
    BitVec.extractLsb'_eq_self]

theorem l22_x15_5 (x0 : BitVec 1) (x1 : BitVec 6) (x2 : BitVec 5) (x3 : BitVec 5) (x4 : BitVec 5) (x5 : BitVec 5) (x6 : BitVec 1) (x7 : BitVec 4) :
    (x0 ++ x1 ++ x2 ++ x3 ++ x4 ++ x5 ++ x6 ++ x7 : BitVec 32).extractLsb' 15 5 = x3 := by
  rw [BitVec.extractLsb'_append_eq_of_le (by decide),
    BitVec.extractLsb'_append_eq_of_le (by decide),
    BitVec.extractLsb'_append_eq_of_le (by decide),
    BitVec.extractLsb'_append_eq_of_le (by decide),
    BitVec.extractLsb'_append_eq_of_add_le (by decide),
    BitVec.extractLsb'_eq_self]

theorem l22_x10_5 (x0 : BitVec 1) (x1 : BitVec 6) (x2 : BitVec 5) (x3 : BitVec 5) (x4 : BitVec 5) (x5 : BitVec 5) (x6 : BitVec 1) (x7 : BitVec 4) :
    (x0 ++ x1 ++ x2 ++ x3 ++ x4 ++ x5 ++ x6 ++ x7 : BitVec 32).extractLsb' 10 5 = x4 := by
  rw [BitVec.extractLsb'_append_eq_of_le (by decide),
    BitVec.extractLsb'_append_eq_of_le (by decide),
    BitVec.extractLsb'_append_eq_of_le (by decide),
    BitVec.extractLsb'_append_eq_of_add_le (by decide),
    BitVec.extractLsb'_eq_self]

theorem l22_x5_5 (x0 : BitVec 1) (x1 : BitVec 6) (x2 : BitVec 5) (x3 : BitVec 5) (x4 : BitVec 5) (x5 : BitVec 5) (x6 : BitVec 1) (x7 : BitVec 4) :
    (x0 ++ x1 ++ x2 ++ x3 ++ x4 ++ x5 ++ x6 ++ x7 : BitVec 32).extractLsb' 5 5 = x5 := by
  rw [BitVec.extractLsb'_append_eq_of_le (by decide),
    BitVec.extractLsb'_append_eq_of_le (by decide),
    BitVec.extractLsb'_append_eq_of_add_le (by decide),
    BitVec.extractLsb'_eq_self]

theorem l22_b4 (x0 : BitVec 1) (x1 : BitVec 6) (x2 : BitVec 5) (x3 : BitVec 5) (x4 : BitVec 5) (x5 : BitVec 5) (x6 : Bool) (x7 : BitVec 4) :
    (x0 ++ x1 ++ x2 ++ x3 ++ x4 ++ x5 ++ BitVec.ofBool x6 ++ x7 : BitVec 32).getLsbD 4 = x6 := by
  rw [BitVec.getLsbD_append, if_neg (by decide),
    BitVec.getLsbD_append, if_pos (by decide)]
  simp

theorem l22_and (x0 y0 : BitVec 1) (x1 y1 : BitVec 6) (x2 y2 : BitVec 5) (x3 y3 : BitVec 5) (x4 y4 : BitVec 5) (x5 y5 : BitVec 5) (x6 y6 : BitVec 1) (x7 y7 : BitVec 4) :
    (x0 ++ x1 ++ x2 ++ x3 ++ x4 ++ x5 ++ x6 ++ x7 : BitVec 32) &&& (y0 ++ y1 ++ y2 ++ y3 ++ y4 ++ y5 ++ y6 ++ y7) =
      (x0 &&& y0) ++ (x1 &&& y1) ++ (x2 &&& y2) ++ (x3 &&& y3) ++ (x4 &&& y4) ++ (x5 &&& y5) ++ (x6 &&& y6) ++ (x7 &&& y7) := by
  repeat rw [BitVec.and_append]

theorem l23_x25_6 (x0 : BitVec 1) (x1 : BitVec 6) (x2 : BitVec 5) (x3 : BitVec 10) (x4 : BitVec 5) (x5 : BitVec 5) :
    (x0 ++ x1 ++ x2 ++ x3 ++ x4 ++ x5 : BitVec 32).extractLsb' 25 6 = x1 := by
  rw [BitVec.extractLsb'_append_eq_of_le (by decide),
    BitVec.extractLsb'_append_eq_of_le (by decide),
    BitVec.extractLsb'_append_eq_of_le (by decide),
    BitVec.extractLsb'_append_eq_of_le (by decide),
    BitVec.extractLsb'_append_eq_of_add_le (by decide),
    BitVec.extractLsb'_eq_self]

theorem l23_x0_4 (x0 : BitVec 1) (x1 : BitVec 6) (x2 : BitVec 5) (x3 : BitVec 10) (x4 : BitVec 5) (x5 : BitVec 5) :
    (x0 ++ x1 ++ x2 ++ x3 ++ x4 ++ x5 : BitVec 32).extractLsb' 0 4 = x5.extractLsb' 0 4 := by
  rw [BitVec.extractLsb'_append_eq_of_add_le (by decide)]

theorem l23_and (x0 y0 : BitVec 1) (x1 y1 : BitVec 6) (x2 y2 : BitVec 5) (x3 y3 : BitVec 10) (x4 y4 : BitVec 5) (x5 y5 : BitVec 5) :
    (x0 ++ x1 ++ x2 ++ x3 ++ x4 ++ x5 : BitVec 32) &&& (y0 ++ y1 ++ y2 ++ y3 ++ y4 ++ y5) =
      (x0 &&& y0) ++ (x1 &&& y1) ++ (x2 &&& y2) ++ (x3 &&& y3) ++ (x4 &&& y4) ++ (x5 &&& y5) := by
  repeat rw [BitVec.and_append]

theorem l23_b31 (x0 : Bool) (x1 : BitVec 6) (x2 : BitVec 5) (x3 : BitVec 10) (x4 : BitVec 5) (x5 : BitVec 5) :
    (BitVec.ofBool x0 ++ x1 ++ x2 ++ x3 ++ x4 ++ x5 : BitVec 32).getLsbD 31 = x0 := by
  rw [BitVec.getLsbD_append, if_neg (by decide),
    BitVec.getLsbD_append, if_neg (by decide),
    BitVec.getLsbD_append, if_neg (by decide),
    BitVec.getLsbD_append, if_neg (by decide),
    BitVec.getLsbD_append, if_neg (by decide)]
  simp

theorem l23_x20_5 (x0 : BitVec 1) (x1 : BitVec 6) (x2 : BitVec 5) (x3 : BitVec 10) (x4 : BitVec 5) (x5 : BitVec 5) :
    (x0 ++ x1 ++ x2 ++ x3 ++ x4 ++ x5 : BitVec 32).extractLsb' 20 5 = x2 := by
  rw [BitVec.extractLsb'_append_eq_of_le (by decide),
    BitVec.extractLsb'_append_eq_of_le (by decide),
    BitVec.extractLsb'_append_eq_of_le (by decide),
    BitVec.extractLsb'_append_eq_of_add_le (by decide),
    BitVec.extractLsb'_eq_self]

theorem l23_x5_5 (x0 : BitVec 1) (x1 : BitVec 6) (x2 : BitVec 5) (x3 : BitVec 10) (x4 : BitVec 5) (x5 : BitVec 5) :
    (x0 ++ x1 ++ x2 ++ x3 ++ x4 ++ x5 : BitVec 32).extractLsb' 5 5 = x4 := by
  rw [BitVec.extractLsb'_append_eq_of_le (by decide),
    BitVec.extractLsb'_append_eq_of_add_le (by decide),
    BitVec.extractLsb'_eq_self]

theorem l24_x25_6 (x0 : BitVec 1) (x1 : BitVec 6) (x2 : BitVec 3) (x3 : BitVec 6) (x4 : BitVec 5) (x5 : BitVec 11) :
    (x0 ++ x1 ++ x2 ++ x3 ++ x4 ++ x5 : BitVec 32).extractLsb' 25 6 = x1 := by
  rw [BitVec.extractLsb'_append_eq_of_le (by decide),
    BitVec.extractLsb'_append_eq_of_le (by decide),
    BitVec.extractLsb'_append_eq_of_le (by decide),
    BitVec.extractLsb'_append_eq_of_le (by decide),
    BitVec.extractLsb'_append_eq_of_add_le (by decide),
    BitVec.extractLsb'_eq_self]

theorem l24_x6_5 (x0 : BitVec 1) (x1 : BitVec 6) (x2 : BitVec 3) (x3 : BitVec 6) (x4 : BitVec 5) (x5 : BitVec 11) :
    (x0 ++ x1 ++ x2 ++ x3 ++ x4 ++ x5 : BitVec 32).extractLsb' 6 5 = x5.extractLsb' 6 5 := by
  rw [BitVec.extractLsb'_append_eq_of_add_le (by decide)]

theorem l24_and (x0 y0 : BitVec 1) (x1 y1 : BitVec 6) (x2 y2 : BitVec 3) (x3 y3 : BitVec 6) (x4 y4 : BitVec 5) (x5 y5 : BitVec 11) :
    (x0 ++ x1 ++ x2 ++ x3 ++ x4 ++ x5 : BitVec 32) &&& (y0 ++ y1 ++ y2 ++ y3 ++ y4 ++ y5) =
      (x0 &&& y0) ++ (x1 &&& y1) ++ (x2 &&& y2) ++ (x3 &&& y3) ++ (x4 &&& y4) ++ (x5 &&& y5) := by
  repeat rw [BitVec.and_append]

theorem l24_b31 (x0 : Bool) (x1 : BitVec 6) (x2 : BitVec 3) (x3 : BitVec 6) (x4 : BitVec 5) (x5 : BitVec 11) :
    (BitVec.ofBool x0 ++ x1 ++ x2 ++ x3 ++ x4 ++ x5 : BitVec 32).getLsbD 31 = x0 := by
  rw [BitVec.getLsbD_append, if_neg (by decide),
    BitVec.getLsbD_append, if_neg (by decide),
    BitVec.getLsbD_append, if_neg (by decide),
    BitVec.getLsbD_append, if_neg (by decide),
    BitVec.getLsbD_append, if_neg (by decide)]
  simp

theorem l24_x22_3 (x0 : BitVec 1) (x1 : BitVec 6) (x2 : BitVec 3) (x3 : BitVec 6) (x4 : BitVec 5) (x5 : BitVec 11) :
    (x0 ++ x1 ++ x2 ++ x3 ++ x4 ++ x5 : BitVec 32).extractLsb' 22 3 = x2 := by
  rw [BitVec.extractLsb'_append_eq_of_le (by decide),
    BitVec.extractLsb'_append_eq_of_le (by decide),
    BitVec.extractLsb'_append_eq_of_le (by decide),
    BitVec.extractLsb'_append_eq_of_add_le (by decide),
    BitVec.extractLsb'_eq_self]

theorem l24_x11_5 (x0 : BitVec 1) (x1 : BitVec 6) (x2 : BitVec 3) (x3 : BitVec 6) (x4 : BitVec 5) (x5 : BitVec 11) :
    (x0 ++ x1 ++ x2 ++ x3 ++ x4 ++ x5 : BitVec 32).extractLsb' 11 5 = x4 := by
  rw [BitVec.extractLsb'_append_eq_of_le (by decide),
    BitVec.extractLsb'_append_eq_of_add_le (by decide),
    BitVec.extractLsb'_eq_self]

theorem l24_x0_11 (x0 : BitVec 1) (x1 : BitVec 6) (x2 : BitVec 3) (x3 : BitVec 6) (x4 : BitVec 5) (x5 : BitVec 11) :
    (x0 ++ x1 ++ x2 ++ x3 ++ x4 ++ x5 : BitVec 32).extractLsb' 0 11 = x5 := by
  rw [BitVec.extractLsb'_append_eq_of_add_le (by decide),
    BitVec.extractLsb'_eq_self]

theorem l25_x25_6 (x0 : BitVec 1) (x1 : BitVec 6) (x2 : BitVec 3) (x3 : BitVec 22) :
    (x0 ++ x1 ++ x2 ++ x3 : BitVec 32).extractLsb' 25 6 = x1 := by
  rw [BitVec.extractLsb'_append_eq_of_le (by decide),
    BitVec.extractLsb'_append_eq_of_le (by decide),
    BitVec.extractLsb'_append_eq_of_add_le (by decide),
    BitVec.extractLsb'_eq_self]

theorem l25_x6_5 (x0 : BitVec 1) (x1 : BitVec 6) (x2 : BitVec 3) (x3 : BitVec 22) :
    (x0 ++ x1 ++ x2 ++ x3 : BitVec 32).extractLsb' 6 5 = x3.extractLsb' 6 5 := by
  rw [BitVec.extractLsb'_append_eq_of_add_le (by decide)]

theorem l25_and (x0 y0 : BitVec 1) (x1 y1 : BitVec 6) (x2 y2 : BitVec 3) (x3 y3 : BitVec 22) :
    (x0 ++ x1 ++ x2 ++ x3 : BitVec 32) &&& (y0 ++ y1 ++ y2 ++ y3) =
      (x0 &&& y0) ++ (x1 &&& y1) ++ (x2 &&& y2) ++ (x3 &&& y3) := by
  repeat rw [BitVec.and_append]

theorem l25_b31 (x0 : Bool) (x1 : BitVec 6) (x2 : BitVec 3) (x3 : BitVec 22) :
    (BitVec.ofBool x0 ++ x1 ++ x2 ++ x3 : BitVec 32).getLsbD 31 = x0 := by
  rw [BitVec.getLsbD_append, if_neg (by decide),
    BitVec.getLsbD_append, if_neg (by decide),
    BitVec.getLsbD_append, if_neg (by decide)]
  simp

theorem l25_x22_3 (x0 : BitVec 1) (x1 : BitVec 6) (x2 : BitVec 3) (x3 : BitVec 22) :
    (x0 ++ x1 ++ x2 ++ x3 : BitVec 32).extractLsb' 22 3 = x2 := by
  rw [BitVec.extractLsb'_append_eq_of_le (by decide),
    BitVec.extractLsb'_append_eq_of_add_le (by decide),
    BitVec.extractLsb'_eq_self]

theorem l26_x25_6 (x0 : BitVec 1) (x1 : BitVec 6) (x2 : BitVec 3) (x3 : BitVec 6) (x4 : BitVec 5) (x5 : BitVec 5) (x6 : BitVec 6) :
    (x0 ++ x1 ++ x2 ++ x3 ++ x4 ++ x5 ++ x6 : BitVec 32).extractLsb' 25 6 = x1 := by
  rw [BitVec.extractLsb'_append_eq_of_le (by decide),
    BitVec.extractLsb'_append_eq_of_le (by decide),
    BitVec.extractLsb'_append_eq_of_le (by decide),
    BitVec.extractLsb'_append_eq_of_le (by decide),
    BitVec.extractLsb'_append_eq_of_le (by decide),
    BitVec.extractLsb'_append_eq_of_add_le (by decide),
    BitVec.extractLsb'_eq_self]

theorem l26_x6_5 (x0 : BitVec 1) (x1 : BitVec 6) (x2 : BitVec 3) (x3 : BitVec 6) (x4 : BitVec 5) (x5 : BitVec 5) (x6 : BitVec 6) :
    (x0 ++ x1 ++ x2 ++ x3 ++ x4 ++ x5 ++ x6 : BitVec 32).extractLsb' 6 5 = x5 := by
  rw [BitVec.extractLsb'_append_eq_of_le (by decide),
    BitVec.extractLsb'_append_eq_of_add_le (by decide),
    BitVec.extractLsb'_eq_self]

theorem l26_and (x0 y0 : BitVec 1) (x1 y1 : BitVec 6) (x2 y2 : BitVec 3) (x3 y3 : BitVec 6) (x4 y4 : BitVec 5) (x5 y5 : BitVec 5) (x6 y6 : BitVec 6) :
    (x0 ++ x1 ++ x2 ++ x3 ++ x4 ++ x5 ++ x6 : BitVec 32) &&& (y0 ++ y1 ++ y2 ++ y3 ++ y4 ++ y5 ++ y6) =
      (x0 &&& y0) ++ (x1 &&& y1) ++ (x2 &&& y2) ++ (x3 &&& y3) ++ (x4 &&& y4) ++ (x5 &&& y5) ++ (x6 &&& y6) := by
  repeat rw [BitVec.and_append]

theorem l26_b31 (x0 : Bool) (x1 : BitVec 6) (x2 : BitVec 3) (x3 : BitVec 6) (x4 : BitVec 5) (x5 : BitVec 5) (x6 : BitVec 6) :
    (BitVec.ofBool x0 ++ x1 ++ x2 ++ x3 ++ x4 ++ x5 ++ x6 : BitVec 32).getLsbD 31 = x0 := by
  rw [BitVec.getLsbD_append, if_neg (by decide),
    BitVec.getLsbD_append, if_neg (by decide),
    BitVec.getLsbD_append, if_neg (by decide),
    BitVec.getLsbD_append, if_neg (by decide),
    BitVec.getLsbD_append, if_neg (by decide),
    BitVec.getLsbD_append, if_neg (by decide)]
  simp

theorem l26_x22_3 (x0 : BitVec 1) (x1 : BitVec 6) (x2 : BitVec 3) (x3 : BitVec 6) (x4 : BitVec 5) (x5 : BitVec 5) (x6 : BitVec 6) :
    (x0 ++ x1 ++ x2 ++ x3 ++ x4 ++ x5 ++ x6 : BitVec 32).extractLsb' 22 3 = x2 := by
  rw [BitVec.extractLsb'_append_eq_of_le (by decide),
    BitVec.extractLsb'_append_eq_of_le (by decide),
    BitVec.extractLsb'_append_eq_of_le (by decide),
    BitVec.extractLsb'_append_eq_of_le (by decide),
    BitVec.extractLsb'_append_eq_of_add_le (by decide),
    BitVec.extractLsb'_eq_self]

theorem l26_x11_5 (x0 : BitVec 1) (x1 : BitVec 6) (x2 : BitVec 3) (x3 : BitVec 6) (x4 : BitVec 5) (x5 : BitVec 5) (x6 : BitVec 6) :
    (x0 ++ x1 ++ x2 ++ x3 ++ x4 ++ x5 ++ x6 : BitVec 32).extractLsb' 11 5 = x4 := by
  rw [BitVec.extractLsb'_append_eq_of_le (by decide),
    BitVec.extractLsb'_append_eq_of_le (by decide),
    BitVec.extractLsb'_append_eq_of_add_le (by decide),
    BitVec.extractLsb'_eq_self]

theorem l26_x0_6 (x0 : BitVec 1) (x1 : BitVec 6) (x2 : BitVec 3) (x3 : BitVec 6) (x4 : BitVec 5) (x5 : BitVec 5) (x6 : BitVec 6) :
    (x0 ++ x1 ++ x2 ++ x3 ++ x4 ++ x5 ++ x6 : BitVec 32).extractLsb' 0 6 = x6 := by
  rw [BitVec.extractLsb'_append_eq_of_add_le (by decide),
    BitVec.extractLsb'_eq_self]

theorem l27_x25_6 (x0 : BitVec 1) (x1 : BitVec 6) (x2 : BitVec 3) (x3 : BitVec 3) (x4 : BitVec 19) :
    (x0 ++ x1 ++ x2 ++ x3 ++ x4 : BitVec 32).extractLsb' 25 6 = x1 := by
  rw [BitVec.extractLsb'_append_eq_of_le (by decide),
    BitVec.extractLsb'_append_eq_of_le (by decide),
    BitVec.extractLsb'_append_eq_of_le (by decide),
    BitVec.extractLsb'_append_eq_of_add_le (by decide),
    BitVec.extractLsb'_eq_self]

theorem l27_x6_5 (x0 : BitVec 1) (x1 : BitVec 6) (x2 : BitVec 3) (x3 : BitVec 3) (x4 : BitVec 19) :
    (x0 ++ x1 ++ x2 ++ x3 ++ x4 : BitVec 32).extractLsb' 6 5 = x4.extractLsb' 6 5 := by
  rw [BitVec.extractLsb'_append_eq_of_add_le (by decide)]

theorem l27_and (x0 y0 : BitVec 1) (x1 y1 : BitVec 6) (x2 y2 : BitVec 3) (x3 y3 : BitVec 3) (x4 y4 : BitVec 19) :
    (x0 ++ x1 ++ x2 ++ x3 ++ x4 : BitVec 32) &&& (y0 ++ y1 ++ y2 ++ y3 ++ y4) =
      (x0 &&& y0) ++ (x1 &&& y1) ++ (x2 &&& y2) ++ (x3 &&& y3) ++ (x4 &&& y4) := by
  repeat rw [BitVec.and_append]

theorem l27_b31 (x0 : Bool) (x1 : BitVec 6) (x2 : BitVec 3) (x3 : BitVec 3) (x4 : BitVec 19) :
    (BitVec.ofBool x0 ++ x1 ++ x2 ++ x3 ++ x4 : BitVec 32).getLsbD 31 = x0 := by
  rw [BitVec.getLsbD_append, if_neg (by decide),
    BitVec.getLsbD_append, if_neg (by decide),
    BitVec.getLsbD_append, if_neg (by decide),
    BitVec.getLsbD_append, if_neg (by decide)]
  simp

theorem l27_x22_3 (x0 : BitVec 1) (x1 : BitVec 6) (x2 : BitVec 3) (x3 : BitVec 3) (x4 : BitVec 19) :
    (x0 ++ x1 ++ x2 ++ x3 ++ x4 : BitVec 32).extractLsb' 22 3 = x2 := by
  rw [BitVec.extractLsb'_append_eq_of_le (by decide),
    BitVec.extractLsb'_append_eq_of_le (by decide),
    BitVec.extractLsb'_append_eq_of_add_le (by decide),
    BitVec.extractLsb'_eq_self]

theorem l27_x19_3 (x0 : BitVec 1) (x1 : BitVec 6) (x2 : BitVec 3) (x3 : BitVec 3) (x4 : BitVec 19) :
    (x0 ++ x1 ++ x2 ++ x3 ++ x4 : BitVec 32).extractLsb' 19 3 = x3 := by
  rw [BitVec.extractLsb'_append_eq_of_le (by decide),
    BitVec.extractLsb'_append_eq_of_add_le (by decide),
    BitVec.extractLsb'_eq_self]

theorem l28_x25_6 (x0 : BitVec 1) (x1 : BitVec 6) (x2 : BitVec 3) (x3 : BitVec 3) (x4 : BitVec 3) (x5 : BitVec 16) :
    (x0 ++ x1 ++ x2 ++ x3 ++ x4 ++ x5 : BitVec 32).extractLsb' 25 6 = x1 := by
  rw [BitVec.extractLsb'_append_eq_of_le (by decide),
    BitVec.extractLsb'_append_eq_of_le (by decide),
    BitVec.extractLsb'_append_eq_of_le (by decide),
    BitVec.extractLsb'_append_eq_of_le (by decide),
    BitVec.extractLsb'_append_eq_of_add_le (by decide),
    BitVec.extractLsb'_eq_self]

theorem l28_x0_11 (x0 : BitVec 1) (x1 : BitVec 6) (x2 : BitVec 3) (x3 : BitVec 3) (x4 : BitVec 3) (x5 : BitVec 16) :
    (x0 ++ x1 ++ x2 ++ x3 ++ x4 ++ x5 : BitVec 32).extractLsb' 0 11 = x5.extractLsb' 0 11 := by
  rw [BitVec.extractLsb'_append_eq_of_add_le (by decide)]

theorem l28_and (x0 y0 : BitVec 1) (x1 y1 : BitVec 6) (x2 y2 : BitVec 3) (x3 y3 : BitVec 3) (x4 y4 : BitVec 3) (x5 y5 : BitVec 16) :
    (x0 ++ x1 ++ x2 ++ x3 ++ x4 ++ x5 : BitVec 32) &&& (y0 ++ y1 ++ y2 ++ y3 ++ y4 ++ y5) =
      (x0 &&& y0) ++ (x1 &&& y1) ++ (x2 &&& y2) ++ (x3 &&& y3) ++ (x4 &&& y4) ++ (x5 &&& y5) := by
  repeat rw [BitVec.and_append]

theorem l28_b31 (x0 : Bool) (x1 : BitVec 6) (x2 : BitVec 3) (x3 : BitVec 3) (x4 : BitVec 3) (x5 : BitVec 16) :
    (BitVec.ofBool x0 ++ x1 ++ x2 ++ x3 ++ x4 ++ x5 : BitVec 32).getLsbD 31 = x0 := by
  rw [BitVec.getLsbD_append, if_neg (by decide),
    BitVec.getLsbD_append, if_neg (by decide),
    BitVec.getLsbD_append, if_neg (by decide),
    BitVec.getLsbD_append, if_neg (by decide),
    BitVec.getLsbD_append, if_neg (by decide)]
  simp

theorem l28_x22_3 (x0 : BitVec 1) (x1 : BitVec 6) (x2 : BitVec 3) (x3 : BitVec 3) (x4 : BitVec 3) (x5 : BitVec 16) :
    (x0 ++ x1 ++ x2 ++ x3 ++ x4 ++ x5 : BitVec 32).extractLsb' 22 3 = x2 := by
  rw [BitVec.extractLsb'_append_eq_of_le (by decide),
    BitVec.extractLsb'_append_eq_of_le (by decide),
    BitVec.extractLsb'_append_eq_of_le (by decide),
    BitVec.extractLsb'_append_eq_of_add_le (by decide),
    BitVec.extractLsb'_eq_self]

theorem l28_x19_3 (x0 : BitVec 1) (x1 : BitVec 6) (x2 : BitVec 3) (x3 : BitVec 3) (x4 : BitVec 3) (x5 : BitVec 16) :
    (x0 ++ x1 ++ x2 ++ x3 ++ x4 ++ x5 : BitVec 32).extractLsb' 19 3 = x3 := by
  rw [BitVec.extractLsb'_append_eq_of_le (by decide),
    BitVec.extractLsb'_append_eq_of_le (by decide),
    BitVec.extractLsb'_append_eq_of_add_le (by decide),
    BitVec.extractLsb'_eq_self]

theorem l28_x16_3 (x0 : BitVec 1) (x1 : BitVec 6) (x2 : BitVec 3) (x3 : BitVec 3) (x4 : BitVec 3) (x5 : BitVec 16) :
    (x0 ++ x1 ++ x2 ++ x3 ++ x4 ++ x5 : BitVec 32).extractLsb' 16 3 = x4 := by
  rw [BitVec.extractLsb'_append_eq_of_le (by decide),
    BitVec.extractLsb'_append_eq_of_add_le (by decide),
    BitVec.extractLsb'_eq_self]

theorem l29_x25_6 (x0 : BitVec 1) (x1 : BitVec 6) (x2 : BitVec 3) (x3 : BitVec 3) (x4 : BitVec 3) (x5 : BitVec 5) (x6 : BitVec 11) :
    (x0 ++ x1 ++ x2 ++ x3 ++ x4 ++ x5 ++ x6 : BitVec 32).extractLsb' 25 6 = x1 := by
  rw [BitVec.extractLsb'_append_eq_of_le (by decide),
    BitVec.extractLsb'_append_eq_of_le (by decide),
    BitVec.extractLsb'_append_eq_of_le (by decide),
    BitVec.extractLsb'_append_eq_of_le (by decide),
    BitVec.extractLsb'_append_eq_of_le (by decide),
    BitVec.extractLsb'_append_eq_of_add_le (by decide),
    BitVec.extractLsb'_eq_self]

theorem l29_x0_11 (x0 : BitVec 1) (x1 : BitVec 6) (x2 : BitVec 3) (x3 : BitVec 3) (x4 : BitVec 3) (x5 : BitVec 5) (x6 : BitVec 11) :
    (x0 ++ x1 ++ x2 ++ x3 ++ x4 ++ x5 ++ x6 : BitVec 32).extractLsb' 0 11 = x6 := by
  rw [BitVec.extractLsb'_append_eq_of_add_le (by decide),
    BitVec.extractLsb'_eq_self]

theorem l29_b31 (x0 : Bool) (x1 : BitVec 6) (x2 : BitVec 3) (x3 : BitVec 3) (x4 : BitVec 3) (x5 : BitVec 5) (x6 : BitVec 11) :
    (BitVec.ofBool x0 ++ x1 ++ x2 ++ x3 ++ x4 ++ x5 ++ x6 : BitVec 32).getLsbD 31 = x0 := by
  rw [BitVec.getLsbD_append, if_neg (by decide),
    BitVec.getLsbD_append, if_neg (by decide),
    BitVec.getLsbD_append, if_neg (by decide),
    BitVec.getLsbD_append, if_neg (by decide),
    BitVec.getLsbD_append, if_neg (by decide),
    BitVec.getLsbD_append, if_neg (by decide)]
  simp

theorem l29_x22_3 (x0 : BitVec 1) (x1 : BitVec 6) (x2 : BitVec 3) (x3 : BitVec 3) (x4 : BitVec 3) (x5 : BitVec 5) (x6 : BitVec 11) :
    (x0 ++ x1 ++ x2 ++ x3 ++ x4 ++ x5 ++ x6 : BitVec 32).extractLsb' 22 3 = x2 := by
  rw [BitVec.extractLsb'_append_eq_of_le (by decide),
    BitVec.extractLsb'_append_eq_of_le (by decide),
    BitVec.extractLsb'_append_eq_of_le (by decide),
    BitVec.extractLsb'_append_eq_of_le (by decide),
    BitVec.extractLsb'_append_eq_of_add_le (by decide),
    BitVec.extractLsb'_eq_self]

theorem l29_x19_3 (x0 : BitVec 1) (x1 : BitVec 6) (x2 : BitVec 3) (x3 : BitVec 3) (x4 : BitVec 3) (x5 : BitVec 5) (x6 : BitVec 11) :
    (x0 ++ x1 ++ x2 ++ x3 ++ x4 ++ x5 ++ x6 : BitVec 32).extractLsb' 19 3 = x3 := by
  rw [BitVec.extractLsb'_append_eq_of_le (by decide),
    BitVec.extractLsb'_append_eq_of_le (by decide),
    BitVec.extractLsb'_append_eq_of_le (by decide),
    BitVec.extractLsb'_append_eq_of_add_le (by decide),
    BitVec.extractLsb'_eq_self]

theorem l29_x16_3 (x0 : BitVec 1) (x1 : BitVec 6) (x2 : BitVec 3) (x3 : BitVec 3) (x4 : BitVec 3) (x5 : BitVec 5) (x6 : BitVec 11) :
    (x0 ++ x1 ++ x2 ++ x3 ++ x4 ++ x5 ++ x6 : BitVec 32).extractLsb' 16 3 = x4 := by
  rw [BitVec.extractLsb'_append_eq_of_le (by decide),
    BitVec.extractLsb'_append_eq_of_le (by decide),
    BitVec.extractLsb'_append_eq_of_add_le (by decide),
    BitVec.extractLsb'_eq_self]

theorem l29_x11_5 (x0 : BitVec 1) (x1 : BitVec 6) (x2 : BitVec 3) (x3 : BitVec 3) (x4 : BitVec 3) (x5 : BitVec 5) (x6 : BitVec 11) :
    (x0 ++ x1 ++ x2 ++ x3 ++ x4 ++ x5 ++ x6 : BitVec 32).extractLsb' 11 5 = x5 := by
  rw [BitVec.extractLsb'_append_eq_of_le (by decide),
    BitVec.extractLsb'_append_eq_of_add_le (by decide),
    BitVec.extractLsb'_eq_self]

theorem l30_x25_6 (x0 : BitVec 1) (x1 : BitVec 6) (x2 : BitVec 10) (x3 : BitVec 5) (x4 : BitVec 10) :
    (x0 ++ x1 ++ x2 ++ x3 ++ x4 : BitVec 32).extractLsb' 25 6 = x1 := by
  rw [BitVec.extractLsb'_append_eq_of_le (by decide),
    BitVec.extractLsb'_append_eq_of_le (by decide),
    BitVec.extractLsb'_append_eq_of_le (by decide),
    BitVec.extractLsb'_append_eq_of_add_le (by decide),
    BitVec.extractLsb'_eq_self]

theorem l30_x0_10 (x0 : BitVec 1) (x1 : BitVec 6) (x2 : BitVec 10) (x3 : BitVec 5) (x4 : BitVec 10) :
    (x0 ++ x1 ++ x2 ++ x3 ++ x4 : BitVec 32).extractLsb' 0 10 = x4 := by
  rw [BitVec.extractLsb'_append_eq_of_add_le (by decide),
    BitVec.extractLsb'_eq_self]

theorem l30_and (x0 y0 : BitVec 1) (x1 y1 : BitVec 6) (x2 y2 : BitVec 10) (x3 y3 : BitVec 5) (x4 y4 : BitVec 10) :
    (x0 ++ x1 ++ x2 ++ x3 ++ x4 : BitVec 32) &&& (y0 ++ y1 ++ y2 ++ y3 ++ y4) =
      (x0 &&& y0) ++ (x1 &&& y1) ++ (x2 &&& y2) ++ (x3 &&& y3) ++ (x4 &&& y4) := by
  repeat rw [BitVec.and_append]

theorem l30_b31 (x0 : Bool) (x1 : BitVec 6) (x2 : BitVec 10) (x3 : BitVec 5) (x4 : BitVec 10) :
    (BitVec.ofBool x0 ++ x1 ++ x2 ++ x3 ++ x4 : BitVec 32).getLsbD 31 = x0 := by
  rw [BitVec.getLsbD_append, if_neg (by decide),
    BitVec.getLsbD_append, if_neg (by decide),
    BitVec.getLsbD_append, if_neg (by decide),
    BitVec.getLsbD_append, if_neg (by decide)]
  simp

theorem l30_x10_5 (x0 : BitVec 1) (x1 : BitVec 6) (x2 : BitVec 10) (x3 : BitVec 5) (x4 : BitVec 10) :
    (x0 ++ x1 ++ x2 ++ x3 ++ x4 : BitVec 32).extractLsb' 10 5 = x3 := by
  rw [BitVec.extractLsb'_append_eq_of_le (by decide),
    BitVec.extractLsb'_append_eq_of_add_le (by decide),
    BitVec.extractLsb'_eq_self]

theorem l31_x25_6 (x0 : BitVec 1) (x1 : BitVec 6) (x2 : BitVec 5) (x3 : BitVec 18) (x4 : BitVec 2) :
    (x0 ++ x1 ++ x2 ++ x3 ++ x4 : BitVec 32).extractLsb' 25 6 = x1 := by
  rw [BitVec.extractLsb'_append_eq_of_le (by decide),
    BitVec.extractLsb'_append_eq_of_le (by decide),
    BitVec.extractLsb'_append_eq_of_le (by decide),
    BitVec.extractLsb'_append_eq_of_add_le (by decide),
    BitVec.extractLsb'_eq_self]

theorem l31_x6_4 (x0 : BitVec 1) (x1 : BitVec 6) (x2 : BitVec 5) (x3 : BitVec 18) (x4 : BitVec 2) :
    (x0 ++ x1 ++ x2 ++ x3 ++ x4 : BitVec 32).extractLsb' 6 4 = x3.extractLsb' 4 4 := by
  rw [BitVec.extractLsb'_append_eq_of_le (by decide),
    BitVec.extractLsb'_append_eq_of_add_le (by decide)]

theorem l31_and (x0 y0 : BitVec 1) (x1 y1 : BitVec 6) (x2 y2 : BitVec 5) (x3 y3 : BitVec 18) (x4 y4 : BitVec 2) :
    (x0 ++ x1 ++ x2 ++ x3 ++ x4 : BitVec 32) &&& (y0 ++ y1 ++ y2 ++ y3 ++ y4) =
      (x0 &&& y0) ++ (x1 &&& y1) ++ (x2 &&& y2) ++ (x3 &&& y3) ++ (x4 &&& y4) := by
  repeat rw [BitVec.and_append]

theorem l31_b31 (x0 : Bool) (x1 : BitVec 6) (x2 : BitVec 5) (x3 : BitVec 18) (x4 : BitVec 2) :
    (BitVec.ofBool x0 ++ x1 ++ x2 ++ x3 ++ x4 : BitVec 32).getLsbD 31 = x0 := by
  rw [BitVec.getLsbD_append, if_neg (by decide),
    BitVec.getLsbD_append, if_neg (by decide),
    BitVec.getLsbD_append, if_neg (by decide),
    BitVec.getLsbD_append, if_neg (by decide)]
  simp

theorem l31_x20_5 (x0 : BitVec 1) (x1 : BitVec 6) (x2 : BitVec 5) (x3 : BitVec 18) (x4 : BitVec 2) :
    (x0 ++ x1 ++ x2 ++ x3 ++ x4 : BitVec 32).extractLsb' 20 5 = x2 := by
  rw [BitVec.extractLsb'_append_eq_of_le (by decide),
    BitVec.extractLsb'_append_eq_of_le (by decide),
    BitVec.extractLsb'_append_eq_of_add_le (by decide),
    BitVec.extractLsb'_eq_self]

theorem l31_x0_2 (x0 : BitVec 1) (x1 : BitVec 6) (x2 : BitVec 5) (x3 : BitVec 18) (x4 : BitVec 2) :
    (x0 ++ x1 ++ x2 ++ x3 ++ x4 : BitVec 32).extractLsb' 0 2 = x4 := by
  rw [BitVec.extractLsb'_append_eq_of_add_le (by decide),
    BitVec.extractLsb'_eq_self]

theorem l32_x25_6 (x0 : BitVec 1) (x1 : BitVec 6) (x2 : BitVec 5) (x3 : BitVec 14) (x4 : BitVec 6) :
    (x0 ++ x1 ++ x2 ++ x3 ++ x4 : BitVec 32).extractLsb' 25 6 = x1 := by
  rw [BitVec.extractLsb'_append_eq_of_le (by decide),
    BitVec.extractLsb'_append_eq_of_le (by decide),
    BitVec.extractLsb'_append_eq_of_le (by decide),
    BitVec.extractLsb'_append_eq_of_add_le (by decide),
    BitVec.extractLsb'_eq_self]

theorem l32_x6_4 (x0 : BitVec 1) (x1 : BitVec 6) (x2 : BitVec 5) (x3 : BitVec 14) (x4 : BitVec 6) :
    (x0 ++ x1 ++ x2 ++ x3 ++ x4 : BitVec 32).extractLsb' 6 4 = x3.extractLsb' 0 4 := by
  rw [BitVec.extractLsb'_append_eq_of_le (by decide),
    BitVec.extractLsb'_append_eq_of_add_le (by decide)]

theorem l32_and (x0 y0 : BitVec 1) (x1 y1 : BitVec 6) (x2 y2 : BitVec 5) (x3 y3 : BitVec 14) (x4 y4 : BitVec 6) :
    (x0 ++ x1 ++ x2 ++ x3 ++ x4 : BitVec 32) &&& (y0 ++ y1 ++ y2 ++ y3 ++ y4) =
      (x0 &&& y0) ++ (x1 &&& y1) ++ (x2 &&& y2) ++ (x3 &&& y3) ++ (x4 &&& y4) := by
  repeat rw [BitVec.and_append]

theorem l32_b31 (x0 : Bool) (x1 : BitVec 6) (x2 : BitVec 5) (x3 : BitVec 14) (x4 : BitVec 6) :
    (BitVec.ofBool x0 ++ x1 ++ x2 ++ x3 ++ x4 : BitVec 32).getLsbD 31 = x0 := by
  rw [BitVec.getLsbD_append, if_neg (by decide),
    BitVec.getLsbD_append, if_neg (by decide),
    BitVec.getLsbD_append, if_neg (by decide),
    BitVec.getLsbD_append, if_neg (by decide)]
  simp

theorem l32_x20_5 (x0 : BitVec 1) (x1 : BitVec 6) (x2 : BitVec 5) (x3 : BitVec 14) (x4 : BitVec 6) :
    (x0 ++ x1 ++ x2 ++ x3 ++ x4 : BitVec 32).extractLsb' 20 5 = x2 := by
  rw [BitVec.extractLsb'_append_eq_of_le (by decide),
    BitVec.extractLsb'_append_eq_of_le (by decide),
    BitVec.extractLsb'_append_eq_of_add_le (by decide),
    BitVec.extractLsb'_eq_self]

theorem l32_x0_6 (x0 : BitVec 1) (x1 : BitVec 6) (x2 : BitVec 5) (x3 : BitVec 14) (x4 : BitVec 6) :
    (x0 ++ x1 ++ x2 ++ x3 ++ x4 : BitVec 32).extractLsb' 0 6 = x4 := by
  rw [BitVec.extractLsb'_append_eq_of_add_le (by decide),
    BitVec.extractLsb'_eq_self]

end Layout

namespace Major

theorem m01 {w : BitVec 32} (h : w.extractLsb' 25 6 = 0x1#6) :
    decodeFields w = decodeAlu w := by
  rw [decodeFields, h]; rfl

theorem m02 {w : BitVec 32} (h : w.extractLsb' 25 6 = 0x2#6) :
    decodeFields w = .ok (.addi (w.getLsbD 31) (w.extractLsb' 20 5) (w.extractLsb' 15 5) (w.extractLsb' 0 15)) := by
  rw [decodeFields, h]; rfl

theorem m03 {w : BitVec 32} (h : w.extractLsb' 25 6 = 0x3#6) :
    decodeFields w = .ok (.andi (w.getLsbD 31) (w.extractLsb' 20 5) (w.extractLsb' 15 5) (w.extractLsb' 0 15)) := by
  rw [decodeFields, h]; rfl

theorem m04 {w : BitVec 32} (h : w.extractLsb' 25 6 = 0x4#6) :
    decodeFields w = .ok (.ori (w.getLsbD 31) (w.extractLsb' 20 5) (w.extractLsb' 15 5) (w.extractLsb' 0 15)) := by
  rw [decodeFields, h]; rfl

theorem m05 {w : BitVec 32} (h : w.extractLsb' 25 6 = 0x5#6) :
    decodeFields w = .ok (.xori (w.getLsbD 31) (w.extractLsb' 20 5) (w.extractLsb' 15 5) (w.extractLsb' 0 15)) := by
  rw [decodeFields, h]; rfl

theorem m06 {w : BitVec 32} (h : w.extractLsb' 25 6 = 0x6#6) :
    decodeFields w = decodeShiftImm w := by
  rw [decodeFields, h]; rfl

theorem m07 {w : BitVec 32} (h : w.extractLsb' 25 6 = 0x7#6) :
    decodeFields w = decodeSltImm w := by
  rw [decodeFields, h]; rfl

theorem m08 {w : BitVec 32} (h : w.extractLsb' 25 6 = 0x8#6) :
    decodeFields w = .ok (.lui (w.getLsbD 31) (w.extractLsb' 20 5) (w.extractLsb' 0 20)) := by
  rw [decodeFields, h]; rfl

theorem m09 {w : BitVec 32} (h : w.extractLsb' 25 6 = 0x9#6) :
    decodeFields w = .ok (.addpc (w.getLsbD 31) (w.extractLsb' 20 5) (w.extractLsb' 0 20)) := by
  rw [decodeFields, h]; rfl

theorem m0A {w : BitVec 32} (h : w.extractLsb' 25 6 = 0xA#6) :
    decodeFields w = decodeLoad w := by
  rw [decodeFields, h]; rfl

theorem m0B {w : BitVec 32} (h : w.extractLsb' 25 6 = 0xB#6) :
    decodeFields w = decodeStore w := by
  rw [decodeFields, h]; rfl

theorem m0C {w : BitVec 32} (h : w.extractLsb' 25 6 = 0xC#6) :
    decodeFields w = decodeOrdered w := by
  rw [decodeFields, h]; rfl

theorem m0D {w : BitVec 32} (h : w.extractLsb' 25 6 = 0xD#6) :
    decodeFields w = decodeAtomic w := by
  rw [decodeFields, h]; rfl

theorem m0E {w : BitVec 32} (h : w.extractLsb' 25 6 = 0xE#6) :
    decodeFields w = decodeFence w := by
  rw [decodeFields, h]; rfl

theorem m0F {w : BitVec 32} (h : w.extractLsb' 25 6 = 0xF#6) :
    decodeFields w = decodeBitfield w := by
  rw [decodeFields, h]; rfl

theorem m10 {w : BitVec 32} (h : w.extractLsb' 25 6 = 0x10#6) :
    decodeFields w = .ok (.beq (w.getLsbD 31) (w.extractLsb' 20 5) (w.extractLsb' 15 5) (w.extractLsb' 0 15)) := by
  rw [decodeFields, h]; rfl

theorem m11 {w : BitVec 32} (h : w.extractLsb' 25 6 = 0x11#6) :
    decodeFields w = .ok (.bne (w.getLsbD 31) (w.extractLsb' 20 5) (w.extractLsb' 15 5) (w.extractLsb' 0 15)) := by
  rw [decodeFields, h]; rfl

theorem m12 {w : BitVec 32} (h : w.extractLsb' 25 6 = 0x12#6) :
    decodeFields w = .ok (.blt (w.getLsbD 31) (w.extractLsb' 20 5) (w.extractLsb' 15 5) (w.extractLsb' 0 15)) := by
  rw [decodeFields, h]; rfl

theorem m13 {w : BitVec 32} (h : w.extractLsb' 25 6 = 0x13#6) :
    decodeFields w = .ok (.bge (w.getLsbD 31) (w.extractLsb' 20 5) (w.extractLsb' 15 5) (w.extractLsb' 0 15)) := by
  rw [decodeFields, h]; rfl

theorem m14 {w : BitVec 32} (h : w.extractLsb' 25 6 = 0x14#6) :
    decodeFields w = .ok (.bltu (w.getLsbD 31) (w.extractLsb' 20 5) (w.extractLsb' 15 5) (w.extractLsb' 0 15)) := by
  rw [decodeFields, h]; rfl

theorem m15 {w : BitVec 32} (h : w.extractLsb' 25 6 = 0x15#6) :
    decodeFields w = .ok (.bgeu (w.getLsbD 31) (w.extractLsb' 20 5) (w.extractLsb' 15 5) (w.extractLsb' 0 15)) := by
  rw [decodeFields, h]; rfl

theorem m16 {w : BitVec 32} (h : w.extractLsb' 25 6 = 0x16#6) :
    decodeFields w = .ok (.jal (w.getLsbD 31) (w.extractLsb' 0 25)) := by
  rw [decodeFields, h]; rfl

theorem m17 {w : BitVec 32} (h : w.extractLsb' 25 6 = 0x17#6) :
    decodeFields w = .ok (.jalr (w.getLsbD 31) (w.extractLsb' 20 5) (w.extractLsb' 15 5) (w.extractLsb' 0 15)) := by
  rw [decodeFields, h]; rfl

theorem m18 {w : BitVec 32} (h : w.extractLsb' 25 6 = 0x18#6) :
    decodeFields w = .ok (.subbr (w.getLsbD 31) (w.extractLsb' 20 5) (w.extractLsb' 15 5) (w.extractLsb' 0 15)) := by
  rw [decodeFields, h]; rfl

theorem m19 {w : BitVec 32} (h : w.extractLsb' 25 6 = 0x19#6) :
    decodeFields w = if w &&& 0x01FF83F0#32 = 0x00000000#32 then
      .ok (.loop (w.getLsbD 31) (w.extractLsb' 10 5) (w.extractLsb' 0 4))
    else .error .reservedField := by
  rw [decodeFields, h]; rfl

theorem m1A {w : BitVec 32} (h : w.extractLsb' 25 6 = 0x1A#6) :
    decodeFields w = decodeFpArith w := by
  rw [decodeFields, h]; rfl

theorem m1B {w : BitVec 32} (h : w.extractLsb' 25 6 = 0x1B#6) :
    decodeFields w = decodeFmaD w := by
  rw [decodeFields, h]; rfl

theorem m1C {w : BitVec 32} (h : w.extractLsb' 25 6 = 0x1C#6) :
    decodeFields w = decodeFmaS w := by
  rw [decodeFields, h]; rfl

theorem m1D {w : BitVec 32} (h : w.extractLsb' 25 6 = 0x1D#6) :
    decodeFields w = decodeFpConvert w := by
  rw [decodeFields, h]; rfl

theorem m20 {w : BitVec 32} (h : w.extractLsb' 25 6 = 0x20#6) :
    decodeFields w = decodeVInt w := by
  rw [decodeFields, h]; rfl

theorem m21 {w : BitVec 32} (h : w.extractLsb' 25 6 = 0x21#6) :
    decodeFields w = decodeVIntMisc w := by
  rw [decodeFields, h]; rfl

theorem m22 {w : BitVec 32} (h : w.extractLsb' 25 6 = 0x22#6) :
    decodeFields w = decodeVFp w := by
  rw [decodeFields, h]; rfl

theorem m23 {w : BitVec 32} (h : w.extractLsb' 25 6 = 0x23#6) :
    decodeFields w = decodeVConvert w := by
  rw [decodeFields, h]; rfl

theorem m24 {w : BitVec 32} (h : w.extractLsb' 25 6 = 0x24#6) :
    decodeFields w = decodeVFma w := by
  rw [decodeFields, h]; rfl

theorem m25 {w : BitVec 32} (h : w.extractLsb' 25 6 = 0x25#6) :
    decodeFields w = decodeVCompare w := by
  rw [decodeFields, h]; rfl

theorem m26 {w : BitVec 32} (h : w.extractLsb' 25 6 = 0x26#6) :
    decodeFields w = decodeVPermute w := by
  rw [decodeFields, h]; rfl

theorem m27 {w : BitVec 32} (h : w.extractLsb' 25 6 = 0x27#6) :
    decodeFields w = decodeVReduce w := by
  rw [decodeFields, h]; rfl

theorem m28 {w : BitVec 32} (h : w.extractLsb' 25 6 = 0x28#6) :
    decodeFields w = decodeMaskOp w := by
  rw [decodeFields, h]; rfl

theorem m29 {w : BitVec 32} (h : w.extractLsb' 25 6 = 0x29#6) :
    decodeFields w = decodeVLoad w := by
  rw [decodeFields, h]; rfl

theorem m2A {w : BitVec 32} (h : w.extractLsb' 25 6 = 0x2A#6) :
    decodeFields w = decodeVStore w := by
  rw [decodeFields, h]; rfl

theorem m2B {w : BitVec 32} (h : w.extractLsb' 25 6 = 0x2B#6) :
    decodeFields w = decodeLaneAtomic w := by
  rw [decodeFields, h]; rfl

theorem m2C {w : BitVec 32} (h : w.extractLsb' 25 6 = 0x2C#6) :
    decodeFields w = decodeVConfig w := by
  rw [decodeFields, h]; rfl

theorem m2D {w : BitVec 32} (h : w.extractLsb' 25 6 = 0x2D#6) :
    decodeFields w = decodeGeom w := by
  rw [decodeFields, h]; rfl

theorem m30 {w : BitVec 32} (h : w.extractLsb' 25 6 = 0x30#6) :
    decodeFields w = decodeTileControl w := by
  rw [decodeFields, h]; rfl

theorem m31 {w : BitVec 32} (h : w.extractLsb' 25 6 = 0x31#6) :
    decodeFields w = decodeTmma w := by
  rw [decodeFields, h]; rfl

theorem m32 {w : BitVec 32} (h : w.extractLsb' 25 6 = 0x32#6) :
    decodeFields w = decodeTileMem w := by
  rw [decodeFields, h]; rfl

theorem m33 {w : BitVec 32} (h : w.extractLsb' 25 6 = 0x33#6) :
    decodeFields w = decodeStream w := by
  rw [decodeFields, h]; rfl

theorem m34 {w : BitVec 32} (h : w.extractLsb' 25 6 = 0x34#6) :
    decodeFields w = decodeSync w := by
  rw [decodeFields, h]; rfl

theorem m35 {w : BitVec 32} (h : w.extractLsb' 25 6 = 0x35#6) :
    decodeFields w = decodeGang w := by
  rw [decodeFields, h]; rfl

theorem m36 {w : BitVec 32} (h : w.extractLsb' 25 6 = 0x36#6) :
    decodeFields w = decodeTask w := by
  rw [decodeFields, h]; rfl

theorem m37 {w : BitVec 32} (h : w.extractLsb' 25 6 = 0x37#6) :
    decodeFields w = decodeKernel w := by
  rw [decodeFields, h]; rfl

theorem m38 {w : BitVec 32} (h : w.extractLsb' 25 6 = 0x38#6) :
    decodeFields w = decodeSystem w := by
  rw [decodeFields, h]; rfl

theorem m39 {w : BitVec 32} (h : w.extractLsb' 25 6 = 0x39#6) :
    decodeFields w = decodeDeprecated w := by
  rw [decodeFields, h]; rfl

theorem m3C {w : BitVec 32} (h : w.extractLsb' 25 6 = 0x3C#6) :
    decodeFields w = .ok (decodeHint w) := by
  rw [decodeFields, h]; rfl

theorem m3D {w : BitVec 32} (h : w.extractLsb' 25 6 = 0x3D#6) :
    decodeFields w = .ok (.hintNop (w.getLsbD 31) (w.extractLsb' 0 31)) := by
  rw [decodeFields, h]; rfl

theorem m3E {w : BitVec 32} (h : w.extractLsb' 25 6 = 0x3E#6) :
    decodeFields w = .ok (.hintNop (w.getLsbD 31) (w.extractLsb' 0 31)) := by
  rw [decodeFields, h]; rfl

end Major

end Sys2Proof.Laws
end

