-- ==== Sys2Proof/Laws/Sparse.lean ====
section
/-! SUPPORT. Laws of tables, byte memories and sets: reading after writing, and that writes keep the
canonical form. -/

namespace Sys2Proof.Machine

variable {α : Type}

@[simp] theorem Sparse.find?_nil (k : Nat) : Sparse.find? k ([] : Sparse α) = none := rfl

@[simp] theorem Sparse.find?_set_self (k : Nat) (v : α) (m : Sparse α) : Sparse.find? k (Sparse.set k v m) = some v := by
  induction m with
  | nil => simp [Sparse.set, Sparse.find?]
  | cons e t ih =>
    obtain ⟨j, w⟩ := e
    simp only [Sparse.set]
    split
    · simp [Sparse.find?]
    · split
      · simp [Sparse.find?]
      · simp only [Sparse.find?]
        rw [if_neg (by omega), ih]

@[simp] theorem Sparse.find?_set_ne {k j : Nat} (h : k ≠ j) (v : α) (m : Sparse α) :
    Sparse.find? k (Sparse.set j v m) = Sparse.find? k m := by
  induction m with
  | nil => simp [Sparse.set, Sparse.find?, h.symm]
  | cons e t ih =>
    obtain ⟨i, w⟩ := e
    simp only [Sparse.set]
    split
    · simp [Sparse.find?, h.symm]
    · split
      · subst i
        simp [Sparse.find?, h.symm]
      · simp [Sparse.find?, ih]

@[simp] theorem Sparse.getD_set_self (m : Sparse α) (k : Nat) (v d : α) : Sparse.getD (Sparse.set k v m) k d = v := by
  simp [Sparse.getD]

@[simp] theorem Sparse.getD_set_ne {k j : Nat} (h : k ≠ j) (m : Sparse α) (v d : α) :
    Sparse.getD (Sparse.set j v m) k d = Sparse.getD m k d := by
  simp [Sparse.getD, h]

theorem Sparse.find?_filter (p : Nat → Bool) (k : Nat) (m : Sparse α) :
    Sparse.find? k (m.filter fun e => p e.1) = if p k then Sparse.find? k m else none := by
  induction m with
  | nil => simp [Sparse.find?]
  | cons e t ih =>
    obtain ⟨j, w⟩ := e
    by_cases hj : j = k
    · subst hj
      by_cases hp : p j <;> simp [hp, Sparse.find?, ih]
    · by_cases hp : p j <;> simp [hp, Sparse.find?, ih, hj]

@[simp] theorem Sparse.find?_erase_self (k : Nat) (m : Sparse α) : Sparse.find? k (Sparse.erase k m) = none := by
  have := Sparse.find?_filter (fun j => decide (j ≠ k)) k m
  simpa [Sparse.erase] using this

@[simp] theorem Sparse.find?_erase_ne {k j : Nat} (h : k ≠ j) (m : Sparse α) :
    Sparse.find? k (Sparse.erase j m) = Sparse.find? k m := by
  have := Sparse.find?_filter (fun i => decide (i ≠ j)) k m
  simpa [Sparse.erase, h] using this

/-! ### Sorted keys -/

theorem Sparse.sorted_iff (m : Sparse α) : Sparse.sorted m = true ↔ m.Pairwise (fun a b => a.1 < b.1) := by
  induction m with
  | nil => simp [Sparse.sorted]
  | cons e t ih =>
    cases t with
    | nil => simp [Sparse.sorted]
    | cons f u =>
      obtain ⟨j, w⟩ := e
      obtain ⟨k, x⟩ := f
      simp only [Sparse.sorted, Bool.and_eq_true, decide_eq_true_eq, ih, List.pairwise_cons, List.mem_cons]
      constructor
      · rintro ⟨h, hx, hu⟩
        refine ⟨?_, hx, hu⟩
        rintro a (rfl | ha)
        · exact h
        · exact Nat.lt_trans h (hx a ha)
      · rintro ⟨h, hx, hu⟩
        exact ⟨h (k, x) (.inl rfl), hx, hu⟩

theorem Sparse.mem_set {k : Nat} {v : α} {m : Sparse α} {e : Nat × α} (h : e ∈ Sparse.set k v m) : e = (k, v) ∨ e ∈ m := by
  induction m with
  | nil => simpa [Sparse.set] using h
  | cons f t ih =>
    obtain ⟨j, w⟩ := f
    simp only [Sparse.set] at h
    split at h
    · simpa using h
    · split at h
      · rcases List.mem_cons.1 h with h | h
        · exact .inl h
        · exact .inr (List.mem_cons_of_mem _ h)
      · rcases List.mem_cons.1 h with h | h
        · exact .inr (h ▸ List.mem_cons_self ..)
        · exact (ih h).imp_right (List.mem_cons_of_mem _)

theorem Sparse.sorted_set {k : Nat} {v : α} {m : Sparse α} (h : Sparse.sorted m = true) :
    Sparse.sorted (Sparse.set k v m) = true := by
  rw [Sparse.sorted_iff] at *
  induction m with
  | nil => simp [Sparse.set]
  | cons f t ih =>
    obtain ⟨j, w⟩ := f
    obtain ⟨h1, h2⟩ := List.pairwise_cons.1 h
    simp only [Sparse.set]
    split
    next hk =>
      refine List.pairwise_cons.2 ⟨?_, h⟩
      intro a ha
      rcases List.mem_cons.1 ha with rfl | ha
      · exact hk
      · exact Nat.lt_trans hk (h1 a ha)
    next hk =>
      split
      next hj => exact List.pairwise_cons.2 ⟨fun a ha => by rw [hj]; exact h1 a ha, h2⟩
      next hj =>
        refine List.pairwise_cons.2 ⟨?_, ih h2⟩
        intro a ha
        rcases Sparse.mem_set ha with rfl | ha
        · exact show j < k by omega
        · exact h1 a ha

theorem Sparse.sorted_erase {k : Nat} {m : Sparse α} (h : Sparse.sorted m = true) : Sparse.sorted (Sparse.erase k m) = true := by
  rw [Sparse.sorted_iff] at *
  exact h.filter _

/-! ### Byte memories -/

theorem Bytes.wf_iff (f : Nat → Byte) (m : Bytes) :
    Bytes.wf f m = true ↔ Sparse.sorted m = true ∧ ∀ e ∈ m, e.2 ≠ f e.1 := by
  simp [Bytes.wf]

@[simp] theorem Bytes.wf_nil (f : Nat → Byte) : Bytes.wf f [] = true := rfl

@[simp] theorem Bytes.get_nil (f : Nat → Byte) (a : Nat) : Bytes.get f [] a = f a := rfl

theorem Bytes.get_set_self (f : Nat → Byte) (a : Nat) (b : Byte) (m : Bytes) : Bytes.get f (Bytes.set f a b m) a = b := by
  unfold Bytes.set Bytes.get
  split
  next h => simp [Sparse.getD, h]
  next => simp

theorem Bytes.get_set_ne (f : Nat → Byte) {a c : Nat} (h : c ≠ a) (b : Byte) (m : Bytes) :
    Bytes.get f (Bytes.set f a b m) c = Bytes.get f m c := by
  unfold Bytes.set Bytes.get
  split
  · simp [Sparse.getD, h]
  · simp [h]

/-- A byte written keeps the canonical form. -/
theorem Bytes.wf_set {f : Nat → Byte} {m : Bytes} (h : Bytes.wf f m = true) (a : Nat) (b : Byte) :
    Bytes.wf f (Bytes.set f a b m) = true := by
  rw [Bytes.wf_iff] at *
  unfold Bytes.set
  split
  next hb =>
    refine ⟨Sparse.sorted_erase h.1, fun e he => h.2 e ?_⟩
    exact (List.mem_filter.1 he).1
  next hb =>
    refine ⟨Sparse.sorted_set h.1, fun e he => ?_⟩
    rcases Sparse.mem_set he with rfl | he
    · exact hb
    · exact h.2 e he

/-- A number written keeps the canonical form. -/
theorem Bytes.wf_write {f : Nat → Byte} (n : Nat) : ∀ {m : Bytes} (_ : Bytes.wf f m = true) (a v : Nat),
    Bytes.wf f (Bytes.write f a n v m) = true := by
  induction n with
  | zero => intro m h a v; exact h
  | succ n ih => intro m h a v; exact ih (Bytes.wf_set h a _) (a + 1) (v / 256)

/-- Outside the bytes written, memory reads as before. -/
theorem Bytes.get_write_out (f : Nat → Byte) (n : Nat) : ∀ (m : Bytes) (a v c : Nat), (c < a ∨ a + n ≤ c) →
    Bytes.get f (Bytes.write f a n v m) c = Bytes.get f m c := by
  induction n with
  | zero => intros; rfl
  | succ n ih =>
    intro m a v c h
    rw [Bytes.write, ih _ _ _ _ (by omega), Bytes.get_set_ne f (by omega)]

/-- Byte `i` of a number written little-endian (R5). -/
theorem Bytes.get_write_in (f : Nat → Byte) (n : Nat) : ∀ (m : Bytes) (a v i : Nat), i < n →
    Bytes.get f (Bytes.write f a n v m) (a + i) = BitVec.ofNat 8 (v / 256 ^ i) := by
  induction n with
  | zero => intro m a v i h; omega
  | succ n ih =>
    intro m a v i h
    rw [Bytes.write]
    cases i with
    | zero => rw [Bytes.get_write_out f n _ _ _ _ (by omega), Nat.add_zero, Bytes.get_set_self]; simp
    | succ i =>
      rw [show a + (i + 1) = a + 1 + i by omega, ih _ _ _ _ (by omega), Nat.div_div_eq_div_mul, Nat.pow_succ']

/-- A number written reads back. -/
theorem Bytes.read_congr (f : Nat → Byte) (n : Nat) : ∀ (m m' : Bytes) (a : Nat),
    (∀ i, i < n → Bytes.get f m (a + i) = Bytes.get f m' (a + i)) → Bytes.read f m a n = Bytes.read f m' a n := by
  induction n with
  | zero => intros; rfl
  | succ n ih =>
    intro m m' a h
    have h0 := h 0 (by omega)
    rw [Nat.add_zero] at h0
    rw [Bytes.read, Bytes.read, h0, ih m m' (a + 1) fun i hi => by
      have := h (i + 1) (by omega)
      rwa [show a + (i + 1) = a + 1 + i by omega] at this]

theorem Bytes.read_write (f : Nat → Byte) (n : Nat) : ∀ (m : Bytes) (a v : Nat),
    Bytes.read f (Bytes.write f a n v m) a n = v % 256 ^ n := by
  induction n with
  | zero => intro m a v; simp [Bytes.read, Nat.mod_one]
  | succ n ih =>
    intro m a v
    rw [Bytes.read, Bytes.write, ih, Bytes.get_write_out f n _ _ _ _ (by omega), Bytes.get_set_self]
    have h : v % (256 * 256 ^ n) = v % 256 + 256 * (v / 256 % 256 ^ n) := Nat.mod_mul
    rw [BitVec.toNat_ofNat, show 256 ^ (n + 1) = 256 * 256 ^ n from Nat.pow_succ', h]

/-! ### Sets -/

theorem NatSet.has_add (k j : Nat) (m : NatSet) : NatSet.has (NatSet.add k m) j = (decide (j = k) || NatSet.has m j) := by
  induction m with
  | nil => simp [NatSet.add, NatSet.has, eq_comm]
  | cons i t ih =>
    simp only [NatSet.add]
    split
    · simp [NatSet.has]
    · split
      next h => subst h; by_cases hj : j = k <;> simp [NatSet.has, hj]
      next h =>
        simp only [NatSet.has, List.elem_eq_contains, List.contains_cons] at ih ⊢
        rw [ih]
        cases (decide (j = k)) <;> simp

@[simp] theorem NatSet.has_del (k j : Nat) (m : NatSet) : NatSet.has (NatSet.del k m) j = (decide (j ≠ k) && NatSet.has m j) := by
  induction m with
  | nil => simp [NatSet.del, NatSet.has]
  | cons i t ih =>
    simp only [NatSet.has, NatSet.del, List.elem_eq_contains] at ih ⊢
    by_cases hi : i = k
    · subst hi
      simp only [ne_eq, not_true_eq_false, decide_false, Bool.false_eq_true, not_false_eq_true, List.filter_cons_of_neg, ih,
        List.contains_cons]
      by_cases hj : j = i <;> simp [hj]
    · simp only [ne_eq, hi, not_false_eq_true, decide_true, List.filter_cons_of_pos, List.contains_cons, ih]
      by_cases hj : j = i
      · subst hj; simp [hi]
      · simp only [beq_eq_false_iff_ne.2 hj, Bool.false_or, ne_eq]

end Sys2Proof.Machine
end

