-- ==== Sys2Proof/Laws/Memory.lean ====
section
/-! SUPPORT. Every operation that writes memory, DRAM, a pool or the host's memory keeps it in its
canonical form. -/

namespace Sys2Proof.Machine

/-! ### Whole ranges -/

/-- Bytes past a bound keep the form. -/
theorem Bytes.wf_filter {f : Nat → Byte} {m : Bytes} (h : Bytes.wf f m = true) (p : Nat × Byte → Bool) :
    Bytes.wf f (m.filter p) = true := by
  rw [Bytes.wf_iff, Sparse.sorted_iff] at *
  exact ⟨h.1.filter _, fun e he => h.2 e (List.mem_filter.1 he).1⟩

/-- Entries made from rising numbers rise. -/
theorem pairwise_filterMap_range (n a : Nat) (g : Nat → Option (Nat × Byte)) (hg : ∀ i e, g i = some e → e.1 = a + i) :
    ((List.range n).filterMap g).Pairwise fun x y => x.1 < y.1 := by
  rw [List.pairwise_filterMap]
  refine List.pairwise_lt_range.imp ?_
  intro i j hij e he e' he'
  rw [hg i e he, hg j e' he']
  omega

/-- A range replaced keeps the form. -/
theorem Bytes.wf_splice {f : Nat → Byte} {m : Bytes} (h : Bytes.wf f m = true) (a n : Nat) (g : Nat → Byte) :
    Bytes.wf f (Bytes.splice f a n g m) = true := by
  rw [Bytes.wf_iff, Sparse.sorted_iff] at *
  have key : ∀ i e, (if g i = f (a + i) then none else some (a + i, g i)) = some e → e.1 = a + i ∧ e.2 = g i ∧ g i ≠ f (a + i) := by
    intro i e he
    split at he
    · cases he
    · cases he; exact ⟨rfl, rfl, ‹_›⟩
  constructor
  · unfold Bytes.splice
    rw [List.append_assoc, List.pairwise_append, List.pairwise_append]
    refine ⟨h.1.filter _, ⟨pairwise_filterMap_range n a _ fun i e he => (key i e he).1, h.1.filter _, ?_⟩, ?_⟩
    · intro x hx y hy
      obtain ⟨i, hi, hx⟩ := List.mem_filterMap.1 hx
      have := (key i x hx).1
      have := List.mem_range.1 hi
      have := (List.mem_filter.1 hy).2
      simp only [decide_eq_true_eq] at this
      omega
    · intro x hx y hy
      have hxa := (List.mem_filter.1 hx).2
      simp only [decide_eq_true_eq] at hxa
      rcases List.mem_append.1 hy with hy | hy
      · obtain ⟨i, hi, hy⟩ := List.mem_filterMap.1 hy
        have := (key i y hy).1
        omega
      · have := (List.mem_filter.1 hy).2
        simp only [decide_eq_true_eq] at this
        omega
  · intro e he
    unfold Bytes.splice at he
    rcases List.mem_append.1 he with he | he
    · rcases List.mem_append.1 he with he | he
      · exact h.2 e (List.mem_filter.1 he).1
      · obtain ⟨i, hi, hx⟩ := List.mem_filterMap.1 he
        obtain ⟨h1, h2, h3⟩ := key i e hx
        rw [h1, h2]
        exact h3
    · exact h.2 e (List.mem_filter.1 he).1

/-! ### Memory and DRAM -/

/-- Memory and DRAM are canonical. -/
def State.Canonical (s : State) : Prop := Bytes.wf romByte s.mem = true ∧ Bytes.wf romByte s.dram = true

/-- A change of other pieces keeps the form. -/
theorem State.Canonical.congr {s t : State} (h : s.Canonical) (hm : t.mem = s.mem) (hd : t.dram = s.dram) : t.Canonical := by
  unfold State.Canonical at *
  rw [hm, hd]
  exact h

theorem State.canonical_reset : State.reset.Canonical := ⟨rfl, rfl⟩

/-- A log entry is no write of memory. -/
@[simp] theorem State.bumpDev_mem (s : State) (o lo n : Nat) : (s.bumpDev o lo n).mem = s.mem := rfl
@[simp] theorem State.bumpDev_dram (s : State) (o lo n : Nat) : (s.bumpDev o lo n).dram = s.dram := rfl

theorem State.logShift_frame (s : State) (f head k : Nat) :
    (s.logShift f head k).mem = s.mem ∧ (s.logShift f head k).dram = s.dram ∧ (s.logShift f head k).threads = s.threads := by
  have key : ∀ (l : List Nat) (t : State), t.mem = s.mem ∧ t.dram = s.dram ∧ t.threads = s.threads →
      let u := l.foldl (fun (s : State) j =>
        let a := blockReg f (0x1_0000 + 16 * ((head + 1023 - j) % 1024))
        let b := blockReg f (0x1_0000 + 16 * ((head + 1024 - j) % 1024))
        (s.setDev b (s.dev a)).setDev (b + 8) (s.dev (a + 8))) t
      u.mem = s.mem ∧ u.dram = s.dram ∧ u.threads = s.threads := by
    intro l
    induction l with
    | nil => exact fun t h => h
    | cons j l ih => exact fun t h => ih _ h
  exact key _ s ⟨rfl, rfl, rfl⟩

@[simp] theorem State.logShift_mem (s : State) (f head k : Nat) : (s.logShift f head k).mem = s.mem := (s.logShift_frame f head k).1
@[simp] theorem State.logShift_dram (s : State) (f head k : Nat) : (s.logShift f head k).dram = s.dram := (s.logShift_frame f head k).2.1

/-- Registers, log counters and interrupts are no memory. -/
theorem State.setDev_mems (s : State) (o : Nat) (v : Word) : (s.setDev o v).mem = s.mem ∧ (s.setDev o v).dram = s.dram := ⟨rfl, rfl⟩
theorem State.bumpDev_mems (s : State) (o lo n : Nat) : (s.bumpDev o lo n).mem = s.mem ∧ (s.bumpDev o lo n).dram = s.dram := ⟨rfl, rfl⟩
theorem State.notePost_mems (s : State) (f : Nat) : (s.notePost f).mem = s.mem ∧ (s.notePost f).dram = s.dram := ⟨rfl, rfl⟩
theorem State.machineCheck_mems (s : State) (f : Nat) : (s.machineCheck f).mem = s.mem ∧ (s.machineCheck f).dram = s.dram := ⟨rfl, rfl⟩
theorem State.advisory_mems (s : State) (f : Nat) : (s.advisory f).mem = s.mem ∧ (s.advisory f).dram = s.dram := ⟨rfl, rfl⟩

theorem State.postLog_mems (s : State) (f sev : Nat) (hi lo : Word) :
    (s.postLog f sev hi lo).mem = s.mem ∧ (s.postLog f sev hi lo).dram = s.dram := by
  unfold State.postLog
  dsimp only
  repeat' split
  all_goals
    simp only [(State.setDev_mems ..).1, (State.setDev_mems ..).2, (State.bumpDev_mems ..).1, (State.bumpDev_mems ..).2,
      (State.notePost_mems ..).1, (State.notePost_mems ..).2, (State.machineCheck_mems ..).1, (State.machineCheck_mems ..).2,
      (State.advisory_mems ..).1, (State.advisory_mems ..).2, State.logShift_mem, State.logShift_dram, and_self]

@[simp] theorem State.postLog_mem (s : State) (f sev : Nat) (hi lo : Word) : (s.postLog f sev hi lo).mem = s.mem := (s.postLog_mems ..).1
@[simp] theorem State.postLog_dram (s : State) (f sev : Nat) (hi lo : Word) : (s.postLog f sev hi lo).dram = s.dram := (s.postLog_mems ..).2

/-- A fold of steps that keep the form keeps it. -/
theorem State.Canonical.foldl {α : Type} {f : State → α → State} (hf : ∀ s a, s.Canonical → (f s a).Canonical) :
    ∀ (l : List α) {s : State}, s.Canonical → (l.foldl f s).Canonical
  | [], _, h => h
  | a :: l, _, h => State.Canonical.foldl hf l (hf _ a h)

/-- Bytes put one by one keep the form. -/
theorem Bytes.wf_foldl_set {f : Nat → Byte} (p : Nat → Bool) (a : Nat) (g : Nat → Byte) :
    ∀ (l : List Nat) {m : Bytes}, Bytes.wf f m = true →
      Bytes.wf f (l.foldl (fun m i => if p i then Bytes.set f (a + i) (g i) m else m) m) = true
  | [], _, h => h
  | i :: l, m, h => by
    refine Bytes.wf_foldl_set p a g l ?_
    dsimp only
    split
    · exact Bytes.wf_set h _ _
    · exact h

theorem State.Canonical.putLine {s : State} (h : s.Canonical) (line : Nat) (data : BitVec 1024) (mask : BitVec 128) :
    (s.putLine line data mask).Canonical :=
  ⟨Bytes.wf_foldl_set _ _ _ _ h.1, h.2⟩

theorem State.Canonical.postLog {s : State} (h : s.Canonical) (f sev : Nat) (hi lo : Word) : (s.postLog f sev hi lo).Canonical :=
  h.congr (by simp) (by simp)
theorem State.Canonical.logLine {s : State} (h : s.Canonical) (line sev src : Nat) : (s.logLine line sev src).Canonical := h.postLog ..
theorem State.Canonical.logRow {s : State} (h : s.Canonical) (f sev src pch bank row : Nat) :
    (s.logRow f sev src pch bank row).Canonical := h.postLog ..

theorem State.Canonical.startRemap {s : State} (h : s.Canonical) (f pch bank row : Nat) : (s.startRemap f pch bank row).Canonical := by
  unfold State.startRemap
  dsimp only
  repeat' split
  · exact h
  · exact h.logRow ..
  · exact h.congr rfl rfl

theorem State.Canonical.correctedRow {s : State} (h : s.Canonical) (line src : Nat) : (s.correctedRow line src).Canonical := by
  have h1 : ∀ f g, ((s.updBlock f g).logLine line 0 src).Canonical := fun f g => (h.congr rfl rfl : (s.updBlock f g).Canonical).logLine ..
  unfold State.correctedRow
  dsimp only
  split
  · exact (h1 _ _).startRemap ..
  · exact h1 _ _

theorem State.Canonical.fencePch {s : State} (h : s.Canonical) (f pch : Nat) : (s.fencePch f pch).Canonical :=
  (h.congr rfl rfl : (s.updBlock f _).Canonical).postLog ..

theorem State.Canonical.badRemap {s : State} (h : s.Canonical) (f : Nat) (r : Remap) : (State.badRemap f s r).Canonical := by
  unfold State.badRemap
  repeat' split
  · exact h
  · exact h
  · exact h.fencePch ..
  · exact (h.congr rfl rfl : (State.bumpDev (s.updBlock _ _) _ _ _).Canonical).logRow ..

theorem State.Canonical.rowLookup {s : State} (h : s.Canonical) (line : Nat) : (s.rowLookup line).Canonical :=
  State.Canonical.foldl (fun _ _ h => h.badRemap ..) _ h

theorem State.Canonical.dramFind {s : State} (h : s.Canonical) (line src : Nat) : (s.dramFind line src).Canonical := by
  have h0 := h.rowLookup line
  unfold State.dramFind
  dsimp only
  repeat' split
  · exact h
  · exact h0
  · exact h0.congr rfl rfl
  · exact State.Canonical.logLine (s := { (s.rowLookup line).updBlock _ _ with mpoison := _ }) (h0.congr rfl rfl) ..
  · exact State.Canonical.correctedRow (s := (s.rowLookup line).updBlock _ _) (h0.congr rfl rfl) ..
  · exact h0

theorem State.Canonical.dramWrite {s : State} (h : s.Canonical) (line : Nat) (d : BitVec 1024) : (s.dramWrite line d).Canonical := by
  have key : ∀ t : State, t.Canonical →
      (if t.fencedLine line then t.logLine line 1 0
        else
          let u : State := { t with dram := Bytes.splice romByte (line * 128) 128 (byteOf d) t.dram }
          if u.blocks.isEmpty then u
          else u.updBlock (blockOf line).1 fun b => { b with errs := Sparse.erase line b.errs }).Canonical := by
    intro t ht
    have hs : ({ t with dram := Bytes.splice romByte (line * 128) 128 (byteOf d) t.dram } : State).Canonical :=
      ⟨ht.1, Bytes.wf_splice ht.2 ..⟩
    split
    · exact ht.logLine ..
    · dsimp only
      split
      · exact hs
      · exact hs.congr rfl rfl
  unfold State.dramWrite
  refine key _ ?_
  split
  · exact h
  · exact h.rowLookup _

/-! ### The memory-side cache and a home -/

theorem State.Canonical.mscPoison {s : State} (h : s.Canonical) (line : Nat) : (s.mscPoison line).Canonical :=
  State.Canonical.logLine (s := { s with mpoison := NatSet.add line s.mpoison }) (h.congr rfl rfl) line 1 1

theorem State.Canonical.mscEvict {s : State} (h : s.Canonical) (line : Nat) : (s.mscEvict line).Canonical := by
  unfold State.mscEvict
  dsimp only
  repeat' split
  · exact (State.Canonical.mscPoison (s := s.setMsc line _) (h.congr rfl rfl) line).dramWrite ..
  · exact State.Canonical.dramWrite (s := s.setMsc line _) (h.congr rfl rfl) ..
  · exact h.congr rfl rfl
  · exact h

theorem State.Canonical.mscPut {s : State} (h : s.Canonical) (m : MscLine) : (s.mscPut m).Canonical := by
  have key : ∀ t : State, t.Canonical → ∀ l k, (t.setMsc l k).Canonical := fun t ht l k => ht.congr rfl rfl
  unfold State.mscPut
  dsimp only
  repeat' split
  all_goals first | exact key _ h _ _ | exact key _ (h.mscEvict _) _ _

theorem State.Canonical.mscFill {s : State} (h : s.Canonical) (line : Nat) : (s.mscFill line).Canonical := (h.dramFind line 0).mscPut _

theorem State.Canonical.mscCheck {s : State} (h : s.Canonical) (m : MscLine) : (s.mscCheck m).Canonical := by
  unfold State.mscCheck
  repeat' split
  · exact (h.mscPut _).mscPoison _
  · exact (State.Canonical.logLine (s := s.setMsc m.line _) (h.congr rfl rfl) m.line 0 1).mscFill _
  · exact h.mscPut _
  · exact h

theorem State.Canonical.homeTouch {s : State} (h : s.Canonical) (line : Nat) : (s.homeTouch line).Canonical := by
  unfold State.homeTouch
  repeat' split
  · exact h.dramFind ..
  · exact h.mscCheck _
  · exact h.mscFill _

theorem State.Canonical.homePoison {s : State} (h : s.Canonical) (line : Nat) : (s.homePoison line).2.Canonical := by
  unfold State.homePoison
  split
  · exact (h.congr rfl rfl : (s.bumpDev _ _ _).Canonical).homeTouch line
  · exact h.homeTouch line

theorem State.Canonical.homeDirty {s : State} (h : s.Canonical) (line : Nat) : (s.homeDirty line).Canonical := by
  unfold State.homeDirty
  split
  · exact h.dramWrite ..
  · exact h.mscPut _

/-- A write at the home. -/
theorem State.Canonical.homeStore {s : State} (h : s.Canonical) (line : Nat) (data : BitVec 1024) (mask : BitVec 128) (pois : Bool) :
    (s.homeStore line data mask pois).Canonical := by
  have key : ∀ (t : State) p, t.Canonical → ({ t.putLine line data mask with mpoison := p } : State).Canonical :=
    fun t p ht => (ht.putLine line data mask).congr rfl rfl
  unfold State.homeStore
  split
  · exact h.logLine ..
  · refine State.Canonical.homeDirty (key _ _ ?_) line
    split
    · exact h
    · exact h.homeTouch line

/-- A slice's data comes back to the home. -/
theorem State.Canonical.homeTake {s : State} (h : s.Canonical) (line : Nat) (pois : Bool) : (s.homeTake line pois).Canonical := h.homeStore ..

/-- A write by a unit of the module. -/
theorem State.Canonical.coherentStore {s : State} (h : s.Canonical) (line : Nat) (data : BitVec 1024) (mask : BitVec 128) (pois : Bool) :
    (s.coherentStore line data mask pois).Canonical := by
  unfold State.coherentStore
  split
  · exact (h.putLine line data mask).congr rfl rfl
  · exact h.homeStore ..

theorem State.Canonical.memPut {s : State} (h : s.Canonical) (pa n v : Nat) (pois : Bool) : (s.memPut pa n v pois).Canonical := by
  unfold State.memPut
  split
  · exact h
  · exact State.Canonical.foldl (fun _ _ h => h.coherentStore ..) _ h

theorem State.Canonical.memWrite {s : State} (h : s.Canonical) (pa n v : Nat) : (s.memWrite pa n v).Canonical := h.memPut ..

theorem State.Canonical.loadImage {s : State} (h : s.Canonical) : s.loadImage.Canonical :=
  ⟨Bytes.wf_splice h.1 .., Bytes.wf_splice h.2 ..⟩

theorem State.Canonical.withFetchWord {s : State} (h : s.Canonical) (nbits w : Nat) : (s.withFetchWord nbits w).Canonical :=
  ⟨Bytes.wf_write 4 h.1 _ _, h.2⟩

/-! ### The coherent side of a store -/

/-- A flit that joins a router is no write of memory. -/
@[simp] theorem State.addFlit_mem (s : State) (r : Nat) (f : Flit) : (s.addFlit r f).mem = s.mem := rfl
@[simp] theorem State.addFlit_dram (s : State) (r : Nat) (f : Flit) : (s.addFlit r f).dram = s.dram := rfl

@[simp] theorem State.sendPkt_mem (s : State) (p : Pkt) : (s.sendPkt p).mem = s.mem := by
  unfold State.sendPkt; dsimp only; split <;> rfl
@[simp] theorem State.sendPkt_dram (s : State) (p : Pkt) : (s.sendPkt p).dram = s.dram := by
  unfold State.sendPkt; dsimp only; split <;> rfl

theorem State.Canonical.sendPkt {s : State} (h : s.Canonical) (p : Pkt) : (s.sendPkt p).Canonical := h.congr (by simp) (by simp)
theorem State.Canonical.sendCoh {s : State} (h : s.Canonical) (op : CohOp) (line comb req : Nat) (pois : Bool) :
    (s.sendCoh op line comb req pois).Canonical := h.sendPkt _
theorem State.Canonical.sendNc {s : State} (h : s.Canonical) (comb : Nat) (op : CohOp) (line : Nat) (pois : Bool) (o : NcOp) :
    (s.sendNc comb op line pois o).Canonical :=
  State.Canonical.sendPkt (s := { s with nextTag := s.nextTag + 1 }) (h.congr rfl rfl) _

theorem State.Canonical.setSlice {s : State} (h : s.Canonical) (comb line : Nat) (l : SliceLine) : (s.setSlice comb line l).Canonical :=
  h.congr rfl rfl

theorem State.Canonical.evictSlice {s : State} (h : s.Canonical) (comb line : Nat) : (s.evictSlice comb line).Canonical := by
  unfold State.evictSlice
  dsimp only
  split <;> first | exact h | exact h.setSlice .. | exact (h.setSlice ..).sendCoh ..

theorem State.Canonical.sliceRoom {s : State} (h : s.Canonical) (comb line : Nat) : (s.sliceRoom comb line).1.Canonical := by
  unfold State.sliceRoom
  dsimp only
  split
  · exact h
  · split
    · exact h.evictSlice ..
    · exact h

theorem State.Canonical.allocLine {s : State} (h : s.Canonical) (comb line : Nat) (op : CohOp) (st : Moesi) :
    (s.allocLine comb line op st).Canonical := by
  unfold State.allocLine
  dsimp only
  repeat' split
  · exact h
  · exact ((h.sliceRoom comb line).setSlice ..).sendCoh ..
  · exact h.sliceRoom comb line

theorem State.Canonical.localRead {s : State} (h : s.Canonical) (comb line : Nat) : (s.localRead comb line).Canonical := by
  unfold State.localRead
  split
  · exact h.allocLine ..
  · exact h

theorem State.Canonical.localWrite {s : State} (h : s.Canonical) (comb line : Nat) : (s.localWrite comb line).Canonical := by
  unfold State.localWrite
  dsimp only
  repeat' split
  all_goals first | exact h.allocLine .. | exact h | exact h.setSlice .. | exact (h.setSlice ..).sendCoh ..

/-- A write in a slice that owns the line. -/
theorem State.Canonical.sliceStore {s : State} (h : s.Canonical) (comb line : Nat) (data : BitVec 1024) (mask : BitVec 128) (pois : Bool) :
    (s.sliceStore comb line data mask pois).Canonical := (h.putLine line data mask).setSlice ..

theorem State.Canonical.performAccepted {s : State} (h : s.Canonical) (comb line : Nat) : (s.performAccepted comb line).Canonical :=
  State.Canonical.foldl (fun _ _ h => h.sliceStore ..) _ (h.congr rfl rfl)

theorem State.Canonical.accept {s : State} (h : s.Canonical) (a : Accepted) : (s.accept a).Canonical := by
  unfold State.accept
  split
  · exact h.sliceStore ..
  · exact State.Canonical.localWrite (s := { s with accepted := s.accepted ++ [a] }) (h.congr rfl rfl) ..

theorem State.Canonical.orPte {s : State} (h : s.Canonical) (comb addr : Nat) (m : Word) : (s.orPte comb addr m).Canonical := by
  unfold State.orPte
  split
  · exact h
  · exact h.sendNc ..

theorem State.Canonical.hostDrain {s : State} (h : s.Canonical) (w : Wcb) : (s.hostDrain w).Canonical := by
  unfold State.hostDrain
  dsimp only
  split
  · exact h
  · refine State.Canonical.foldl ?_ _ h
    intro s i h
    split
    · exact h.congr rfl rfl
    · exact h

theorem State.Canonical.drainEntry {s : State} (h : s.Canonical) (c : Nat) (w : Wcb) : (State.drainEntry c s w).Canonical := by
  unfold State.drainEntry
  repeat' split
  · exact h.accept _
  · exact h.hostDrain _
  · exact h.sendNc ..

theorem State.Canonical.drainFirst {s : State} (h : s.Canonical) (c k : Nat) : (s.drainFirst c k).Canonical :=
  State.Canonical.foldl (fun _ w h => h.drainEntry c w) _ (h.congr rfl rfl)

theorem State.Canonical.drainAll {s : State} (h : s.Canonical) (c : Nat) : (s.drainAll c).Canonical := h.drainFirst c _
theorem State.Canonical.drainTo {s : State} (h : s.Canonical) (c : Nat) (p : Wcb → Bool) : (s.drainTo c p).Canonical := h.drainFirst c _
theorem State.Canonical.drainLine {s : State} (h : s.Canonical) (c line : Nat) : (s.drainLine c line).Canonical := h.drainTo c _
theorem State.Canonical.drainNc {s : State} (h : s.Canonical) (c : Nat) : (s.drainNc c).Canonical := h.drainTo c _

/-! ### Pools and the host's memory -/

/-- Pool writes keep the pool's form. -/
theorem State.poolWrite_wf {s : State} {c : Nat} (h : Bytes.wf zeroByte (s.cell c).pool = true) (o n v : Nat) :
    Bytes.wf zeroByte ((s.poolWrite c o n v).cell c).pool = true := by
  have : ((s.poolWrite c o n v).cell c).pool = Bytes.write zeroByte o n v (s.cell c).pool := by
    simp [State.poolWrite, State.updCellAt, State.setCell, State.cell]
  rw [this]
  exact Bytes.wf_write n h o v

/-- What a launch keeps of a pool keeps the form. -/
theorem State.loadCell_wf {s : State} {c : Nat} (h : Bytes.wf zeroByte (s.cell c).pool = true) (g : Nat) (w : Word) :
    Bytes.wf zeroByte ((s.loadCell c g w).cell c).pool = true := by
  have : ((s.loadCell c g w).cell c).pool = (s.cell c).pool.filter fun e => decide (poolSup ≤ e.1) := by
    simp [State.loadCell, State.updCellAt, State.setCell, State.cell]
  rw [this]
  exact Bytes.wf_filter h _

/-- A number put into the host's memory keeps its form. -/
theorem hostMem_wf {m : Bytes} (h : Bytes.wf zeroByte m = true) (a n v : Nat) : Bytes.wf zeroByte (Bytes.write zeroByte a n v m) = true :=
  Bytes.wf_write n h a v

end Sys2Proof.Machine
end

