-- ==== Sys2Proof/Laws/State.lean ====
section
/-! SUPPORT. What each update of the state leaves of each field. -/

namespace Sys2Proof.Machine

@[simp] theorem State.setThread_cells (s : State) (k : Nat) (t : Thread) : (s.setThread k t).cells = s.cells := rfl
@[simp] theorem State.setThread_cur (s : State) (k : Nat) (t : Thread) : (s.setThread k t).cur = s.cur := rfl
@[simp] theorem State.setThread_mem (s : State) (k : Nat) (t : Thread) : (s.setThread k t).mem = s.mem := rfl
@[simp] theorem State.setThread_dram (s : State) (k : Nat) (t : Thread) : (s.setThread k t).dram = s.dram := rfl
@[simp] theorem State.setThread_mpoison (s : State) (k : Nat) (t : Thread) : (s.setThread k t).mpoison = s.mpoison := rfl
@[simp] theorem State.setThread_msc (s : State) (k : Nat) (t : Thread) : (s.setThread k t).msc = s.msc := rfl
@[simp] theorem State.setThread_farBuf (s : State) (k : Nat) (t : Thread) : (s.setThread k t).farBuf = s.farBuf := rfl
@[simp] theorem State.setThread_regs (s : State) (k : Nat) (t : Thread) : (s.setThread k t).regs = s.regs := rfl
@[simp] theorem State.setThread_hostMem (s : State) (k : Nat) (t : Thread) : (s.setThread k t).hostMem = s.hostMem := rfl
@[simp] theorem State.setThread_hostPois (s : State) (k : Nat) (t : Thread) : (s.setThread k t).hostPois = s.hostPois := rfl
@[simp] theorem State.setThread_hostData (s : State) (k : Nat) (t : Thread) : (s.setThread k t).hostData = s.hostData := rfl
@[simp] theorem State.setThread_hostq (s : State) (k : Nat) (t : Thread) : (s.setThread k t).hostq = s.hostq := rfl
@[simp] theorem State.setThread_posts (s : State) (k : Nat) (t : Thread) : (s.setThread k t).posts = s.posts := rfl
@[simp] theorem State.setThread_report (s : State) (k : Nat) (t : Thread) : (s.setThread k t).report = s.report := rfl
@[simp] theorem State.setThread_msix (s : State) (k : Nat) (t : Thread) : (s.setThread k t).msix = s.msix := rfl
@[simp] theorem State.setThread_msixTab (s : State) (k : Nat) (t : Thread) : (s.setThread k t).msixTab = s.msixTab := rfl
@[simp] theorem State.setThread_fuses (s : State) (k : Nat) (t : Thread) : (s.setThread k t).fuses = s.fuses := rfl
@[simp] theorem State.setThread_slices (s : State) (k : Nat) (t : Thread) : (s.setThread k t).slices = s.slices := rfl
@[simp] theorem State.setThread_accepted (s : State) (k : Nat) (t : Thread) : (s.setThread k t).accepted = s.accepted := rfl
@[simp] theorem State.setThread_dir (s : State) (k : Nat) (t : Thread) : (s.setThread k t).dir = s.dir := rfl
@[simp] theorem State.setThread_homes (s : State) (k : Nat) (t : Thread) : (s.setThread k t).homes = s.homes := rfl
@[simp] theorem State.setThread_nextTag (s : State) (k : Nat) (t : Thread) : (s.setThread k t).nextTag = s.nextTag := rfl
@[simp] theorem State.setThread_nextFlit (s : State) (k : Nat) (t : Thread) : (s.setThread k t).nextFlit = s.nextFlit := rfl
@[simp] theorem State.setThread_net (s : State) (k : Nat) (t : Thread) : (s.setThread k t).net = s.net := rfl
@[simp] theorem State.setThread_msgs (s : State) (k : Nat) (t : Thread) : (s.setThread k t).msgs = s.msgs := rfl
@[simp] theorem State.setThread_fences (s : State) (k : Nat) (t : Thread) : (s.setThread k t).fences = s.fences := rfl
@[simp] theorem State.setThread_pageRels (s : State) (k : Nat) (t : Thread) : (s.setThread k t).pageRels = s.pageRels := rfl
@[simp] theorem State.setThread_combTlb (s : State) (k : Nat) (t : Thread) : (s.setThread k t).combTlb = s.combTlb := rfl
@[simp] theorem State.setThread_replays (s : State) (k : Nat) (t : Thread) : (s.setThread k t).replays = s.replays := rfl
@[simp] theorem State.setThread_flits (s : State) (k : Nat) (t : Thread) : (s.setThread k t).flits = s.flits := rfl
@[simp] theorem State.setThread_castBuf (s : State) (k : Nat) (t : Thread) : (s.setThread k t).castBuf = s.castBuf := rfl
@[simp] theorem State.setThread_outs (s : State) (k : Nat) (t : Thread) : (s.setThread k t).outs = s.outs := rfl
@[simp] theorem State.setThread_hiveOut (s : State) (k : Nat) (t : Thread) : (s.setThread k t).hiveOut = s.hiveOut := rfl
@[simp] theorem State.setThread_hiveReqs (s : State) (k : Nat) (t : Thread) : (s.setThread k t).hiveReqs = s.hiveReqs := rfl
@[simp] theorem State.setThread_spreads (s : State) (k : Nat) (t : Thread) : (s.setThread k t).spreads = s.spreads := rfl
@[simp] theorem State.setThread_queues (s : State) (k : Nat) (t : Thread) : (s.setThread k t).queues = s.queues := rfl
@[simp] theorem State.setThread_headSince (s : State) (k : Nat) (t : Thread) : (s.setThread k t).headSince = s.headSince := rfl
@[simp] theorem State.setThread_gangs (s : State) (k : Nat) (t : Thread) : (s.setThread k t).gangs = s.gangs := rfl
@[simp] theorem State.setThread_nextGang (s : State) (k : Nat) (t : Thread) : (s.setThread k t).nextGang = s.nextGang := rfl
@[simp] theorem State.setThread_gbars (s : State) (k : Nat) (t : Thread) : (s.setThread k t).gbars = s.gbars := rfl
@[simp] theorem State.setThread_stopped (s : State) (k : Nat) (t : Thread) : (s.setThread k t).stopped = s.stopped := rfl
@[simp] theorem State.setThread_depcnt (s : State) (k : Nat) (t : Thread) : (s.setThread k t).depcnt = s.depcnt := rfl
@[simp] theorem State.setThread_burmeal (s : State) (k : Nat) (t : Thread) : (s.setThread k t).burmeal = s.burmeal := rfl
@[simp] theorem State.setThread_ctrs (s : State) (k : Nat) (t : Thread) : (s.setThread k t).ctrs = s.ctrs := rfl
@[simp] theorem State.setThread_ready (s : State) (k : Nat) (t : Thread) : (s.setThread k t).ready = s.ready := rfl
@[simp] theorem State.setThread_pops (s : State) (k : Nat) (t : Thread) : (s.setThread k t).pops = s.pops := rfl
@[simp] theorem State.setThread_blocks (s : State) (k : Nat) (t : Thread) : (s.setThread k t).blocks = s.blocks := rfl
@[simp] theorem State.setThread_logged (s : State) (k : Nat) (t : Thread) : (s.setThread k t).logged = s.logged := rfl
@[simp] theorem State.setThread_pwrlim (s : State) (k : Nat) (t : Thread) : (s.setThread k t).pwrlim = s.pwrlim := rfl
@[simp] theorem State.setThread_boot (s : State) (k : Nat) (t : Thread) : (s.setThread k t).boot = s.boot := rfl
@[simp] theorem State.setThread_cycle (s : State) (k : Nat) (t : Thread) : (s.setThread k t).cycle = s.cycle := rfl
@[simp] theorem State.setThread_frozen (s : State) (k : Nat) (t : Thread) : (s.setThread k t).frozen = s.frozen := rfl
@[simp] theorem State.setThread_ahead (s : State) (k : Nat) (t : Thread) : (s.setThread k t).ahead = s.ahead := rfl
@[simp] theorem State.setThread_apart (s : State) (k : Nat) (t : Thread) : (s.setThread k t).apart = s.apart := rfl
@[simp] theorem State.setThread_phase (s : State) (k : Nat) (t : Thread) : (s.setThread k t).phase = s.phase := rfl
@[simp] theorem State.setThread_agenda (s : State) (k : Nat) (t : Thread) : (s.setThread k t).agenda = s.agenda := rfl
@[simp] theorem State.setThread_free (s : State) (k : Nat) (t : Thread) : (s.setThread k t).free = s.free := rfl

@[simp] theorem State.setThr_cells (s : State) (t : Thread) : (s.setThr t).cells = s.cells := rfl
@[simp] theorem State.setThr_cur (s : State) (t : Thread) : (s.setThr t).cur = s.cur := rfl
@[simp] theorem State.setThr_mem (s : State) (t : Thread) : (s.setThr t).mem = s.mem := rfl
@[simp] theorem State.setThr_dram (s : State) (t : Thread) : (s.setThr t).dram = s.dram := rfl
@[simp] theorem State.setThr_mpoison (s : State) (t : Thread) : (s.setThr t).mpoison = s.mpoison := rfl
@[simp] theorem State.setThr_msc (s : State) (t : Thread) : (s.setThr t).msc = s.msc := rfl
@[simp] theorem State.setThr_farBuf (s : State) (t : Thread) : (s.setThr t).farBuf = s.farBuf := rfl
@[simp] theorem State.setThr_regs (s : State) (t : Thread) : (s.setThr t).regs = s.regs := rfl
@[simp] theorem State.setThr_hostMem (s : State) (t : Thread) : (s.setThr t).hostMem = s.hostMem := rfl
@[simp] theorem State.setThr_hostPois (s : State) (t : Thread) : (s.setThr t).hostPois = s.hostPois := rfl
@[simp] theorem State.setThr_hostData (s : State) (t : Thread) : (s.setThr t).hostData = s.hostData := rfl
@[simp] theorem State.setThr_hostq (s : State) (t : Thread) : (s.setThr t).hostq = s.hostq := rfl
@[simp] theorem State.setThr_posts (s : State) (t : Thread) : (s.setThr t).posts = s.posts := rfl
@[simp] theorem State.setThr_report (s : State) (t : Thread) : (s.setThr t).report = s.report := rfl
@[simp] theorem State.setThr_msix (s : State) (t : Thread) : (s.setThr t).msix = s.msix := rfl
@[simp] theorem State.setThr_msixTab (s : State) (t : Thread) : (s.setThr t).msixTab = s.msixTab := rfl
@[simp] theorem State.setThr_fuses (s : State) (t : Thread) : (s.setThr t).fuses = s.fuses := rfl
@[simp] theorem State.setThr_slices (s : State) (t : Thread) : (s.setThr t).slices = s.slices := rfl
@[simp] theorem State.setThr_accepted (s : State) (t : Thread) : (s.setThr t).accepted = s.accepted := rfl
@[simp] theorem State.setThr_dir (s : State) (t : Thread) : (s.setThr t).dir = s.dir := rfl
@[simp] theorem State.setThr_homes (s : State) (t : Thread) : (s.setThr t).homes = s.homes := rfl
@[simp] theorem State.setThr_nextTag (s : State) (t : Thread) : (s.setThr t).nextTag = s.nextTag := rfl
@[simp] theorem State.setThr_nextFlit (s : State) (t : Thread) : (s.setThr t).nextFlit = s.nextFlit := rfl
@[simp] theorem State.setThr_net (s : State) (t : Thread) : (s.setThr t).net = s.net := rfl
@[simp] theorem State.setThr_msgs (s : State) (t : Thread) : (s.setThr t).msgs = s.msgs := rfl
@[simp] theorem State.setThr_fences (s : State) (t : Thread) : (s.setThr t).fences = s.fences := rfl
@[simp] theorem State.setThr_pageRels (s : State) (t : Thread) : (s.setThr t).pageRels = s.pageRels := rfl
@[simp] theorem State.setThr_combTlb (s : State) (t : Thread) : (s.setThr t).combTlb = s.combTlb := rfl
@[simp] theorem State.setThr_replays (s : State) (t : Thread) : (s.setThr t).replays = s.replays := rfl
@[simp] theorem State.setThr_flits (s : State) (t : Thread) : (s.setThr t).flits = s.flits := rfl
@[simp] theorem State.setThr_castBuf (s : State) (t : Thread) : (s.setThr t).castBuf = s.castBuf := rfl
@[simp] theorem State.setThr_outs (s : State) (t : Thread) : (s.setThr t).outs = s.outs := rfl
@[simp] theorem State.setThr_hiveOut (s : State) (t : Thread) : (s.setThr t).hiveOut = s.hiveOut := rfl
@[simp] theorem State.setThr_hiveReqs (s : State) (t : Thread) : (s.setThr t).hiveReqs = s.hiveReqs := rfl
@[simp] theorem State.setThr_spreads (s : State) (t : Thread) : (s.setThr t).spreads = s.spreads := rfl
@[simp] theorem State.setThr_queues (s : State) (t : Thread) : (s.setThr t).queues = s.queues := rfl
@[simp] theorem State.setThr_headSince (s : State) (t : Thread) : (s.setThr t).headSince = s.headSince := rfl
@[simp] theorem State.setThr_gangs (s : State) (t : Thread) : (s.setThr t).gangs = s.gangs := rfl
@[simp] theorem State.setThr_nextGang (s : State) (t : Thread) : (s.setThr t).nextGang = s.nextGang := rfl
@[simp] theorem State.setThr_gbars (s : State) (t : Thread) : (s.setThr t).gbars = s.gbars := rfl
@[simp] theorem State.setThr_stopped (s : State) (t : Thread) : (s.setThr t).stopped = s.stopped := rfl
@[simp] theorem State.setThr_depcnt (s : State) (t : Thread) : (s.setThr t).depcnt = s.depcnt := rfl
@[simp] theorem State.setThr_burmeal (s : State) (t : Thread) : (s.setThr t).burmeal = s.burmeal := rfl
@[simp] theorem State.setThr_ctrs (s : State) (t : Thread) : (s.setThr t).ctrs = s.ctrs := rfl
@[simp] theorem State.setThr_ready (s : State) (t : Thread) : (s.setThr t).ready = s.ready := rfl
@[simp] theorem State.setThr_pops (s : State) (t : Thread) : (s.setThr t).pops = s.pops := rfl
@[simp] theorem State.setThr_blocks (s : State) (t : Thread) : (s.setThr t).blocks = s.blocks := rfl
@[simp] theorem State.setThr_logged (s : State) (t : Thread) : (s.setThr t).logged = s.logged := rfl
@[simp] theorem State.setThr_pwrlim (s : State) (t : Thread) : (s.setThr t).pwrlim = s.pwrlim := rfl
@[simp] theorem State.setThr_boot (s : State) (t : Thread) : (s.setThr t).boot = s.boot := rfl
@[simp] theorem State.setThr_cycle (s : State) (t : Thread) : (s.setThr t).cycle = s.cycle := rfl
@[simp] theorem State.setThr_frozen (s : State) (t : Thread) : (s.setThr t).frozen = s.frozen := rfl
@[simp] theorem State.setThr_ahead (s : State) (t : Thread) : (s.setThr t).ahead = s.ahead := rfl
@[simp] theorem State.setThr_apart (s : State) (t : Thread) : (s.setThr t).apart = s.apart := rfl
@[simp] theorem State.setThr_phase (s : State) (t : Thread) : (s.setThr t).phase = s.phase := rfl
@[simp] theorem State.setThr_agenda (s : State) (t : Thread) : (s.setThr t).agenda = s.agenda := rfl
@[simp] theorem State.setThr_free (s : State) (t : Thread) : (s.setThr t).free = s.free := rfl

@[simp] theorem State.upd_cells (s : State) (f : Thread → Thread) : (s.upd f).cells = s.cells := rfl
@[simp] theorem State.upd_cur (s : State) (f : Thread → Thread) : (s.upd f).cur = s.cur := rfl
@[simp] theorem State.upd_mem (s : State) (f : Thread → Thread) : (s.upd f).mem = s.mem := rfl
@[simp] theorem State.upd_dram (s : State) (f : Thread → Thread) : (s.upd f).dram = s.dram := rfl
@[simp] theorem State.upd_mpoison (s : State) (f : Thread → Thread) : (s.upd f).mpoison = s.mpoison := rfl
@[simp] theorem State.upd_msc (s : State) (f : Thread → Thread) : (s.upd f).msc = s.msc := rfl
@[simp] theorem State.upd_farBuf (s : State) (f : Thread → Thread) : (s.upd f).farBuf = s.farBuf := rfl
@[simp] theorem State.upd_regs (s : State) (f : Thread → Thread) : (s.upd f).regs = s.regs := rfl
@[simp] theorem State.upd_hostMem (s : State) (f : Thread → Thread) : (s.upd f).hostMem = s.hostMem := rfl
@[simp] theorem State.upd_hostPois (s : State) (f : Thread → Thread) : (s.upd f).hostPois = s.hostPois := rfl
@[simp] theorem State.upd_hostData (s : State) (f : Thread → Thread) : (s.upd f).hostData = s.hostData := rfl
@[simp] theorem State.upd_hostq (s : State) (f : Thread → Thread) : (s.upd f).hostq = s.hostq := rfl
@[simp] theorem State.upd_posts (s : State) (f : Thread → Thread) : (s.upd f).posts = s.posts := rfl
@[simp] theorem State.upd_report (s : State) (f : Thread → Thread) : (s.upd f).report = s.report := rfl
@[simp] theorem State.upd_msix (s : State) (f : Thread → Thread) : (s.upd f).msix = s.msix := rfl
@[simp] theorem State.upd_msixTab (s : State) (f : Thread → Thread) : (s.upd f).msixTab = s.msixTab := rfl
@[simp] theorem State.upd_fuses (s : State) (f : Thread → Thread) : (s.upd f).fuses = s.fuses := rfl
@[simp] theorem State.upd_slices (s : State) (f : Thread → Thread) : (s.upd f).slices = s.slices := rfl
@[simp] theorem State.upd_accepted (s : State) (f : Thread → Thread) : (s.upd f).accepted = s.accepted := rfl
@[simp] theorem State.upd_dir (s : State) (f : Thread → Thread) : (s.upd f).dir = s.dir := rfl
@[simp] theorem State.upd_homes (s : State) (f : Thread → Thread) : (s.upd f).homes = s.homes := rfl
@[simp] theorem State.upd_nextTag (s : State) (f : Thread → Thread) : (s.upd f).nextTag = s.nextTag := rfl
@[simp] theorem State.upd_nextFlit (s : State) (f : Thread → Thread) : (s.upd f).nextFlit = s.nextFlit := rfl
@[simp] theorem State.upd_net (s : State) (f : Thread → Thread) : (s.upd f).net = s.net := rfl
@[simp] theorem State.upd_msgs (s : State) (f : Thread → Thread) : (s.upd f).msgs = s.msgs := rfl
@[simp] theorem State.upd_fences (s : State) (f : Thread → Thread) : (s.upd f).fences = s.fences := rfl
@[simp] theorem State.upd_pageRels (s : State) (f : Thread → Thread) : (s.upd f).pageRels = s.pageRels := rfl
@[simp] theorem State.upd_combTlb (s : State) (f : Thread → Thread) : (s.upd f).combTlb = s.combTlb := rfl
@[simp] theorem State.upd_replays (s : State) (f : Thread → Thread) : (s.upd f).replays = s.replays := rfl
@[simp] theorem State.upd_flits (s : State) (f : Thread → Thread) : (s.upd f).flits = s.flits := rfl
@[simp] theorem State.upd_castBuf (s : State) (f : Thread → Thread) : (s.upd f).castBuf = s.castBuf := rfl
@[simp] theorem State.upd_outs (s : State) (f : Thread → Thread) : (s.upd f).outs = s.outs := rfl
@[simp] theorem State.upd_hiveOut (s : State) (f : Thread → Thread) : (s.upd f).hiveOut = s.hiveOut := rfl
@[simp] theorem State.upd_hiveReqs (s : State) (f : Thread → Thread) : (s.upd f).hiveReqs = s.hiveReqs := rfl
@[simp] theorem State.upd_spreads (s : State) (f : Thread → Thread) : (s.upd f).spreads = s.spreads := rfl
@[simp] theorem State.upd_queues (s : State) (f : Thread → Thread) : (s.upd f).queues = s.queues := rfl
@[simp] theorem State.upd_headSince (s : State) (f : Thread → Thread) : (s.upd f).headSince = s.headSince := rfl
@[simp] theorem State.upd_gangs (s : State) (f : Thread → Thread) : (s.upd f).gangs = s.gangs := rfl
@[simp] theorem State.upd_nextGang (s : State) (f : Thread → Thread) : (s.upd f).nextGang = s.nextGang := rfl
@[simp] theorem State.upd_gbars (s : State) (f : Thread → Thread) : (s.upd f).gbars = s.gbars := rfl
@[simp] theorem State.upd_stopped (s : State) (f : Thread → Thread) : (s.upd f).stopped = s.stopped := rfl
@[simp] theorem State.upd_depcnt (s : State) (f : Thread → Thread) : (s.upd f).depcnt = s.depcnt := rfl
@[simp] theorem State.upd_burmeal (s : State) (f : Thread → Thread) : (s.upd f).burmeal = s.burmeal := rfl
@[simp] theorem State.upd_ctrs (s : State) (f : Thread → Thread) : (s.upd f).ctrs = s.ctrs := rfl
@[simp] theorem State.upd_ready (s : State) (f : Thread → Thread) : (s.upd f).ready = s.ready := rfl
@[simp] theorem State.upd_pops (s : State) (f : Thread → Thread) : (s.upd f).pops = s.pops := rfl
@[simp] theorem State.upd_blocks (s : State) (f : Thread → Thread) : (s.upd f).blocks = s.blocks := rfl
@[simp] theorem State.upd_logged (s : State) (f : Thread → Thread) : (s.upd f).logged = s.logged := rfl
@[simp] theorem State.upd_pwrlim (s : State) (f : Thread → Thread) : (s.upd f).pwrlim = s.pwrlim := rfl
@[simp] theorem State.upd_boot (s : State) (f : Thread → Thread) : (s.upd f).boot = s.boot := rfl
@[simp] theorem State.upd_cycle (s : State) (f : Thread → Thread) : (s.upd f).cycle = s.cycle := rfl
@[simp] theorem State.upd_frozen (s : State) (f : Thread → Thread) : (s.upd f).frozen = s.frozen := rfl
@[simp] theorem State.upd_ahead (s : State) (f : Thread → Thread) : (s.upd f).ahead = s.ahead := rfl
@[simp] theorem State.upd_apart (s : State) (f : Thread → Thread) : (s.upd f).apart = s.apart := rfl
@[simp] theorem State.upd_phase (s : State) (f : Thread → Thread) : (s.upd f).phase = s.phase := rfl
@[simp] theorem State.upd_agenda (s : State) (f : Thread → Thread) : (s.upd f).agenda = s.agenda := rfl
@[simp] theorem State.upd_free (s : State) (f : Thread → Thread) : (s.upd f).free = s.free := rfl

@[simp] theorem State.updThread_cells (s : State) (k : Nat) (f : Thread → Thread) : (s.updThread k f).cells = s.cells := rfl
@[simp] theorem State.updThread_cur (s : State) (k : Nat) (f : Thread → Thread) : (s.updThread k f).cur = s.cur := rfl
@[simp] theorem State.updThread_mem (s : State) (k : Nat) (f : Thread → Thread) : (s.updThread k f).mem = s.mem := rfl
@[simp] theorem State.updThread_dram (s : State) (k : Nat) (f : Thread → Thread) : (s.updThread k f).dram = s.dram := rfl
@[simp] theorem State.updThread_mpoison (s : State) (k : Nat) (f : Thread → Thread) : (s.updThread k f).mpoison = s.mpoison := rfl
@[simp] theorem State.updThread_msc (s : State) (k : Nat) (f : Thread → Thread) : (s.updThread k f).msc = s.msc := rfl
@[simp] theorem State.updThread_farBuf (s : State) (k : Nat) (f : Thread → Thread) : (s.updThread k f).farBuf = s.farBuf := rfl
@[simp] theorem State.updThread_regs (s : State) (k : Nat) (f : Thread → Thread) : (s.updThread k f).regs = s.regs := rfl
@[simp] theorem State.updThread_hostMem (s : State) (k : Nat) (f : Thread → Thread) : (s.updThread k f).hostMem = s.hostMem := rfl
@[simp] theorem State.updThread_hostPois (s : State) (k : Nat) (f : Thread → Thread) : (s.updThread k f).hostPois = s.hostPois := rfl
@[simp] theorem State.updThread_hostData (s : State) (k : Nat) (f : Thread → Thread) : (s.updThread k f).hostData = s.hostData := rfl
@[simp] theorem State.updThread_hostq (s : State) (k : Nat) (f : Thread → Thread) : (s.updThread k f).hostq = s.hostq := rfl
@[simp] theorem State.updThread_posts (s : State) (k : Nat) (f : Thread → Thread) : (s.updThread k f).posts = s.posts := rfl
@[simp] theorem State.updThread_report (s : State) (k : Nat) (f : Thread → Thread) : (s.updThread k f).report = s.report := rfl
@[simp] theorem State.updThread_msix (s : State) (k : Nat) (f : Thread → Thread) : (s.updThread k f).msix = s.msix := rfl
@[simp] theorem State.updThread_msixTab (s : State) (k : Nat) (f : Thread → Thread) : (s.updThread k f).msixTab = s.msixTab := rfl
@[simp] theorem State.updThread_fuses (s : State) (k : Nat) (f : Thread → Thread) : (s.updThread k f).fuses = s.fuses := rfl
@[simp] theorem State.updThread_slices (s : State) (k : Nat) (f : Thread → Thread) : (s.updThread k f).slices = s.slices := rfl
@[simp] theorem State.updThread_accepted (s : State) (k : Nat) (f : Thread → Thread) : (s.updThread k f).accepted = s.accepted := rfl
@[simp] theorem State.updThread_dir (s : State) (k : Nat) (f : Thread → Thread) : (s.updThread k f).dir = s.dir := rfl
@[simp] theorem State.updThread_homes (s : State) (k : Nat) (f : Thread → Thread) : (s.updThread k f).homes = s.homes := rfl
@[simp] theorem State.updThread_nextTag (s : State) (k : Nat) (f : Thread → Thread) : (s.updThread k f).nextTag = s.nextTag := rfl
@[simp] theorem State.updThread_nextFlit (s : State) (k : Nat) (f : Thread → Thread) : (s.updThread k f).nextFlit = s.nextFlit := rfl
@[simp] theorem State.updThread_net (s : State) (k : Nat) (f : Thread → Thread) : (s.updThread k f).net = s.net := rfl
@[simp] theorem State.updThread_msgs (s : State) (k : Nat) (f : Thread → Thread) : (s.updThread k f).msgs = s.msgs := rfl
@[simp] theorem State.updThread_fences (s : State) (k : Nat) (f : Thread → Thread) : (s.updThread k f).fences = s.fences := rfl
@[simp] theorem State.updThread_pageRels (s : State) (k : Nat) (f : Thread → Thread) : (s.updThread k f).pageRels = s.pageRels := rfl
@[simp] theorem State.updThread_combTlb (s : State) (k : Nat) (f : Thread → Thread) : (s.updThread k f).combTlb = s.combTlb := rfl
@[simp] theorem State.updThread_replays (s : State) (k : Nat) (f : Thread → Thread) : (s.updThread k f).replays = s.replays := rfl
@[simp] theorem State.updThread_flits (s : State) (k : Nat) (f : Thread → Thread) : (s.updThread k f).flits = s.flits := rfl
@[simp] theorem State.updThread_castBuf (s : State) (k : Nat) (f : Thread → Thread) : (s.updThread k f).castBuf = s.castBuf := rfl
@[simp] theorem State.updThread_outs (s : State) (k : Nat) (f : Thread → Thread) : (s.updThread k f).outs = s.outs := rfl
@[simp] theorem State.updThread_hiveOut (s : State) (k : Nat) (f : Thread → Thread) : (s.updThread k f).hiveOut = s.hiveOut := rfl
@[simp] theorem State.updThread_hiveReqs (s : State) (k : Nat) (f : Thread → Thread) : (s.updThread k f).hiveReqs = s.hiveReqs := rfl
@[simp] theorem State.updThread_spreads (s : State) (k : Nat) (f : Thread → Thread) : (s.updThread k f).spreads = s.spreads := rfl
@[simp] theorem State.updThread_queues (s : State) (k : Nat) (f : Thread → Thread) : (s.updThread k f).queues = s.queues := rfl
@[simp] theorem State.updThread_headSince (s : State) (k : Nat) (f : Thread → Thread) : (s.updThread k f).headSince = s.headSince := rfl
@[simp] theorem State.updThread_gangs (s : State) (k : Nat) (f : Thread → Thread) : (s.updThread k f).gangs = s.gangs := rfl
@[simp] theorem State.updThread_nextGang (s : State) (k : Nat) (f : Thread → Thread) : (s.updThread k f).nextGang = s.nextGang := rfl
@[simp] theorem State.updThread_gbars (s : State) (k : Nat) (f : Thread → Thread) : (s.updThread k f).gbars = s.gbars := rfl
@[simp] theorem State.updThread_stopped (s : State) (k : Nat) (f : Thread → Thread) : (s.updThread k f).stopped = s.stopped := rfl
@[simp] theorem State.updThread_depcnt (s : State) (k : Nat) (f : Thread → Thread) : (s.updThread k f).depcnt = s.depcnt := rfl
@[simp] theorem State.updThread_burmeal (s : State) (k : Nat) (f : Thread → Thread) : (s.updThread k f).burmeal = s.burmeal := rfl
@[simp] theorem State.updThread_ctrs (s : State) (k : Nat) (f : Thread → Thread) : (s.updThread k f).ctrs = s.ctrs := rfl
@[simp] theorem State.updThread_ready (s : State) (k : Nat) (f : Thread → Thread) : (s.updThread k f).ready = s.ready := rfl
@[simp] theorem State.updThread_pops (s : State) (k : Nat) (f : Thread → Thread) : (s.updThread k f).pops = s.pops := rfl
@[simp] theorem State.updThread_blocks (s : State) (k : Nat) (f : Thread → Thread) : (s.updThread k f).blocks = s.blocks := rfl
@[simp] theorem State.updThread_logged (s : State) (k : Nat) (f : Thread → Thread) : (s.updThread k f).logged = s.logged := rfl
@[simp] theorem State.updThread_pwrlim (s : State) (k : Nat) (f : Thread → Thread) : (s.updThread k f).pwrlim = s.pwrlim := rfl
@[simp] theorem State.updThread_boot (s : State) (k : Nat) (f : Thread → Thread) : (s.updThread k f).boot = s.boot := rfl
@[simp] theorem State.updThread_cycle (s : State) (k : Nat) (f : Thread → Thread) : (s.updThread k f).cycle = s.cycle := rfl
@[simp] theorem State.updThread_frozen (s : State) (k : Nat) (f : Thread → Thread) : (s.updThread k f).frozen = s.frozen := rfl
@[simp] theorem State.updThread_ahead (s : State) (k : Nat) (f : Thread → Thread) : (s.updThread k f).ahead = s.ahead := rfl
@[simp] theorem State.updThread_apart (s : State) (k : Nat) (f : Thread → Thread) : (s.updThread k f).apart = s.apart := rfl
@[simp] theorem State.updThread_phase (s : State) (k : Nat) (f : Thread → Thread) : (s.updThread k f).phase = s.phase := rfl
@[simp] theorem State.updThread_agenda (s : State) (k : Nat) (f : Thread → Thread) : (s.updThread k f).agenda = s.agenda := rfl
@[simp] theorem State.updThread_free (s : State) (k : Nat) (f : Thread → Thread) : (s.updThread k f).free = s.free := rfl

@[simp] theorem State.setCell_threads (s : State) (c : Nat) (x : Cell) : (s.setCell c x).threads = s.threads := rfl
@[simp] theorem State.setCell_cur (s : State) (c : Nat) (x : Cell) : (s.setCell c x).cur = s.cur := rfl
@[simp] theorem State.setCell_mem (s : State) (c : Nat) (x : Cell) : (s.setCell c x).mem = s.mem := rfl
@[simp] theorem State.setCell_dram (s : State) (c : Nat) (x : Cell) : (s.setCell c x).dram = s.dram := rfl
@[simp] theorem State.setCell_mpoison (s : State) (c : Nat) (x : Cell) : (s.setCell c x).mpoison = s.mpoison := rfl
@[simp] theorem State.setCell_msc (s : State) (c : Nat) (x : Cell) : (s.setCell c x).msc = s.msc := rfl
@[simp] theorem State.setCell_farBuf (s : State) (c : Nat) (x : Cell) : (s.setCell c x).farBuf = s.farBuf := rfl
@[simp] theorem State.setCell_regs (s : State) (c : Nat) (x : Cell) : (s.setCell c x).regs = s.regs := rfl
@[simp] theorem State.setCell_hostMem (s : State) (c : Nat) (x : Cell) : (s.setCell c x).hostMem = s.hostMem := rfl
@[simp] theorem State.setCell_hostPois (s : State) (c : Nat) (x : Cell) : (s.setCell c x).hostPois = s.hostPois := rfl
@[simp] theorem State.setCell_hostData (s : State) (c : Nat) (x : Cell) : (s.setCell c x).hostData = s.hostData := rfl
@[simp] theorem State.setCell_hostq (s : State) (c : Nat) (x : Cell) : (s.setCell c x).hostq = s.hostq := rfl
@[simp] theorem State.setCell_posts (s : State) (c : Nat) (x : Cell) : (s.setCell c x).posts = s.posts := rfl
@[simp] theorem State.setCell_report (s : State) (c : Nat) (x : Cell) : (s.setCell c x).report = s.report := rfl
@[simp] theorem State.setCell_msix (s : State) (c : Nat) (x : Cell) : (s.setCell c x).msix = s.msix := rfl
@[simp] theorem State.setCell_msixTab (s : State) (c : Nat) (x : Cell) : (s.setCell c x).msixTab = s.msixTab := rfl
@[simp] theorem State.setCell_fuses (s : State) (c : Nat) (x : Cell) : (s.setCell c x).fuses = s.fuses := rfl
@[simp] theorem State.setCell_slices (s : State) (c : Nat) (x : Cell) : (s.setCell c x).slices = s.slices := rfl
@[simp] theorem State.setCell_accepted (s : State) (c : Nat) (x : Cell) : (s.setCell c x).accepted = s.accepted := rfl
@[simp] theorem State.setCell_dir (s : State) (c : Nat) (x : Cell) : (s.setCell c x).dir = s.dir := rfl
@[simp] theorem State.setCell_homes (s : State) (c : Nat) (x : Cell) : (s.setCell c x).homes = s.homes := rfl
@[simp] theorem State.setCell_nextTag (s : State) (c : Nat) (x : Cell) : (s.setCell c x).nextTag = s.nextTag := rfl
@[simp] theorem State.setCell_nextFlit (s : State) (c : Nat) (x : Cell) : (s.setCell c x).nextFlit = s.nextFlit := rfl
@[simp] theorem State.setCell_net (s : State) (c : Nat) (x : Cell) : (s.setCell c x).net = s.net := rfl
@[simp] theorem State.setCell_msgs (s : State) (c : Nat) (x : Cell) : (s.setCell c x).msgs = s.msgs := rfl
@[simp] theorem State.setCell_fences (s : State) (c : Nat) (x : Cell) : (s.setCell c x).fences = s.fences := rfl
@[simp] theorem State.setCell_pageRels (s : State) (c : Nat) (x : Cell) : (s.setCell c x).pageRels = s.pageRels := rfl
@[simp] theorem State.setCell_combTlb (s : State) (c : Nat) (x : Cell) : (s.setCell c x).combTlb = s.combTlb := rfl
@[simp] theorem State.setCell_replays (s : State) (c : Nat) (x : Cell) : (s.setCell c x).replays = s.replays := rfl
@[simp] theorem State.setCell_flits (s : State) (c : Nat) (x : Cell) : (s.setCell c x).flits = s.flits := rfl
@[simp] theorem State.setCell_castBuf (s : State) (c : Nat) (x : Cell) : (s.setCell c x).castBuf = s.castBuf := rfl
@[simp] theorem State.setCell_outs (s : State) (c : Nat) (x : Cell) : (s.setCell c x).outs = s.outs := rfl
@[simp] theorem State.setCell_hiveOut (s : State) (c : Nat) (x : Cell) : (s.setCell c x).hiveOut = s.hiveOut := rfl
@[simp] theorem State.setCell_hiveReqs (s : State) (c : Nat) (x : Cell) : (s.setCell c x).hiveReqs = s.hiveReqs := rfl
@[simp] theorem State.setCell_spreads (s : State) (c : Nat) (x : Cell) : (s.setCell c x).spreads = s.spreads := rfl
@[simp] theorem State.setCell_queues (s : State) (c : Nat) (x : Cell) : (s.setCell c x).queues = s.queues := rfl
@[simp] theorem State.setCell_headSince (s : State) (c : Nat) (x : Cell) : (s.setCell c x).headSince = s.headSince := rfl
@[simp] theorem State.setCell_gangs (s : State) (c : Nat) (x : Cell) : (s.setCell c x).gangs = s.gangs := rfl
@[simp] theorem State.setCell_nextGang (s : State) (c : Nat) (x : Cell) : (s.setCell c x).nextGang = s.nextGang := rfl
@[simp] theorem State.setCell_gbars (s : State) (c : Nat) (x : Cell) : (s.setCell c x).gbars = s.gbars := rfl
@[simp] theorem State.setCell_stopped (s : State) (c : Nat) (x : Cell) : (s.setCell c x).stopped = s.stopped := rfl
@[simp] theorem State.setCell_depcnt (s : State) (c : Nat) (x : Cell) : (s.setCell c x).depcnt = s.depcnt := rfl
@[simp] theorem State.setCell_burmeal (s : State) (c : Nat) (x : Cell) : (s.setCell c x).burmeal = s.burmeal := rfl
@[simp] theorem State.setCell_ctrs (s : State) (c : Nat) (x : Cell) : (s.setCell c x).ctrs = s.ctrs := rfl
@[simp] theorem State.setCell_ready (s : State) (c : Nat) (x : Cell) : (s.setCell c x).ready = s.ready := rfl
@[simp] theorem State.setCell_pops (s : State) (c : Nat) (x : Cell) : (s.setCell c x).pops = s.pops := rfl
@[simp] theorem State.setCell_blocks (s : State) (c : Nat) (x : Cell) : (s.setCell c x).blocks = s.blocks := rfl
@[simp] theorem State.setCell_logged (s : State) (c : Nat) (x : Cell) : (s.setCell c x).logged = s.logged := rfl
@[simp] theorem State.setCell_pwrlim (s : State) (c : Nat) (x : Cell) : (s.setCell c x).pwrlim = s.pwrlim := rfl
@[simp] theorem State.setCell_boot (s : State) (c : Nat) (x : Cell) : (s.setCell c x).boot = s.boot := rfl
@[simp] theorem State.setCell_cycle (s : State) (c : Nat) (x : Cell) : (s.setCell c x).cycle = s.cycle := rfl
@[simp] theorem State.setCell_frozen (s : State) (c : Nat) (x : Cell) : (s.setCell c x).frozen = s.frozen := rfl
@[simp] theorem State.setCell_ahead (s : State) (c : Nat) (x : Cell) : (s.setCell c x).ahead = s.ahead := rfl
@[simp] theorem State.setCell_apart (s : State) (c : Nat) (x : Cell) : (s.setCell c x).apart = s.apart := rfl
@[simp] theorem State.setCell_phase (s : State) (c : Nat) (x : Cell) : (s.setCell c x).phase = s.phase := rfl
@[simp] theorem State.setCell_agenda (s : State) (c : Nat) (x : Cell) : (s.setCell c x).agenda = s.agenda := rfl
@[simp] theorem State.setCell_free (s : State) (c : Nat) (x : Cell) : (s.setCell c x).free = s.free := rfl

@[simp] theorem State.updCell_threads (s : State) (f : Cell → Cell) : (s.updCell f).threads = s.threads := rfl
@[simp] theorem State.updCell_cur (s : State) (f : Cell → Cell) : (s.updCell f).cur = s.cur := rfl
@[simp] theorem State.updCell_mem (s : State) (f : Cell → Cell) : (s.updCell f).mem = s.mem := rfl
@[simp] theorem State.updCell_dram (s : State) (f : Cell → Cell) : (s.updCell f).dram = s.dram := rfl
@[simp] theorem State.updCell_mpoison (s : State) (f : Cell → Cell) : (s.updCell f).mpoison = s.mpoison := rfl
@[simp] theorem State.updCell_msc (s : State) (f : Cell → Cell) : (s.updCell f).msc = s.msc := rfl
@[simp] theorem State.updCell_farBuf (s : State) (f : Cell → Cell) : (s.updCell f).farBuf = s.farBuf := rfl
@[simp] theorem State.updCell_regs (s : State) (f : Cell → Cell) : (s.updCell f).regs = s.regs := rfl
@[simp] theorem State.updCell_hostMem (s : State) (f : Cell → Cell) : (s.updCell f).hostMem = s.hostMem := rfl
@[simp] theorem State.updCell_hostPois (s : State) (f : Cell → Cell) : (s.updCell f).hostPois = s.hostPois := rfl
@[simp] theorem State.updCell_hostData (s : State) (f : Cell → Cell) : (s.updCell f).hostData = s.hostData := rfl
@[simp] theorem State.updCell_hostq (s : State) (f : Cell → Cell) : (s.updCell f).hostq = s.hostq := rfl
@[simp] theorem State.updCell_posts (s : State) (f : Cell → Cell) : (s.updCell f).posts = s.posts := rfl
@[simp] theorem State.updCell_report (s : State) (f : Cell → Cell) : (s.updCell f).report = s.report := rfl
@[simp] theorem State.updCell_msix (s : State) (f : Cell → Cell) : (s.updCell f).msix = s.msix := rfl
@[simp] theorem State.updCell_msixTab (s : State) (f : Cell → Cell) : (s.updCell f).msixTab = s.msixTab := rfl
@[simp] theorem State.updCell_fuses (s : State) (f : Cell → Cell) : (s.updCell f).fuses = s.fuses := rfl
@[simp] theorem State.updCell_slices (s : State) (f : Cell → Cell) : (s.updCell f).slices = s.slices := rfl
@[simp] theorem State.updCell_accepted (s : State) (f : Cell → Cell) : (s.updCell f).accepted = s.accepted := rfl
@[simp] theorem State.updCell_dir (s : State) (f : Cell → Cell) : (s.updCell f).dir = s.dir := rfl
@[simp] theorem State.updCell_homes (s : State) (f : Cell → Cell) : (s.updCell f).homes = s.homes := rfl
@[simp] theorem State.updCell_nextTag (s : State) (f : Cell → Cell) : (s.updCell f).nextTag = s.nextTag := rfl
@[simp] theorem State.updCell_nextFlit (s : State) (f : Cell → Cell) : (s.updCell f).nextFlit = s.nextFlit := rfl
@[simp] theorem State.updCell_net (s : State) (f : Cell → Cell) : (s.updCell f).net = s.net := rfl
@[simp] theorem State.updCell_msgs (s : State) (f : Cell → Cell) : (s.updCell f).msgs = s.msgs := rfl
@[simp] theorem State.updCell_fences (s : State) (f : Cell → Cell) : (s.updCell f).fences = s.fences := rfl
@[simp] theorem State.updCell_pageRels (s : State) (f : Cell → Cell) : (s.updCell f).pageRels = s.pageRels := rfl
@[simp] theorem State.updCell_combTlb (s : State) (f : Cell → Cell) : (s.updCell f).combTlb = s.combTlb := rfl
@[simp] theorem State.updCell_replays (s : State) (f : Cell → Cell) : (s.updCell f).replays = s.replays := rfl
@[simp] theorem State.updCell_flits (s : State) (f : Cell → Cell) : (s.updCell f).flits = s.flits := rfl
@[simp] theorem State.updCell_castBuf (s : State) (f : Cell → Cell) : (s.updCell f).castBuf = s.castBuf := rfl
@[simp] theorem State.updCell_outs (s : State) (f : Cell → Cell) : (s.updCell f).outs = s.outs := rfl
@[simp] theorem State.updCell_hiveOut (s : State) (f : Cell → Cell) : (s.updCell f).hiveOut = s.hiveOut := rfl
@[simp] theorem State.updCell_hiveReqs (s : State) (f : Cell → Cell) : (s.updCell f).hiveReqs = s.hiveReqs := rfl
@[simp] theorem State.updCell_spreads (s : State) (f : Cell → Cell) : (s.updCell f).spreads = s.spreads := rfl
@[simp] theorem State.updCell_queues (s : State) (f : Cell → Cell) : (s.updCell f).queues = s.queues := rfl
@[simp] theorem State.updCell_headSince (s : State) (f : Cell → Cell) : (s.updCell f).headSince = s.headSince := rfl
@[simp] theorem State.updCell_gangs (s : State) (f : Cell → Cell) : (s.updCell f).gangs = s.gangs := rfl
@[simp] theorem State.updCell_nextGang (s : State) (f : Cell → Cell) : (s.updCell f).nextGang = s.nextGang := rfl
@[simp] theorem State.updCell_gbars (s : State) (f : Cell → Cell) : (s.updCell f).gbars = s.gbars := rfl
@[simp] theorem State.updCell_stopped (s : State) (f : Cell → Cell) : (s.updCell f).stopped = s.stopped := rfl
@[simp] theorem State.updCell_depcnt (s : State) (f : Cell → Cell) : (s.updCell f).depcnt = s.depcnt := rfl
@[simp] theorem State.updCell_burmeal (s : State) (f : Cell → Cell) : (s.updCell f).burmeal = s.burmeal := rfl
@[simp] theorem State.updCell_ctrs (s : State) (f : Cell → Cell) : (s.updCell f).ctrs = s.ctrs := rfl
@[simp] theorem State.updCell_ready (s : State) (f : Cell → Cell) : (s.updCell f).ready = s.ready := rfl
@[simp] theorem State.updCell_pops (s : State) (f : Cell → Cell) : (s.updCell f).pops = s.pops := rfl
@[simp] theorem State.updCell_blocks (s : State) (f : Cell → Cell) : (s.updCell f).blocks = s.blocks := rfl
@[simp] theorem State.updCell_logged (s : State) (f : Cell → Cell) : (s.updCell f).logged = s.logged := rfl
@[simp] theorem State.updCell_pwrlim (s : State) (f : Cell → Cell) : (s.updCell f).pwrlim = s.pwrlim := rfl
@[simp] theorem State.updCell_boot (s : State) (f : Cell → Cell) : (s.updCell f).boot = s.boot := rfl
@[simp] theorem State.updCell_cycle (s : State) (f : Cell → Cell) : (s.updCell f).cycle = s.cycle := rfl
@[simp] theorem State.updCell_frozen (s : State) (f : Cell → Cell) : (s.updCell f).frozen = s.frozen := rfl
@[simp] theorem State.updCell_ahead (s : State) (f : Cell → Cell) : (s.updCell f).ahead = s.ahead := rfl
@[simp] theorem State.updCell_apart (s : State) (f : Cell → Cell) : (s.updCell f).apart = s.apart := rfl
@[simp] theorem State.updCell_phase (s : State) (f : Cell → Cell) : (s.updCell f).phase = s.phase := rfl
@[simp] theorem State.updCell_agenda (s : State) (f : Cell → Cell) : (s.updCell f).agenda = s.agenda := rfl
@[simp] theorem State.updCell_free (s : State) (f : Cell → Cell) : (s.updCell f).free = s.free := rfl

@[simp] theorem State.updCellAt_threads (s : State) (c : Nat) (f : Cell → Cell) : (s.updCellAt c f).threads = s.threads := rfl
@[simp] theorem State.updCellAt_cur (s : State) (c : Nat) (f : Cell → Cell) : (s.updCellAt c f).cur = s.cur := rfl
@[simp] theorem State.updCellAt_mem (s : State) (c : Nat) (f : Cell → Cell) : (s.updCellAt c f).mem = s.mem := rfl
@[simp] theorem State.updCellAt_dram (s : State) (c : Nat) (f : Cell → Cell) : (s.updCellAt c f).dram = s.dram := rfl
@[simp] theorem State.updCellAt_mpoison (s : State) (c : Nat) (f : Cell → Cell) : (s.updCellAt c f).mpoison = s.mpoison := rfl
@[simp] theorem State.updCellAt_msc (s : State) (c : Nat) (f : Cell → Cell) : (s.updCellAt c f).msc = s.msc := rfl
@[simp] theorem State.updCellAt_farBuf (s : State) (c : Nat) (f : Cell → Cell) : (s.updCellAt c f).farBuf = s.farBuf := rfl
@[simp] theorem State.updCellAt_regs (s : State) (c : Nat) (f : Cell → Cell) : (s.updCellAt c f).regs = s.regs := rfl
@[simp] theorem State.updCellAt_hostMem (s : State) (c : Nat) (f : Cell → Cell) : (s.updCellAt c f).hostMem = s.hostMem := rfl
@[simp] theorem State.updCellAt_hostPois (s : State) (c : Nat) (f : Cell → Cell) : (s.updCellAt c f).hostPois = s.hostPois := rfl
@[simp] theorem State.updCellAt_hostData (s : State) (c : Nat) (f : Cell → Cell) : (s.updCellAt c f).hostData = s.hostData := rfl
@[simp] theorem State.updCellAt_hostq (s : State) (c : Nat) (f : Cell → Cell) : (s.updCellAt c f).hostq = s.hostq := rfl
@[simp] theorem State.updCellAt_posts (s : State) (c : Nat) (f : Cell → Cell) : (s.updCellAt c f).posts = s.posts := rfl
@[simp] theorem State.updCellAt_report (s : State) (c : Nat) (f : Cell → Cell) : (s.updCellAt c f).report = s.report := rfl
@[simp] theorem State.updCellAt_msix (s : State) (c : Nat) (f : Cell → Cell) : (s.updCellAt c f).msix = s.msix := rfl
@[simp] theorem State.updCellAt_msixTab (s : State) (c : Nat) (f : Cell → Cell) : (s.updCellAt c f).msixTab = s.msixTab := rfl
@[simp] theorem State.updCellAt_fuses (s : State) (c : Nat) (f : Cell → Cell) : (s.updCellAt c f).fuses = s.fuses := rfl
@[simp] theorem State.updCellAt_slices (s : State) (c : Nat) (f : Cell → Cell) : (s.updCellAt c f).slices = s.slices := rfl
@[simp] theorem State.updCellAt_accepted (s : State) (c : Nat) (f : Cell → Cell) : (s.updCellAt c f).accepted = s.accepted := rfl
@[simp] theorem State.updCellAt_dir (s : State) (c : Nat) (f : Cell → Cell) : (s.updCellAt c f).dir = s.dir := rfl
@[simp] theorem State.updCellAt_homes (s : State) (c : Nat) (f : Cell → Cell) : (s.updCellAt c f).homes = s.homes := rfl
@[simp] theorem State.updCellAt_nextTag (s : State) (c : Nat) (f : Cell → Cell) : (s.updCellAt c f).nextTag = s.nextTag := rfl
@[simp] theorem State.updCellAt_nextFlit (s : State) (c : Nat) (f : Cell → Cell) : (s.updCellAt c f).nextFlit = s.nextFlit := rfl
@[simp] theorem State.updCellAt_net (s : State) (c : Nat) (f : Cell → Cell) : (s.updCellAt c f).net = s.net := rfl
@[simp] theorem State.updCellAt_msgs (s : State) (c : Nat) (f : Cell → Cell) : (s.updCellAt c f).msgs = s.msgs := rfl
@[simp] theorem State.updCellAt_fences (s : State) (c : Nat) (f : Cell → Cell) : (s.updCellAt c f).fences = s.fences := rfl
@[simp] theorem State.updCellAt_pageRels (s : State) (c : Nat) (f : Cell → Cell) : (s.updCellAt c f).pageRels = s.pageRels := rfl
@[simp] theorem State.updCellAt_combTlb (s : State) (c : Nat) (f : Cell → Cell) : (s.updCellAt c f).combTlb = s.combTlb := rfl
@[simp] theorem State.updCellAt_replays (s : State) (c : Nat) (f : Cell → Cell) : (s.updCellAt c f).replays = s.replays := rfl
@[simp] theorem State.updCellAt_flits (s : State) (c : Nat) (f : Cell → Cell) : (s.updCellAt c f).flits = s.flits := rfl
@[simp] theorem State.updCellAt_castBuf (s : State) (c : Nat) (f : Cell → Cell) : (s.updCellAt c f).castBuf = s.castBuf := rfl
@[simp] theorem State.updCellAt_outs (s : State) (c : Nat) (f : Cell → Cell) : (s.updCellAt c f).outs = s.outs := rfl
@[simp] theorem State.updCellAt_hiveOut (s : State) (c : Nat) (f : Cell → Cell) : (s.updCellAt c f).hiveOut = s.hiveOut := rfl
@[simp] theorem State.updCellAt_hiveReqs (s : State) (c : Nat) (f : Cell → Cell) : (s.updCellAt c f).hiveReqs = s.hiveReqs := rfl
@[simp] theorem State.updCellAt_spreads (s : State) (c : Nat) (f : Cell → Cell) : (s.updCellAt c f).spreads = s.spreads := rfl
@[simp] theorem State.updCellAt_queues (s : State) (c : Nat) (f : Cell → Cell) : (s.updCellAt c f).queues = s.queues := rfl
@[simp] theorem State.updCellAt_headSince (s : State) (c : Nat) (f : Cell → Cell) : (s.updCellAt c f).headSince = s.headSince := rfl
@[simp] theorem State.updCellAt_gangs (s : State) (c : Nat) (f : Cell → Cell) : (s.updCellAt c f).gangs = s.gangs := rfl
@[simp] theorem State.updCellAt_nextGang (s : State) (c : Nat) (f : Cell → Cell) : (s.updCellAt c f).nextGang = s.nextGang := rfl
@[simp] theorem State.updCellAt_gbars (s : State) (c : Nat) (f : Cell → Cell) : (s.updCellAt c f).gbars = s.gbars := rfl
@[simp] theorem State.updCellAt_stopped (s : State) (c : Nat) (f : Cell → Cell) : (s.updCellAt c f).stopped = s.stopped := rfl
@[simp] theorem State.updCellAt_depcnt (s : State) (c : Nat) (f : Cell → Cell) : (s.updCellAt c f).depcnt = s.depcnt := rfl
@[simp] theorem State.updCellAt_burmeal (s : State) (c : Nat) (f : Cell → Cell) : (s.updCellAt c f).burmeal = s.burmeal := rfl
@[simp] theorem State.updCellAt_ctrs (s : State) (c : Nat) (f : Cell → Cell) : (s.updCellAt c f).ctrs = s.ctrs := rfl
@[simp] theorem State.updCellAt_ready (s : State) (c : Nat) (f : Cell → Cell) : (s.updCellAt c f).ready = s.ready := rfl
@[simp] theorem State.updCellAt_pops (s : State) (c : Nat) (f : Cell → Cell) : (s.updCellAt c f).pops = s.pops := rfl
@[simp] theorem State.updCellAt_blocks (s : State) (c : Nat) (f : Cell → Cell) : (s.updCellAt c f).blocks = s.blocks := rfl
@[simp] theorem State.updCellAt_logged (s : State) (c : Nat) (f : Cell → Cell) : (s.updCellAt c f).logged = s.logged := rfl
@[simp] theorem State.updCellAt_pwrlim (s : State) (c : Nat) (f : Cell → Cell) : (s.updCellAt c f).pwrlim = s.pwrlim := rfl
@[simp] theorem State.updCellAt_boot (s : State) (c : Nat) (f : Cell → Cell) : (s.updCellAt c f).boot = s.boot := rfl
@[simp] theorem State.updCellAt_cycle (s : State) (c : Nat) (f : Cell → Cell) : (s.updCellAt c f).cycle = s.cycle := rfl
@[simp] theorem State.updCellAt_frozen (s : State) (c : Nat) (f : Cell → Cell) : (s.updCellAt c f).frozen = s.frozen := rfl
@[simp] theorem State.updCellAt_ahead (s : State) (c : Nat) (f : Cell → Cell) : (s.updCellAt c f).ahead = s.ahead := rfl
@[simp] theorem State.updCellAt_apart (s : State) (c : Nat) (f : Cell → Cell) : (s.updCellAt c f).apart = s.apart := rfl
@[simp] theorem State.updCellAt_phase (s : State) (c : Nat) (f : Cell → Cell) : (s.updCellAt c f).phase = s.phase := rfl
@[simp] theorem State.updCellAt_agenda (s : State) (c : Nat) (f : Cell → Cell) : (s.updCellAt c f).agenda = s.agenda := rfl
@[simp] theorem State.updCellAt_free (s : State) (c : Nat) (f : Cell → Cell) : (s.updCellAt c f).free = s.free := rfl

@[simp] theorem State.ws_cells (s : State) (r : Reg) (x : Word) : (s.ws r x).cells = s.cells := rfl
@[simp] theorem State.ws_cur (s : State) (r : Reg) (x : Word) : (s.ws r x).cur = s.cur := rfl
@[simp] theorem State.ws_mem (s : State) (r : Reg) (x : Word) : (s.ws r x).mem = s.mem := rfl
@[simp] theorem State.ws_dram (s : State) (r : Reg) (x : Word) : (s.ws r x).dram = s.dram := rfl
@[simp] theorem State.ws_mpoison (s : State) (r : Reg) (x : Word) : (s.ws r x).mpoison = s.mpoison := rfl
@[simp] theorem State.ws_msc (s : State) (r : Reg) (x : Word) : (s.ws r x).msc = s.msc := rfl
@[simp] theorem State.ws_farBuf (s : State) (r : Reg) (x : Word) : (s.ws r x).farBuf = s.farBuf := rfl
@[simp] theorem State.ws_regs (s : State) (r : Reg) (x : Word) : (s.ws r x).regs = s.regs := rfl
@[simp] theorem State.ws_hostMem (s : State) (r : Reg) (x : Word) : (s.ws r x).hostMem = s.hostMem := rfl
@[simp] theorem State.ws_hostPois (s : State) (r : Reg) (x : Word) : (s.ws r x).hostPois = s.hostPois := rfl
@[simp] theorem State.ws_hostData (s : State) (r : Reg) (x : Word) : (s.ws r x).hostData = s.hostData := rfl
@[simp] theorem State.ws_hostq (s : State) (r : Reg) (x : Word) : (s.ws r x).hostq = s.hostq := rfl
@[simp] theorem State.ws_posts (s : State) (r : Reg) (x : Word) : (s.ws r x).posts = s.posts := rfl
@[simp] theorem State.ws_report (s : State) (r : Reg) (x : Word) : (s.ws r x).report = s.report := rfl
@[simp] theorem State.ws_msix (s : State) (r : Reg) (x : Word) : (s.ws r x).msix = s.msix := rfl
@[simp] theorem State.ws_msixTab (s : State) (r : Reg) (x : Word) : (s.ws r x).msixTab = s.msixTab := rfl
@[simp] theorem State.ws_fuses (s : State) (r : Reg) (x : Word) : (s.ws r x).fuses = s.fuses := rfl
@[simp] theorem State.ws_slices (s : State) (r : Reg) (x : Word) : (s.ws r x).slices = s.slices := rfl
@[simp] theorem State.ws_accepted (s : State) (r : Reg) (x : Word) : (s.ws r x).accepted = s.accepted := rfl
@[simp] theorem State.ws_dir (s : State) (r : Reg) (x : Word) : (s.ws r x).dir = s.dir := rfl
@[simp] theorem State.ws_homes (s : State) (r : Reg) (x : Word) : (s.ws r x).homes = s.homes := rfl
@[simp] theorem State.ws_nextTag (s : State) (r : Reg) (x : Word) : (s.ws r x).nextTag = s.nextTag := rfl
@[simp] theorem State.ws_nextFlit (s : State) (r : Reg) (x : Word) : (s.ws r x).nextFlit = s.nextFlit := rfl
@[simp] theorem State.ws_net (s : State) (r : Reg) (x : Word) : (s.ws r x).net = s.net := rfl
@[simp] theorem State.ws_msgs (s : State) (r : Reg) (x : Word) : (s.ws r x).msgs = s.msgs := rfl
@[simp] theorem State.ws_fences (s : State) (r : Reg) (x : Word) : (s.ws r x).fences = s.fences := rfl
@[simp] theorem State.ws_pageRels (s : State) (r : Reg) (x : Word) : (s.ws r x).pageRels = s.pageRels := rfl
@[simp] theorem State.ws_combTlb (s : State) (r : Reg) (x : Word) : (s.ws r x).combTlb = s.combTlb := rfl
@[simp] theorem State.ws_replays (s : State) (r : Reg) (x : Word) : (s.ws r x).replays = s.replays := rfl
@[simp] theorem State.ws_flits (s : State) (r : Reg) (x : Word) : (s.ws r x).flits = s.flits := rfl
@[simp] theorem State.ws_castBuf (s : State) (r : Reg) (x : Word) : (s.ws r x).castBuf = s.castBuf := rfl
@[simp] theorem State.ws_outs (s : State) (r : Reg) (x : Word) : (s.ws r x).outs = s.outs := rfl
@[simp] theorem State.ws_hiveOut (s : State) (r : Reg) (x : Word) : (s.ws r x).hiveOut = s.hiveOut := rfl
@[simp] theorem State.ws_hiveReqs (s : State) (r : Reg) (x : Word) : (s.ws r x).hiveReqs = s.hiveReqs := rfl
@[simp] theorem State.ws_spreads (s : State) (r : Reg) (x : Word) : (s.ws r x).spreads = s.spreads := rfl
@[simp] theorem State.ws_queues (s : State) (r : Reg) (x : Word) : (s.ws r x).queues = s.queues := rfl
@[simp] theorem State.ws_headSince (s : State) (r : Reg) (x : Word) : (s.ws r x).headSince = s.headSince := rfl
@[simp] theorem State.ws_gangs (s : State) (r : Reg) (x : Word) : (s.ws r x).gangs = s.gangs := rfl
@[simp] theorem State.ws_nextGang (s : State) (r : Reg) (x : Word) : (s.ws r x).nextGang = s.nextGang := rfl
@[simp] theorem State.ws_gbars (s : State) (r : Reg) (x : Word) : (s.ws r x).gbars = s.gbars := rfl
@[simp] theorem State.ws_stopped (s : State) (r : Reg) (x : Word) : (s.ws r x).stopped = s.stopped := rfl
@[simp] theorem State.ws_depcnt (s : State) (r : Reg) (x : Word) : (s.ws r x).depcnt = s.depcnt := rfl
@[simp] theorem State.ws_burmeal (s : State) (r : Reg) (x : Word) : (s.ws r x).burmeal = s.burmeal := rfl
@[simp] theorem State.ws_ctrs (s : State) (r : Reg) (x : Word) : (s.ws r x).ctrs = s.ctrs := rfl
@[simp] theorem State.ws_ready (s : State) (r : Reg) (x : Word) : (s.ws r x).ready = s.ready := rfl
@[simp] theorem State.ws_pops (s : State) (r : Reg) (x : Word) : (s.ws r x).pops = s.pops := rfl
@[simp] theorem State.ws_blocks (s : State) (r : Reg) (x : Word) : (s.ws r x).blocks = s.blocks := rfl
@[simp] theorem State.ws_logged (s : State) (r : Reg) (x : Word) : (s.ws r x).logged = s.logged := rfl
@[simp] theorem State.ws_pwrlim (s : State) (r : Reg) (x : Word) : (s.ws r x).pwrlim = s.pwrlim := rfl
@[simp] theorem State.ws_boot (s : State) (r : Reg) (x : Word) : (s.ws r x).boot = s.boot := rfl
@[simp] theorem State.ws_cycle (s : State) (r : Reg) (x : Word) : (s.ws r x).cycle = s.cycle := rfl
@[simp] theorem State.ws_frozen (s : State) (r : Reg) (x : Word) : (s.ws r x).frozen = s.frozen := rfl
@[simp] theorem State.ws_ahead (s : State) (r : Reg) (x : Word) : (s.ws r x).ahead = s.ahead := rfl
@[simp] theorem State.ws_apart (s : State) (r : Reg) (x : Word) : (s.ws r x).apart = s.apart := rfl
@[simp] theorem State.ws_phase (s : State) (r : Reg) (x : Word) : (s.ws r x).phase = s.phase := rfl
@[simp] theorem State.ws_agenda (s : State) (r : Reg) (x : Word) : (s.ws r x).agenda = s.agenda := rfl
@[simp] theorem State.ws_free (s : State) (r : Reg) (x : Word) : (s.ws r x).free = s.free := rfl

@[simp] theorem State.advance_cells (s : State) (mk : Bool) : (s.advance mk).cells = s.cells := rfl
@[simp] theorem State.advance_cur (s : State) (mk : Bool) : (s.advance mk).cur = s.cur := rfl
@[simp] theorem State.advance_mem (s : State) (mk : Bool) : (s.advance mk).mem = s.mem := rfl
@[simp] theorem State.advance_dram (s : State) (mk : Bool) : (s.advance mk).dram = s.dram := rfl
@[simp] theorem State.advance_mpoison (s : State) (mk : Bool) : (s.advance mk).mpoison = s.mpoison := rfl
@[simp] theorem State.advance_msc (s : State) (mk : Bool) : (s.advance mk).msc = s.msc := rfl
@[simp] theorem State.advance_farBuf (s : State) (mk : Bool) : (s.advance mk).farBuf = s.farBuf := rfl
@[simp] theorem State.advance_regs (s : State) (mk : Bool) : (s.advance mk).regs = s.regs := rfl
@[simp] theorem State.advance_hostMem (s : State) (mk : Bool) : (s.advance mk).hostMem = s.hostMem := rfl
@[simp] theorem State.advance_hostPois (s : State) (mk : Bool) : (s.advance mk).hostPois = s.hostPois := rfl
@[simp] theorem State.advance_hostData (s : State) (mk : Bool) : (s.advance mk).hostData = s.hostData := rfl
@[simp] theorem State.advance_hostq (s : State) (mk : Bool) : (s.advance mk).hostq = s.hostq := rfl
@[simp] theorem State.advance_posts (s : State) (mk : Bool) : (s.advance mk).posts = s.posts := rfl
@[simp] theorem State.advance_report (s : State) (mk : Bool) : (s.advance mk).report = s.report := rfl
@[simp] theorem State.advance_msix (s : State) (mk : Bool) : (s.advance mk).msix = s.msix := rfl
@[simp] theorem State.advance_msixTab (s : State) (mk : Bool) : (s.advance mk).msixTab = s.msixTab := rfl
@[simp] theorem State.advance_fuses (s : State) (mk : Bool) : (s.advance mk).fuses = s.fuses := rfl
@[simp] theorem State.advance_slices (s : State) (mk : Bool) : (s.advance mk).slices = s.slices := rfl
@[simp] theorem State.advance_accepted (s : State) (mk : Bool) : (s.advance mk).accepted = s.accepted := rfl
@[simp] theorem State.advance_dir (s : State) (mk : Bool) : (s.advance mk).dir = s.dir := rfl
@[simp] theorem State.advance_homes (s : State) (mk : Bool) : (s.advance mk).homes = s.homes := rfl
@[simp] theorem State.advance_nextTag (s : State) (mk : Bool) : (s.advance mk).nextTag = s.nextTag := rfl
@[simp] theorem State.advance_nextFlit (s : State) (mk : Bool) : (s.advance mk).nextFlit = s.nextFlit := rfl
@[simp] theorem State.advance_net (s : State) (mk : Bool) : (s.advance mk).net = s.net := rfl
@[simp] theorem State.advance_msgs (s : State) (mk : Bool) : (s.advance mk).msgs = s.msgs := rfl
@[simp] theorem State.advance_fences (s : State) (mk : Bool) : (s.advance mk).fences = s.fences := rfl
@[simp] theorem State.advance_pageRels (s : State) (mk : Bool) : (s.advance mk).pageRels = s.pageRels := rfl
@[simp] theorem State.advance_combTlb (s : State) (mk : Bool) : (s.advance mk).combTlb = s.combTlb := rfl
@[simp] theorem State.advance_replays (s : State) (mk : Bool) : (s.advance mk).replays = s.replays := rfl
@[simp] theorem State.advance_flits (s : State) (mk : Bool) : (s.advance mk).flits = s.flits := rfl
@[simp] theorem State.advance_castBuf (s : State) (mk : Bool) : (s.advance mk).castBuf = s.castBuf := rfl
@[simp] theorem State.advance_outs (s : State) (mk : Bool) : (s.advance mk).outs = s.outs := rfl
@[simp] theorem State.advance_hiveOut (s : State) (mk : Bool) : (s.advance mk).hiveOut = s.hiveOut := rfl
@[simp] theorem State.advance_hiveReqs (s : State) (mk : Bool) : (s.advance mk).hiveReqs = s.hiveReqs := rfl
@[simp] theorem State.advance_spreads (s : State) (mk : Bool) : (s.advance mk).spreads = s.spreads := rfl
@[simp] theorem State.advance_queues (s : State) (mk : Bool) : (s.advance mk).queues = s.queues := rfl
@[simp] theorem State.advance_headSince (s : State) (mk : Bool) : (s.advance mk).headSince = s.headSince := rfl
@[simp] theorem State.advance_gangs (s : State) (mk : Bool) : (s.advance mk).gangs = s.gangs := rfl
@[simp] theorem State.advance_nextGang (s : State) (mk : Bool) : (s.advance mk).nextGang = s.nextGang := rfl
@[simp] theorem State.advance_gbars (s : State) (mk : Bool) : (s.advance mk).gbars = s.gbars := rfl
@[simp] theorem State.advance_stopped (s : State) (mk : Bool) : (s.advance mk).stopped = s.stopped := rfl
@[simp] theorem State.advance_depcnt (s : State) (mk : Bool) : (s.advance mk).depcnt = s.depcnt := rfl
@[simp] theorem State.advance_burmeal (s : State) (mk : Bool) : (s.advance mk).burmeal = s.burmeal := rfl
@[simp] theorem State.advance_ctrs (s : State) (mk : Bool) : (s.advance mk).ctrs = s.ctrs := rfl
@[simp] theorem State.advance_ready (s : State) (mk : Bool) : (s.advance mk).ready = s.ready := rfl
@[simp] theorem State.advance_pops (s : State) (mk : Bool) : (s.advance mk).pops = s.pops := rfl
@[simp] theorem State.advance_blocks (s : State) (mk : Bool) : (s.advance mk).blocks = s.blocks := rfl
@[simp] theorem State.advance_logged (s : State) (mk : Bool) : (s.advance mk).logged = s.logged := rfl
@[simp] theorem State.advance_pwrlim (s : State) (mk : Bool) : (s.advance mk).pwrlim = s.pwrlim := rfl
@[simp] theorem State.advance_boot (s : State) (mk : Bool) : (s.advance mk).boot = s.boot := rfl
@[simp] theorem State.advance_cycle (s : State) (mk : Bool) : (s.advance mk).cycle = s.cycle := rfl
@[simp] theorem State.advance_frozen (s : State) (mk : Bool) : (s.advance mk).frozen = s.frozen := rfl
@[simp] theorem State.advance_ahead (s : State) (mk : Bool) : (s.advance mk).ahead = s.ahead := rfl
@[simp] theorem State.advance_apart (s : State) (mk : Bool) : (s.advance mk).apart = s.apart := rfl
@[simp] theorem State.advance_phase (s : State) (mk : Bool) : (s.advance mk).phase = s.phase := rfl
@[simp] theorem State.advance_agenda (s : State) (mk : Bool) : (s.advance mk).agenda = s.agenda := rfl
@[simp] theorem State.advance_free (s : State) (mk : Bool) : (s.advance mk).free = s.free := rfl

@[simp] theorem State.goto_cells (s : State) (mk : Bool) (p : Word) : (s.goto mk p).cells = s.cells := rfl
@[simp] theorem State.goto_cur (s : State) (mk : Bool) (p : Word) : (s.goto mk p).cur = s.cur := rfl
@[simp] theorem State.goto_mem (s : State) (mk : Bool) (p : Word) : (s.goto mk p).mem = s.mem := rfl
@[simp] theorem State.goto_dram (s : State) (mk : Bool) (p : Word) : (s.goto mk p).dram = s.dram := rfl
@[simp] theorem State.goto_mpoison (s : State) (mk : Bool) (p : Word) : (s.goto mk p).mpoison = s.mpoison := rfl
@[simp] theorem State.goto_msc (s : State) (mk : Bool) (p : Word) : (s.goto mk p).msc = s.msc := rfl
@[simp] theorem State.goto_farBuf (s : State) (mk : Bool) (p : Word) : (s.goto mk p).farBuf = s.farBuf := rfl
@[simp] theorem State.goto_regs (s : State) (mk : Bool) (p : Word) : (s.goto mk p).regs = s.regs := rfl
@[simp] theorem State.goto_hostMem (s : State) (mk : Bool) (p : Word) : (s.goto mk p).hostMem = s.hostMem := rfl
@[simp] theorem State.goto_hostPois (s : State) (mk : Bool) (p : Word) : (s.goto mk p).hostPois = s.hostPois := rfl
@[simp] theorem State.goto_hostData (s : State) (mk : Bool) (p : Word) : (s.goto mk p).hostData = s.hostData := rfl
@[simp] theorem State.goto_hostq (s : State) (mk : Bool) (p : Word) : (s.goto mk p).hostq = s.hostq := rfl
@[simp] theorem State.goto_posts (s : State) (mk : Bool) (p : Word) : (s.goto mk p).posts = s.posts := rfl
@[simp] theorem State.goto_report (s : State) (mk : Bool) (p : Word) : (s.goto mk p).report = s.report := rfl
@[simp] theorem State.goto_msix (s : State) (mk : Bool) (p : Word) : (s.goto mk p).msix = s.msix := rfl
@[simp] theorem State.goto_msixTab (s : State) (mk : Bool) (p : Word) : (s.goto mk p).msixTab = s.msixTab := rfl
@[simp] theorem State.goto_fuses (s : State) (mk : Bool) (p : Word) : (s.goto mk p).fuses = s.fuses := rfl
@[simp] theorem State.goto_slices (s : State) (mk : Bool) (p : Word) : (s.goto mk p).slices = s.slices := rfl
@[simp] theorem State.goto_accepted (s : State) (mk : Bool) (p : Word) : (s.goto mk p).accepted = s.accepted := rfl
@[simp] theorem State.goto_dir (s : State) (mk : Bool) (p : Word) : (s.goto mk p).dir = s.dir := rfl
@[simp] theorem State.goto_homes (s : State) (mk : Bool) (p : Word) : (s.goto mk p).homes = s.homes := rfl
@[simp] theorem State.goto_nextTag (s : State) (mk : Bool) (p : Word) : (s.goto mk p).nextTag = s.nextTag := rfl
@[simp] theorem State.goto_nextFlit (s : State) (mk : Bool) (p : Word) : (s.goto mk p).nextFlit = s.nextFlit := rfl
@[simp] theorem State.goto_net (s : State) (mk : Bool) (p : Word) : (s.goto mk p).net = s.net := rfl
@[simp] theorem State.goto_msgs (s : State) (mk : Bool) (p : Word) : (s.goto mk p).msgs = s.msgs := rfl
@[simp] theorem State.goto_fences (s : State) (mk : Bool) (p : Word) : (s.goto mk p).fences = s.fences := rfl
@[simp] theorem State.goto_pageRels (s : State) (mk : Bool) (p : Word) : (s.goto mk p).pageRels = s.pageRels := rfl
@[simp] theorem State.goto_combTlb (s : State) (mk : Bool) (p : Word) : (s.goto mk p).combTlb = s.combTlb := rfl
@[simp] theorem State.goto_replays (s : State) (mk : Bool) (p : Word) : (s.goto mk p).replays = s.replays := rfl
@[simp] theorem State.goto_flits (s : State) (mk : Bool) (p : Word) : (s.goto mk p).flits = s.flits := rfl
@[simp] theorem State.goto_castBuf (s : State) (mk : Bool) (p : Word) : (s.goto mk p).castBuf = s.castBuf := rfl
@[simp] theorem State.goto_outs (s : State) (mk : Bool) (p : Word) : (s.goto mk p).outs = s.outs := rfl
@[simp] theorem State.goto_hiveOut (s : State) (mk : Bool) (p : Word) : (s.goto mk p).hiveOut = s.hiveOut := rfl
@[simp] theorem State.goto_hiveReqs (s : State) (mk : Bool) (p : Word) : (s.goto mk p).hiveReqs = s.hiveReqs := rfl
@[simp] theorem State.goto_spreads (s : State) (mk : Bool) (p : Word) : (s.goto mk p).spreads = s.spreads := rfl
@[simp] theorem State.goto_queues (s : State) (mk : Bool) (p : Word) : (s.goto mk p).queues = s.queues := rfl
@[simp] theorem State.goto_headSince (s : State) (mk : Bool) (p : Word) : (s.goto mk p).headSince = s.headSince := rfl
@[simp] theorem State.goto_gangs (s : State) (mk : Bool) (p : Word) : (s.goto mk p).gangs = s.gangs := rfl
@[simp] theorem State.goto_nextGang (s : State) (mk : Bool) (p : Word) : (s.goto mk p).nextGang = s.nextGang := rfl
@[simp] theorem State.goto_gbars (s : State) (mk : Bool) (p : Word) : (s.goto mk p).gbars = s.gbars := rfl
@[simp] theorem State.goto_stopped (s : State) (mk : Bool) (p : Word) : (s.goto mk p).stopped = s.stopped := rfl
@[simp] theorem State.goto_depcnt (s : State) (mk : Bool) (p : Word) : (s.goto mk p).depcnt = s.depcnt := rfl
@[simp] theorem State.goto_burmeal (s : State) (mk : Bool) (p : Word) : (s.goto mk p).burmeal = s.burmeal := rfl
@[simp] theorem State.goto_ctrs (s : State) (mk : Bool) (p : Word) : (s.goto mk p).ctrs = s.ctrs := rfl
@[simp] theorem State.goto_ready (s : State) (mk : Bool) (p : Word) : (s.goto mk p).ready = s.ready := rfl
@[simp] theorem State.goto_pops (s : State) (mk : Bool) (p : Word) : (s.goto mk p).pops = s.pops := rfl
@[simp] theorem State.goto_blocks (s : State) (mk : Bool) (p : Word) : (s.goto mk p).blocks = s.blocks := rfl
@[simp] theorem State.goto_logged (s : State) (mk : Bool) (p : Word) : (s.goto mk p).logged = s.logged := rfl
@[simp] theorem State.goto_pwrlim (s : State) (mk : Bool) (p : Word) : (s.goto mk p).pwrlim = s.pwrlim := rfl
@[simp] theorem State.goto_boot (s : State) (mk : Bool) (p : Word) : (s.goto mk p).boot = s.boot := rfl
@[simp] theorem State.goto_cycle (s : State) (mk : Bool) (p : Word) : (s.goto mk p).cycle = s.cycle := rfl
@[simp] theorem State.goto_frozen (s : State) (mk : Bool) (p : Word) : (s.goto mk p).frozen = s.frozen := rfl
@[simp] theorem State.goto_ahead (s : State) (mk : Bool) (p : Word) : (s.goto mk p).ahead = s.ahead := rfl
@[simp] theorem State.goto_apart (s : State) (mk : Bool) (p : Word) : (s.goto mk p).apart = s.apart := rfl
@[simp] theorem State.goto_phase (s : State) (mk : Bool) (p : Word) : (s.goto mk p).phase = s.phase := rfl
@[simp] theorem State.goto_agenda (s : State) (mk : Bool) (p : Word) : (s.goto mk p).agenda = s.agenda := rfl
@[simp] theorem State.goto_free (s : State) (mk : Bool) (p : Word) : (s.goto mk p).free = s.free := rfl

@[simp] theorem State.stall_cells (s : State) : (s.stall).cells = s.cells := rfl
@[simp] theorem State.stall_cur (s : State) : (s.stall).cur = s.cur := rfl
@[simp] theorem State.stall_mem (s : State) : (s.stall).mem = s.mem := rfl
@[simp] theorem State.stall_dram (s : State) : (s.stall).dram = s.dram := rfl
@[simp] theorem State.stall_mpoison (s : State) : (s.stall).mpoison = s.mpoison := rfl
@[simp] theorem State.stall_msc (s : State) : (s.stall).msc = s.msc := rfl
@[simp] theorem State.stall_farBuf (s : State) : (s.stall).farBuf = s.farBuf := rfl
@[simp] theorem State.stall_regs (s : State) : (s.stall).regs = s.regs := rfl
@[simp] theorem State.stall_hostMem (s : State) : (s.stall).hostMem = s.hostMem := rfl
@[simp] theorem State.stall_hostPois (s : State) : (s.stall).hostPois = s.hostPois := rfl
@[simp] theorem State.stall_hostData (s : State) : (s.stall).hostData = s.hostData := rfl
@[simp] theorem State.stall_hostq (s : State) : (s.stall).hostq = s.hostq := rfl
@[simp] theorem State.stall_posts (s : State) : (s.stall).posts = s.posts := rfl
@[simp] theorem State.stall_report (s : State) : (s.stall).report = s.report := rfl
@[simp] theorem State.stall_msix (s : State) : (s.stall).msix = s.msix := rfl
@[simp] theorem State.stall_msixTab (s : State) : (s.stall).msixTab = s.msixTab := rfl
@[simp] theorem State.stall_fuses (s : State) : (s.stall).fuses = s.fuses := rfl
@[simp] theorem State.stall_slices (s : State) : (s.stall).slices = s.slices := rfl
@[simp] theorem State.stall_accepted (s : State) : (s.stall).accepted = s.accepted := rfl
@[simp] theorem State.stall_dir (s : State) : (s.stall).dir = s.dir := rfl
@[simp] theorem State.stall_homes (s : State) : (s.stall).homes = s.homes := rfl
@[simp] theorem State.stall_nextTag (s : State) : (s.stall).nextTag = s.nextTag := rfl
@[simp] theorem State.stall_nextFlit (s : State) : (s.stall).nextFlit = s.nextFlit := rfl
@[simp] theorem State.stall_net (s : State) : (s.stall).net = s.net := rfl
@[simp] theorem State.stall_msgs (s : State) : (s.stall).msgs = s.msgs := rfl
@[simp] theorem State.stall_fences (s : State) : (s.stall).fences = s.fences := rfl
@[simp] theorem State.stall_pageRels (s : State) : (s.stall).pageRels = s.pageRels := rfl
@[simp] theorem State.stall_combTlb (s : State) : (s.stall).combTlb = s.combTlb := rfl
@[simp] theorem State.stall_replays (s : State) : (s.stall).replays = s.replays := rfl
@[simp] theorem State.stall_flits (s : State) : (s.stall).flits = s.flits := rfl
@[simp] theorem State.stall_castBuf (s : State) : (s.stall).castBuf = s.castBuf := rfl
@[simp] theorem State.stall_outs (s : State) : (s.stall).outs = s.outs := rfl
@[simp] theorem State.stall_hiveOut (s : State) : (s.stall).hiveOut = s.hiveOut := rfl
@[simp] theorem State.stall_hiveReqs (s : State) : (s.stall).hiveReqs = s.hiveReqs := rfl
@[simp] theorem State.stall_spreads (s : State) : (s.stall).spreads = s.spreads := rfl
@[simp] theorem State.stall_queues (s : State) : (s.stall).queues = s.queues := rfl
@[simp] theorem State.stall_headSince (s : State) : (s.stall).headSince = s.headSince := rfl
@[simp] theorem State.stall_gangs (s : State) : (s.stall).gangs = s.gangs := rfl
@[simp] theorem State.stall_nextGang (s : State) : (s.stall).nextGang = s.nextGang := rfl
@[simp] theorem State.stall_gbars (s : State) : (s.stall).gbars = s.gbars := rfl
@[simp] theorem State.stall_stopped (s : State) : (s.stall).stopped = s.stopped := rfl
@[simp] theorem State.stall_depcnt (s : State) : (s.stall).depcnt = s.depcnt := rfl
@[simp] theorem State.stall_burmeal (s : State) : (s.stall).burmeal = s.burmeal := rfl
@[simp] theorem State.stall_ctrs (s : State) : (s.stall).ctrs = s.ctrs := rfl
@[simp] theorem State.stall_ready (s : State) : (s.stall).ready = s.ready := rfl
@[simp] theorem State.stall_pops (s : State) : (s.stall).pops = s.pops := rfl
@[simp] theorem State.stall_blocks (s : State) : (s.stall).blocks = s.blocks := rfl
@[simp] theorem State.stall_logged (s : State) : (s.stall).logged = s.logged := rfl
@[simp] theorem State.stall_pwrlim (s : State) : (s.stall).pwrlim = s.pwrlim := rfl
@[simp] theorem State.stall_boot (s : State) : (s.stall).boot = s.boot := rfl
@[simp] theorem State.stall_cycle (s : State) : (s.stall).cycle = s.cycle := rfl
@[simp] theorem State.stall_frozen (s : State) : (s.stall).frozen = s.frozen := rfl
@[simp] theorem State.stall_ahead (s : State) : (s.stall).ahead = s.ahead := rfl
@[simp] theorem State.stall_apart (s : State) : (s.stall).apart = s.apart := rfl
@[simp] theorem State.stall_phase (s : State) : (s.stall).phase = s.phase := rfl
@[simp] theorem State.stall_agenda (s : State) : (s.stall).agenda = s.agenda := rfl
@[simp] theorem State.stall_free (s : State) : (s.stall).free = s.free := rfl

@[simp] theorem State.parkAs_cells (s : State) (p : Park) : (s.parkAs p).cells = s.cells := rfl
@[simp] theorem State.parkAs_cur (s : State) (p : Park) : (s.parkAs p).cur = s.cur := rfl
@[simp] theorem State.parkAs_mem (s : State) (p : Park) : (s.parkAs p).mem = s.mem := rfl
@[simp] theorem State.parkAs_dram (s : State) (p : Park) : (s.parkAs p).dram = s.dram := rfl
@[simp] theorem State.parkAs_mpoison (s : State) (p : Park) : (s.parkAs p).mpoison = s.mpoison := rfl
@[simp] theorem State.parkAs_msc (s : State) (p : Park) : (s.parkAs p).msc = s.msc := rfl
@[simp] theorem State.parkAs_farBuf (s : State) (p : Park) : (s.parkAs p).farBuf = s.farBuf := rfl
@[simp] theorem State.parkAs_regs (s : State) (p : Park) : (s.parkAs p).regs = s.regs := rfl
@[simp] theorem State.parkAs_hostMem (s : State) (p : Park) : (s.parkAs p).hostMem = s.hostMem := rfl
@[simp] theorem State.parkAs_hostPois (s : State) (p : Park) : (s.parkAs p).hostPois = s.hostPois := rfl
@[simp] theorem State.parkAs_hostData (s : State) (p : Park) : (s.parkAs p).hostData = s.hostData := rfl
@[simp] theorem State.parkAs_hostq (s : State) (p : Park) : (s.parkAs p).hostq = s.hostq := rfl
@[simp] theorem State.parkAs_posts (s : State) (p : Park) : (s.parkAs p).posts = s.posts := rfl
@[simp] theorem State.parkAs_report (s : State) (p : Park) : (s.parkAs p).report = s.report := rfl
@[simp] theorem State.parkAs_msix (s : State) (p : Park) : (s.parkAs p).msix = s.msix := rfl
@[simp] theorem State.parkAs_msixTab (s : State) (p : Park) : (s.parkAs p).msixTab = s.msixTab := rfl
@[simp] theorem State.parkAs_fuses (s : State) (p : Park) : (s.parkAs p).fuses = s.fuses := rfl
@[simp] theorem State.parkAs_slices (s : State) (p : Park) : (s.parkAs p).slices = s.slices := rfl
@[simp] theorem State.parkAs_accepted (s : State) (p : Park) : (s.parkAs p).accepted = s.accepted := rfl
@[simp] theorem State.parkAs_dir (s : State) (p : Park) : (s.parkAs p).dir = s.dir := rfl
@[simp] theorem State.parkAs_homes (s : State) (p : Park) : (s.parkAs p).homes = s.homes := rfl
@[simp] theorem State.parkAs_nextTag (s : State) (p : Park) : (s.parkAs p).nextTag = s.nextTag := rfl
@[simp] theorem State.parkAs_nextFlit (s : State) (p : Park) : (s.parkAs p).nextFlit = s.nextFlit := rfl
@[simp] theorem State.parkAs_net (s : State) (p : Park) : (s.parkAs p).net = s.net := rfl
@[simp] theorem State.parkAs_msgs (s : State) (p : Park) : (s.parkAs p).msgs = s.msgs := rfl
@[simp] theorem State.parkAs_fences (s : State) (p : Park) : (s.parkAs p).fences = s.fences := rfl
@[simp] theorem State.parkAs_pageRels (s : State) (p : Park) : (s.parkAs p).pageRels = s.pageRels := rfl
@[simp] theorem State.parkAs_combTlb (s : State) (p : Park) : (s.parkAs p).combTlb = s.combTlb := rfl
@[simp] theorem State.parkAs_replays (s : State) (p : Park) : (s.parkAs p).replays = s.replays := rfl
@[simp] theorem State.parkAs_flits (s : State) (p : Park) : (s.parkAs p).flits = s.flits := rfl
@[simp] theorem State.parkAs_castBuf (s : State) (p : Park) : (s.parkAs p).castBuf = s.castBuf := rfl
@[simp] theorem State.parkAs_outs (s : State) (p : Park) : (s.parkAs p).outs = s.outs := rfl
@[simp] theorem State.parkAs_hiveOut (s : State) (p : Park) : (s.parkAs p).hiveOut = s.hiveOut := rfl
@[simp] theorem State.parkAs_hiveReqs (s : State) (p : Park) : (s.parkAs p).hiveReqs = s.hiveReqs := rfl
@[simp] theorem State.parkAs_spreads (s : State) (p : Park) : (s.parkAs p).spreads = s.spreads := rfl
@[simp] theorem State.parkAs_queues (s : State) (p : Park) : (s.parkAs p).queues = s.queues := rfl
@[simp] theorem State.parkAs_headSince (s : State) (p : Park) : (s.parkAs p).headSince = s.headSince := rfl
@[simp] theorem State.parkAs_gangs (s : State) (p : Park) : (s.parkAs p).gangs = s.gangs := rfl
@[simp] theorem State.parkAs_nextGang (s : State) (p : Park) : (s.parkAs p).nextGang = s.nextGang := rfl
@[simp] theorem State.parkAs_gbars (s : State) (p : Park) : (s.parkAs p).gbars = s.gbars := rfl
@[simp] theorem State.parkAs_stopped (s : State) (p : Park) : (s.parkAs p).stopped = s.stopped := rfl
@[simp] theorem State.parkAs_depcnt (s : State) (p : Park) : (s.parkAs p).depcnt = s.depcnt := rfl
@[simp] theorem State.parkAs_burmeal (s : State) (p : Park) : (s.parkAs p).burmeal = s.burmeal := rfl
@[simp] theorem State.parkAs_ctrs (s : State) (p : Park) : (s.parkAs p).ctrs = s.ctrs := rfl
@[simp] theorem State.parkAs_ready (s : State) (p : Park) : (s.parkAs p).ready = s.ready := rfl
@[simp] theorem State.parkAs_pops (s : State) (p : Park) : (s.parkAs p).pops = s.pops := rfl
@[simp] theorem State.parkAs_blocks (s : State) (p : Park) : (s.parkAs p).blocks = s.blocks := rfl
@[simp] theorem State.parkAs_logged (s : State) (p : Park) : (s.parkAs p).logged = s.logged := rfl
@[simp] theorem State.parkAs_pwrlim (s : State) (p : Park) : (s.parkAs p).pwrlim = s.pwrlim := rfl
@[simp] theorem State.parkAs_boot (s : State) (p : Park) : (s.parkAs p).boot = s.boot := rfl
@[simp] theorem State.parkAs_cycle (s : State) (p : Park) : (s.parkAs p).cycle = s.cycle := rfl
@[simp] theorem State.parkAs_frozen (s : State) (p : Park) : (s.parkAs p).frozen = s.frozen := rfl
@[simp] theorem State.parkAs_ahead (s : State) (p : Park) : (s.parkAs p).ahead = s.ahead := rfl
@[simp] theorem State.parkAs_apart (s : State) (p : Park) : (s.parkAs p).apart = s.apart := rfl
@[simp] theorem State.parkAs_phase (s : State) (p : Park) : (s.parkAs p).phase = s.phase := rfl
@[simp] theorem State.parkAs_agenda (s : State) (p : Park) : (s.parkAs p).agenda = s.agenda := rfl
@[simp] theorem State.parkAs_free (s : State) (p : Park) : (s.parkAs p).free = s.free := rfl

@[simp] theorem Thread.writeS_live (t : Thread) (r : Reg) (x : Word) : (t.writeS r x).live = t.live := by
  unfold Thread.writeS; split <;> rfl
@[simp] theorem Thread.writeS_gang (t : Thread) (r : Reg) (x : Word) : (t.writeS r x).gang = t.gang := by
  unfold Thread.writeS; split <;> rfl
@[simp] theorem Thread.writeS_rank (t : Thread) (r : Reg) (x : Word) : (t.writeS r x).rank = t.rank := by
  unfold Thread.writeS; split <;> rfl
@[simp] theorem Thread.writeS_pc (t : Thread) (r : Reg) (x : Word) : (t.writeS r x).pc = t.pc := by
  unfold Thread.writeS; split <;> rfl
@[simp] theorem Thread.writeS_mode (t : Thread) (r : Reg) (x : Word) : (t.writeS r x).mode = t.mode := by
  unfold Thread.writeS; split <;> rfl
@[simp] theorem Thread.writeS_m (t : Thread) (r : Reg) (x : Word) : (t.writeS r x).m = t.m := by
  unfold Thread.writeS; split <;> rfl
@[simp] theorem Thread.writeS_mb (t : Thread) (r : Reg) (x : Word) : (t.writeS r x).mb = t.mb := by
  unfold Thread.writeS; split <;> rfl
@[simp] theorem Thread.writeS_csr (t : Thread) (r : Reg) (x : Word) : (t.writeS r x).csr = t.csr := by
  unfold Thread.writeS; split <;> rfl
@[simp] theorem Thread.writeS_tiles (t : Thread) (r : Reg) (x : Word) : (t.writeS r x).tiles = t.tiles := by
  unfold Thread.writeS; split <;> rfl
@[simp] theorem Thread.writeS_accs (t : Thread) (r : Reg) (x : Word) : (t.writeS r x).accs = t.accs := by
  unfold Thread.writeS; split <;> rfl
@[simp] theorem Thread.writeS_tcfgSeen (t : Thread) (r : Reg) (x : Word) : (t.writeS r x).tcfgSeen = t.tcfgSeen := by
  unfold Thread.writeS; split <;> rfl
@[simp] theorem Thread.writeS_written (t : Thread) (r : Reg) (x : Word) : (t.writeS r x).written = t.written := by
  unfold Thread.writeS; split <;> rfl
@[simp] theorem Thread.writeS_pend (t : Thread) (r : Reg) (x : Word) : (t.writeS r x).pend = t.pend := by
  unfold Thread.writeS; split <;> rfl
@[simp] theorem Thread.writeS_tpoison (t : Thread) (r : Reg) (x : Word) : (t.writeS r x).tpoison = t.tpoison := by
  unfold Thread.writeS; split <;> rfl
@[simp] theorem Thread.writeS_park (t : Thread) (r : Reg) (x : Word) : (t.writeS r x).park = t.park := by
  unfold Thread.writeS; split <;> rfl
@[simp] theorem Thread.writeS_tokens (t : Thread) (r : Reg) (x : Word) : (t.writeS r x).tokens = t.tokens := by
  unfold Thread.writeS; split <;> rfl
@[simp] theorem Thread.writeS_seq (t : Thread) (r : Reg) (x : Word) : (t.writeS r x).seq = t.seq := by
  unfold Thread.writeS; split <;> rfl
@[simp] theorem Thread.writeS_vq (t : Thread) (r : Reg) (x : Word) : (t.writeS r x).vq = t.vq := by
  unfold Thread.writeS; split <;> rfl
@[simp] theorem Thread.writeS_tq (t : Thread) (r : Reg) (x : Word) : (t.writeS r x).tq = t.tq := by
  unfold Thread.writeS; split <;> rfl
@[simp] theorem Thread.writeS_remS (t : Thread) (r : Reg) (x : Word) : (t.writeS r x).remS = t.remS := by
  unfold Thread.writeS; split <;> rfl
@[simp] theorem Thread.writeS_remM (t : Thread) (r : Reg) (x : Word) : (t.writeS r x).remM = t.remM := by
  unfold Thread.writeS; split <;> rfl
@[simp] theorem Thread.writeS_loop (t : Thread) (r : Reg) (x : Word) : (t.writeS r x).loop = t.loop := by
  unfold Thread.writeS; split <;> rfl
@[simp] theorem Thread.writeS_loopS (t : Thread) (r : Reg) (x : Word) : (t.writeS r x).loopS = t.loopS := by
  unfold Thread.writeS; split <;> rfl
@[simp] theorem Thread.writeS_loopM (t : Thread) (r : Reg) (x : Word) : (t.writeS r x).loopM = t.loopM := by
  unfold Thread.writeS; split <;> rfl
@[simp] theorem Thread.writeS_slots (t : Thread) (r : Reg) (x : Word) : (t.writeS r x).slots = t.slots := by
  unfold Thread.writeS; split <;> rfl
@[simp] theorem Thread.writeS_nextBatch (t : Thread) (r : Reg) (x : Word) : (t.writeS r x).nextBatch = t.nextBatch := by
  unfold Thread.writeS; split <;> rfl
@[simp] theorem Thread.writeS_openCmds (t : Thread) (r : Reg) (x : Word) : (t.writeS r x).openCmds = t.openCmds := by
  unfold Thread.writeS; split <;> rfl
@[simp] theorem Thread.writeS_batches (t : Thread) (r : Reg) (x : Word) : (t.writeS r x).batches = t.batches := by
  unfold Thread.writeS; split <;> rfl
@[simp] theorem Thread.writeS_deferred (t : Thread) (r : Reg) (x : Word) : (t.writeS r x).deferred = t.deferred := by
  unfold Thread.writeS; split <;> rfl
@[simp] theorem Thread.writeS_leaseMin (t : Thread) (r : Reg) (x : Word) : (t.writeS r x).leaseMin = t.leaseMin := by
  unfold Thread.writeS; split <;> rfl
@[simp] theorem Thread.writeS_leasePref (t : Thread) (r : Reg) (x : Word) : (t.writeS r x).leasePref = t.leasePref := by
  unfold Thread.writeS; split <;> rfl
@[simp] theorem Thread.writeS_fwd (t : Thread) (r : Reg) (x : Word) : (t.writeS r x).fwd = t.fwd := by
  unfold Thread.writeS; split <;> rfl
@[simp] theorem Thread.writeS_fwdBuf (t : Thread) (r : Reg) (x : Word) : (t.writeS r x).fwdBuf = t.fwdBuf := by
  unfold Thread.writeS; split <;> rfl
@[simp] theorem Thread.writeS_resident (t : Thread) (r : Reg) (x : Word) : (t.writeS r x).resident = t.resident := by
  unfold Thread.writeS; split <;> rfl
@[simp] theorem Thread.writeS_stopped (t : Thread) (r : Reg) (x : Word) : (t.writeS r x).stopped = t.stopped := by
  unfold Thread.writeS; split <;> rfl
@[simp] theorem Thread.writeS_migTimeout (t : Thread) (r : Reg) (x : Word) : (t.writeS r x).migTimeout = t.migTimeout := by
  unfold Thread.writeS; split <;> rfl
@[simp] theorem Thread.writeS_reads (t : Thread) (r : Reg) (x : Word) : (t.writeS r x).reads = t.reads := by
  unfold Thread.writeS; split <;> rfl
@[simp] theorem Thread.writeS_ringSince (t : Thread) (r : Reg) (x : Word) : (t.writeS r x).ringSince = t.ringSince := by
  unfold Thread.writeS; split <;> rfl
@[simp] theorem Thread.writeS_lead (t : Thread) (r : Reg) (x : Word) : (t.writeS r x).lead = t.lead := by
  unfold Thread.writeS; split <;> rfl
@[simp] theorem Thread.writeS_pred (t : Thread) (r : Reg) (x : Word) : (t.writeS r x).pred = t.pred := by
  unfold Thread.writeS; split <;> rfl
@[simp] theorem Thread.writeS_hazAt (t : Thread) (r : Reg) (x : Word) : (t.writeS r x).hazAt = t.hazAt := by
  unfold Thread.writeS; split <;> rfl
@[simp] theorem Thread.writeS_issuedAt (t : Thread) (r : Reg) (x : Word) : (t.writeS r x).issuedAt = t.issuedAt := by
  unfold Thread.writeS; split <;> rfl
@[simp] theorem Thread.writeS_descRead (t : Thread) (r : Reg) (x : Word) : (t.writeS r x).descRead = t.descRead := by
  unfold Thread.writeS; split <;> rfl
@[simp] theorem Thread.writeS_part (t : Thread) (r : Reg) (x : Word) : (t.writeS r x).part = t.part := by
  unfold Thread.writeS; split <;> rfl
@[simp] theorem Thread.writeS_mbWrote (t : Thread) (r : Reg) (x : Word) : (t.writeS r x).mbWrote = t.mbWrote := by
  unfold Thread.writeS; split <;> rfl

@[simp] theorem Thread.writeV_live (t : Thread) (i : Nat) (x : BitVec 8192) : (t.writeV i x).live = t.live := rfl
@[simp] theorem Thread.writeV_gang (t : Thread) (i : Nat) (x : BitVec 8192) : (t.writeV i x).gang = t.gang := rfl
@[simp] theorem Thread.writeV_rank (t : Thread) (i : Nat) (x : BitVec 8192) : (t.writeV i x).rank = t.rank := rfl
@[simp] theorem Thread.writeV_pc (t : Thread) (i : Nat) (x : BitVec 8192) : (t.writeV i x).pc = t.pc := rfl
@[simp] theorem Thread.writeV_mode (t : Thread) (i : Nat) (x : BitVec 8192) : (t.writeV i x).mode = t.mode := rfl
@[simp] theorem Thread.writeV_m (t : Thread) (i : Nat) (x : BitVec 8192) : (t.writeV i x).m = t.m := rfl
@[simp] theorem Thread.writeV_mb (t : Thread) (i : Nat) (x : BitVec 8192) : (t.writeV i x).mb = t.mb := rfl
@[simp] theorem Thread.writeV_csr (t : Thread) (i : Nat) (x : BitVec 8192) : (t.writeV i x).csr = t.csr := rfl
@[simp] theorem Thread.writeV_tiles (t : Thread) (i : Nat) (x : BitVec 8192) : (t.writeV i x).tiles = t.tiles := rfl
@[simp] theorem Thread.writeV_accs (t : Thread) (i : Nat) (x : BitVec 8192) : (t.writeV i x).accs = t.accs := rfl
@[simp] theorem Thread.writeV_tcfgSeen (t : Thread) (i : Nat) (x : BitVec 8192) : (t.writeV i x).tcfgSeen = t.tcfgSeen := rfl
@[simp] theorem Thread.writeV_pend (t : Thread) (i : Nat) (x : BitVec 8192) : (t.writeV i x).pend = t.pend := rfl
@[simp] theorem Thread.writeV_poison (t : Thread) (i : Nat) (x : BitVec 8192) : (t.writeV i x).poison = t.poison := rfl
@[simp] theorem Thread.writeV_tpoison (t : Thread) (i : Nat) (x : BitVec 8192) : (t.writeV i x).tpoison = t.tpoison := rfl
@[simp] theorem Thread.writeV_park (t : Thread) (i : Nat) (x : BitVec 8192) : (t.writeV i x).park = t.park := rfl
@[simp] theorem Thread.writeV_tokens (t : Thread) (i : Nat) (x : BitVec 8192) : (t.writeV i x).tokens = t.tokens := rfl
@[simp] theorem Thread.writeV_seq (t : Thread) (i : Nat) (x : BitVec 8192) : (t.writeV i x).seq = t.seq := rfl
@[simp] theorem Thread.writeV_vq (t : Thread) (i : Nat) (x : BitVec 8192) : (t.writeV i x).vq = t.vq := rfl
@[simp] theorem Thread.writeV_tq (t : Thread) (i : Nat) (x : BitVec 8192) : (t.writeV i x).tq = t.tq := rfl
@[simp] theorem Thread.writeV_remS (t : Thread) (i : Nat) (x : BitVec 8192) : (t.writeV i x).remS = t.remS := rfl
@[simp] theorem Thread.writeV_remM (t : Thread) (i : Nat) (x : BitVec 8192) : (t.writeV i x).remM = t.remM := rfl
@[simp] theorem Thread.writeV_loop (t : Thread) (i : Nat) (x : BitVec 8192) : (t.writeV i x).loop = t.loop := rfl
@[simp] theorem Thread.writeV_loopS (t : Thread) (i : Nat) (x : BitVec 8192) : (t.writeV i x).loopS = t.loopS := rfl
@[simp] theorem Thread.writeV_loopM (t : Thread) (i : Nat) (x : BitVec 8192) : (t.writeV i x).loopM = t.loopM := rfl
@[simp] theorem Thread.writeV_slots (t : Thread) (i : Nat) (x : BitVec 8192) : (t.writeV i x).slots = t.slots := rfl
@[simp] theorem Thread.writeV_nextBatch (t : Thread) (i : Nat) (x : BitVec 8192) : (t.writeV i x).nextBatch = t.nextBatch := rfl
@[simp] theorem Thread.writeV_openCmds (t : Thread) (i : Nat) (x : BitVec 8192) : (t.writeV i x).openCmds = t.openCmds := rfl
@[simp] theorem Thread.writeV_batches (t : Thread) (i : Nat) (x : BitVec 8192) : (t.writeV i x).batches = t.batches := rfl
@[simp] theorem Thread.writeV_deferred (t : Thread) (i : Nat) (x : BitVec 8192) : (t.writeV i x).deferred = t.deferred := rfl
@[simp] theorem Thread.writeV_leaseMin (t : Thread) (i : Nat) (x : BitVec 8192) : (t.writeV i x).leaseMin = t.leaseMin := rfl
@[simp] theorem Thread.writeV_leasePref (t : Thread) (i : Nat) (x : BitVec 8192) : (t.writeV i x).leasePref = t.leasePref := rfl
@[simp] theorem Thread.writeV_fwd (t : Thread) (i : Nat) (x : BitVec 8192) : (t.writeV i x).fwd = t.fwd := rfl
@[simp] theorem Thread.writeV_fwdBuf (t : Thread) (i : Nat) (x : BitVec 8192) : (t.writeV i x).fwdBuf = t.fwdBuf := rfl
@[simp] theorem Thread.writeV_resident (t : Thread) (i : Nat) (x : BitVec 8192) : (t.writeV i x).resident = t.resident := rfl
@[simp] theorem Thread.writeV_stopped (t : Thread) (i : Nat) (x : BitVec 8192) : (t.writeV i x).stopped = t.stopped := rfl
@[simp] theorem Thread.writeV_migTimeout (t : Thread) (i : Nat) (x : BitVec 8192) : (t.writeV i x).migTimeout = t.migTimeout := rfl
@[simp] theorem Thread.writeV_reads (t : Thread) (i : Nat) (x : BitVec 8192) : (t.writeV i x).reads = t.reads := rfl
@[simp] theorem Thread.writeV_ringSince (t : Thread) (i : Nat) (x : BitVec 8192) : (t.writeV i x).ringSince = t.ringSince := rfl
@[simp] theorem Thread.writeV_lead (t : Thread) (i : Nat) (x : BitVec 8192) : (t.writeV i x).lead = t.lead := rfl
@[simp] theorem Thread.writeV_pred (t : Thread) (i : Nat) (x : BitVec 8192) : (t.writeV i x).pred = t.pred := rfl
@[simp] theorem Thread.writeV_hazAt (t : Thread) (i : Nat) (x : BitVec 8192) : (t.writeV i x).hazAt = t.hazAt := rfl
@[simp] theorem Thread.writeV_issuedAt (t : Thread) (i : Nat) (x : BitVec 8192) : (t.writeV i x).issuedAt = t.issuedAt := rfl
@[simp] theorem Thread.writeV_descRead (t : Thread) (i : Nat) (x : BitVec 8192) : (t.writeV i x).descRead = t.descRead := rfl
@[simp] theorem Thread.writeV_part (t : Thread) (i : Nat) (x : BitVec 8192) : (t.writeV i x).part = t.part := rfl
@[simp] theorem Thread.writeV_mbWrote (t : Thread) (i : Nat) (x : BitVec 8192) : (t.writeV i x).mbWrote = t.mbWrote := rfl

@[simp] theorem Thread.writeM_live (t : Thread) (i : Nat) (x : BitVec 1024) : (t.writeM i x).live = t.live := rfl
@[simp] theorem Thread.writeM_gang (t : Thread) (i : Nat) (x : BitVec 1024) : (t.writeM i x).gang = t.gang := rfl
@[simp] theorem Thread.writeM_rank (t : Thread) (i : Nat) (x : BitVec 1024) : (t.writeM i x).rank = t.rank := rfl
@[simp] theorem Thread.writeM_pc (t : Thread) (i : Nat) (x : BitVec 1024) : (t.writeM i x).pc = t.pc := rfl
@[simp] theorem Thread.writeM_mode (t : Thread) (i : Nat) (x : BitVec 1024) : (t.writeM i x).mode = t.mode := rfl
@[simp] theorem Thread.writeM_v (t : Thread) (i : Nat) (x : BitVec 1024) : (t.writeM i x).v = t.v := rfl
@[simp] theorem Thread.writeM_mb (t : Thread) (i : Nat) (x : BitVec 1024) : (t.writeM i x).mb = t.mb := rfl
@[simp] theorem Thread.writeM_csr (t : Thread) (i : Nat) (x : BitVec 1024) : (t.writeM i x).csr = t.csr := rfl
@[simp] theorem Thread.writeM_tiles (t : Thread) (i : Nat) (x : BitVec 1024) : (t.writeM i x).tiles = t.tiles := rfl
@[simp] theorem Thread.writeM_accs (t : Thread) (i : Nat) (x : BitVec 1024) : (t.writeM i x).accs = t.accs := rfl
@[simp] theorem Thread.writeM_tcfgSeen (t : Thread) (i : Nat) (x : BitVec 1024) : (t.writeM i x).tcfgSeen = t.tcfgSeen := rfl
@[simp] theorem Thread.writeM_written (t : Thread) (i : Nat) (x : BitVec 1024) : (t.writeM i x).written = t.written := rfl
@[simp] theorem Thread.writeM_pend (t : Thread) (i : Nat) (x : BitVec 1024) : (t.writeM i x).pend = t.pend := rfl
@[simp] theorem Thread.writeM_poison (t : Thread) (i : Nat) (x : BitVec 1024) : (t.writeM i x).poison = t.poison := rfl
@[simp] theorem Thread.writeM_tpoison (t : Thread) (i : Nat) (x : BitVec 1024) : (t.writeM i x).tpoison = t.tpoison := rfl
@[simp] theorem Thread.writeM_park (t : Thread) (i : Nat) (x : BitVec 1024) : (t.writeM i x).park = t.park := rfl
@[simp] theorem Thread.writeM_tokens (t : Thread) (i : Nat) (x : BitVec 1024) : (t.writeM i x).tokens = t.tokens := rfl
@[simp] theorem Thread.writeM_seq (t : Thread) (i : Nat) (x : BitVec 1024) : (t.writeM i x).seq = t.seq := rfl
@[simp] theorem Thread.writeM_vq (t : Thread) (i : Nat) (x : BitVec 1024) : (t.writeM i x).vq = t.vq := rfl
@[simp] theorem Thread.writeM_tq (t : Thread) (i : Nat) (x : BitVec 1024) : (t.writeM i x).tq = t.tq := rfl
@[simp] theorem Thread.writeM_remS (t : Thread) (i : Nat) (x : BitVec 1024) : (t.writeM i x).remS = t.remS := rfl
@[simp] theorem Thread.writeM_remM (t : Thread) (i : Nat) (x : BitVec 1024) : (t.writeM i x).remM = t.remM := rfl
@[simp] theorem Thread.writeM_loop (t : Thread) (i : Nat) (x : BitVec 1024) : (t.writeM i x).loop = t.loop := rfl
@[simp] theorem Thread.writeM_loopS (t : Thread) (i : Nat) (x : BitVec 1024) : (t.writeM i x).loopS = t.loopS := rfl
@[simp] theorem Thread.writeM_loopM (t : Thread) (i : Nat) (x : BitVec 1024) : (t.writeM i x).loopM = t.loopM := rfl
@[simp] theorem Thread.writeM_slots (t : Thread) (i : Nat) (x : BitVec 1024) : (t.writeM i x).slots = t.slots := rfl
@[simp] theorem Thread.writeM_nextBatch (t : Thread) (i : Nat) (x : BitVec 1024) : (t.writeM i x).nextBatch = t.nextBatch := rfl
@[simp] theorem Thread.writeM_openCmds (t : Thread) (i : Nat) (x : BitVec 1024) : (t.writeM i x).openCmds = t.openCmds := rfl
@[simp] theorem Thread.writeM_batches (t : Thread) (i : Nat) (x : BitVec 1024) : (t.writeM i x).batches = t.batches := rfl
@[simp] theorem Thread.writeM_deferred (t : Thread) (i : Nat) (x : BitVec 1024) : (t.writeM i x).deferred = t.deferred := rfl
@[simp] theorem Thread.writeM_leaseMin (t : Thread) (i : Nat) (x : BitVec 1024) : (t.writeM i x).leaseMin = t.leaseMin := rfl
@[simp] theorem Thread.writeM_leasePref (t : Thread) (i : Nat) (x : BitVec 1024) : (t.writeM i x).leasePref = t.leasePref := rfl
@[simp] theorem Thread.writeM_fwd (t : Thread) (i : Nat) (x : BitVec 1024) : (t.writeM i x).fwd = t.fwd := rfl
@[simp] theorem Thread.writeM_fwdBuf (t : Thread) (i : Nat) (x : BitVec 1024) : (t.writeM i x).fwdBuf = t.fwdBuf := rfl
@[simp] theorem Thread.writeM_resident (t : Thread) (i : Nat) (x : BitVec 1024) : (t.writeM i x).resident = t.resident := rfl
@[simp] theorem Thread.writeM_stopped (t : Thread) (i : Nat) (x : BitVec 1024) : (t.writeM i x).stopped = t.stopped := rfl
@[simp] theorem Thread.writeM_migTimeout (t : Thread) (i : Nat) (x : BitVec 1024) : (t.writeM i x).migTimeout = t.migTimeout := rfl
@[simp] theorem Thread.writeM_reads (t : Thread) (i : Nat) (x : BitVec 1024) : (t.writeM i x).reads = t.reads := rfl
@[simp] theorem Thread.writeM_ringSince (t : Thread) (i : Nat) (x : BitVec 1024) : (t.writeM i x).ringSince = t.ringSince := rfl
@[simp] theorem Thread.writeM_lead (t : Thread) (i : Nat) (x : BitVec 1024) : (t.writeM i x).lead = t.lead := rfl
@[simp] theorem Thread.writeM_pred (t : Thread) (i : Nat) (x : BitVec 1024) : (t.writeM i x).pred = t.pred := rfl
@[simp] theorem Thread.writeM_hazAt (t : Thread) (i : Nat) (x : BitVec 1024) : (t.writeM i x).hazAt = t.hazAt := rfl
@[simp] theorem Thread.writeM_issuedAt (t : Thread) (i : Nat) (x : BitVec 1024) : (t.writeM i x).issuedAt = t.issuedAt := rfl
@[simp] theorem Thread.writeM_descRead (t : Thread) (i : Nat) (x : BitVec 1024) : (t.writeM i x).descRead = t.descRead := rfl
@[simp] theorem Thread.writeM_part (t : Thread) (i : Nat) (x : BitVec 1024) : (t.writeM i x).part = t.part := rfl
@[simp] theorem Thread.writeM_mbWrote (t : Thread) (i : Nat) (x : BitVec 1024) : (t.writeM i x).mbWrote = t.mbWrote := rfl

@[simp] theorem Thread.csrSet_live (t : Thread) (n : Nat) (x : Word) : (t.csrSet n x).live = t.live := rfl
@[simp] theorem Thread.csrSet_gang (t : Thread) (n : Nat) (x : Word) : (t.csrSet n x).gang = t.gang := rfl
@[simp] theorem Thread.csrSet_rank (t : Thread) (n : Nat) (x : Word) : (t.csrSet n x).rank = t.rank := rfl
@[simp] theorem Thread.csrSet_pc (t : Thread) (n : Nat) (x : Word) : (t.csrSet n x).pc = t.pc := rfl
@[simp] theorem Thread.csrSet_mode (t : Thread) (n : Nat) (x : Word) : (t.csrSet n x).mode = t.mode := rfl
@[simp] theorem Thread.csrSet_v (t : Thread) (n : Nat) (x : Word) : (t.csrSet n x).v = t.v := rfl
@[simp] theorem Thread.csrSet_m (t : Thread) (n : Nat) (x : Word) : (t.csrSet n x).m = t.m := rfl
@[simp] theorem Thread.csrSet_mb (t : Thread) (n : Nat) (x : Word) : (t.csrSet n x).mb = t.mb := rfl
@[simp] theorem Thread.csrSet_tiles (t : Thread) (n : Nat) (x : Word) : (t.csrSet n x).tiles = t.tiles := rfl
@[simp] theorem Thread.csrSet_accs (t : Thread) (n : Nat) (x : Word) : (t.csrSet n x).accs = t.accs := rfl
@[simp] theorem Thread.csrSet_tcfgSeen (t : Thread) (n : Nat) (x : Word) : (t.csrSet n x).tcfgSeen = t.tcfgSeen := rfl
@[simp] theorem Thread.csrSet_written (t : Thread) (n : Nat) (x : Word) : (t.csrSet n x).written = t.written := rfl
@[simp] theorem Thread.csrSet_pend (t : Thread) (n : Nat) (x : Word) : (t.csrSet n x).pend = t.pend := rfl
@[simp] theorem Thread.csrSet_poison (t : Thread) (n : Nat) (x : Word) : (t.csrSet n x).poison = t.poison := rfl
@[simp] theorem Thread.csrSet_tpoison (t : Thread) (n : Nat) (x : Word) : (t.csrSet n x).tpoison = t.tpoison := rfl
@[simp] theorem Thread.csrSet_park (t : Thread) (n : Nat) (x : Word) : (t.csrSet n x).park = t.park := rfl
@[simp] theorem Thread.csrSet_tokens (t : Thread) (n : Nat) (x : Word) : (t.csrSet n x).tokens = t.tokens := rfl
@[simp] theorem Thread.csrSet_seq (t : Thread) (n : Nat) (x : Word) : (t.csrSet n x).seq = t.seq := rfl
@[simp] theorem Thread.csrSet_vq (t : Thread) (n : Nat) (x : Word) : (t.csrSet n x).vq = t.vq := rfl
@[simp] theorem Thread.csrSet_tq (t : Thread) (n : Nat) (x : Word) : (t.csrSet n x).tq = t.tq := rfl
@[simp] theorem Thread.csrSet_remS (t : Thread) (n : Nat) (x : Word) : (t.csrSet n x).remS = t.remS := rfl
@[simp] theorem Thread.csrSet_remM (t : Thread) (n : Nat) (x : Word) : (t.csrSet n x).remM = t.remM := rfl
@[simp] theorem Thread.csrSet_loop (t : Thread) (n : Nat) (x : Word) : (t.csrSet n x).loop = t.loop := rfl
@[simp] theorem Thread.csrSet_loopS (t : Thread) (n : Nat) (x : Word) : (t.csrSet n x).loopS = t.loopS := rfl
@[simp] theorem Thread.csrSet_loopM (t : Thread) (n : Nat) (x : Word) : (t.csrSet n x).loopM = t.loopM := rfl
@[simp] theorem Thread.csrSet_slots (t : Thread) (n : Nat) (x : Word) : (t.csrSet n x).slots = t.slots := rfl
@[simp] theorem Thread.csrSet_nextBatch (t : Thread) (n : Nat) (x : Word) : (t.csrSet n x).nextBatch = t.nextBatch := rfl
@[simp] theorem Thread.csrSet_openCmds (t : Thread) (n : Nat) (x : Word) : (t.csrSet n x).openCmds = t.openCmds := rfl
@[simp] theorem Thread.csrSet_batches (t : Thread) (n : Nat) (x : Word) : (t.csrSet n x).batches = t.batches := rfl
@[simp] theorem Thread.csrSet_deferred (t : Thread) (n : Nat) (x : Word) : (t.csrSet n x).deferred = t.deferred := rfl
@[simp] theorem Thread.csrSet_leaseMin (t : Thread) (n : Nat) (x : Word) : (t.csrSet n x).leaseMin = t.leaseMin := rfl
@[simp] theorem Thread.csrSet_leasePref (t : Thread) (n : Nat) (x : Word) : (t.csrSet n x).leasePref = t.leasePref := rfl
@[simp] theorem Thread.csrSet_fwd (t : Thread) (n : Nat) (x : Word) : (t.csrSet n x).fwd = t.fwd := rfl
@[simp] theorem Thread.csrSet_fwdBuf (t : Thread) (n : Nat) (x : Word) : (t.csrSet n x).fwdBuf = t.fwdBuf := rfl
@[simp] theorem Thread.csrSet_resident (t : Thread) (n : Nat) (x : Word) : (t.csrSet n x).resident = t.resident := rfl
@[simp] theorem Thread.csrSet_stopped (t : Thread) (n : Nat) (x : Word) : (t.csrSet n x).stopped = t.stopped := rfl
@[simp] theorem Thread.csrSet_migTimeout (t : Thread) (n : Nat) (x : Word) : (t.csrSet n x).migTimeout = t.migTimeout := rfl
@[simp] theorem Thread.csrSet_reads (t : Thread) (n : Nat) (x : Word) : (t.csrSet n x).reads = t.reads := rfl
@[simp] theorem Thread.csrSet_ringSince (t : Thread) (n : Nat) (x : Word) : (t.csrSet n x).ringSince = t.ringSince := rfl
@[simp] theorem Thread.csrSet_lead (t : Thread) (n : Nat) (x : Word) : (t.csrSet n x).lead = t.lead := rfl
@[simp] theorem Thread.csrSet_pred (t : Thread) (n : Nat) (x : Word) : (t.csrSet n x).pred = t.pred := rfl
@[simp] theorem Thread.csrSet_hazAt (t : Thread) (n : Nat) (x : Word) : (t.csrSet n x).hazAt = t.hazAt := rfl
@[simp] theorem Thread.csrSet_issuedAt (t : Thread) (n : Nat) (x : Word) : (t.csrSet n x).issuedAt = t.issuedAt := rfl
@[simp] theorem Thread.csrSet_descRead (t : Thread) (n : Nat) (x : Word) : (t.csrSet n x).descRead = t.descRead := rfl
@[simp] theorem Thread.csrSet_part (t : Thread) (n : Nat) (x : Word) : (t.csrSet n x).part = t.part := rfl
@[simp] theorem Thread.csrSet_mbWrote (t : Thread) (n : Nat) (x : Word) : (t.csrSet n x).mbWrote = t.mbWrote := rfl

@[simp] theorem Thread.pendScalar_live (t : Thread) (d : Reg) (x : Word) (p : Bool) (fl : BitVec 7) : (t.pendScalar d x p fl).live = t.live := rfl
@[simp] theorem Thread.pendScalar_gang (t : Thread) (d : Reg) (x : Word) (p : Bool) (fl : BitVec 7) : (t.pendScalar d x p fl).gang = t.gang := rfl
@[simp] theorem Thread.pendScalar_rank (t : Thread) (d : Reg) (x : Word) (p : Bool) (fl : BitVec 7) : (t.pendScalar d x p fl).rank = t.rank := rfl
@[simp] theorem Thread.pendScalar_pc (t : Thread) (d : Reg) (x : Word) (p : Bool) (fl : BitVec 7) : (t.pendScalar d x p fl).pc = t.pc := rfl
@[simp] theorem Thread.pendScalar_mode (t : Thread) (d : Reg) (x : Word) (p : Bool) (fl : BitVec 7) : (t.pendScalar d x p fl).mode = t.mode := rfl
@[simp] theorem Thread.pendScalar_v (t : Thread) (d : Reg) (x : Word) (p : Bool) (fl : BitVec 7) : (t.pendScalar d x p fl).v = t.v := rfl
@[simp] theorem Thread.pendScalar_m (t : Thread) (d : Reg) (x : Word) (p : Bool) (fl : BitVec 7) : (t.pendScalar d x p fl).m = t.m := rfl
@[simp] theorem Thread.pendScalar_mb (t : Thread) (d : Reg) (x : Word) (p : Bool) (fl : BitVec 7) : (t.pendScalar d x p fl).mb = t.mb := rfl
@[simp] theorem Thread.pendScalar_csr (t : Thread) (d : Reg) (x : Word) (p : Bool) (fl : BitVec 7) : (t.pendScalar d x p fl).csr = t.csr := rfl
@[simp] theorem Thread.pendScalar_tiles (t : Thread) (d : Reg) (x : Word) (p : Bool) (fl : BitVec 7) : (t.pendScalar d x p fl).tiles = t.tiles := rfl
@[simp] theorem Thread.pendScalar_accs (t : Thread) (d : Reg) (x : Word) (p : Bool) (fl : BitVec 7) : (t.pendScalar d x p fl).accs = t.accs := rfl
@[simp] theorem Thread.pendScalar_tcfgSeen (t : Thread) (d : Reg) (x : Word) (p : Bool) (fl : BitVec 7) : (t.pendScalar d x p fl).tcfgSeen = t.tcfgSeen := rfl
@[simp] theorem Thread.pendScalar_written (t : Thread) (d : Reg) (x : Word) (p : Bool) (fl : BitVec 7) : (t.pendScalar d x p fl).written = t.written := rfl
@[simp] theorem Thread.pendScalar_poison (t : Thread) (d : Reg) (x : Word) (p : Bool) (fl : BitVec 7) : (t.pendScalar d x p fl).poison = t.poison := rfl
@[simp] theorem Thread.pendScalar_tpoison (t : Thread) (d : Reg) (x : Word) (p : Bool) (fl : BitVec 7) : (t.pendScalar d x p fl).tpoison = t.tpoison := rfl
@[simp] theorem Thread.pendScalar_park (t : Thread) (d : Reg) (x : Word) (p : Bool) (fl : BitVec 7) : (t.pendScalar d x p fl).park = t.park := rfl
@[simp] theorem Thread.pendScalar_tokens (t : Thread) (d : Reg) (x : Word) (p : Bool) (fl : BitVec 7) : (t.pendScalar d x p fl).tokens = t.tokens := rfl
@[simp] theorem Thread.pendScalar_seq (t : Thread) (d : Reg) (x : Word) (p : Bool) (fl : BitVec 7) : (t.pendScalar d x p fl).seq = t.seq := rfl
@[simp] theorem Thread.pendScalar_vq (t : Thread) (d : Reg) (x : Word) (p : Bool) (fl : BitVec 7) : (t.pendScalar d x p fl).vq = t.vq := rfl
@[simp] theorem Thread.pendScalar_tq (t : Thread) (d : Reg) (x : Word) (p : Bool) (fl : BitVec 7) : (t.pendScalar d x p fl).tq = t.tq := rfl
@[simp] theorem Thread.pendScalar_remS (t : Thread) (d : Reg) (x : Word) (p : Bool) (fl : BitVec 7) : (t.pendScalar d x p fl).remS = t.remS := rfl
@[simp] theorem Thread.pendScalar_remM (t : Thread) (d : Reg) (x : Word) (p : Bool) (fl : BitVec 7) : (t.pendScalar d x p fl).remM = t.remM := rfl
@[simp] theorem Thread.pendScalar_loop (t : Thread) (d : Reg) (x : Word) (p : Bool) (fl : BitVec 7) : (t.pendScalar d x p fl).loop = t.loop := rfl
@[simp] theorem Thread.pendScalar_loopS (t : Thread) (d : Reg) (x : Word) (p : Bool) (fl : BitVec 7) : (t.pendScalar d x p fl).loopS = t.loopS := rfl
@[simp] theorem Thread.pendScalar_loopM (t : Thread) (d : Reg) (x : Word) (p : Bool) (fl : BitVec 7) : (t.pendScalar d x p fl).loopM = t.loopM := rfl
@[simp] theorem Thread.pendScalar_slots (t : Thread) (d : Reg) (x : Word) (p : Bool) (fl : BitVec 7) : (t.pendScalar d x p fl).slots = t.slots := rfl
@[simp] theorem Thread.pendScalar_nextBatch (t : Thread) (d : Reg) (x : Word) (p : Bool) (fl : BitVec 7) : (t.pendScalar d x p fl).nextBatch = t.nextBatch := rfl
@[simp] theorem Thread.pendScalar_openCmds (t : Thread) (d : Reg) (x : Word) (p : Bool) (fl : BitVec 7) : (t.pendScalar d x p fl).openCmds = t.openCmds := rfl
@[simp] theorem Thread.pendScalar_batches (t : Thread) (d : Reg) (x : Word) (p : Bool) (fl : BitVec 7) : (t.pendScalar d x p fl).batches = t.batches := rfl
@[simp] theorem Thread.pendScalar_deferred (t : Thread) (d : Reg) (x : Word) (p : Bool) (fl : BitVec 7) : (t.pendScalar d x p fl).deferred = t.deferred := rfl
@[simp] theorem Thread.pendScalar_leaseMin (t : Thread) (d : Reg) (x : Word) (p : Bool) (fl : BitVec 7) : (t.pendScalar d x p fl).leaseMin = t.leaseMin := rfl
@[simp] theorem Thread.pendScalar_leasePref (t : Thread) (d : Reg) (x : Word) (p : Bool) (fl : BitVec 7) : (t.pendScalar d x p fl).leasePref = t.leasePref := rfl
@[simp] theorem Thread.pendScalar_fwd (t : Thread) (d : Reg) (x : Word) (p : Bool) (fl : BitVec 7) : (t.pendScalar d x p fl).fwd = t.fwd := rfl
@[simp] theorem Thread.pendScalar_fwdBuf (t : Thread) (d : Reg) (x : Word) (p : Bool) (fl : BitVec 7) : (t.pendScalar d x p fl).fwdBuf = t.fwdBuf := rfl
@[simp] theorem Thread.pendScalar_resident (t : Thread) (d : Reg) (x : Word) (p : Bool) (fl : BitVec 7) : (t.pendScalar d x p fl).resident = t.resident := rfl
@[simp] theorem Thread.pendScalar_stopped (t : Thread) (d : Reg) (x : Word) (p : Bool) (fl : BitVec 7) : (t.pendScalar d x p fl).stopped = t.stopped := rfl
@[simp] theorem Thread.pendScalar_migTimeout (t : Thread) (d : Reg) (x : Word) (p : Bool) (fl : BitVec 7) : (t.pendScalar d x p fl).migTimeout = t.migTimeout := rfl
@[simp] theorem Thread.pendScalar_reads (t : Thread) (d : Reg) (x : Word) (p : Bool) (fl : BitVec 7) : (t.pendScalar d x p fl).reads = t.reads := rfl
@[simp] theorem Thread.pendScalar_ringSince (t : Thread) (d : Reg) (x : Word) (p : Bool) (fl : BitVec 7) : (t.pendScalar d x p fl).ringSince = t.ringSince := rfl
@[simp] theorem Thread.pendScalar_lead (t : Thread) (d : Reg) (x : Word) (p : Bool) (fl : BitVec 7) : (t.pendScalar d x p fl).lead = t.lead := rfl
@[simp] theorem Thread.pendScalar_pred (t : Thread) (d : Reg) (x : Word) (p : Bool) (fl : BitVec 7) : (t.pendScalar d x p fl).pred = t.pred := rfl
@[simp] theorem Thread.pendScalar_hazAt (t : Thread) (d : Reg) (x : Word) (p : Bool) (fl : BitVec 7) : (t.pendScalar d x p fl).hazAt = t.hazAt := rfl
@[simp] theorem Thread.pendScalar_issuedAt (t : Thread) (d : Reg) (x : Word) (p : Bool) (fl : BitVec 7) : (t.pendScalar d x p fl).issuedAt = t.issuedAt := rfl
@[simp] theorem Thread.pendScalar_descRead (t : Thread) (d : Reg) (x : Word) (p : Bool) (fl : BitVec 7) : (t.pendScalar d x p fl).descRead = t.descRead := rfl
@[simp] theorem Thread.pendScalar_part (t : Thread) (d : Reg) (x : Word) (p : Bool) (fl : BitVec 7) : (t.pendScalar d x p fl).part = t.part := rfl
@[simp] theorem Thread.pendScalar_mbWrote (t : Thread) (d : Reg) (x : Word) (p : Bool) (fl : BitVec 7) : (t.pendScalar d x p fl).mbWrote = t.mbWrote := rfl

@[simp] theorem Thread.raise_live (t : Thread) (fl : Flags) : (t.raise fl).live = t.live := by
  unfold Thread.raise; split <;> rfl
@[simp] theorem Thread.raise_gang (t : Thread) (fl : Flags) : (t.raise fl).gang = t.gang := by
  unfold Thread.raise; split <;> rfl
@[simp] theorem Thread.raise_rank (t : Thread) (fl : Flags) : (t.raise fl).rank = t.rank := by
  unfold Thread.raise; split <;> rfl
@[simp] theorem Thread.raise_pc (t : Thread) (fl : Flags) : (t.raise fl).pc = t.pc := by
  unfold Thread.raise; split <;> rfl
@[simp] theorem Thread.raise_mode (t : Thread) (fl : Flags) : (t.raise fl).mode = t.mode := by
  unfold Thread.raise; split <;> rfl
@[simp] theorem Thread.raise_v (t : Thread) (fl : Flags) : (t.raise fl).v = t.v := by
  unfold Thread.raise; split <;> rfl
@[simp] theorem Thread.raise_m (t : Thread) (fl : Flags) : (t.raise fl).m = t.m := by
  unfold Thread.raise; split <;> rfl
@[simp] theorem Thread.raise_mb (t : Thread) (fl : Flags) : (t.raise fl).mb = t.mb := by
  unfold Thread.raise; split <;> rfl
@[simp] theorem Thread.raise_tiles (t : Thread) (fl : Flags) : (t.raise fl).tiles = t.tiles := by
  unfold Thread.raise; split <;> rfl
@[simp] theorem Thread.raise_accs (t : Thread) (fl : Flags) : (t.raise fl).accs = t.accs := by
  unfold Thread.raise; split <;> rfl
@[simp] theorem Thread.raise_tcfgSeen (t : Thread) (fl : Flags) : (t.raise fl).tcfgSeen = t.tcfgSeen := by
  unfold Thread.raise; split <;> rfl
@[simp] theorem Thread.raise_written (t : Thread) (fl : Flags) : (t.raise fl).written = t.written := by
  unfold Thread.raise; split <;> rfl
@[simp] theorem Thread.raise_pend (t : Thread) (fl : Flags) : (t.raise fl).pend = t.pend := by
  unfold Thread.raise; split <;> rfl
@[simp] theorem Thread.raise_poison (t : Thread) (fl : Flags) : (t.raise fl).poison = t.poison := by
  unfold Thread.raise; split <;> rfl
@[simp] theorem Thread.raise_tpoison (t : Thread) (fl : Flags) : (t.raise fl).tpoison = t.tpoison := by
  unfold Thread.raise; split <;> rfl
@[simp] theorem Thread.raise_park (t : Thread) (fl : Flags) : (t.raise fl).park = t.park := by
  unfold Thread.raise; split <;> rfl
@[simp] theorem Thread.raise_tokens (t : Thread) (fl : Flags) : (t.raise fl).tokens = t.tokens := by
  unfold Thread.raise; split <;> rfl
@[simp] theorem Thread.raise_seq (t : Thread) (fl : Flags) : (t.raise fl).seq = t.seq := by
  unfold Thread.raise; split <;> rfl
@[simp] theorem Thread.raise_vq (t : Thread) (fl : Flags) : (t.raise fl).vq = t.vq := by
  unfold Thread.raise; split <;> rfl
@[simp] theorem Thread.raise_tq (t : Thread) (fl : Flags) : (t.raise fl).tq = t.tq := by
  unfold Thread.raise; split <;> rfl
@[simp] theorem Thread.raise_remS (t : Thread) (fl : Flags) : (t.raise fl).remS = t.remS := by
  unfold Thread.raise; split <;> rfl
@[simp] theorem Thread.raise_remM (t : Thread) (fl : Flags) : (t.raise fl).remM = t.remM := by
  unfold Thread.raise; split <;> rfl
@[simp] theorem Thread.raise_loop (t : Thread) (fl : Flags) : (t.raise fl).loop = t.loop := by
  unfold Thread.raise; split <;> rfl
@[simp] theorem Thread.raise_loopS (t : Thread) (fl : Flags) : (t.raise fl).loopS = t.loopS := by
  unfold Thread.raise; split <;> rfl
@[simp] theorem Thread.raise_loopM (t : Thread) (fl : Flags) : (t.raise fl).loopM = t.loopM := by
  unfold Thread.raise; split <;> rfl
@[simp] theorem Thread.raise_slots (t : Thread) (fl : Flags) : (t.raise fl).slots = t.slots := by
  unfold Thread.raise; split <;> rfl
@[simp] theorem Thread.raise_nextBatch (t : Thread) (fl : Flags) : (t.raise fl).nextBatch = t.nextBatch := by
  unfold Thread.raise; split <;> rfl
@[simp] theorem Thread.raise_openCmds (t : Thread) (fl : Flags) : (t.raise fl).openCmds = t.openCmds := by
  unfold Thread.raise; split <;> rfl
@[simp] theorem Thread.raise_batches (t : Thread) (fl : Flags) : (t.raise fl).batches = t.batches := by
  unfold Thread.raise; split <;> rfl
@[simp] theorem Thread.raise_deferred (t : Thread) (fl : Flags) : (t.raise fl).deferred = t.deferred := by
  unfold Thread.raise; split <;> rfl
@[simp] theorem Thread.raise_leaseMin (t : Thread) (fl : Flags) : (t.raise fl).leaseMin = t.leaseMin := by
  unfold Thread.raise; split <;> rfl
@[simp] theorem Thread.raise_leasePref (t : Thread) (fl : Flags) : (t.raise fl).leasePref = t.leasePref := by
  unfold Thread.raise; split <;> rfl
@[simp] theorem Thread.raise_fwd (t : Thread) (fl : Flags) : (t.raise fl).fwd = t.fwd := by
  unfold Thread.raise; split <;> rfl
@[simp] theorem Thread.raise_fwdBuf (t : Thread) (fl : Flags) : (t.raise fl).fwdBuf = t.fwdBuf := by
  unfold Thread.raise; split <;> rfl
@[simp] theorem Thread.raise_resident (t : Thread) (fl : Flags) : (t.raise fl).resident = t.resident := by
  unfold Thread.raise; split <;> rfl
@[simp] theorem Thread.raise_stopped (t : Thread) (fl : Flags) : (t.raise fl).stopped = t.stopped := by
  unfold Thread.raise; split <;> rfl
@[simp] theorem Thread.raise_migTimeout (t : Thread) (fl : Flags) : (t.raise fl).migTimeout = t.migTimeout := by
  unfold Thread.raise; split <;> rfl
@[simp] theorem Thread.raise_reads (t : Thread) (fl : Flags) : (t.raise fl).reads = t.reads := by
  unfold Thread.raise; split <;> rfl
@[simp] theorem Thread.raise_ringSince (t : Thread) (fl : Flags) : (t.raise fl).ringSince = t.ringSince := by
  unfold Thread.raise; split <;> rfl
@[simp] theorem Thread.raise_lead (t : Thread) (fl : Flags) : (t.raise fl).lead = t.lead := by
  unfold Thread.raise; split <;> rfl
@[simp] theorem Thread.raise_pred (t : Thread) (fl : Flags) : (t.raise fl).pred = t.pred := by
  unfold Thread.raise; split <;> rfl
@[simp] theorem Thread.raise_hazAt (t : Thread) (fl : Flags) : (t.raise fl).hazAt = t.hazAt := by
  unfold Thread.raise; split <;> rfl
@[simp] theorem Thread.raise_issuedAt (t : Thread) (fl : Flags) : (t.raise fl).issuedAt = t.issuedAt := by
  unfold Thread.raise; split <;> rfl
@[simp] theorem Thread.raise_descRead (t : Thread) (fl : Flags) : (t.raise fl).descRead = t.descRead := by
  unfold Thread.raise; split <;> rfl
@[simp] theorem Thread.raise_part (t : Thread) (fl : Flags) : (t.raise fl).part = t.part := by
  unfold Thread.raise; split <;> rfl
@[simp] theorem Thread.raise_mbWrote (t : Thread) (fl : Flags) : (t.raise fl).mbWrote = t.mbWrote := by
  unfold Thread.raise; split <;> rfl

@[simp] theorem Thread.mark_live (t : Thread) (mk : Bool) : (t.mark mk).live = t.live := by
  unfold Thread.mark; split <;> rfl
@[simp] theorem Thread.mark_gang (t : Thread) (mk : Bool) : (t.mark mk).gang = t.gang := by
  unfold Thread.mark; split <;> rfl
@[simp] theorem Thread.mark_rank (t : Thread) (mk : Bool) : (t.mark mk).rank = t.rank := by
  unfold Thread.mark; split <;> rfl
@[simp] theorem Thread.mark_pc (t : Thread) (mk : Bool) : (t.mark mk).pc = t.pc := by
  unfold Thread.mark; split <;> rfl
@[simp] theorem Thread.mark_mode (t : Thread) (mk : Bool) : (t.mark mk).mode = t.mode := by
  unfold Thread.mark; split <;> rfl
@[simp] theorem Thread.mark_v (t : Thread) (mk : Bool) : (t.mark mk).v = t.v := by
  unfold Thread.mark; split <;> rfl
@[simp] theorem Thread.mark_m (t : Thread) (mk : Bool) : (t.mark mk).m = t.m := by
  unfold Thread.mark; split <;> rfl
@[simp] theorem Thread.mark_mb (t : Thread) (mk : Bool) : (t.mark mk).mb = t.mb := by
  unfold Thread.mark; split <;> rfl
@[simp] theorem Thread.mark_csr (t : Thread) (mk : Bool) : (t.mark mk).csr = t.csr := by
  unfold Thread.mark; split <;> rfl
@[simp] theorem Thread.mark_tiles (t : Thread) (mk : Bool) : (t.mark mk).tiles = t.tiles := by
  unfold Thread.mark; split <;> rfl
@[simp] theorem Thread.mark_accs (t : Thread) (mk : Bool) : (t.mark mk).accs = t.accs := by
  unfold Thread.mark; split <;> rfl
@[simp] theorem Thread.mark_tcfgSeen (t : Thread) (mk : Bool) : (t.mark mk).tcfgSeen = t.tcfgSeen := by
  unfold Thread.mark; split <;> rfl
@[simp] theorem Thread.mark_written (t : Thread) (mk : Bool) : (t.mark mk).written = t.written := by
  unfold Thread.mark; split <;> rfl
@[simp] theorem Thread.mark_pend (t : Thread) (mk : Bool) : (t.mark mk).pend = t.pend := by
  unfold Thread.mark; split <;> rfl
@[simp] theorem Thread.mark_poison (t : Thread) (mk : Bool) : (t.mark mk).poison = t.poison := by
  unfold Thread.mark; split <;> rfl
@[simp] theorem Thread.mark_tpoison (t : Thread) (mk : Bool) : (t.mark mk).tpoison = t.tpoison := by
  unfold Thread.mark; split <;> rfl
@[simp] theorem Thread.mark_tokens (t : Thread) (mk : Bool) : (t.mark mk).tokens = t.tokens := by
  unfold Thread.mark; split <;> rfl
@[simp] theorem Thread.mark_seq (t : Thread) (mk : Bool) : (t.mark mk).seq = t.seq := by
  unfold Thread.mark; split <;> rfl
@[simp] theorem Thread.mark_vq (t : Thread) (mk : Bool) : (t.mark mk).vq = t.vq := by
  unfold Thread.mark; split <;> rfl
@[simp] theorem Thread.mark_tq (t : Thread) (mk : Bool) : (t.mark mk).tq = t.tq := by
  unfold Thread.mark; split <;> rfl
@[simp] theorem Thread.mark_remS (t : Thread) (mk : Bool) : (t.mark mk).remS = t.remS := by
  unfold Thread.mark; split <;> rfl
@[simp] theorem Thread.mark_remM (t : Thread) (mk : Bool) : (t.mark mk).remM = t.remM := by
  unfold Thread.mark; split <;> rfl
@[simp] theorem Thread.mark_loop (t : Thread) (mk : Bool) : (t.mark mk).loop = t.loop := by
  unfold Thread.mark; split <;> rfl
@[simp] theorem Thread.mark_loopS (t : Thread) (mk : Bool) : (t.mark mk).loopS = t.loopS := by
  unfold Thread.mark; split <;> rfl
@[simp] theorem Thread.mark_loopM (t : Thread) (mk : Bool) : (t.mark mk).loopM = t.loopM := by
  unfold Thread.mark; split <;> rfl
@[simp] theorem Thread.mark_slots (t : Thread) (mk : Bool) : (t.mark mk).slots = t.slots := by
  unfold Thread.mark; split <;> rfl
@[simp] theorem Thread.mark_nextBatch (t : Thread) (mk : Bool) : (t.mark mk).nextBatch = t.nextBatch := by
  unfold Thread.mark; split <;> rfl
@[simp] theorem Thread.mark_openCmds (t : Thread) (mk : Bool) : (t.mark mk).openCmds = t.openCmds := by
  unfold Thread.mark; split <;> rfl
@[simp] theorem Thread.mark_batches (t : Thread) (mk : Bool) : (t.mark mk).batches = t.batches := by
  unfold Thread.mark; split <;> rfl
@[simp] theorem Thread.mark_deferred (t : Thread) (mk : Bool) : (t.mark mk).deferred = t.deferred := by
  unfold Thread.mark; split <;> rfl
@[simp] theorem Thread.mark_leaseMin (t : Thread) (mk : Bool) : (t.mark mk).leaseMin = t.leaseMin := by
  unfold Thread.mark; split <;> rfl
@[simp] theorem Thread.mark_leasePref (t : Thread) (mk : Bool) : (t.mark mk).leasePref = t.leasePref := by
  unfold Thread.mark; split <;> rfl
@[simp] theorem Thread.mark_fwd (t : Thread) (mk : Bool) : (t.mark mk).fwd = t.fwd := by
  unfold Thread.mark; split <;> rfl
@[simp] theorem Thread.mark_fwdBuf (t : Thread) (mk : Bool) : (t.mark mk).fwdBuf = t.fwdBuf := by
  unfold Thread.mark; split <;> rfl
@[simp] theorem Thread.mark_resident (t : Thread) (mk : Bool) : (t.mark mk).resident = t.resident := by
  unfold Thread.mark; split <;> rfl
@[simp] theorem Thread.mark_stopped (t : Thread) (mk : Bool) : (t.mark mk).stopped = t.stopped := by
  unfold Thread.mark; split <;> rfl
@[simp] theorem Thread.mark_migTimeout (t : Thread) (mk : Bool) : (t.mark mk).migTimeout = t.migTimeout := by
  unfold Thread.mark; split <;> rfl
@[simp] theorem Thread.mark_reads (t : Thread) (mk : Bool) : (t.mark mk).reads = t.reads := by
  unfold Thread.mark; split <;> rfl
@[simp] theorem Thread.mark_ringSince (t : Thread) (mk : Bool) : (t.mark mk).ringSince = t.ringSince := by
  unfold Thread.mark; split <;> rfl
@[simp] theorem Thread.mark_lead (t : Thread) (mk : Bool) : (t.mark mk).lead = t.lead := by
  unfold Thread.mark; split <;> rfl
@[simp] theorem Thread.mark_pred (t : Thread) (mk : Bool) : (t.mark mk).pred = t.pred := by
  unfold Thread.mark; split <;> rfl
@[simp] theorem Thread.mark_hazAt (t : Thread) (mk : Bool) : (t.mark mk).hazAt = t.hazAt := by
  unfold Thread.mark; split <;> rfl
@[simp] theorem Thread.mark_issuedAt (t : Thread) (mk : Bool) : (t.mark mk).issuedAt = t.issuedAt := by
  unfold Thread.mark; split <;> rfl
@[simp] theorem Thread.mark_descRead (t : Thread) (mk : Bool) : (t.mark mk).descRead = t.descRead := by
  unfold Thread.mark; split <;> rfl
@[simp] theorem Thread.mark_part (t : Thread) (mk : Bool) : (t.mark mk).part = t.part := by
  unfold Thread.mark; split <;> rfl
@[simp] theorem Thread.mark_mbWrote (t : Thread) (mk : Bool) : (t.mark mk).mbWrote = t.mbWrote := by
  unfold Thread.mark; split <;> rfl

/-- Going on changes the pc, the loop registers and the loop record alone. -/
theorem Thread.setLoopRegs_eq (t : Thread) (p : BitVec 256) (e : Nat) : ∃ c, t.setLoopRegs p e = { t with csr := c } := by
  simp only [Thread.setLoopRegs, show List.range 6 = [0, 1, 2, 3, 4, 5] from rfl, List.foldl, Thread.csrSet]
  exact ⟨_, rfl⟩

theorem Thread.clearLoopRegs_eq (t : Thread) : ∃ c, t.clearLoopRegs = { t with csr := c } := by
  simp only [Thread.clearLoopRegs, show List.range 6 = [0, 1, 2, 3, 4, 5] from rfl, List.foldl, Thread.csrSet]
  exact ⟨_, rfl⟩

theorem Thread.stepPc_eq (t : Thread) : ∃ c p l, t.stepPc = { t with csr := c, pc := p, loop := l } := by
  unfold Thread.stepPc
  split
  next l _ =>
    split
    · split
      · obtain ⟨c, h⟩ := t.setLoopRegs_eq l.pat (l.pass + 1)
        exact ⟨c, _, _, by rw [h]⟩
      · obtain ⟨c, h⟩ := t.clearLoopRegs_eq
        exact ⟨c, _, _, by rw [h]⟩
    · exact ⟨_, _, _, rfl⟩
  · exact ⟨_, _, _, rfl⟩

@[simp] theorem Thread.stepPc_live (t : Thread) : t.stepPc.live = t.live := by
  obtain ⟨c, p, l, h⟩ := t.stepPc_eq; rw [h]
@[simp] theorem Thread.stepPc_gang (t : Thread) : t.stepPc.gang = t.gang := by
  obtain ⟨c, p, l, h⟩ := t.stepPc_eq; rw [h]
@[simp] theorem Thread.stepPc_rank (t : Thread) : t.stepPc.rank = t.rank := by
  obtain ⟨c, p, l, h⟩ := t.stepPc_eq; rw [h]
@[simp] theorem Thread.stepPc_mode (t : Thread) : t.stepPc.mode = t.mode := by
  obtain ⟨c, p, l, h⟩ := t.stepPc_eq; rw [h]
@[simp] theorem Thread.stepPc_v (t : Thread) : t.stepPc.v = t.v := by
  obtain ⟨c, p, l, h⟩ := t.stepPc_eq; rw [h]
@[simp] theorem Thread.stepPc_m (t : Thread) : t.stepPc.m = t.m := by
  obtain ⟨c, p, l, h⟩ := t.stepPc_eq; rw [h]
@[simp] theorem Thread.stepPc_mb (t : Thread) : t.stepPc.mb = t.mb := by
  obtain ⟨c, p, l, h⟩ := t.stepPc_eq; rw [h]
@[simp] theorem Thread.stepPc_tiles (t : Thread) : t.stepPc.tiles = t.tiles := by
  obtain ⟨c, p, l, h⟩ := t.stepPc_eq; rw [h]
@[simp] theorem Thread.stepPc_accs (t : Thread) : t.stepPc.accs = t.accs := by
  obtain ⟨c, p, l, h⟩ := t.stepPc_eq; rw [h]
@[simp] theorem Thread.stepPc_tcfgSeen (t : Thread) : t.stepPc.tcfgSeen = t.tcfgSeen := by
  obtain ⟨c, p, l, h⟩ := t.stepPc_eq; rw [h]
@[simp] theorem Thread.stepPc_written (t : Thread) : t.stepPc.written = t.written := by
  obtain ⟨c, p, l, h⟩ := t.stepPc_eq; rw [h]
@[simp] theorem Thread.stepPc_pend (t : Thread) : t.stepPc.pend = t.pend := by
  obtain ⟨c, p, l, h⟩ := t.stepPc_eq; rw [h]
@[simp] theorem Thread.stepPc_poison (t : Thread) : t.stepPc.poison = t.poison := by
  obtain ⟨c, p, l, h⟩ := t.stepPc_eq; rw [h]
@[simp] theorem Thread.stepPc_tpoison (t : Thread) : t.stepPc.tpoison = t.tpoison := by
  obtain ⟨c, p, l, h⟩ := t.stepPc_eq; rw [h]
@[simp] theorem Thread.stepPc_park (t : Thread) : t.stepPc.park = t.park := by
  obtain ⟨c, p, l, h⟩ := t.stepPc_eq; rw [h]
@[simp] theorem Thread.stepPc_tokens (t : Thread) : t.stepPc.tokens = t.tokens := by
  obtain ⟨c, p, l, h⟩ := t.stepPc_eq; rw [h]
@[simp] theorem Thread.stepPc_seq (t : Thread) : t.stepPc.seq = t.seq := by
  obtain ⟨c, p, l, h⟩ := t.stepPc_eq; rw [h]
@[simp] theorem Thread.stepPc_vq (t : Thread) : t.stepPc.vq = t.vq := by
  obtain ⟨c, p, l, h⟩ := t.stepPc_eq; rw [h]
@[simp] theorem Thread.stepPc_tq (t : Thread) : t.stepPc.tq = t.tq := by
  obtain ⟨c, p, l, h⟩ := t.stepPc_eq; rw [h]
@[simp] theorem Thread.stepPc_remS (t : Thread) : t.stepPc.remS = t.remS := by
  obtain ⟨c, p, l, h⟩ := t.stepPc_eq; rw [h]
@[simp] theorem Thread.stepPc_remM (t : Thread) : t.stepPc.remM = t.remM := by
  obtain ⟨c, p, l, h⟩ := t.stepPc_eq; rw [h]
@[simp] theorem Thread.stepPc_loopS (t : Thread) : t.stepPc.loopS = t.loopS := by
  obtain ⟨c, p, l, h⟩ := t.stepPc_eq; rw [h]
@[simp] theorem Thread.stepPc_loopM (t : Thread) : t.stepPc.loopM = t.loopM := by
  obtain ⟨c, p, l, h⟩ := t.stepPc_eq; rw [h]
@[simp] theorem Thread.stepPc_slots (t : Thread) : t.stepPc.slots = t.slots := by
  obtain ⟨c, p, l, h⟩ := t.stepPc_eq; rw [h]
@[simp] theorem Thread.stepPc_nextBatch (t : Thread) : t.stepPc.nextBatch = t.nextBatch := by
  obtain ⟨c, p, l, h⟩ := t.stepPc_eq; rw [h]
@[simp] theorem Thread.stepPc_openCmds (t : Thread) : t.stepPc.openCmds = t.openCmds := by
  obtain ⟨c, p, l, h⟩ := t.stepPc_eq; rw [h]
@[simp] theorem Thread.stepPc_batches (t : Thread) : t.stepPc.batches = t.batches := by
  obtain ⟨c, p, l, h⟩ := t.stepPc_eq; rw [h]
@[simp] theorem Thread.stepPc_deferred (t : Thread) : t.stepPc.deferred = t.deferred := by
  obtain ⟨c, p, l, h⟩ := t.stepPc_eq; rw [h]
@[simp] theorem Thread.stepPc_leaseMin (t : Thread) : t.stepPc.leaseMin = t.leaseMin := by
  obtain ⟨c, p, l, h⟩ := t.stepPc_eq; rw [h]
@[simp] theorem Thread.stepPc_leasePref (t : Thread) : t.stepPc.leasePref = t.leasePref := by
  obtain ⟨c, p, l, h⟩ := t.stepPc_eq; rw [h]
@[simp] theorem Thread.stepPc_fwd (t : Thread) : t.stepPc.fwd = t.fwd := by
  obtain ⟨c, p, l, h⟩ := t.stepPc_eq; rw [h]
@[simp] theorem Thread.stepPc_fwdBuf (t : Thread) : t.stepPc.fwdBuf = t.fwdBuf := by
  obtain ⟨c, p, l, h⟩ := t.stepPc_eq; rw [h]
@[simp] theorem Thread.stepPc_resident (t : Thread) : t.stepPc.resident = t.resident := by
  obtain ⟨c, p, l, h⟩ := t.stepPc_eq; rw [h]
@[simp] theorem Thread.stepPc_stopped (t : Thread) : t.stepPc.stopped = t.stopped := by
  obtain ⟨c, p, l, h⟩ := t.stepPc_eq; rw [h]
@[simp] theorem Thread.stepPc_migTimeout (t : Thread) : t.stepPc.migTimeout = t.migTimeout := by
  obtain ⟨c, p, l, h⟩ := t.stepPc_eq; rw [h]
@[simp] theorem Thread.stepPc_reads (t : Thread) : t.stepPc.reads = t.reads := by
  obtain ⟨c, p, l, h⟩ := t.stepPc_eq; rw [h]
@[simp] theorem Thread.stepPc_ringSince (t : Thread) : t.stepPc.ringSince = t.ringSince := by
  obtain ⟨c, p, l, h⟩ := t.stepPc_eq; rw [h]
@[simp] theorem Thread.stepPc_lead (t : Thread) : t.stepPc.lead = t.lead := by
  obtain ⟨c, p, l, h⟩ := t.stepPc_eq; rw [h]
@[simp] theorem Thread.stepPc_pred (t : Thread) : t.stepPc.pred = t.pred := by
  obtain ⟨c, p, l, h⟩ := t.stepPc_eq; rw [h]
@[simp] theorem Thread.stepPc_hazAt (t : Thread) : t.stepPc.hazAt = t.hazAt := by
  obtain ⟨c, p, l, h⟩ := t.stepPc_eq; rw [h]
@[simp] theorem Thread.stepPc_issuedAt (t : Thread) : t.stepPc.issuedAt = t.issuedAt := by
  obtain ⟨c, p, l, h⟩ := t.stepPc_eq; rw [h]
@[simp] theorem Thread.stepPc_descRead (t : Thread) : t.stepPc.descRead = t.descRead := by
  obtain ⟨c, p, l, h⟩ := t.stepPc_eq; rw [h]
@[simp] theorem Thread.stepPc_part (t : Thread) : t.stepPc.part = t.part := by
  obtain ⟨c, p, l, h⟩ := t.stepPc_eq; rw [h]
@[simp] theorem Thread.stepPc_mbWrote (t : Thread) : t.stepPc.mbWrote = t.mbWrote := by
  obtain ⟨c, p, l, h⟩ := t.stepPc_eq; rw [h]

end Sys2Proof.Machine
end

