-- ==== Sys2Proof/Laws/Ops.lean ====
section
/-! SUPPORT. What the shared operations on the executing thread do: updates of its record, register
reads and writes, going on to the next instruction, and the checks before an instruction. -/

namespace Sys2Proof.Machine

open Host (Outcome)

theorem Sparse.set_set {α : Type} (k : Nat) (v w : α) (m : Sparse α) : Sparse.set k v (Sparse.set k w m) = Sparse.set k v m := by
  induction m with
  | nil => simp [Sparse.set]
  | cons e t ih =>
    obtain ⟨j, x⟩ := e
    simp only [Sparse.set]
    split
    · simp [Sparse.set]
    · split
      · simp [Sparse.set]
      next h1 h2 => simp [Sparse.set, h1, h2, ih]

/-! ### The executing thread -/

@[simp] theorem State.thread_setThread_self (s : State) (k : Nat) (t : Thread) : (s.setThread k t).thread k = t := by
  simp [State.thread, State.setThread]

@[simp] theorem State.thread_setThread_ne (s : State) {k j : Nat} (h : j ≠ k) (t : Thread) :
    (s.setThread k t).thread j = s.thread j := by
  simp [State.thread, State.setThread, h]

@[simp] theorem State.thr_setThr (s : State) (t : Thread) : (s.setThr t).thr = t := by
  simp [State.thr, State.setThr]

@[simp] theorem State.thr_upd (s : State) (f : Thread → Thread) : (s.upd f).thr = f s.thr := by
  simp [State.upd]

theorem State.thread_upd_ne (s : State) (f : Thread → Thread) {k : Nat} (h : k ≠ s.cur) : (s.upd f).thread k = s.thread k := by
  simp [State.upd, State.setThr, h]

@[simp] theorem State.upd_upd (s : State) (f g : Thread → Thread) : (s.upd f).upd g = s.upd fun t => g (f t) := by
  simp [State.upd, State.setThr, State.setThread, State.thr, State.thread, Sparse.set_set]

@[simp] theorem State.memByte_upd (s : State) (f : Thread → Thread) (a : Nat) : (s.upd f).memByte a = s.memByte a := rfl

@[simp] theorem State.thr_ws (s : State) (r : Reg) (x : Word) : (s.ws r x).thr = s.thr.writeS r x := by simp [State.ws]

@[simp] theorem State.thr_advance (s : State) (mk : Bool) : (s.advance mk).thr = s.thr.stepPc.mark mk := by
  simp [State.advance]

@[simp] theorem State.thr_goto (s : State) (mk : Bool) (p : Word) : (s.goto mk p).thr = ({ s.thr with pc := p } : Thread).mark mk := by
  simp [State.goto]

/-- An update of the executing thread leaves everything else. -/
theorem State.onlyThread_upd (s : State) (f : Thread → Thread) : s.OnlyThread (s.upd f) :=
  ⟨rfl, fun _ h => s.thread_upd_ne f h, fun _ => rfl⟩

theorem State.upd_id (s : State) : s.OnlyThread s := ⟨rfl, fun _ _ => rfl, fun _ => rfl⟩

theorem State.OnlyThread.cur {s t : State} (h : s.OnlyThread t) : t.cur = s.cur := by
  have := congrArg State.cur h.1
  exact this

theorem State.OnlyThread.trans {s t u : State} (h : s.OnlyThread t) (h' : t.OnlyThread u) : s.OnlyThread u := by
  refine ⟨?_, fun k hk => ?_, fun a => (h'.2.2 a).trans (h.2.2 a)⟩
  · rw [← h.1]
    have := h'.1
    conv_rhs => rw [← this]
  · rw [h'.2.1 k (by rw [h.cur]; exact hk), h.2.1 k hk]

/-! ### Checks before an instruction -/

/-- Ready operands let an instruction execute. -/
theorem State.guarded_ready {s : State} {reads writes : List Reg} (h : s.OperandsReady reads writes) (f : State → State) :
    s.guarded reads writes f = f s := by
  simp [State.guarded, State.guardStop, h.1, h.2]

/-- A pending register stops an instruction (R197). -/
theorem State.guarded_hazard {s : State} {reads writes : List Reg} {r : Reg} (h : s.thr.hazard reads writes = some r)
    (f : State → State) : s.guarded reads writes f = s.hazardStop r := by
  simp [State.guarded, State.guardStop, h]

/-- A poisoned scalar operand stops an instruction (R358). -/
theorem State.guarded_poison {s : State} {reads writes : List Reg} {r : Reg} (h : s.thr.hazard reads writes = none)
    (hp : s.thr.poisonedRead reads = some r) (f : State → State) :
    s.guarded reads writes f = s.trap { code := 0x0B, tval := BitVec.ofNat 64 r.toNat } := by
  simp [State.guarded, State.guardStop, h, hp]

/-! ### Registers and control registers -/

@[simp] theorem Thread.csrGet_csrSet_self (t : Thread) (n : Nat) (x : Word) : (t.csrSet n x).csrGet n = x := by
  simp [Thread.csrGet, Thread.csrSet]

@[simp] theorem Thread.csrGet_csrSet_ne (t : Thread) {n k : Nat} (h : n ≠ k) (x : Word) : (t.csrSet k x).csrGet n = t.csrGet n := by
  simp [Thread.csrGet, Thread.csrSet, h]

theorem Thread.csrGet_congr {t u : Thread} (h : u.csr = t.csr) (n : Nat) : u.csrGet n = t.csrGet n := by
  simp [Thread.csrGet, h]

theorem Thread.vreg_congr {t u : Thread} (h : u.v = t.v) (n : Nat) : u.vreg n = t.vreg n := by
  simp [Thread.vreg, h]

theorem Thread.readS_congr {t u : Thread} (h : u.v = t.v) (r : Reg) : u.readS r = t.readS r := by
  simp [Thread.readS, Thread.vreg, h]

theorem Thread.wrote_writeS (t : Thread) (d : Reg) (x : Word) : t.Wrote (t.writeS d x) d x := by
  by_cases hd : d = 31
  · subst hd
    refine ⟨by simp [Thread.readS], ?_, fun i _ => ?_, fun h => absurd rfl h, fun k _ => ?_⟩ <;> simp [Thread.writeS]
  · have hv : (t.writeS d x).v = Sparse.set d.toNat ⟨x, (t.vreg d.toNat).hi⟩ t.v := by rw [Thread.writeS, if_neg hd]
    have hp : (t.writeS d x).poison = NatSet.del (d.toNat * 128) t.poison := by rw [Thread.writeS, if_neg hd]
    have hr : ∀ i, (t.writeS d x).vreg i = Sparse.getD (Sparse.set d.toNat ⟨x, (t.vreg d.toNat).hi⟩ t.v) i .zero := by
      intro i; rw [Thread.vreg, hv]
    refine ⟨?_, ?_, fun i hi => ?_, fun _ => ?_, fun k hk => ?_⟩
    · rw [Thread.readS, if_neg hd, if_neg hd, hr, Sparse.getD_set_self]
    · rw [hr, Sparse.getD_set_self]
    · rw [hr, Sparse.getD_set_ne (hi.resolve_right hd)]; rfl
    · simp [hp]
    · simp [hp, hk.resolve_right hd]

theorem Thread.raised_raise (t : Thread) (fl : Flags) : t.Raised (t.raise fl) fl := by
  unfold Thread.raise
  split
  next h => subst h; exact ⟨by simp, fun _ _ _ => rfl⟩
  next h => exact ⟨by simp, fun n hn _ => by simp [hn]⟩

/-- Going on changes loop registers only while a loop is active. -/
theorem Thread.csrGet_setLoopRegs (t : Thread) (p : BitVec 256) (e n : Nat) (h : n < csrLIX0 ∨ csrLOFF < n) :
    (t.setLoopRegs p e).csrGet n = t.csrGet n := by
  have hn : ∀ d, d ≤ 6 → n ≠ csrLIX0 + d := by intro d hd; simp only [csrLIX0, csrLOFF] at *; omega
  have ho : n ≠ csrLOFF := hn 6 (by omega)
  simp only [Thread.setLoopRegs, show List.range 6 = [0, 1, 2, 3, 4, 5] from rfl, List.foldl]
  rw [Thread.csrGet_csrSet_ne _ ho]
  rw [Thread.csrGet_csrSet_ne _ (hn 5 (by omega)), Thread.csrGet_csrSet_ne _ (hn 4 (by omega)),
    Thread.csrGet_csrSet_ne _ (hn 3 (by omega)), Thread.csrGet_csrSet_ne _ (hn 2 (by omega)),
    Thread.csrGet_csrSet_ne _ (hn 1 (by omega)), Thread.csrGet_csrSet_ne _ (hn 0 (by omega))]

theorem Thread.csrGet_clearLoopRegs (t : Thread) (n : Nat) (h : n < csrLIX0 ∨ csrLOFF < n) :
    t.clearLoopRegs.csrGet n = t.csrGet n := by
  have hn : ∀ d, d ≤ 6 → n ≠ csrLIX0 + d := by intro d hd; simp only [csrLIX0, csrLOFF] at *; omega
  have ho : n ≠ csrLOFF := hn 6 (by omega)
  simp only [Thread.clearLoopRegs, show List.range 6 = [0, 1, 2, 3, 4, 5] from rfl, List.foldl]
  rw [Thread.csrGet_csrSet_ne _ ho]
  rw [Thread.csrGet_csrSet_ne _ (hn 5 (by omega)), Thread.csrGet_csrSet_ne _ (hn 4 (by omega)),
    Thread.csrGet_csrSet_ne _ (hn 3 (by omega)), Thread.csrGet_csrSet_ne _ (hn 2 (by omega)),
    Thread.csrGet_csrSet_ne _ (hn 1 (by omega)), Thread.csrGet_csrSet_ne _ (hn 0 (by omega))]

theorem Thread.stepPc_noLoop {t : Thread} (h : t.loop = none) : t.stepPc = { t with pc := t.pc + 4 } := by
  simp [Thread.stepPc, h]

theorem Thread.csrGet_with (t : Thread) (p : Word) (l : Option LoopRec) (n : Nat) :
    ({ t with pc := p, loop := l } : Thread).csrGet n = t.csrGet n := rfl

theorem Thread.csrGet_stepPc (t : Thread) (n : Nat) (h : t.loop = none ∨ n < csrLIX0 ∨ csrLOFF < n) :
    t.stepPc.csrGet n = t.csrGet n := by
  rcases h with h | h
  · rw [Thread.stepPc_noLoop h]; rfl
  · unfold Thread.stepPc
    split
    next l _ =>
      split
      · split
        · rw [Thread.csrGet_with]; exact t.csrGet_setLoopRegs l.pat (l.pass + 1) n h
        · rw [Thread.csrGet_with]; exact t.csrGet_clearLoopRegs n h
      · rfl
    · rfl

@[simp] theorem Thread.anyPending_congr {t u : Thread} (h : u.pend = t.pend) : u.anyPending = t.anyPending := by
  simp [Thread.anyPending, h]

theorem Thread.mark_park (t : Thread) (mk : Bool) : (t.mark mk).park = if mk && t.anyPending then .marker else .running := by
  unfold Thread.mark; split <;> rfl

theorem Thread.mark_eq (t : Thread) (mk : Bool) : ∃ p, t.mark mk = { t with park := p } := by
  unfold Thread.mark; split <;> exact ⟨_, rfl⟩

/-! ### Completing an instruction -/

theorem Thread.went_of_eq {u m w : Thread} {mk : Bool} {d : Reg} {v : Word} {fl : Flags} {ps : List Pend}
    (hv : m.v = (u.writeS d v).v) (hp : m.poison = (u.writeS d v).poison)
    (hc : u.Raised m fl) (hq : m.pend = u.pend ++ ps)
    (hr : ({ m with v := u.v, poison := u.poison, csr := u.csr, pend := u.pend, pc := u.pc, park := u.park, loop := u.loop } : Thread) = u)
    (hl : m.loop = u.loop)
    (h : w = m.stepPc.mark mk ∨ ∃ p, w = ({ m with pc := p } : Thread).mark mk) : u.Went w mk d v fl ps := by
  have key : ∀ (n : Thread), n.v = m.v → n.poison = m.poison → u.Raised n fl → n.pend = m.pend →
      ({ n with v := u.v, poison := u.poison, csr := u.csr, pend := u.pend, pc := u.pc, park := u.park, loop := u.loop } : Thread) = u →
      u.Went (n.mark mk) mk d v fl ps := by
    intro n hnv hnp hnc hnq hnr
    obtain ⟨p, hpk⟩ := n.mark_eq mk
    have hW := u.wrote_writeS d v
    have e1 : (n.mark mk).v = (u.writeS d v).v := by rw [hpk]; exact hnv.trans hv
    have e2 : (n.mark mk).poison = (u.writeS d v).poison := by rw [hpk]; exact hnp.trans hp
    refine ⟨?_, ?_, ?_, ?_, ?_⟩
    · simpa only [Thread.Wrote, Thread.readS, Thread.vreg, e1, e2] using hW
    · rw [hpk]; exact hnc
    · rw [hpk]; exact hnq.trans hq
    · rw [Thread.mark_park]; exact congrArg (fun q => if (mk && q) = true then Park.marker else .running) (by rw [hpk]; rfl)
    · rw [hpk]; exact hnr
  rcases h with rfl | ⟨p, rfl⟩
  · refine key _ (by simp) (by simp) ⟨?_, fun n hn hn' => ?_⟩ (by simp) ?_
    · rw [Thread.csrGet_stepPc _ _ (.inr (.inl (by decide)))]; exact hc.1
    · rw [Thread.csrGet_stepPc _ _ (hl ▸ hn')]; exact hc.2 n hn hn'
    · obtain ⟨c, p, l, hs⟩ := m.stepPc_eq
      rw [hs]; exact hr
  · exact key _ rfl rfl hc rfl hr

theorem Thread.raised_congr {u m w : Thread} {fl : Flags} (h : u.Raised m fl) (hc : w.csr = m.csr) : u.Raised w fl := by
  simpa only [Thread.Raised, Thread.csrGet, hc] using h

/-- The record `m` of the thread before it goes on decides what a completed instruction did. -/
theorem completes_of {s t : State} {m : Thread} {mk : Bool} {d : Reg} {v : Word} {fl : Flags} {ps : List Pend}
    (ho : s.OnlyThread t) (ht : t.thr = m.stepPc.mark mk)
    (hv : m.v = (s.thr.writeS d v).v) (hp : m.poison = (s.thr.writeS d v).poison)
    (hc : s.thr.Raised m fl) (hq : m.pend = s.thr.pend ++ ps)
    (hr : ({ m with v := s.thr.v, poison := s.thr.poison, csr := s.thr.csr, pend := s.thr.pend, pc := s.thr.pc, park := s.thr.park, loop := s.thr.loop } : Thread) = s.thr)
    (hl : m.loop = s.thr.loop) (hpc : m.pc = s.thr.pc) : Completes s mk d v fl ps (.next t) := by
  refine ⟨t, rfl, ho, Thread.went_of_eq hv hp hc hq hr hl (.inl ht), fun h => ?_⟩
  rw [ht, Thread.mark_pc, Thread.stepPc_noLoop (hl.trans h), hpc]

theorem State.onlyThread_ws (s : State) (r : Reg) (x : Word) : s.OnlyThread (s.ws r x) := s.onlyThread_upd _
theorem State.onlyThread_advance (s : State) (mk : Bool) : s.OnlyThread (s.advance mk) := s.onlyThread_upd _
theorem State.onlyThread_goto (s : State) (mk : Bool) (p : Word) : s.OnlyThread (s.goto mk p) := s.onlyThread_upd _

theorem Thread.writeS_eq (t : Thread) (d : Reg) (v : Word) : ∃ x p, t.writeS d v = { t with v := x, poison := p } := by
  unfold Thread.writeS; split <;> exact ⟨_, _, rfl⟩

theorem Thread.raise_eq (t : Thread) (fl : Flags) : ∃ c, t.raise fl = { t with csr := c } := by
  unfold Thread.raise; split <;> exact ⟨_, rfl⟩

theorem Thread.raised_self (t : Thread) : t.Raised t 0 := ⟨by simp, fun _ _ _ => rfl⟩

theorem Thread.writeS_raise_v (t : Thread) (fl : Flags) (d : Reg) (v : Word) :
    ((t.raise fl).writeS d v).v = (t.writeS d v).v ∧ ((t.raise fl).writeS d v).poison = (t.writeS d v).poison := by
  obtain ⟨c, h⟩ := t.raise_eq fl
  rw [h]; unfold Thread.writeS; split <;> exact ⟨rfl, rfl⟩

/-- A result written, flags raised, and on to the next instruction. -/
theorem completes_fp (s : State) (mk : Bool) (d : Reg) (v : Word) (fl : Flags) :
    Completes s mk d v fl [] (.next (((s.upd (·.raise fl)).ws d v).advance mk)) := by
  refine completes_of (m := (s.thr.raise fl).writeS d v)
    (((s.onlyThread_upd _).trans (State.onlyThread_ws _ d v)).trans (State.onlyThread_advance _ mk))
    (by simp) (s.thr.writeS_raise_v fl d v).1 (s.thr.writeS_raise_v fl d v).2 ?_ (by simp) ?_ (by simp) (by simp)
  · exact Thread.raised_congr (s.thr.raised_raise fl) (by simp)
  · obtain ⟨c, h⟩ := s.thr.raise_eq fl
    obtain ⟨x, p, h'⟩ := (s.thr.raise fl).writeS_eq d v
    rw [h', h]

/-- A result written, and on to the next instruction. -/
theorem completes_ws (s : State) (mk : Bool) (d : Reg) (v : Word) : Completes s mk d v 0 [] (.next ((s.ws d v).advance mk)) := by
  refine completes_of (m := s.thr.writeS d v) ((State.onlyThread_ws _ d v).trans (State.onlyThread_advance _ mk))
    (by simp) rfl rfl ?_ (by simp) ?_ (by simp) (by simp)
  · exact Thread.raised_congr s.thr.raised_self (by simp)
  · obtain ⟨x, p, h'⟩ := s.thr.writeS_eq d v
    rw [h']

@[simp] theorem Thread.writeS_31 (t : Thread) (v : Word) : t.writeS 31#5 v = t := by simp [Thread.writeS]

/-- Nothing but going on. -/
theorem completes_advance (s : State) (mk : Bool) : Completes s mk 31 0 0 [] (.next (s.advance mk)) := by
  have := completes_ws s mk 31 0
  simpa [State.ws, State.advance] using this

/-- A result sent on its way, flags raised, and on to the next instruction. -/
theorem completes_pend (s : State) (mk : Bool) (d : Reg) (v : Word) (fl : Flags) :
    Completes s mk 31 0 fl (underWay d v) (.next (((s.upd (·.raise fl)).upd (·.pendScalar d v false 0)).advance mk)) := by
  refine completes_of (m := (s.thr.raise fl).pendScalar d v false 0)
    (((s.onlyThread_upd _).trans (State.onlyThread_upd _ _)).trans (State.onlyThread_advance _ mk))
    (by simp) (by simp) (by simp) ?_ (by simp [Thread.pendScalar, underWay]) ?_ (by simp) (by simp)
  · exact Thread.raised_congr (s.thr.raised_raise fl) (by simp)
  · obtain ⟨c, h⟩ := s.thr.raise_eq fl
    rw [h]; rfl

/-- A control transfer with a register written. -/
theorem jumps_ws (s : State) (mk : Bool) (d : Reg) (v pc : Word) : Jumps s mk d v pc (.next ((s.ws d v).goto mk pc)) := by
  refine ⟨_, rfl, (State.onlyThread_ws _ d v).trans (State.onlyThread_goto _ mk pc), ?_, by simp⟩
  refine Thread.went_of_eq (m := s.thr.writeS d v) rfl rfl ?_ (by simp) ?_ (by simp) (.inr ⟨pc, by simp⟩)
  · exact Thread.raised_congr s.thr.raised_self (by simp)
  · obtain ⟨x, p, h'⟩ := s.thr.writeS_eq d v
    rw [h']

theorem jumps_goto (s : State) (mk : Bool) (pc : Word) : Jumps s mk 31 0 pc (.next (s.goto mk pc)) := by
  have := jumps_ws s mk 31 0 pc
  simpa [State.ws, State.goto] using this

end Sys2Proof.Machine
end

