-- ==== Sys2Proof/Laws/PerInstr.lean ====
section
/-! SUPPORT. The family RoundTrip: for each constructor, a well-formed instruction's word
decodes to it. -/

namespace Sys2Proof

theorem Width.ofCode_code (c : Width) : Width.ofCode c.code = c := by cases c <;> rfl
theorem EW.ofCode_code (c : EW) : EW.ofCode c.code = c := by cases c <;> rfl
theorem Ann.ofCode_code (c : Ann) : Ann.ofCode c.code = c := by cases c <;> rfl
theorem Fmt.ofCode_code (c : Fmt) : Fmt.ofCode c.code = some c := by cases c <;> rfl
theorem Rm.ofCode_code (c : Rm) : Rm.ofCode c.code = some c := by cases c <;> rfl
theorem Scope.ofCode_code (c : Scope) : Scope.ofCode c.code = some c := by cases c <;> rfl

theorem split6 (p : BitVec 6) : p.extractLsb' 5 1 ++ p.extractLsb' 0 5 = p := by
  revert p; decide

end Sys2Proof

namespace Sys2Proof.Laws.RoundTrip
open Sys2Proof Sys2Proof.Laws

/-- The word of a well-formed instruction decodes to that instruction. -/
def Statement (i : Instr) : Prop := i.wellFormed = true → decode (encode i) = .ok i

theorem add (s : Bool) (d : Reg) (a : Reg) (b : Reg) : Statement (.add s d a b) := fun hw => by
  refine decode_of_fields hw ?_
  change decodeFields (BitVec.ofBool s ++ 0x1#6 ++ d ++ a ++ b ++ 0x0#10) = _
  rw [Major.m01 (Layout.l1_x25_6 ..)]
  rw [decodeAlu]
  rw [show BitVec.extractLsb' 0 10 _ = 0#10 from Layout.l1_x0_10 ..]
  change Except.ok (Instr.add _ _ _ _) = _
  rw [Layout.l1_b31, Layout.l1_x20_5, Layout.l1_x15_5, Layout.l1_x10_5]

theorem sub (s : Bool) (d : Reg) (a : Reg) (b : Reg) : Statement (.sub s d a b) := fun hw => by
  refine decode_of_fields hw ?_
  change decodeFields (BitVec.ofBool s ++ 0x1#6 ++ d ++ a ++ b ++ 0x1#10) = _
  rw [Major.m01 (Layout.l1_x25_6 ..)]
  rw [decodeAlu]
  rw [show BitVec.extractLsb' 0 10 _ = 1#10 from Layout.l1_x0_10 ..]
  change Except.ok (Instr.sub _ _ _ _) = _
  rw [Layout.l1_b31, Layout.l1_x20_5, Layout.l1_x15_5, Layout.l1_x10_5]

theorem add32 (s : Bool) (d : Reg) (a : Reg) (b : Reg) : Statement (.add32 s d a b) := fun hw => by
  refine decode_of_fields hw ?_
  change decodeFields (BitVec.ofBool s ++ 0x1#6 ++ d ++ a ++ b ++ 0x2#10) = _
  rw [Major.m01 (Layout.l1_x25_6 ..)]
  rw [decodeAlu]
  rw [show BitVec.extractLsb' 0 10 _ = 2#10 from Layout.l1_x0_10 ..]
  change Except.ok (Instr.add32 _ _ _ _) = _
  rw [Layout.l1_b31, Layout.l1_x20_5, Layout.l1_x15_5, Layout.l1_x10_5]

theorem sub32 (s : Bool) (d : Reg) (a : Reg) (b : Reg) : Statement (.sub32 s d a b) := fun hw => by
  refine decode_of_fields hw ?_
  change decodeFields (BitVec.ofBool s ++ 0x1#6 ++ d ++ a ++ b ++ 0x3#10) = _
  rw [Major.m01 (Layout.l1_x25_6 ..)]
  rw [decodeAlu]
  rw [show BitVec.extractLsb' 0 10 _ = 3#10 from Layout.l1_x0_10 ..]
  change Except.ok (Instr.sub32 _ _ _ _) = _
  rw [Layout.l1_b31, Layout.l1_x20_5, Layout.l1_x15_5, Layout.l1_x10_5]

theorem and (s : Bool) (d : Reg) (a : Reg) (b : Reg) : Statement (.and s d a b) := fun hw => by
  refine decode_of_fields hw ?_
  change decodeFields (BitVec.ofBool s ++ 0x1#6 ++ d ++ a ++ b ++ 0x4#10) = _
  rw [Major.m01 (Layout.l1_x25_6 ..)]
  rw [decodeAlu]
  rw [show BitVec.extractLsb' 0 10 _ = 4#10 from Layout.l1_x0_10 ..]
  change Except.ok (Instr.and _ _ _ _) = _
  rw [Layout.l1_b31, Layout.l1_x20_5, Layout.l1_x15_5, Layout.l1_x10_5]

theorem or (s : Bool) (d : Reg) (a : Reg) (b : Reg) : Statement (.or s d a b) := fun hw => by
  refine decode_of_fields hw ?_
  change decodeFields (BitVec.ofBool s ++ 0x1#6 ++ d ++ a ++ b ++ 0x5#10) = _
  rw [Major.m01 (Layout.l1_x25_6 ..)]
  rw [decodeAlu]
  rw [show BitVec.extractLsb' 0 10 _ = 5#10 from Layout.l1_x0_10 ..]
  change Except.ok (Instr.or _ _ _ _) = _
  rw [Layout.l1_b31, Layout.l1_x20_5, Layout.l1_x15_5, Layout.l1_x10_5]

theorem xor (s : Bool) (d : Reg) (a : Reg) (b : Reg) : Statement (.xor s d a b) := fun hw => by
  refine decode_of_fields hw ?_
  change decodeFields (BitVec.ofBool s ++ 0x1#6 ++ d ++ a ++ b ++ 0x6#10) = _
  rw [Major.m01 (Layout.l1_x25_6 ..)]
  rw [decodeAlu]
  rw [show BitVec.extractLsb' 0 10 _ = 6#10 from Layout.l1_x0_10 ..]
  change Except.ok (Instr.xor _ _ _ _) = _
  rw [Layout.l1_b31, Layout.l1_x20_5, Layout.l1_x15_5, Layout.l1_x10_5]

theorem andn (s : Bool) (d : Reg) (a : Reg) (b : Reg) : Statement (.andn s d a b) := fun hw => by
  refine decode_of_fields hw ?_
  change decodeFields (BitVec.ofBool s ++ 0x1#6 ++ d ++ a ++ b ++ 0x7#10) = _
  rw [Major.m01 (Layout.l1_x25_6 ..)]
  rw [decodeAlu]
  rw [show BitVec.extractLsb' 0 10 _ = 7#10 from Layout.l1_x0_10 ..]
  change Except.ok (Instr.andn _ _ _ _) = _
  rw [Layout.l1_b31, Layout.l1_x20_5, Layout.l1_x15_5, Layout.l1_x10_5]

theorem sll (s : Bool) (d : Reg) (a : Reg) (b : Reg) : Statement (.sll s d a b) := fun hw => by
  refine decode_of_fields hw ?_
  change decodeFields (BitVec.ofBool s ++ 0x1#6 ++ d ++ a ++ b ++ 0x8#10) = _
  rw [Major.m01 (Layout.l1_x25_6 ..)]
  rw [decodeAlu]
  rw [show BitVec.extractLsb' 0 10 _ = 8#10 from Layout.l1_x0_10 ..]
  change Except.ok (Instr.sll _ _ _ _) = _
  rw [Layout.l1_b31, Layout.l1_x20_5, Layout.l1_x15_5, Layout.l1_x10_5]

theorem srl (s : Bool) (d : Reg) (a : Reg) (b : Reg) : Statement (.srl s d a b) := fun hw => by
  refine decode_of_fields hw ?_
  change decodeFields (BitVec.ofBool s ++ 0x1#6 ++ d ++ a ++ b ++ 0x9#10) = _
  rw [Major.m01 (Layout.l1_x25_6 ..)]
  rw [decodeAlu]
  rw [show BitVec.extractLsb' 0 10 _ = 9#10 from Layout.l1_x0_10 ..]
  change Except.ok (Instr.srl _ _ _ _) = _
  rw [Layout.l1_b31, Layout.l1_x20_5, Layout.l1_x15_5, Layout.l1_x10_5]

theorem sra (s : Bool) (d : Reg) (a : Reg) (b : Reg) : Statement (.sra s d a b) := fun hw => by
  refine decode_of_fields hw ?_
  change decodeFields (BitVec.ofBool s ++ 0x1#6 ++ d ++ a ++ b ++ 0xA#10) = _
  rw [Major.m01 (Layout.l1_x25_6 ..)]
  rw [decodeAlu]
  rw [show BitVec.extractLsb' 0 10 _ = 10#10 from Layout.l1_x0_10 ..]
  change Except.ok (Instr.sra _ _ _ _) = _
  rw [Layout.l1_b31, Layout.l1_x20_5, Layout.l1_x15_5, Layout.l1_x10_5]

theorem ror (s : Bool) (d : Reg) (a : Reg) (b : Reg) : Statement (.ror s d a b) := fun hw => by
  refine decode_of_fields hw ?_
  change decodeFields (BitVec.ofBool s ++ 0x1#6 ++ d ++ a ++ b ++ 0xB#10) = _
  rw [Major.m01 (Layout.l1_x25_6 ..)]
  rw [decodeAlu]
  rw [show BitVec.extractLsb' 0 10 _ = 11#10 from Layout.l1_x0_10 ..]
  change Except.ok (Instr.ror _ _ _ _) = _
  rw [Layout.l1_b31, Layout.l1_x20_5, Layout.l1_x15_5, Layout.l1_x10_5]

theorem min (s : Bool) (d : Reg) (a : Reg) (b : Reg) : Statement (.min s d a b) := fun hw => by
  refine decode_of_fields hw ?_
  change decodeFields (BitVec.ofBool s ++ 0x1#6 ++ d ++ a ++ b ++ 0xC#10) = _
  rw [Major.m01 (Layout.l1_x25_6 ..)]
  rw [decodeAlu]
  rw [show BitVec.extractLsb' 0 10 _ = 12#10 from Layout.l1_x0_10 ..]
  change Except.ok (Instr.min _ _ _ _) = _
  rw [Layout.l1_b31, Layout.l1_x20_5, Layout.l1_x15_5, Layout.l1_x10_5]

theorem max (s : Bool) (d : Reg) (a : Reg) (b : Reg) : Statement (.max s d a b) := fun hw => by
  refine decode_of_fields hw ?_
  change decodeFields (BitVec.ofBool s ++ 0x1#6 ++ d ++ a ++ b ++ 0xD#10) = _
  rw [Major.m01 (Layout.l1_x25_6 ..)]
  rw [decodeAlu]
  rw [show BitVec.extractLsb' 0 10 _ = 13#10 from Layout.l1_x0_10 ..]
  change Except.ok (Instr.max _ _ _ _) = _
  rw [Layout.l1_b31, Layout.l1_x20_5, Layout.l1_x15_5, Layout.l1_x10_5]

theorem minu (s : Bool) (d : Reg) (a : Reg) (b : Reg) : Statement (.minu s d a b) := fun hw => by
  refine decode_of_fields hw ?_
  change decodeFields (BitVec.ofBool s ++ 0x1#6 ++ d ++ a ++ b ++ 0xE#10) = _
  rw [Major.m01 (Layout.l1_x25_6 ..)]
  rw [decodeAlu]
  rw [show BitVec.extractLsb' 0 10 _ = 14#10 from Layout.l1_x0_10 ..]
  change Except.ok (Instr.minu _ _ _ _) = _
  rw [Layout.l1_b31, Layout.l1_x20_5, Layout.l1_x15_5, Layout.l1_x10_5]

theorem maxu (s : Bool) (d : Reg) (a : Reg) (b : Reg) : Statement (.maxu s d a b) := fun hw => by
  refine decode_of_fields hw ?_
  change decodeFields (BitVec.ofBool s ++ 0x1#6 ++ d ++ a ++ b ++ 0xF#10) = _
  rw [Major.m01 (Layout.l1_x25_6 ..)]
  rw [decodeAlu]
  rw [show BitVec.extractLsb' 0 10 _ = 15#10 from Layout.l1_x0_10 ..]
  change Except.ok (Instr.maxu _ _ _ _) = _
  rw [Layout.l1_b31, Layout.l1_x20_5, Layout.l1_x15_5, Layout.l1_x10_5]

theorem clz (s : Bool) (d : Reg) (a : Reg) : Statement (.clz s d a) := fun hw => by
  refine decode_of_fields hw ?_
  change decodeFields (BitVec.ofBool s ++ 0x1#6 ++ d ++ a ++ 0x10#15) = _
  rw [Major.m01 (Layout.l2_x25_6 ..)]
  rw [decodeAlu]
  rw [show BitVec.extractLsb' 0 10 _ = 16#10 from Layout.l2_x0_10 ..]
  change (if _ = _ then _ else _) = _
  rw [if_pos (by rw [show (0x00007C00#32) = (0x0#1 ++ 0x0#6 ++ 0x0#5 ++ 0x0#5 ++ 0x7C00#15 : BitVec 32) by decide, Layout.l2_and]; simp)]
  change Except.ok (Instr.clz _ _ _) = _
  rw [Layout.l2_b31, Layout.l2_x20_5, Layout.l2_x15_5]

theorem ctz (s : Bool) (d : Reg) (a : Reg) : Statement (.ctz s d a) := fun hw => by
  refine decode_of_fields hw ?_
  change decodeFields (BitVec.ofBool s ++ 0x1#6 ++ d ++ a ++ 0x11#15) = _
  rw [Major.m01 (Layout.l2_x25_6 ..)]
  rw [decodeAlu]
  rw [show BitVec.extractLsb' 0 10 _ = 17#10 from Layout.l2_x0_10 ..]
  change (if _ = _ then _ else _) = _
  rw [if_pos (by rw [show (0x00007C00#32) = (0x0#1 ++ 0x0#6 ++ 0x0#5 ++ 0x0#5 ++ 0x7C00#15 : BitVec 32) by decide, Layout.l2_and]; simp)]
  change Except.ok (Instr.ctz _ _ _) = _
  rw [Layout.l2_b31, Layout.l2_x20_5, Layout.l2_x15_5]

theorem popc (s : Bool) (d : Reg) (a : Reg) : Statement (.popc s d a) := fun hw => by
  refine decode_of_fields hw ?_
  change decodeFields (BitVec.ofBool s ++ 0x1#6 ++ d ++ a ++ 0x12#15) = _
  rw [Major.m01 (Layout.l2_x25_6 ..)]
  rw [decodeAlu]
  rw [show BitVec.extractLsb' 0 10 _ = 18#10 from Layout.l2_x0_10 ..]
  change (if _ = _ then _ else _) = _
  rw [if_pos (by rw [show (0x00007C00#32) = (0x0#1 ++ 0x0#6 ++ 0x0#5 ++ 0x0#5 ++ 0x7C00#15 : BitVec 32) by decide, Layout.l2_and]; simp)]
  change Except.ok (Instr.popc _ _ _) = _
  rw [Layout.l2_b31, Layout.l2_x20_5, Layout.l2_x15_5]

theorem byterev (s : Bool) (d : Reg) (a : Reg) : Statement (.byterev s d a) := fun hw => by
  refine decode_of_fields hw ?_
  change decodeFields (BitVec.ofBool s ++ 0x1#6 ++ d ++ a ++ 0x13#15) = _
  rw [Major.m01 (Layout.l2_x25_6 ..)]
  rw [decodeAlu]
  rw [show BitVec.extractLsb' 0 10 _ = 19#10 from Layout.l2_x0_10 ..]
  change (if _ = _ then _ else _) = _
  rw [if_pos (by rw [show (0x00007C00#32) = (0x0#1 ++ 0x0#6 ++ 0x0#5 ++ 0x0#5 ++ 0x7C00#15 : BitVec 32) by decide, Layout.l2_and]; simp)]
  change Except.ok (Instr.byterev _ _ _) = _
  rw [Layout.l2_b31, Layout.l2_x20_5, Layout.l2_x15_5]

theorem slt (s : Bool) (d : Reg) (a : Reg) (b : Reg) : Statement (.slt s d a b) := fun hw => by
  refine decode_of_fields hw ?_
  change decodeFields (BitVec.ofBool s ++ 0x1#6 ++ d ++ a ++ b ++ 0x18#10) = _
  rw [Major.m01 (Layout.l1_x25_6 ..)]
  rw [decodeAlu]
  rw [show BitVec.extractLsb' 0 10 _ = 24#10 from Layout.l1_x0_10 ..]
  change Except.ok (Instr.slt _ _ _ _) = _
  rw [Layout.l1_b31, Layout.l1_x20_5, Layout.l1_x15_5, Layout.l1_x10_5]

theorem sltu (s : Bool) (d : Reg) (a : Reg) (b : Reg) : Statement (.sltu s d a b) := fun hw => by
  refine decode_of_fields hw ?_
  change decodeFields (BitVec.ofBool s ++ 0x1#6 ++ d ++ a ++ b ++ 0x19#10) = _
  rw [Major.m01 (Layout.l1_x25_6 ..)]
  rw [decodeAlu]
  rw [show BitVec.extractLsb' 0 10 _ = 25#10 from Layout.l1_x0_10 ..]
  change Except.ok (Instr.sltu _ _ _ _) = _
  rw [Layout.l1_b31, Layout.l1_x20_5, Layout.l1_x15_5, Layout.l1_x10_5]

theorem seq (s : Bool) (d : Reg) (a : Reg) (b : Reg) : Statement (.seq s d a b) := fun hw => by
  refine decode_of_fields hw ?_
  change decodeFields (BitVec.ofBool s ++ 0x1#6 ++ d ++ a ++ b ++ 0x1A#10) = _
  rw [Major.m01 (Layout.l1_x25_6 ..)]
  rw [decodeAlu]
  rw [show BitVec.extractLsb' 0 10 _ = 26#10 from Layout.l1_x0_10 ..]
  change Except.ok (Instr.seq _ _ _ _) = _
  rw [Layout.l1_b31, Layout.l1_x20_5, Layout.l1_x15_5, Layout.l1_x10_5]

theorem sne (s : Bool) (d : Reg) (a : Reg) (b : Reg) : Statement (.sne s d a b) := fun hw => by
  refine decode_of_fields hw ?_
  change decodeFields (BitVec.ofBool s ++ 0x1#6 ++ d ++ a ++ b ++ 0x1B#10) = _
  rw [Major.m01 (Layout.l1_x25_6 ..)]
  rw [decodeAlu]
  rw [show BitVec.extractLsb' 0 10 _ = 27#10 from Layout.l1_x0_10 ..]
  change Except.ok (Instr.sne _ _ _ _) = _
  rw [Layout.l1_b31, Layout.l1_x20_5, Layout.l1_x15_5, Layout.l1_x10_5]

theorem cmovnz (s : Bool) (d : Reg) (a : Reg) (b : Reg) : Statement (.cmovnz s d a b) := fun hw => by
  refine decode_of_fields hw ?_
  change decodeFields (BitVec.ofBool s ++ 0x1#6 ++ d ++ a ++ b ++ 0x1C#10) = _
  rw [Major.m01 (Layout.l1_x25_6 ..)]
  rw [decodeAlu]
  rw [show BitVec.extractLsb' 0 10 _ = 28#10 from Layout.l1_x0_10 ..]
  change Except.ok (Instr.cmovnz _ _ _ _) = _
  rw [Layout.l1_b31, Layout.l1_x20_5, Layout.l1_x15_5, Layout.l1_x10_5]

theorem cmovz (s : Bool) (d : Reg) (a : Reg) (b : Reg) : Statement (.cmovz s d a b) := fun hw => by
  refine decode_of_fields hw ?_
  change decodeFields (BitVec.ofBool s ++ 0x1#6 ++ d ++ a ++ b ++ 0x1D#10) = _
  rw [Major.m01 (Layout.l1_x25_6 ..)]
  rw [decodeAlu]
  rw [show BitVec.extractLsb' 0 10 _ = 29#10 from Layout.l1_x0_10 ..]
  change Except.ok (Instr.cmovz _ _ _ _) = _
  rw [Layout.l1_b31, Layout.l1_x20_5, Layout.l1_x15_5, Layout.l1_x10_5]

theorem mul (s : Bool) (d : Reg) (a : Reg) (b : Reg) : Statement (.mul s d a b) := fun hw => by
  refine decode_of_fields hw ?_
  change decodeFields (BitVec.ofBool s ++ 0x1#6 ++ d ++ a ++ b ++ 0x40#10) = _
  rw [Major.m01 (Layout.l1_x25_6 ..)]
  rw [decodeAlu]
  rw [show BitVec.extractLsb' 0 10 _ = 64#10 from Layout.l1_x0_10 ..]
  change Except.ok (Instr.mul _ _ _ _) = _
  rw [Layout.l1_b31, Layout.l1_x20_5, Layout.l1_x15_5, Layout.l1_x10_5]

theorem mulhs (s : Bool) (d : Reg) (a : Reg) (b : Reg) : Statement (.mulhs s d a b) := fun hw => by
  refine decode_of_fields hw ?_
  change decodeFields (BitVec.ofBool s ++ 0x1#6 ++ d ++ a ++ b ++ 0x41#10) = _
  rw [Major.m01 (Layout.l1_x25_6 ..)]
  rw [decodeAlu]
  rw [show BitVec.extractLsb' 0 10 _ = 65#10 from Layout.l1_x0_10 ..]
  change Except.ok (Instr.mulhs _ _ _ _) = _
  rw [Layout.l1_b31, Layout.l1_x20_5, Layout.l1_x15_5, Layout.l1_x10_5]

theorem mulhu (s : Bool) (d : Reg) (a : Reg) (b : Reg) : Statement (.mulhu s d a b) := fun hw => by
  refine decode_of_fields hw ?_
  change decodeFields (BitVec.ofBool s ++ 0x1#6 ++ d ++ a ++ b ++ 0x42#10) = _
  rw [Major.m01 (Layout.l1_x25_6 ..)]
  rw [decodeAlu]
  rw [show BitVec.extractLsb' 0 10 _ = 66#10 from Layout.l1_x0_10 ..]
  change Except.ok (Instr.mulhu _ _ _ _) = _
  rw [Layout.l1_b31, Layout.l1_x20_5, Layout.l1_x15_5, Layout.l1_x10_5]

theorem mulhus (s : Bool) (d : Reg) (a : Reg) (b : Reg) : Statement (.mulhus s d a b) := fun hw => by
  refine decode_of_fields hw ?_
  change decodeFields (BitVec.ofBool s ++ 0x1#6 ++ d ++ a ++ b ++ 0x43#10) = _
  rw [Major.m01 (Layout.l1_x25_6 ..)]
  rw [decodeAlu]
  rw [show BitVec.extractLsb' 0 10 _ = 67#10 from Layout.l1_x0_10 ..]
  change Except.ok (Instr.mulhus _ _ _ _) = _
  rw [Layout.l1_b31, Layout.l1_x20_5, Layout.l1_x15_5, Layout.l1_x10_5]

theorem mul32 (s : Bool) (d : Reg) (a : Reg) (b : Reg) : Statement (.mul32 s d a b) := fun hw => by
  refine decode_of_fields hw ?_
  change decodeFields (BitVec.ofBool s ++ 0x1#6 ++ d ++ a ++ b ++ 0x44#10) = _
  rw [Major.m01 (Layout.l1_x25_6 ..)]
  rw [decodeAlu]
  rw [show BitVec.extractLsb' 0 10 _ = 68#10 from Layout.l1_x0_10 ..]
  change Except.ok (Instr.mul32 _ _ _ _) = _
  rw [Layout.l1_b31, Layout.l1_x20_5, Layout.l1_x15_5, Layout.l1_x10_5]

theorem muladd (s : Bool) (d : Reg) (a : Reg) (b : Reg) : Statement (.muladd s d a b) := fun hw => by
  refine decode_of_fields hw ?_
  change decodeFields (BitVec.ofBool s ++ 0x1#6 ++ d ++ a ++ b ++ 0x45#10) = _
  rw [Major.m01 (Layout.l1_x25_6 ..)]
  rw [decodeAlu]
  rw [show BitVec.extractLsb' 0 10 _ = 69#10 from Layout.l1_x0_10 ..]
  change Except.ok (Instr.muladd _ _ _ _) = _
  rw [Layout.l1_b31, Layout.l1_x20_5, Layout.l1_x15_5, Layout.l1_x10_5]

theorem mulsub (s : Bool) (d : Reg) (a : Reg) (b : Reg) : Statement (.mulsub s d a b) := fun hw => by
  refine decode_of_fields hw ?_
  change decodeFields (BitVec.ofBool s ++ 0x1#6 ++ d ++ a ++ b ++ 0x46#10) = _
  rw [Major.m01 (Layout.l1_x25_6 ..)]
  rw [decodeAlu]
  rw [show BitVec.extractLsb' 0 10 _ = 70#10 from Layout.l1_x0_10 ..]
  change Except.ok (Instr.mulsub _ _ _ _) = _
  rw [Layout.l1_b31, Layout.l1_x20_5, Layout.l1_x15_5, Layout.l1_x10_5]

theorem div (s : Bool) (d : Reg) (a : Reg) (b : Reg) : Statement (.div s d a b) := fun hw => by
  refine decode_of_fields hw ?_
  change decodeFields (BitVec.ofBool s ++ 0x1#6 ++ d ++ a ++ b ++ 0x48#10) = _
  rw [Major.m01 (Layout.l1_x25_6 ..)]
  rw [decodeAlu]
  rw [show BitVec.extractLsb' 0 10 _ = 72#10 from Layout.l1_x0_10 ..]
  change Except.ok (Instr.div _ _ _ _) = _
  rw [Layout.l1_b31, Layout.l1_x20_5, Layout.l1_x15_5, Layout.l1_x10_5]

theorem divu (s : Bool) (d : Reg) (a : Reg) (b : Reg) : Statement (.divu s d a b) := fun hw => by
  refine decode_of_fields hw ?_
  change decodeFields (BitVec.ofBool s ++ 0x1#6 ++ d ++ a ++ b ++ 0x49#10) = _
  rw [Major.m01 (Layout.l1_x25_6 ..)]
  rw [decodeAlu]
  rw [show BitVec.extractLsb' 0 10 _ = 73#10 from Layout.l1_x0_10 ..]
  change Except.ok (Instr.divu _ _ _ _) = _
  rw [Layout.l1_b31, Layout.l1_x20_5, Layout.l1_x15_5, Layout.l1_x10_5]

theorem rem (s : Bool) (d : Reg) (a : Reg) (b : Reg) : Statement (.rem s d a b) := fun hw => by
  refine decode_of_fields hw ?_
  change decodeFields (BitVec.ofBool s ++ 0x1#6 ++ d ++ a ++ b ++ 0x4A#10) = _
  rw [Major.m01 (Layout.l1_x25_6 ..)]
  rw [decodeAlu]
  rw [show BitVec.extractLsb' 0 10 _ = 74#10 from Layout.l1_x0_10 ..]
  change Except.ok (Instr.rem _ _ _ _) = _
  rw [Layout.l1_b31, Layout.l1_x20_5, Layout.l1_x15_5, Layout.l1_x10_5]

theorem remu (s : Bool) (d : Reg) (a : Reg) (b : Reg) : Statement (.remu s d a b) := fun hw => by
  refine decode_of_fields hw ?_
  change decodeFields (BitVec.ofBool s ++ 0x1#6 ++ d ++ a ++ b ++ 0x4B#10) = _
  rw [Major.m01 (Layout.l1_x25_6 ..)]
  rw [decodeAlu]
  rw [show BitVec.extractLsb' 0 10 _ = 75#10 from Layout.l1_x0_10 ..]
  change Except.ok (Instr.remu _ _ _ _) = _
  rw [Layout.l1_b31, Layout.l1_x20_5, Layout.l1_x15_5, Layout.l1_x10_5]

theorem addi (s : Bool) (d : Reg) (a : Reg) (i : BitVec 15) : Statement (.addi s d a i) := fun hw => by
  refine decode_of_fields hw ?_
  change decodeFields (BitVec.ofBool s ++ 0x2#6 ++ d ++ a ++ i) = _
  rw [Major.m02 (Layout.l2_x25_6 ..)]
  change Except.ok (Instr.addi _ _ _ _) = _
  rw [Layout.l2_b31, Layout.l2_x20_5, Layout.l2_x15_5, Layout.l2_x0_15]

theorem andi (s : Bool) (d : Reg) (a : Reg) (i : BitVec 15) : Statement (.andi s d a i) := fun hw => by
  refine decode_of_fields hw ?_
  change decodeFields (BitVec.ofBool s ++ 0x3#6 ++ d ++ a ++ i) = _
  rw [Major.m03 (Layout.l2_x25_6 ..)]
  change Except.ok (Instr.andi _ _ _ _) = _
  rw [Layout.l2_b31, Layout.l2_x20_5, Layout.l2_x15_5, Layout.l2_x0_15]

theorem ori (s : Bool) (d : Reg) (a : Reg) (i : BitVec 15) : Statement (.ori s d a i) := fun hw => by
  refine decode_of_fields hw ?_
  change decodeFields (BitVec.ofBool s ++ 0x4#6 ++ d ++ a ++ i) = _
  rw [Major.m04 (Layout.l2_x25_6 ..)]
  change Except.ok (Instr.ori _ _ _ _) = _
  rw [Layout.l2_b31, Layout.l2_x20_5, Layout.l2_x15_5, Layout.l2_x0_15]

theorem xori (s : Bool) (d : Reg) (a : Reg) (i : BitVec 15) : Statement (.xori s d a i) := fun hw => by
  refine decode_of_fields hw ?_
  change decodeFields (BitVec.ofBool s ++ 0x5#6 ++ d ++ a ++ i) = _
  rw [Major.m05 (Layout.l2_x25_6 ..)]
  change Except.ok (Instr.xori _ _ _ _) = _
  rw [Layout.l2_b31, Layout.l2_x20_5, Layout.l2_x15_5, Layout.l2_x0_15]

theorem slli (s : Bool) (d : Reg) (a : Reg) (n : BitVec 6) : Statement (.slli s d a n) := fun hw => by
  refine decode_of_fields hw ?_
  change decodeFields (BitVec.ofBool s ++ 0x6#6 ++ d ++ a ++ 0x0#9 ++ n) = _
  rw [Major.m06 (Layout.l3_x25_6 ..)]
  rw [decodeShiftImm]
  rw [show BitVec.extractLsb' 12 3 _ = 0#3 from Layout.l3_x12_3 ..]
  change (if _ = _ then _ else _) = _
  rw [if_pos (by rw [show (0x00000FC0#32) = (0x0#1 ++ 0x0#6 ++ 0x0#5 ++ 0x0#5 ++ 0x3F#9 ++ 0x0#6 : BitVec 32) by decide, Layout.l3_and]; simp)]
  change Except.ok (Instr.slli _ _ _ _) = _
  rw [Layout.l3_b31, Layout.l3_x20_5, Layout.l3_x15_5, Layout.l3_x0_6]

theorem srli (s : Bool) (d : Reg) (a : Reg) (n : BitVec 6) : Statement (.srli s d a n) := fun hw => by
  refine decode_of_fields hw ?_
  change decodeFields (BitVec.ofBool s ++ 0x6#6 ++ d ++ a ++ 0x40#9 ++ n) = _
  rw [Major.m06 (Layout.l3_x25_6 ..)]
  rw [decodeShiftImm]
  rw [show BitVec.extractLsb' 12 3 _ = 1#3 from Layout.l3_x12_3 ..]
  change (if _ = _ then _ else _) = _
  rw [if_pos (by rw [show (0x00000FC0#32) = (0x0#1 ++ 0x0#6 ++ 0x0#5 ++ 0x0#5 ++ 0x3F#9 ++ 0x0#6 : BitVec 32) by decide, Layout.l3_and]; simp)]
  change Except.ok (Instr.srli _ _ _ _) = _
  rw [Layout.l3_b31, Layout.l3_x20_5, Layout.l3_x15_5, Layout.l3_x0_6]

theorem srai (s : Bool) (d : Reg) (a : Reg) (n : BitVec 6) : Statement (.srai s d a n) := fun hw => by
  refine decode_of_fields hw ?_
  change decodeFields (BitVec.ofBool s ++ 0x6#6 ++ d ++ a ++ 0x80#9 ++ n) = _
  rw [Major.m06 (Layout.l3_x25_6 ..)]
  rw [decodeShiftImm]
  rw [show BitVec.extractLsb' 12 3 _ = 2#3 from Layout.l3_x12_3 ..]
  change (if _ = _ then _ else _) = _
  rw [if_pos (by rw [show (0x00000FC0#32) = (0x0#1 ++ 0x0#6 ++ 0x0#5 ++ 0x0#5 ++ 0x3F#9 ++ 0x0#6 : BitVec 32) by decide, Layout.l3_and]; simp)]
  change Except.ok (Instr.srai _ _ _ _) = _
  rw [Layout.l3_b31, Layout.l3_x20_5, Layout.l3_x15_5, Layout.l3_x0_6]

theorem rori (s : Bool) (d : Reg) (a : Reg) (n : BitVec 6) : Statement (.rori s d a n) := fun hw => by
  refine decode_of_fields hw ?_
  change decodeFields (BitVec.ofBool s ++ 0x6#6 ++ d ++ a ++ 0xC0#9 ++ n) = _
  rw [Major.m06 (Layout.l3_x25_6 ..)]
  rw [decodeShiftImm]
  rw [show BitVec.extractLsb' 12 3 _ = 3#3 from Layout.l3_x12_3 ..]
  change (if _ = _ then _ else _) = _
  rw [if_pos (by rw [show (0x00000FC0#32) = (0x0#1 ++ 0x0#6 ++ 0x0#5 ++ 0x0#5 ++ 0x3F#9 ++ 0x0#6 : BitVec 32) by decide, Layout.l3_and]; simp)]
  change Except.ok (Instr.rori _ _ _ _) = _
  rw [Layout.l3_b31, Layout.l3_x20_5, Layout.l3_x15_5, Layout.l3_x0_6]

theorem slti (s : Bool) (d : Reg) (a : Reg) (i : BitVec 14) : Statement (.slti s d a i) := fun hw => by
  refine decode_of_fields hw ?_
  change decodeFields (BitVec.ofBool s ++ 0x7#6 ++ d ++ a ++ 0x0#1 ++ i) = _
  rw [Major.m07 (Layout.l4_x25_6 ..)]
  rw [decodeSltImm]
  rw [show BitVec.extractLsb' 14 1 _ = 0#1 from Layout.l4_x14_1 ..]
  change Except.ok (Instr.slti _ _ _ _) = _
  rw [Layout.l4_b31, Layout.l4_x20_5, Layout.l4_x15_5, Layout.l4_x0_14]

theorem sltiu (s : Bool) (d : Reg) (a : Reg) (i : BitVec 14) : Statement (.sltiu s d a i) := fun hw => by
  refine decode_of_fields hw ?_
  change decodeFields (BitVec.ofBool s ++ 0x7#6 ++ d ++ a ++ 0x1#1 ++ i) = _
  rw [Major.m07 (Layout.l4_x25_6 ..)]
  rw [decodeSltImm]
  rw [show BitVec.extractLsb' 14 1 _ = 1#1 from Layout.l4_x14_1 ..]
  change Except.ok (Instr.sltiu _ _ _ _) = _
  rw [Layout.l4_b31, Layout.l4_x20_5, Layout.l4_x15_5, Layout.l4_x0_14]

theorem lui (s : Bool) (d : Reg) (i : BitVec 20) : Statement (.lui s d i) := fun hw => by
  refine decode_of_fields hw ?_
  change decodeFields (BitVec.ofBool s ++ 0x8#6 ++ d ++ i) = _
  rw [Major.m08 (Layout.l5_x25_6 ..)]
  change Except.ok (Instr.lui _ _ _) = _
  rw [Layout.l5_b31, Layout.l5_x20_5, Layout.l5_x0_20]

theorem addpc (s : Bool) (d : Reg) (i : BitVec 20) : Statement (.addpc s d i) := fun hw => by
  refine decode_of_fields hw ?_
  change decodeFields (BitVec.ofBool s ++ 0x9#6 ++ d ++ i) = _
  rw [Major.m09 (Layout.l5_x25_6 ..)]
  change Except.ok (Instr.addpc _ _ _) = _
  rw [Layout.l5_b31, Layout.l5_x20_5, Layout.l5_x0_20]

theorem bfx (s : Bool) (d : Reg) (a : Reg) (p : BitVec 6) (w : BitVec 6) : Statement (.bfx s d a p w) := fun hw => by
  refine decode_of_fields hw ?_
  change decodeFields (BitVec.ofBool s ++ 0xF#6 ++ d ++ a ++ p.extractLsb' 0 5 ++ 0x0#2 ++ w ++ 0x0#1 ++ p.extractLsb' 5 1) = _
  rw [Major.m0F (Layout.l6_x25_6 ..)]
  rw [decodeBitfield]
  rw [show BitVec.extractLsb' 8 2 _ = 0#2 from Layout.l6_x8_2 ..]
  change (if _ = _ then _ else _) = _
  rw [if_pos (by rw [show (0x00000002#32) = (0x0#1 ++ 0x0#6 ++ 0x0#5 ++ 0x0#5 ++ 0x0#5 ++ 0x0#2 ++ 0x0#6 ++ 0x1#1 ++ 0x0#1 : BitVec 32) by decide, Layout.l6_and]; simp)]
  change Except.ok (Instr.bfx _ _ _ _ _) = _
  rw [Layout.l6_b31, Layout.l6_x20_5, Layout.l6_x15_5, Layout.l6_x0_1, Layout.l6_x10_5, Layout.l6_x2_6, split6]

theorem bfxu (s : Bool) (d : Reg) (a : Reg) (p : BitVec 6) (w : BitVec 6) : Statement (.bfxu s d a p w) := fun hw => by
  refine decode_of_fields hw ?_
  change decodeFields (BitVec.ofBool s ++ 0xF#6 ++ d ++ a ++ p.extractLsb' 0 5 ++ 0x1#2 ++ w ++ 0x0#1 ++ p.extractLsb' 5 1) = _
  rw [Major.m0F (Layout.l6_x25_6 ..)]
  rw [decodeBitfield]
  rw [show BitVec.extractLsb' 8 2 _ = 1#2 from Layout.l6_x8_2 ..]
  change (if _ = _ then _ else _) = _
  rw [if_pos (by rw [show (0x00000002#32) = (0x0#1 ++ 0x0#6 ++ 0x0#5 ++ 0x0#5 ++ 0x0#5 ++ 0x0#2 ++ 0x0#6 ++ 0x1#1 ++ 0x0#1 : BitVec 32) by decide, Layout.l6_and]; simp)]
  change Except.ok (Instr.bfxu _ _ _ _ _) = _
  rw [Layout.l6_b31, Layout.l6_x20_5, Layout.l6_x15_5, Layout.l6_x0_1, Layout.l6_x10_5, Layout.l6_x2_6, split6]

theorem bfi (s : Bool) (d : Reg) (a : Reg) (p : BitVec 6) (w : BitVec 6) : Statement (.bfi s d a p w) := fun hw => by
  refine decode_of_fields hw ?_
  change decodeFields (BitVec.ofBool s ++ 0xF#6 ++ d ++ a ++ p.extractLsb' 0 5 ++ 0x2#2 ++ w ++ 0x0#1 ++ p.extractLsb' 5 1) = _
  rw [Major.m0F (Layout.l6_x25_6 ..)]
  rw [decodeBitfield]
  rw [show BitVec.extractLsb' 8 2 _ = 2#2 from Layout.l6_x8_2 ..]
  change (if _ = _ then _ else _) = _
  rw [if_pos (by rw [show (0x00000002#32) = (0x0#1 ++ 0x0#6 ++ 0x0#5 ++ 0x0#5 ++ 0x0#5 ++ 0x0#2 ++ 0x0#6 ++ 0x1#1 ++ 0x0#1 : BitVec 32) by decide, Layout.l6_and]; simp)]
  change Except.ok (Instr.bfi _ _ _ _ _) = _
  rw [Layout.l6_b31, Layout.l6_x20_5, Layout.l6_x15_5, Layout.l6_x0_1, Layout.l6_x10_5, Layout.l6_x2_6, split6]

theorem beq (s : Bool) (a : Reg) (b : Reg) (o : BitVec 15) : Statement (.beq s a b o) := fun hw => by
  refine decode_of_fields hw ?_
  change decodeFields (BitVec.ofBool s ++ 0x10#6 ++ a ++ b ++ o) = _
  rw [Major.m10 (Layout.l2_x25_6 ..)]
  change Except.ok (Instr.beq _ _ _ _) = _
  rw [Layout.l2_b31, Layout.l2_x20_5, Layout.l2_x15_5, Layout.l2_x0_15]

theorem bne (s : Bool) (a : Reg) (b : Reg) (o : BitVec 15) : Statement (.bne s a b o) := fun hw => by
  refine decode_of_fields hw ?_
  change decodeFields (BitVec.ofBool s ++ 0x11#6 ++ a ++ b ++ o) = _
  rw [Major.m11 (Layout.l2_x25_6 ..)]
  change Except.ok (Instr.bne _ _ _ _) = _
  rw [Layout.l2_b31, Layout.l2_x20_5, Layout.l2_x15_5, Layout.l2_x0_15]

theorem blt (s : Bool) (a : Reg) (b : Reg) (o : BitVec 15) : Statement (.blt s a b o) := fun hw => by
  refine decode_of_fields hw ?_
  change decodeFields (BitVec.ofBool s ++ 0x12#6 ++ a ++ b ++ o) = _
  rw [Major.m12 (Layout.l2_x25_6 ..)]
  change Except.ok (Instr.blt _ _ _ _) = _
  rw [Layout.l2_b31, Layout.l2_x20_5, Layout.l2_x15_5, Layout.l2_x0_15]

theorem bge (s : Bool) (a : Reg) (b : Reg) (o : BitVec 15) : Statement (.bge s a b o) := fun hw => by
  refine decode_of_fields hw ?_
  change decodeFields (BitVec.ofBool s ++ 0x13#6 ++ a ++ b ++ o) = _
  rw [Major.m13 (Layout.l2_x25_6 ..)]
  change Except.ok (Instr.bge _ _ _ _) = _
  rw [Layout.l2_b31, Layout.l2_x20_5, Layout.l2_x15_5, Layout.l2_x0_15]

theorem bltu (s : Bool) (a : Reg) (b : Reg) (o : BitVec 15) : Statement (.bltu s a b o) := fun hw => by
  refine decode_of_fields hw ?_
  change decodeFields (BitVec.ofBool s ++ 0x14#6 ++ a ++ b ++ o) = _
  rw [Major.m14 (Layout.l2_x25_6 ..)]
  change Except.ok (Instr.bltu _ _ _ _) = _
  rw [Layout.l2_b31, Layout.l2_x20_5, Layout.l2_x15_5, Layout.l2_x0_15]

theorem bgeu (s : Bool) (a : Reg) (b : Reg) (o : BitVec 15) : Statement (.bgeu s a b o) := fun hw => by
  refine decode_of_fields hw ?_
  change decodeFields (BitVec.ofBool s ++ 0x15#6 ++ a ++ b ++ o) = _
  rw [Major.m15 (Layout.l2_x25_6 ..)]
  change Except.ok (Instr.bgeu _ _ _ _) = _
  rw [Layout.l2_b31, Layout.l2_x20_5, Layout.l2_x15_5, Layout.l2_x0_15]

theorem jal (s : Bool) (o : BitVec 25) : Statement (.jal s o) := fun hw => by
  refine decode_of_fields hw ?_
  change decodeFields (BitVec.ofBool s ++ 0x16#6 ++ o) = _
  rw [Major.m16 (Layout.l7_x25_6 ..)]
  change Except.ok (Instr.jal _ _) = _
  rw [Layout.l7_b31, Layout.l7_x0_25]

theorem jalr (s : Bool) (d : Reg) (a : Reg) (i : BitVec 15) : Statement (.jalr s d a i) := fun hw => by
  refine decode_of_fields hw ?_
  change decodeFields (BitVec.ofBool s ++ 0x17#6 ++ d ++ a ++ i) = _
  rw [Major.m17 (Layout.l2_x25_6 ..)]
  change Except.ok (Instr.jalr _ _ _ _) = _
  rw [Layout.l2_b31, Layout.l2_x20_5, Layout.l2_x15_5, Layout.l2_x0_15]

theorem subbr (s : Bool) (a : Reg) (b : Reg) (o : BitVec 15) : Statement (.subbr s a b o) := fun hw => by
  refine decode_of_fields hw ?_
  change decodeFields (BitVec.ofBool s ++ 0x18#6 ++ a ++ b ++ o) = _
  rw [Major.m18 (Layout.l2_x25_6 ..)]
  change Except.ok (Instr.subbr _ _ _ _) = _
  rw [Layout.l2_b31, Layout.l2_x20_5, Layout.l2_x15_5, Layout.l2_x0_15]

theorem loop (s : Bool) (n : BitVec 5) (p : BitVec 4) : Statement (.loop s n p) := fun hw => by
  refine decode_of_fields hw ?_
  change decodeFields (BitVec.ofBool s ++ 0x19#6 ++ 0x0#10 ++ n ++ 0x0#6 ++ p) = _
  rw [Major.m19 (Layout.l8_x25_6 ..)]
  change (if _ = _ then _ else _) = _
  rw [if_pos (by rw [show (0x01FF83F0#32) = (0x0#1 ++ 0x0#6 ++ 0x3FF#10 ++ 0x0#5 ++ 0x3F#6 ++ 0x0#4 : BitVec 32) by decide, Layout.l8_and]; simp)]
  change Except.ok (Instr.loop _ _ _) = _
  rw [Layout.l8_b31, Layout.l8_x10_5, Layout.l8_x0_4]

theorem fadd (s : Bool) (d : Reg) (a : Reg) (b : Reg) (f : Fmt) (r : Rm) : Statement (.fadd s d a b f r) := fun hw => by
  refine decode_of_fields hw ?_
  change decodeFields (BitVec.ofBool s ++ 0x1A#6 ++ d ++ a ++ b ++ 0x0#5 ++ f.code ++ r.code) = _
  rw [Major.m1A (Layout.l9_x25_6 ..)]
  rw [decodeFpArith]
  rw [show BitVec.extractLsb' 5 5 _ = 0#5 from Layout.l9_x5_5 ..]
  rw [Layout.l9_x3_2, Layout.l9_x0_3, Layout.l9_b31, Layout.l9_x20_5, Layout.l9_x15_5, Layout.l9_x10_5, Fmt.ofCode_code, Rm.ofCode_code] <;> rfl

theorem fsub (s : Bool) (d : Reg) (a : Reg) (b : Reg) (f : Fmt) (r : Rm) : Statement (.fsub s d a b f r) := fun hw => by
  refine decode_of_fields hw ?_
  change decodeFields (BitVec.ofBool s ++ 0x1A#6 ++ d ++ a ++ b ++ 0x1#5 ++ f.code ++ r.code) = _
  rw [Major.m1A (Layout.l9_x25_6 ..)]
  rw [decodeFpArith]
  rw [show BitVec.extractLsb' 5 5 _ = 1#5 from Layout.l9_x5_5 ..]
  rw [Layout.l9_x3_2, Layout.l9_x0_3, Layout.l9_b31, Layout.l9_x20_5, Layout.l9_x15_5, Layout.l9_x10_5, Fmt.ofCode_code, Rm.ofCode_code] <;> rfl

theorem fmul (s : Bool) (d : Reg) (a : Reg) (b : Reg) (f : Fmt) (r : Rm) : Statement (.fmul s d a b f r) := fun hw => by
  refine decode_of_fields hw ?_
  change decodeFields (BitVec.ofBool s ++ 0x1A#6 ++ d ++ a ++ b ++ 0x2#5 ++ f.code ++ r.code) = _
  rw [Major.m1A (Layout.l9_x25_6 ..)]
  rw [decodeFpArith]
  rw [show BitVec.extractLsb' 5 5 _ = 2#5 from Layout.l9_x5_5 ..]
  rw [Layout.l9_x3_2, Layout.l9_x0_3, Layout.l9_b31, Layout.l9_x20_5, Layout.l9_x15_5, Layout.l9_x10_5, Fmt.ofCode_code, Rm.ofCode_code] <;> rfl

theorem fdiv (s : Bool) (d : Reg) (a : Reg) (b : Reg) (f : Fmt) (r : Rm) : Statement (.fdiv s d a b f r) := fun hw => by
  refine decode_of_fields hw ?_
  change decodeFields (BitVec.ofBool s ++ 0x1A#6 ++ d ++ a ++ b ++ 0x3#5 ++ f.code ++ r.code) = _
  rw [Major.m1A (Layout.l9_x25_6 ..)]
  rw [decodeFpArith]
  rw [show BitVec.extractLsb' 5 5 _ = 3#5 from Layout.l9_x5_5 ..]
  rw [Layout.l9_x3_2, Layout.l9_x0_3, Layout.l9_b31, Layout.l9_x20_5, Layout.l9_x15_5, Layout.l9_x10_5, Fmt.ofCode_code, Rm.ofCode_code] <;> rfl

theorem fsqrt (s : Bool) (d : Reg) (a : Reg) (f : Fmt) (r : Rm) : Statement (.fsqrt s d a f r) := fun hw => by
  refine decode_of_fields hw ?_
  change decodeFields (BitVec.ofBool s ++ 0x1A#6 ++ d ++ a ++ 0x4#10 ++ f.code ++ r.code) = _
  rw [Major.m1A (Layout.l10_x25_6 ..)]
  rw [decodeFpArith]
  rw [show BitVec.extractLsb' 5 5 _ = 4#5 from Layout.l10_x5_5 ..]
  change (if _ = _ then _ else _) = _
  rw [if_pos (by rw [show (0x00007C00#32) = (0x0#1 ++ 0x0#6 ++ 0x0#5 ++ 0x0#5 ++ 0x3E0#10 ++ 0x0#2 ++ 0x0#3 : BitVec 32) by decide, Layout.l10_and]; simp)]
  rw [Layout.l10_x3_2, Layout.l10_x0_3, Layout.l10_b31, Layout.l10_x20_5, Layout.l10_x15_5, Fmt.ofCode_code, Rm.ofCode_code] <;> rfl

theorem fmin (s : Bool) (d : Reg) (a : Reg) (b : Reg) (f : Fmt) : Statement (.fmin s d a b f) := fun hw => by
  refine decode_of_fields hw ?_
  change decodeFields (BitVec.ofBool s ++ 0x1A#6 ++ d ++ a ++ b ++ 0x5#5 ++ f.code ++ 0x0#3) = _
  rw [Major.m1A (Layout.l9_x25_6 ..)]
  rw [decodeFpArith]
  rw [show BitVec.extractLsb' 5 5 _ = 5#5 from Layout.l9_x5_5 ..]
  change (if _ = _ then _ else _) = _
  rw [if_pos (by rw [show (0x00000007#32) = (0x0#1 ++ 0x0#6 ++ 0x0#5 ++ 0x0#5 ++ 0x0#5 ++ 0x0#5 ++ 0x0#2 ++ 0x7#3 : BitVec 32) by decide, Layout.l9_and]; simp)]
  rw [Layout.l9_x3_2, Layout.l9_b31, Layout.l9_x20_5, Layout.l9_x15_5, Layout.l9_x10_5, Fmt.ofCode_code] <;> rfl

theorem fmax (s : Bool) (d : Reg) (a : Reg) (b : Reg) (f : Fmt) : Statement (.fmax s d a b f) := fun hw => by
  refine decode_of_fields hw ?_
  change decodeFields (BitVec.ofBool s ++ 0x1A#6 ++ d ++ a ++ b ++ 0x6#5 ++ f.code ++ 0x0#3) = _
  rw [Major.m1A (Layout.l9_x25_6 ..)]
  rw [decodeFpArith]
  rw [show BitVec.extractLsb' 5 5 _ = 6#5 from Layout.l9_x5_5 ..]
  change (if _ = _ then _ else _) = _
  rw [if_pos (by rw [show (0x00000007#32) = (0x0#1 ++ 0x0#6 ++ 0x0#5 ++ 0x0#5 ++ 0x0#5 ++ 0x0#5 ++ 0x0#2 ++ 0x7#3 : BitVec 32) by decide, Layout.l9_and]; simp)]
  rw [Layout.l9_x3_2, Layout.l9_b31, Layout.l9_x20_5, Layout.l9_x15_5, Layout.l9_x10_5, Fmt.ofCode_code] <;> rfl

theorem fcpsgn (s : Bool) (d : Reg) (a : Reg) (b : Reg) (f : Fmt) : Statement (.fcpsgn s d a b f) := fun hw => by
  refine decode_of_fields hw ?_
  change decodeFields (BitVec.ofBool s ++ 0x1A#6 ++ d ++ a ++ b ++ 0x7#5 ++ f.code ++ 0x0#3) = _
  rw [Major.m1A (Layout.l9_x25_6 ..)]
  rw [decodeFpArith]
  rw [show BitVec.extractLsb' 5 5 _ = 7#5 from Layout.l9_x5_5 ..]
  change (if _ = _ then _ else _) = _
  rw [if_pos (by rw [show (0x00000007#32) = (0x0#1 ++ 0x0#6 ++ 0x0#5 ++ 0x0#5 ++ 0x0#5 ++ 0x0#5 ++ 0x0#2 ++ 0x7#3 : BitVec 32) by decide, Layout.l9_and]; simp)]
  rw [Layout.l9_x3_2, Layout.l9_b31, Layout.l9_x20_5, Layout.l9_x15_5, Layout.l9_x10_5, Fmt.ofCode_code] <;> rfl

theorem fneg (s : Bool) (d : Reg) (a : Reg) (f : Fmt) : Statement (.fneg s d a f) := fun hw => by
  refine decode_of_fields hw ?_
  change decodeFields (BitVec.ofBool s ++ 0x1A#6 ++ d ++ a ++ 0x8#10 ++ f.code ++ 0x0#3) = _
  rw [Major.m1A (Layout.l10_x25_6 ..)]
  rw [decodeFpArith]
  rw [show BitVec.extractLsb' 5 5 _ = 8#5 from Layout.l10_x5_5 ..]
  change (if _ = _ then _ else _) = _
  rw [if_pos (by rw [show (0x00007C07#32) = (0x0#1 ++ 0x0#6 ++ 0x0#5 ++ 0x0#5 ++ 0x3E0#10 ++ 0x0#2 ++ 0x7#3 : BitVec 32) by decide, Layout.l10_and]; simp)]
  rw [Layout.l10_x3_2, Layout.l10_b31, Layout.l10_x20_5, Layout.l10_x15_5, Fmt.ofCode_code] <;> rfl

theorem fabs (s : Bool) (d : Reg) (a : Reg) (f : Fmt) : Statement (.fabs s d a f) := fun hw => by
  refine decode_of_fields hw ?_
  change decodeFields (BitVec.ofBool s ++ 0x1A#6 ++ d ++ a ++ 0x9#10 ++ f.code ++ 0x0#3) = _
  rw [Major.m1A (Layout.l10_x25_6 ..)]
  rw [decodeFpArith]
  rw [show BitVec.extractLsb' 5 5 _ = 9#5 from Layout.l10_x5_5 ..]
  change (if _ = _ then _ else _) = _
  rw [if_pos (by rw [show (0x00007C07#32) = (0x0#1 ++ 0x0#6 ++ 0x0#5 ++ 0x0#5 ++ 0x3E0#10 ++ 0x0#2 ++ 0x7#3 : BitVec 32) by decide, Layout.l10_and]; simp)]
  rw [Layout.l10_x3_2, Layout.l10_b31, Layout.l10_x20_5, Layout.l10_x15_5, Fmt.ofCode_code] <;> rfl

theorem fxsgn (s : Bool) (d : Reg) (a : Reg) (b : Reg) (f : Fmt) : Statement (.fxsgn s d a b f) := fun hw => by
  refine decode_of_fields hw ?_
  change decodeFields (BitVec.ofBool s ++ 0x1A#6 ++ d ++ a ++ b ++ 0xA#5 ++ f.code ++ 0x0#3) = _
  rw [Major.m1A (Layout.l9_x25_6 ..)]
  rw [decodeFpArith]
  rw [show BitVec.extractLsb' 5 5 _ = 10#5 from Layout.l9_x5_5 ..]
  change (if _ = _ then _ else _) = _
  rw [if_pos (by rw [show (0x00000007#32) = (0x0#1 ++ 0x0#6 ++ 0x0#5 ++ 0x0#5 ++ 0x0#5 ++ 0x0#5 ++ 0x0#2 ++ 0x7#3 : BitVec 32) by decide, Layout.l9_and]; simp)]
  rw [Layout.l9_x3_2, Layout.l9_b31, Layout.l9_x20_5, Layout.l9_x15_5, Layout.l9_x10_5, Fmt.ofCode_code] <;> rfl

theorem fmaddD (s : Bool) (d : Reg) (a : Reg) (b : Reg) (c : Reg) (r : Rm) : Statement (.fmaddD s d a b c r) := fun hw => by
  refine decode_of_fields hw ?_
  change decodeFields (BitVec.ofBool s ++ 0x1B#6 ++ d ++ a ++ b ++ c ++ 0x0#2 ++ r.code) = _
  rw [Major.m1B (Layout.l9_x25_6 ..)]
  rw [decodeFmaD]
  rw [show BitVec.extractLsb' 3 2 _ = 0#2 from Layout.l9_x3_2 ..]
  rw [Layout.l9_x0_3, Layout.l9_b31, Layout.l9_x20_5, Layout.l9_x15_5, Layout.l9_x10_5, Layout.l9_x5_5, Rm.ofCode_code] <;> rfl

theorem fmsubD (s : Bool) (d : Reg) (a : Reg) (b : Reg) (c : Reg) (r : Rm) : Statement (.fmsubD s d a b c r) := fun hw => by
  refine decode_of_fields hw ?_
  change decodeFields (BitVec.ofBool s ++ 0x1B#6 ++ d ++ a ++ b ++ c ++ 0x1#2 ++ r.code) = _
  rw [Major.m1B (Layout.l9_x25_6 ..)]
  rw [decodeFmaD]
  rw [show BitVec.extractLsb' 3 2 _ = 1#2 from Layout.l9_x3_2 ..]
  rw [Layout.l9_x0_3, Layout.l9_b31, Layout.l9_x20_5, Layout.l9_x15_5, Layout.l9_x10_5, Layout.l9_x5_5, Rm.ofCode_code] <;> rfl

theorem fnmaddD (s : Bool) (d : Reg) (a : Reg) (b : Reg) (c : Reg) (r : Rm) : Statement (.fnmaddD s d a b c r) := fun hw => by
  refine decode_of_fields hw ?_
  change decodeFields (BitVec.ofBool s ++ 0x1B#6 ++ d ++ a ++ b ++ c ++ 0x2#2 ++ r.code) = _
  rw [Major.m1B (Layout.l9_x25_6 ..)]
  rw [decodeFmaD]
  rw [show BitVec.extractLsb' 3 2 _ = 2#2 from Layout.l9_x3_2 ..]
  rw [Layout.l9_x0_3, Layout.l9_b31, Layout.l9_x20_5, Layout.l9_x15_5, Layout.l9_x10_5, Layout.l9_x5_5, Rm.ofCode_code] <;> rfl

theorem fnmsubD (s : Bool) (d : Reg) (a : Reg) (b : Reg) (c : Reg) (r : Rm) : Statement (.fnmsubD s d a b c r) := fun hw => by
  refine decode_of_fields hw ?_
  change decodeFields (BitVec.ofBool s ++ 0x1B#6 ++ d ++ a ++ b ++ c ++ 0x3#2 ++ r.code) = _
  rw [Major.m1B (Layout.l9_x25_6 ..)]
  rw [decodeFmaD]
  rw [show BitVec.extractLsb' 3 2 _ = 3#2 from Layout.l9_x3_2 ..]
  rw [Layout.l9_x0_3, Layout.l9_b31, Layout.l9_x20_5, Layout.l9_x15_5, Layout.l9_x10_5, Layout.l9_x5_5, Rm.ofCode_code] <;> rfl

theorem fmaddS (s : Bool) (d : Reg) (a : Reg) (b : Reg) (c : Reg) (r : Rm) : Statement (.fmaddS s d a b c r) := fun hw => by
  refine decode_of_fields hw ?_
  change decodeFields (BitVec.ofBool s ++ 0x1C#6 ++ d ++ a ++ b ++ c ++ 0x0#2 ++ r.code) = _
  rw [Major.m1C (Layout.l9_x25_6 ..)]
  rw [decodeFmaS]
  rw [show BitVec.extractLsb' 3 2 _ = 0#2 from Layout.l9_x3_2 ..]
  rw [Layout.l9_x0_3, Layout.l9_b31, Layout.l9_x20_5, Layout.l9_x15_5, Layout.l9_x10_5, Layout.l9_x5_5, Rm.ofCode_code] <;> rfl

theorem fmsubS (s : Bool) (d : Reg) (a : Reg) (b : Reg) (c : Reg) (r : Rm) : Statement (.fmsubS s d a b c r) := fun hw => by
  refine decode_of_fields hw ?_
  change decodeFields (BitVec.ofBool s ++ 0x1C#6 ++ d ++ a ++ b ++ c ++ 0x1#2 ++ r.code) = _
  rw [Major.m1C (Layout.l9_x25_6 ..)]
  rw [decodeFmaS]
  rw [show BitVec.extractLsb' 3 2 _ = 1#2 from Layout.l9_x3_2 ..]
  rw [Layout.l9_x0_3, Layout.l9_b31, Layout.l9_x20_5, Layout.l9_x15_5, Layout.l9_x10_5, Layout.l9_x5_5, Rm.ofCode_code] <;> rfl

theorem fnmaddS (s : Bool) (d : Reg) (a : Reg) (b : Reg) (c : Reg) (r : Rm) : Statement (.fnmaddS s d a b c r) := fun hw => by
  refine decode_of_fields hw ?_
  change decodeFields (BitVec.ofBool s ++ 0x1C#6 ++ d ++ a ++ b ++ c ++ 0x2#2 ++ r.code) = _
  rw [Major.m1C (Layout.l9_x25_6 ..)]
  rw [decodeFmaS]
  rw [show BitVec.extractLsb' 3 2 _ = 2#2 from Layout.l9_x3_2 ..]
  rw [Layout.l9_x0_3, Layout.l9_b31, Layout.l9_x20_5, Layout.l9_x15_5, Layout.l9_x10_5, Layout.l9_x5_5, Rm.ofCode_code] <;> rfl

theorem fnmsubS (s : Bool) (d : Reg) (a : Reg) (b : Reg) (c : Reg) (r : Rm) : Statement (.fnmsubS s d a b c r) := fun hw => by
  refine decode_of_fields hw ?_
  change decodeFields (BitVec.ofBool s ++ 0x1C#6 ++ d ++ a ++ b ++ c ++ 0x3#2 ++ r.code) = _
  rw [Major.m1C (Layout.l9_x25_6 ..)]
  rw [decodeFmaS]
  rw [show BitVec.extractLsb' 3 2 _ = 3#2 from Layout.l9_x3_2 ..]
  rw [Layout.l9_x0_3, Layout.l9_b31, Layout.l9_x20_5, Layout.l9_x15_5, Layout.l9_x10_5, Layout.l9_x5_5, Rm.ofCode_code] <;> rfl

theorem fcmpq (s : Bool) (d : Reg) (a : Reg) (b : Reg) (f : Fmt) : Statement (.fcmpq s d a b f) := fun hw => by
  refine decode_of_fields hw ?_
  change decodeFields (BitVec.ofBool s ++ 0x1D#6 ++ d ++ a ++ b ++ 0x0#5 ++ f.code ++ 0x0#3) = _
  rw [Major.m1D (Layout.l9_x25_6 ..)]
  rw [decodeFpConvert]
  rw [show BitVec.extractLsb' 5 5 _ = 0#5 from Layout.l9_x5_5 ..]
  change (if _ = _ then _ else _) = _
  rw [if_pos (by rw [show (0x00000007#32) = (0x0#1 ++ 0x0#6 ++ 0x0#5 ++ 0x0#5 ++ 0x0#5 ++ 0x0#5 ++ 0x0#2 ++ 0x7#3 : BitVec 32) by decide, Layout.l9_and]; simp)]
  rw [Layout.l9_x3_2, Layout.l9_b31, Layout.l9_x20_5, Layout.l9_x15_5, Layout.l9_x10_5, Fmt.ofCode_code] <;> rfl

theorem fcmps (s : Bool) (d : Reg) (a : Reg) (b : Reg) (f : Fmt) : Statement (.fcmps s d a b f) := fun hw => by
  refine decode_of_fields hw ?_
  change decodeFields (BitVec.ofBool s ++ 0x1D#6 ++ d ++ a ++ b ++ 0x1#5 ++ f.code ++ 0x0#3) = _
  rw [Major.m1D (Layout.l9_x25_6 ..)]
  rw [decodeFpConvert]
  rw [show BitVec.extractLsb' 5 5 _ = 1#5 from Layout.l9_x5_5 ..]
  change (if _ = _ then _ else _) = _
  rw [if_pos (by rw [show (0x00000007#32) = (0x0#1 ++ 0x0#6 ++ 0x0#5 ++ 0x0#5 ++ 0x0#5 ++ 0x0#5 ++ 0x0#2 ++ 0x7#3 : BitVec 32) by decide, Layout.l9_and]; simp)]
  rw [Layout.l9_x3_2, Layout.l9_b31, Layout.l9_x20_5, Layout.l9_x15_5, Layout.l9_x10_5, Fmt.ofCode_code] <;> rfl

theorem fclass (s : Bool) (d : Reg) (a : Reg) (f : Fmt) : Statement (.fclass s d a f) := fun hw => by
  refine decode_of_fields hw ?_
  change decodeFields (BitVec.ofBool s ++ 0x1D#6 ++ d ++ a ++ 0x3#10 ++ f.code ++ 0x0#3) = _
  rw [Major.m1D (Layout.l10_x25_6 ..)]
  rw [decodeFpConvert]
  rw [show BitVec.extractLsb' 5 5 _ = 3#5 from Layout.l10_x5_5 ..]
  change (if _ = _ then _ else _) = _
  rw [if_pos (by rw [show (0x00007C07#32) = (0x0#1 ++ 0x0#6 ++ 0x0#5 ++ 0x0#5 ++ 0x3E0#10 ++ 0x0#2 ++ 0x7#3 : BitVec 32) by decide, Layout.l10_and]; simp)]
  rw [Layout.l10_x3_2, Layout.l10_b31, Layout.l10_x20_5, Layout.l10_x15_5, Fmt.ofCode_code] <;> rfl

theorem fcvt (s : Bool) (d : Reg) (a : Reg) (f : Fmt) (r : Rm) : Statement (.fcvt s d a f r) := fun hw => by
  refine decode_of_fields hw ?_
  change decodeFields (BitVec.ofBool s ++ 0x1D#6 ++ d ++ a ++ 0x4#10 ++ f.code ++ r.code) = _
  rw [Major.m1D (Layout.l10_x25_6 ..)]
  rw [decodeFpConvert]
  rw [show BitVec.extractLsb' 5 5 _ = 4#5 from Layout.l10_x5_5 ..]
  change (if _ = _ then _ else _) = _
  rw [if_pos (by rw [show (0x00007C00#32) = (0x0#1 ++ 0x0#6 ++ 0x0#5 ++ 0x0#5 ++ 0x3E0#10 ++ 0x0#2 ++ 0x0#3 : BitVec 32) by decide, Layout.l10_and]; simp)]
  rw [Layout.l10_x3_2, Layout.l10_x0_3, Layout.l10_b31, Layout.l10_x20_5, Layout.l10_x15_5, Fmt.ofCode_code, Rm.ofCode_code] <;> rfl

theorem fcvti (s : Bool) (d : Reg) (a : Reg) (f : Fmt) (r : Rm) : Statement (.fcvti s d a f r) := fun hw => by
  refine decode_of_fields hw ?_
  change decodeFields (BitVec.ofBool s ++ 0x1D#6 ++ d ++ a ++ 0x5#10 ++ f.code ++ r.code) = _
  rw [Major.m1D (Layout.l10_x25_6 ..)]
  rw [decodeFpConvert]
  rw [show BitVec.extractLsb' 5 5 _ = 5#5 from Layout.l10_x5_5 ..]
  change (if _ = _ then _ else _) = _
  rw [if_pos (by rw [show (0x00007C00#32) = (0x0#1 ++ 0x0#6 ++ 0x0#5 ++ 0x0#5 ++ 0x3E0#10 ++ 0x0#2 ++ 0x0#3 : BitVec 32) by decide, Layout.l10_and]; simp)]
  rw [Layout.l10_x3_2, Layout.l10_x0_3, Layout.l10_b31, Layout.l10_x20_5, Layout.l10_x15_5, Fmt.ofCode_code, Rm.ofCode_code] <;> rfl

theorem fcvtiu (s : Bool) (d : Reg) (a : Reg) (f : Fmt) (r : Rm) : Statement (.fcvtiu s d a f r) := fun hw => by
  refine decode_of_fields hw ?_
  change decodeFields (BitVec.ofBool s ++ 0x1D#6 ++ d ++ a ++ 0x6#10 ++ f.code ++ r.code) = _
  rw [Major.m1D (Layout.l10_x25_6 ..)]
  rw [decodeFpConvert]
  rw [show BitVec.extractLsb' 5 5 _ = 6#5 from Layout.l10_x5_5 ..]
  change (if _ = _ then _ else _) = _
  rw [if_pos (by rw [show (0x00007C00#32) = (0x0#1 ++ 0x0#6 ++ 0x0#5 ++ 0x0#5 ++ 0x3E0#10 ++ 0x0#2 ++ 0x0#3 : BitVec 32) by decide, Layout.l10_and]; simp)]
  rw [Layout.l10_x3_2, Layout.l10_x0_3, Layout.l10_b31, Layout.l10_x20_5, Layout.l10_x15_5, Fmt.ofCode_code, Rm.ofCode_code] <;> rfl

theorem icvtf (s : Bool) (d : Reg) (a : Reg) (f : Fmt) (r : Rm) : Statement (.icvtf s d a f r) := fun hw => by
  refine decode_of_fields hw ?_
  change decodeFields (BitVec.ofBool s ++ 0x1D#6 ++ d ++ a ++ 0x7#10 ++ f.code ++ r.code) = _
  rw [Major.m1D (Layout.l10_x25_6 ..)]
  rw [decodeFpConvert]
  rw [show BitVec.extractLsb' 5 5 _ = 7#5 from Layout.l10_x5_5 ..]
  change (if _ = _ then _ else _) = _
  rw [if_pos (by rw [show (0x00007C00#32) = (0x0#1 ++ 0x0#6 ++ 0x0#5 ++ 0x0#5 ++ 0x3E0#10 ++ 0x0#2 ++ 0x0#3 : BitVec 32) by decide, Layout.l10_and]; simp)]
  rw [Layout.l10_x3_2, Layout.l10_x0_3, Layout.l10_b31, Layout.l10_x20_5, Layout.l10_x15_5, Fmt.ofCode_code, Rm.ofCode_code] <;> rfl

theorem iucvtf (s : Bool) (d : Reg) (a : Reg) (f : Fmt) (r : Rm) : Statement (.iucvtf s d a f r) := fun hw => by
  refine decode_of_fields hw ?_
  change decodeFields (BitVec.ofBool s ++ 0x1D#6 ++ d ++ a ++ 0x8#10 ++ f.code ++ r.code) = _
  rw [Major.m1D (Layout.l10_x25_6 ..)]
  rw [decodeFpConvert]
  rw [show BitVec.extractLsb' 5 5 _ = 8#5 from Layout.l10_x5_5 ..]
  change (if _ = _ then _ else _) = _
  rw [if_pos (by rw [show (0x00007C00#32) = (0x0#1 ++ 0x0#6 ++ 0x0#5 ++ 0x0#5 ++ 0x3E0#10 ++ 0x0#2 ++ 0x0#3 : BitVec 32) by decide, Layout.l10_and]; simp)]
  rw [Layout.l10_x3_2, Layout.l10_x0_3, Layout.l10_b31, Layout.l10_x20_5, Layout.l10_x15_5, Fmt.ofCode_code, Rm.ofCode_code] <;> rfl

theorem fcvtn (s : Bool) (d : Reg) (a : Reg) (g : BitVec 5) (f : Fmt) (r : Rm) : Statement (.fcvtn s d a g f r) := fun hw => by
  refine decode_of_fields hw ?_
  change decodeFields (BitVec.ofBool s ++ 0x1D#6 ++ d ++ a ++ g ++ 0x9#5 ++ f.code ++ r.code) = _
  rw [Major.m1D (Layout.l9_x25_6 ..)]
  rw [decodeFpConvert]
  rw [show BitVec.extractLsb' 5 5 _ = 9#5 from Layout.l9_x5_5 ..]
  rw [Layout.l9_x3_2, Layout.l9_x0_3, Layout.l9_b31, Layout.l9_x20_5, Layout.l9_x15_5, Layout.l9_x10_5, Fmt.ofCode_code, Rm.ofCode_code] <;> rfl

theorem fcvtw (s : Bool) (d : Reg) (a : Reg) (g : BitVec 5) (f : Fmt) : Statement (.fcvtw s d a g f) := fun hw => by
  refine decode_of_fields hw ?_
  change decodeFields (BitVec.ofBool s ++ 0x1D#6 ++ d ++ a ++ g ++ 0xA#5 ++ f.code ++ 0x0#3) = _
  rw [Major.m1D (Layout.l9_x25_6 ..)]
  rw [decodeFpConvert]
  rw [show BitVec.extractLsb' 5 5 _ = 10#5 from Layout.l9_x5_5 ..]
  change (if _ = _ then _ else _) = _
  rw [if_pos (by rw [show (0x00000007#32) = (0x0#1 ++ 0x0#6 ++ 0x0#5 ++ 0x0#5 ++ 0x0#5 ++ 0x0#5 ++ 0x0#2 ++ 0x7#3 : BitVec 32) by decide, Layout.l9_and]; simp)]
  rw [Layout.l9_x3_2, Layout.l9_b31, Layout.l9_x20_5, Layout.l9_x15_5, Layout.l9_x10_5, Fmt.ofCode_code] <;> rfl

theorem crd (s : Bool) (d : Reg) (c : BitVec 12) : Statement (.crd s d c) := fun hw => by
  refine decode_of_fields hw ?_
  change decodeFields (BitVec.ofBool s ++ 0x38#6 ++ d ++ 0x0#5 ++ c ++ 0x0#3) = _
  rw [Major.m38 (Layout.l11_x25_6 ..)]
  rw [decodeSystem]
  rw [show BitVec.extractLsb' 0 3 _ = 0#3 from Layout.l11_x0_3 ..]
  change (if _ = _ then _ else _) = _
  rw [if_pos (by rw [show (0x000F8000#32) = (0x0#1 ++ 0x0#6 ++ 0x0#5 ++ 0x1F#5 ++ 0x0#12 ++ 0x0#3 : BitVec 32) by decide, Layout.l11_and]; simp)]
  change Except.ok (Instr.crd _ _ _) = _
  rw [Layout.l11_b31, Layout.l11_x20_5, Layout.l11_x3_12]

theorem cwr (s : Bool) (a : Reg) (c : BitVec 12) : Statement (.cwr s a c) := fun hw => by
  refine decode_of_fields hw ?_
  change decodeFields (BitVec.ofBool s ++ 0x38#6 ++ 0x0#5 ++ a ++ c ++ 0x1#3) = _
  rw [Major.m38 (Layout.l11_x25_6 ..)]
  rw [decodeSystem]
  rw [show BitVec.extractLsb' 0 3 _ = 1#3 from Layout.l11_x0_3 ..]
  change (if _ = _ then _ else _) = _
  rw [if_pos (by rw [show (0x01F00000#32) = (0x0#1 ++ 0x0#6 ++ 0x1F#5 ++ 0x0#5 ++ 0x0#12 ++ 0x0#3 : BitVec 32) by decide, Layout.l11_and]; simp)]
  change Except.ok (Instr.cwr _ _ _) = _
  rw [Layout.l11_b31, Layout.l11_x15_5, Layout.l11_x3_12]

theorem cset (s : Bool) (d : Reg) (a : Reg) (c : BitVec 12) : Statement (.cset s d a c) := fun hw => by
  refine decode_of_fields hw ?_
  change decodeFields (BitVec.ofBool s ++ 0x38#6 ++ d ++ a ++ c ++ 0x2#3) = _
  rw [Major.m38 (Layout.l11_x25_6 ..)]
  rw [decodeSystem]
  rw [show BitVec.extractLsb' 0 3 _ = 2#3 from Layout.l11_x0_3 ..]
  change Except.ok (Instr.cset _ _ _ _) = _
  rw [Layout.l11_b31, Layout.l11_x20_5, Layout.l11_x15_5, Layout.l11_x3_12]

theorem cclr (s : Bool) (d : Reg) (a : Reg) (c : BitVec 12) : Statement (.cclr s d a c) := fun hw => by
  refine decode_of_fields hw ?_
  change decodeFields (BitVec.ofBool s ++ 0x38#6 ++ d ++ a ++ c ++ 0x3#3) = _
  rw [Major.m38 (Layout.l11_x25_6 ..)]
  rw [decodeSystem]
  rw [show BitVec.extractLsb' 0 3 _ = 3#3 from Layout.l11_x0_3 ..]
  change Except.ok (Instr.cclr _ _ _ _) = _
  rw [Layout.l11_b31, Layout.l11_x20_5, Layout.l11_x15_5, Layout.l11_x3_12]

theorem trap (s : Bool) (a : Reg) : Statement (.trap s a) := fun hw => by
  refine decode_of_fields hw ?_
  change decodeFields (BitVec.ofBool s ++ 0x38#6 ++ 0x0#5 ++ a ++ 0x7#15) = _
  rw [Major.m38 (Layout.l2_x25_6 ..)]
  rw [decodeSystem]
  rw [show BitVec.extractLsb' 0 3 _ = 7#3 from Layout.l2_x0_3 ..]
  rw [show BitVec.extractLsb' 3 12 _ = 0#12 from Layout.l2_x3_12 ..]
  change (if _ = _ then _ else _) = _
  rw [if_pos (by rw [show (0x01F00000#32) = (0x0#1 ++ 0x0#6 ++ 0x1F#5 ++ 0x0#5 ++ 0x0#15 : BitVec 32) by decide, Layout.l2_and]; simp)]
  change Except.ok (Instr.trap _ _) = _
  rw [Layout.l2_b31, Layout.l2_x15_5]

theorem tret (s : Bool) : Statement (.tret s) := fun hw => by
  refine decode_of_fields hw ?_
  change decodeFields (BitVec.ofBool s ++ 0x38#6 ++ 0xF#25) = _
  rw [Major.m38 (Layout.l7_x25_6 ..)]
  rw [decodeSystem]
  rw [show BitVec.extractLsb' 0 3 _ = 7#3 from Layout.l7_x0_3 ..]
  rw [show BitVec.extractLsb' 3 12 _ = 1#12 from Layout.l7_x3_12 ..]
  change (if _ = _ then _ else _) = _
  rw [if_pos (by rw [show (0x01FF8000#32) = (0x0#1 ++ 0x0#6 ++ 0x1FF8000#25 : BitVec 32) by decide, Layout.l7_and]; simp)]
  change Except.ok (Instr.tret _) = _
  rw [Layout.l7_b31]

theorem idle (s : Bool) : Statement (.idle s) := fun hw => by
  refine decode_of_fields hw ?_
  change decodeFields (BitVec.ofBool s ++ 0x38#6 ++ 0x17#25) = _
  rw [Major.m38 (Layout.l7_x25_6 ..)]
  rw [decodeSystem]
  rw [show BitVec.extractLsb' 0 3 _ = 7#3 from Layout.l7_x0_3 ..]
  rw [show BitVec.extractLsb' 3 12 _ = 2#12 from Layout.l7_x3_12 ..]
  change (if _ = _ then _ else _) = _
  rw [if_pos (by rw [show (0x01FF8000#32) = (0x0#1 ++ 0x0#6 ++ 0x1FF8000#25 : BitVec 32) by decide, Layout.l7_and]; simp)]
  change Except.ok (Instr.idle _) = _
  rw [Layout.l7_b31]

theorem tfence (s : Bool) (b : Reg) (a : Reg) : Statement (.tfence s b a) := fun hw => by
  refine decode_of_fields hw ?_
  change decodeFields (BitVec.ofBool s ++ 0x38#6 ++ b ++ a ++ 0x1F#15) = _
  rw [Major.m38 (Layout.l2_x25_6 ..)]
  rw [decodeSystem]
  rw [show BitVec.extractLsb' 0 3 _ = 7#3 from Layout.l2_x0_3 ..]
  rw [show BitVec.extractLsb' 3 12 _ = 3#12 from Layout.l2_x3_12 ..]
  change Except.ok (Instr.tfence _ _ _) = _
  rw [Layout.l2_b31, Layout.l2_x20_5, Layout.l2_x15_5]

theorem ifence (s : Bool) : Statement (.ifence s) := fun hw => by
  refine decode_of_fields hw ?_
  change decodeFields (BitVec.ofBool s ++ 0x38#6 ++ 0x27#25) = _
  rw [Major.m38 (Layout.l7_x25_6 ..)]
  rw [decodeSystem]
  rw [show BitVec.extractLsb' 0 3 _ = 7#3 from Layout.l7_x0_3 ..]
  rw [show BitVec.extractLsb' 3 12 _ = 4#12 from Layout.l7_x3_12 ..]
  change (if _ = _ then _ else _) = _
  rw [if_pos (by rw [show (0x01FF8000#32) = (0x0#1 ++ 0x0#6 ++ 0x1FF8000#25 : BitVec 32) by decide, Layout.l7_and]; simp)]
  change Except.ok (Instr.ifence _) = _
  rw [Layout.l7_b31]

theorem csave (s : Bool) (b : Reg) (a : Reg) : Statement (.csave s b a) := fun hw => by
  refine decode_of_fields hw ?_
  change decodeFields (BitVec.ofBool s ++ 0x38#6 ++ b ++ a ++ 0x2F#15) = _
  rw [Major.m38 (Layout.l2_x25_6 ..)]
  rw [decodeSystem]
  rw [show BitVec.extractLsb' 0 3 _ = 7#3 from Layout.l2_x0_3 ..]
  rw [show BitVec.extractLsb' 3 12 _ = 5#12 from Layout.l2_x3_12 ..]
  change Except.ok (Instr.csave _ _ _) = _
  rw [Layout.l2_b31, Layout.l2_x20_5, Layout.l2_x15_5]

theorem crestore (s : Bool) (b : Reg) (a : Reg) : Statement (.crestore s b a) := fun hw => by
  refine decode_of_fields hw ?_
  change decodeFields (BitVec.ofBool s ++ 0x38#6 ++ b ++ a ++ 0x37#15) = _
  rw [Major.m38 (Layout.l2_x25_6 ..)]
  rw [decodeSystem]
  rw [show BitVec.extractLsb' 0 3 _ = 7#3 from Layout.l2_x0_3 ..]
  rw [show BitVec.extractLsb' 3 12 _ = 6#12 from Layout.l2_x3_12 ..]
  change Except.ok (Instr.crestore _ _ _) = _
  rw [Layout.l2_b31, Layout.l2_x20_5, Layout.l2_x15_5]

theorem gstop (s : Bool) (d : Reg) (a : Reg) : Statement (.gstop s d a) := fun hw => by
  refine decode_of_fields hw ?_
  change decodeFields (BitVec.ofBool s ++ 0x38#6 ++ d ++ a ++ 0x3F#15) = _
  rw [Major.m38 (Layout.l2_x25_6 ..)]
  rw [decodeSystem]
  rw [show BitVec.extractLsb' 0 3 _ = 7#3 from Layout.l2_x0_3 ..]
  rw [show BitVec.extractLsb' 3 12 _ = 7#12 from Layout.l2_x3_12 ..]
  change Except.ok (Instr.gstop _ _ _) = _
  rw [Layout.l2_b31, Layout.l2_x20_5, Layout.l2_x15_5]

theorem gresume (s : Bool) (d : Reg) (a : Reg) : Statement (.gresume s d a) := fun hw => by
  refine decode_of_fields hw ?_
  change decodeFields (BitVec.ofBool s ++ 0x38#6 ++ d ++ a ++ 0x47#15) = _
  rw [Major.m38 (Layout.l2_x25_6 ..)]
  rw [decodeSystem]
  rw [show BitVec.extractLsb' 0 3 _ = 7#3 from Layout.l2_x0_3 ..]
  rw [show BitVec.extractLsb' 3 12 _ = 8#12 from Layout.l2_x3_12 ..]
  change Except.ok (Instr.gresume _ _ _) = _
  rw [Layout.l2_b31, Layout.l2_x20_5, Layout.l2_x15_5]

theorem bkpt (s : Bool) : Statement (.bkpt s) := fun hw => by
  refine decode_of_fields hw ?_
  change decodeFields (BitVec.ofBool s ++ 0x38#6 ++ 0x4F#25) = _
  rw [Major.m38 (Layout.l7_x25_6 ..)]
  rw [decodeSystem]
  rw [show BitVec.extractLsb' 0 3 _ = 7#3 from Layout.l7_x0_3 ..]
  rw [show BitVec.extractLsb' 3 12 _ = 9#12 from Layout.l7_x3_12 ..]
  change (if _ = _ then _ else _) = _
  rw [if_pos (by rw [show (0x01FF8000#32) = (0x0#1 ++ 0x0#6 ++ 0x1FF8000#25 : BitVec 32) by decide, Layout.l7_and]; simp)]
  change Except.ok (Instr.bkpt _) = _
  rw [Layout.l7_b31]

theorem ld (s : Bool) (d : Reg) (a : Reg) (w : Width) (i : BitVec 12) : Statement (.ld s d a w i) := fun hw => by
  refine decode_of_fields hw ?_
  cases w
  · change decodeFields (BitVec.ofBool s ++ 0xA#6 ++ d ++ a ++ 0x0#1 ++ 0#2 ++ i) = _
    rw [Major.m0A (Layout.l12_x25_6 ..)]
    rw [decodeLoad]
    rw [show BitVec.extractLsb' 12 3 _ = 0#3 from Layout.l12_x12_3 ..]
    change Except.ok (Instr.ld _ _ _ _ _) = _
    rw [Layout.l12_b31, Layout.l12_x20_5, Layout.l12_x15_5, Layout.l12_x12_2, Layout.l12_x0_12] <;> rfl
  · change decodeFields (BitVec.ofBool s ++ 0xA#6 ++ d ++ a ++ 0x0#1 ++ 1#2 ++ i) = _
    rw [Major.m0A (Layout.l12_x25_6 ..)]
    rw [decodeLoad]
    rw [show BitVec.extractLsb' 12 3 _ = 1#3 from Layout.l12_x12_3 ..]
    change Except.ok (Instr.ld _ _ _ _ _) = _
    rw [Layout.l12_b31, Layout.l12_x20_5, Layout.l12_x15_5, Layout.l12_x12_2, Layout.l12_x0_12] <;> rfl
  · change decodeFields (BitVec.ofBool s ++ 0xA#6 ++ d ++ a ++ 0x0#1 ++ 2#2 ++ i) = _
    rw [Major.m0A (Layout.l12_x25_6 ..)]
    rw [decodeLoad]
    rw [show BitVec.extractLsb' 12 3 _ = 2#3 from Layout.l12_x12_3 ..]
    change Except.ok (Instr.ld _ _ _ _ _) = _
    rw [Layout.l12_b31, Layout.l12_x20_5, Layout.l12_x15_5, Layout.l12_x12_2, Layout.l12_x0_12] <;> rfl
  · change decodeFields (BitVec.ofBool s ++ 0xA#6 ++ d ++ a ++ 0x0#1 ++ 3#2 ++ i) = _
    rw [Major.m0A (Layout.l12_x25_6 ..)]
    rw [decodeLoad]
    rw [show BitVec.extractLsb' 12 3 _ = 3#3 from Layout.l12_x12_3 ..]
    change Except.ok (Instr.ld _ _ _ _ _) = _
    rw [Layout.l12_b31, Layout.l12_x20_5, Layout.l12_x15_5, Layout.l12_x12_2, Layout.l12_x0_12] <;> rfl

theorem ldu (s : Bool) (d : Reg) (a : Reg) (w : Width) (i : BitVec 12) : Statement (.ldu s d a w i) := fun hw => by
  refine decode_of_fields hw ?_
  cases w
  · change decodeFields (BitVec.ofBool s ++ 0xA#6 ++ d ++ a ++ 0x1#1 ++ 0#2 ++ i) = _
    rw [Major.m0A (Layout.l12_x25_6 ..)]
    rw [decodeLoad]
    rw [show BitVec.extractLsb' 12 3 _ = 4#3 from Layout.l12_x12_3 ..]
    change Except.ok (Instr.ldu _ _ _ _ _) = _
    rw [Layout.l12_b31, Layout.l12_x20_5, Layout.l12_x15_5, Layout.l12_x12_2, Layout.l12_x0_12] <;> rfl
  · change decodeFields (BitVec.ofBool s ++ 0xA#6 ++ d ++ a ++ 0x1#1 ++ 1#2 ++ i) = _
    rw [Major.m0A (Layout.l12_x25_6 ..)]
    rw [decodeLoad]
    rw [show BitVec.extractLsb' 12 3 _ = 5#3 from Layout.l12_x12_3 ..]
    change Except.ok (Instr.ldu _ _ _ _ _) = _
    rw [Layout.l12_b31, Layout.l12_x20_5, Layout.l12_x15_5, Layout.l12_x12_2, Layout.l12_x0_12] <;> rfl
  · change decodeFields (BitVec.ofBool s ++ 0xA#6 ++ d ++ a ++ 0x1#1 ++ 2#2 ++ i) = _
    rw [Major.m0A (Layout.l12_x25_6 ..)]
    rw [decodeLoad]
    rw [show BitVec.extractLsb' 12 3 _ = 6#3 from Layout.l12_x12_3 ..]
    change Except.ok (Instr.ldu _ _ _ _ _) = _
    rw [Layout.l12_b31, Layout.l12_x20_5, Layout.l12_x15_5, Layout.l12_x12_2, Layout.l12_x0_12] <;> rfl
  · change decodeFields (BitVec.ofBool s ++ 0xA#6 ++ d ++ a ++ 0x1#1 ++ 3#2 ++ i) = _
    rw [Major.m0A (Layout.l12_x25_6 ..)]
    rw [decodeLoad]
    rw [show BitVec.extractLsb' 12 3 _ = 7#3 from Layout.l12_x12_3 ..]
    change Except.ok (Instr.ldu _ _ _ _ _) = _
    rw [Layout.l12_b31, Layout.l12_x20_5, Layout.l12_x15_5, Layout.l12_x12_2, Layout.l12_x0_12] <;> rfl

theorem st (s : Bool) (b : Reg) (a : Reg) (w : Width) (i : BitVec 12) : Statement (.st s b a w i) := fun hw => by
  refine decode_of_fields hw ?_
  cases w
  · change decodeFields (BitVec.ofBool s ++ 0xB#6 ++ b ++ a ++ 0x0#1 ++ 0#2 ++ i) = _
    rw [Major.m0B (Layout.l12_x25_6 ..)]
    rw [decodeStore]
    rw [show BitVec.extractLsb' 12 3 _ = 0#3 from Layout.l12_x12_3 ..]
    change Except.ok (Instr.st _ _ _ _ _) = _
    rw [Layout.l12_b31, Layout.l12_x20_5, Layout.l12_x15_5, Layout.l12_x12_2, Layout.l12_x0_12] <;> rfl
  · change decodeFields (BitVec.ofBool s ++ 0xB#6 ++ b ++ a ++ 0x0#1 ++ 1#2 ++ i) = _
    rw [Major.m0B (Layout.l12_x25_6 ..)]
    rw [decodeStore]
    rw [show BitVec.extractLsb' 12 3 _ = 1#3 from Layout.l12_x12_3 ..]
    change Except.ok (Instr.st _ _ _ _ _) = _
    rw [Layout.l12_b31, Layout.l12_x20_5, Layout.l12_x15_5, Layout.l12_x12_2, Layout.l12_x0_12] <;> rfl
  · change decodeFields (BitVec.ofBool s ++ 0xB#6 ++ b ++ a ++ 0x0#1 ++ 2#2 ++ i) = _
    rw [Major.m0B (Layout.l12_x25_6 ..)]
    rw [decodeStore]
    rw [show BitVec.extractLsb' 12 3 _ = 2#3 from Layout.l12_x12_3 ..]
    change Except.ok (Instr.st _ _ _ _ _) = _
    rw [Layout.l12_b31, Layout.l12_x20_5, Layout.l12_x15_5, Layout.l12_x12_2, Layout.l12_x0_12] <;> rfl
  · change decodeFields (BitVec.ofBool s ++ 0xB#6 ++ b ++ a ++ 0x0#1 ++ 3#2 ++ i) = _
    rw [Major.m0B (Layout.l12_x25_6 ..)]
    rw [decodeStore]
    rw [show BitVec.extractLsb' 12 3 _ = 3#3 from Layout.l12_x12_3 ..]
    change Except.ok (Instr.st _ _ _ _ _) = _
    rw [Layout.l12_b31, Layout.l12_x20_5, Layout.l12_x15_5, Layout.l12_x12_2, Layout.l12_x0_12] <;> rfl

theorem lda (s : Bool) (d : Reg) (a : Reg) (c : Scope) (w : Width) : Statement (.lda s d a c w) := fun hw => by
  refine decode_of_fields hw ?_
  change decodeFields (BitVec.ofBool s ++ 0xC#6 ++ d ++ a ++ 0x0#7 ++ c.code ++ w.code ++ 0x0#3) = _
  rw [Major.m0C (Layout.l13_x25_6 ..)]
  rw [decodeOrdered]
  rw [show BitVec.extractLsb' 8 2 _ = 0#2 from Layout.l13_x8_2 ..]
  change (if _ = _ then _ else _) = _
  rw [if_pos (by rw [show (0x00007C07#32) = (0x0#1 ++ 0x0#6 ++ 0x0#5 ++ 0x0#5 ++ 0x7C#7 ++ 0x0#3 ++ 0x0#2 ++ 0x7#3 : BitVec 32) by decide, Layout.l13_and]; simp)]
  rw [Layout.l13_x5_3, Layout.l13_b31, Layout.l13_x20_5, Layout.l13_x15_5, Layout.l13_x3_2, Width.ofCode_code, Scope.ofCode_code] <;> rfl

theorem stl (s : Bool) (a : Reg) (b : Reg) (c : Scope) (w : Width) : Statement (.stl s a b c w) := fun hw => by
  refine decode_of_fields hw ?_
  change decodeFields (BitVec.ofBool s ++ 0xC#6 ++ 0x0#5 ++ a ++ b ++ 0x1#2 ++ c.code ++ w.code ++ 0x0#3) = _
  rw [Major.m0C (Layout.l14_x25_6 ..)]
  rw [decodeOrdered]
  rw [show BitVec.extractLsb' 8 2 _ = 1#2 from Layout.l14_x8_2 ..]
  change (if _ = _ then _ else _) = _
  rw [if_pos (by rw [show (0x01F00007#32) = (0x0#1 ++ 0x0#6 ++ 0x1F#5 ++ 0x0#5 ++ 0x0#5 ++ 0x0#2 ++ 0x0#3 ++ 0x0#2 ++ 0x7#3 : BitVec 32) by decide, Layout.l14_and]; simp)]
  rw [Layout.l14_x5_3, Layout.l14_b31, Layout.l14_x15_5, Layout.l14_x10_5, Layout.l14_x3_2, Width.ofCode_code, Scope.ofCode_code] <;> rfl

theorem amoadd (s : Bool) (d : Reg) (a : Reg) (b : Reg) (w : Bool) (n : Ann) (c : Scope) : Statement (.amoadd s d a b w n c) := fun hw => by
  refine decode_of_fields hw ?_
  cases w
  · change decodeFields (BitVec.ofBool s ++ 0xD#6 ++ d ++ a ++ b ++ 0x0#3 ++ BitVec.ofBool false ++ 0x0#1 ++ n.code ++ c.code) = _
    rw [Major.m0D (Layout.l15_x25_6 ..)]
    rw [decodeAtomic]
    rw [show BitVec.extractLsb' 5 5 _ = 0#5 from Layout.l15_x5_5 ..]
    rw [Layout.l15_x0_3, Layout.l15_b31, Layout.l15_x20_5, Layout.l15_x15_5, Layout.l15_x10_5, Layout.l15_b6, Layout.l15_x3_2, Ann.ofCode_code, Scope.ofCode_code] <;> rfl
  · change decodeFields (BitVec.ofBool s ++ 0xD#6 ++ d ++ a ++ b ++ 0x0#3 ++ BitVec.ofBool true ++ 0x0#1 ++ n.code ++ c.code) = _
    rw [Major.m0D (Layout.l15_x25_6 ..)]
    rw [decodeAtomic]
    rw [show BitVec.extractLsb' 5 5 _ = 2#5 from Layout.l15_x5_5 ..]
    rw [Layout.l15_x0_3, Layout.l15_b31, Layout.l15_x20_5, Layout.l15_x15_5, Layout.l15_x10_5, Layout.l15_b6, Layout.l15_x3_2, Ann.ofCode_code, Scope.ofCode_code] <;> rfl

theorem amoswap (s : Bool) (d : Reg) (a : Reg) (b : Reg) (w : Bool) (n : Ann) (c : Scope) : Statement (.amoswap s d a b w n c) := fun hw => by
  refine decode_of_fields hw ?_
  cases w
  · change decodeFields (BitVec.ofBool s ++ 0xD#6 ++ d ++ a ++ b ++ 0x1#3 ++ BitVec.ofBool false ++ 0x0#1 ++ n.code ++ c.code) = _
    rw [Major.m0D (Layout.l15_x25_6 ..)]
    rw [decodeAtomic]
    rw [show BitVec.extractLsb' 5 5 _ = 4#5 from Layout.l15_x5_5 ..]
    rw [Layout.l15_x0_3, Layout.l15_b31, Layout.l15_x20_5, Layout.l15_x15_5, Layout.l15_x10_5, Layout.l15_b6, Layout.l15_x3_2, Ann.ofCode_code, Scope.ofCode_code] <;> rfl
  · change decodeFields (BitVec.ofBool s ++ 0xD#6 ++ d ++ a ++ b ++ 0x1#3 ++ BitVec.ofBool true ++ 0x0#1 ++ n.code ++ c.code) = _
    rw [Major.m0D (Layout.l15_x25_6 ..)]
    rw [decodeAtomic]
    rw [show BitVec.extractLsb' 5 5 _ = 6#5 from Layout.l15_x5_5 ..]
    rw [Layout.l15_x0_3, Layout.l15_b31, Layout.l15_x20_5, Layout.l15_x15_5, Layout.l15_x10_5, Layout.l15_b6, Layout.l15_x3_2, Ann.ofCode_code, Scope.ofCode_code] <;> rfl

theorem amocas (s : Bool) (d : Reg) (a : Reg) (b : Reg) (w : Bool) (n : Ann) (c : Scope) : Statement (.amocas s d a b w n c) := fun hw => by
  refine decode_of_fields hw ?_
  cases w
  · change decodeFields (BitVec.ofBool s ++ 0xD#6 ++ d ++ a ++ b ++ 0x2#3 ++ BitVec.ofBool false ++ 0x0#1 ++ n.code ++ c.code) = _
    rw [Major.m0D (Layout.l15_x25_6 ..)]
    rw [decodeAtomic]
    rw [show BitVec.extractLsb' 5 5 _ = 8#5 from Layout.l15_x5_5 ..]
    rw [Layout.l15_x0_3, Layout.l15_b31, Layout.l15_x20_5, Layout.l15_x15_5, Layout.l15_x10_5, Layout.l15_b6, Layout.l15_x3_2, Ann.ofCode_code, Scope.ofCode_code] <;> rfl
  · change decodeFields (BitVec.ofBool s ++ 0xD#6 ++ d ++ a ++ b ++ 0x2#3 ++ BitVec.ofBool true ++ 0x0#1 ++ n.code ++ c.code) = _
    rw [Major.m0D (Layout.l15_x25_6 ..)]
    rw [decodeAtomic]
    rw [show BitVec.extractLsb' 5 5 _ = 10#5 from Layout.l15_x5_5 ..]
    rw [Layout.l15_x0_3, Layout.l15_b31, Layout.l15_x20_5, Layout.l15_x15_5, Layout.l15_x10_5, Layout.l15_b6, Layout.l15_x3_2, Ann.ofCode_code, Scope.ofCode_code] <;> rfl

theorem amoand (s : Bool) (d : Reg) (a : Reg) (b : Reg) (n : Ann) (c : Scope) : Statement (.amoand s d a b n c) := fun hw => by
  refine decode_of_fields hw ?_
  change decodeFields (BitVec.ofBool s ++ 0xD#6 ++ d ++ a ++ b ++ 0xC#5 ++ n.code ++ c.code) = _
  rw [Major.m0D (Layout.l9_x25_6 ..)]
  rw [decodeAtomic]
  rw [show BitVec.extractLsb' 5 5 _ = 12#5 from Layout.l9_x5_5 ..]
  rw [Layout.l9_x0_3, Layout.l9_b31, Layout.l9_x20_5, Layout.l9_x15_5, Layout.l9_x10_5, Layout.l9_x3_2, Ann.ofCode_code, Scope.ofCode_code] <;> rfl

theorem amoor (s : Bool) (d : Reg) (a : Reg) (b : Reg) (n : Ann) (c : Scope) : Statement (.amoor s d a b n c) := fun hw => by
  refine decode_of_fields hw ?_
  change decodeFields (BitVec.ofBool s ++ 0xD#6 ++ d ++ a ++ b ++ 0xE#5 ++ n.code ++ c.code) = _
  rw [Major.m0D (Layout.l9_x25_6 ..)]
  rw [decodeAtomic]
  rw [show BitVec.extractLsb' 5 5 _ = 14#5 from Layout.l9_x5_5 ..]
  rw [Layout.l9_x0_3, Layout.l9_b31, Layout.l9_x20_5, Layout.l9_x15_5, Layout.l9_x10_5, Layout.l9_x3_2, Ann.ofCode_code, Scope.ofCode_code] <;> rfl

theorem amoxor (s : Bool) (d : Reg) (a : Reg) (b : Reg) (n : Ann) (c : Scope) : Statement (.amoxor s d a b n c) := fun hw => by
  refine decode_of_fields hw ?_
  change decodeFields (BitVec.ofBool s ++ 0xD#6 ++ d ++ a ++ b ++ 0x10#5 ++ n.code ++ c.code) = _
  rw [Major.m0D (Layout.l9_x25_6 ..)]
  rw [decodeAtomic]
  rw [show BitVec.extractLsb' 5 5 _ = 16#5 from Layout.l9_x5_5 ..]
  rw [Layout.l9_x0_3, Layout.l9_b31, Layout.l9_x20_5, Layout.l9_x15_5, Layout.l9_x10_5, Layout.l9_x3_2, Ann.ofCode_code, Scope.ofCode_code] <;> rfl

theorem amomin (s : Bool) (d : Reg) (a : Reg) (b : Reg) (n : Ann) (c : Scope) : Statement (.amomin s d a b n c) := fun hw => by
  refine decode_of_fields hw ?_
  change decodeFields (BitVec.ofBool s ++ 0xD#6 ++ d ++ a ++ b ++ 0x12#5 ++ n.code ++ c.code) = _
  rw [Major.m0D (Layout.l9_x25_6 ..)]
  rw [decodeAtomic]
  rw [show BitVec.extractLsb' 5 5 _ = 18#5 from Layout.l9_x5_5 ..]
  rw [Layout.l9_x0_3, Layout.l9_b31, Layout.l9_x20_5, Layout.l9_x15_5, Layout.l9_x10_5, Layout.l9_x3_2, Ann.ofCode_code, Scope.ofCode_code] <;> rfl

theorem amomax (s : Bool) (d : Reg) (a : Reg) (b : Reg) (n : Ann) (c : Scope) : Statement (.amomax s d a b n c) := fun hw => by
  refine decode_of_fields hw ?_
  change decodeFields (BitVec.ofBool s ++ 0xD#6 ++ d ++ a ++ b ++ 0x14#5 ++ n.code ++ c.code) = _
  rw [Major.m0D (Layout.l9_x25_6 ..)]
  rw [decodeAtomic]
  rw [show BitVec.extractLsb' 5 5 _ = 20#5 from Layout.l9_x5_5 ..]
  rw [Layout.l9_x0_3, Layout.l9_b31, Layout.l9_x20_5, Layout.l9_x15_5, Layout.l9_x10_5, Layout.l9_x3_2, Ann.ofCode_code, Scope.ofCode_code] <;> rfl

theorem amominu (s : Bool) (d : Reg) (a : Reg) (b : Reg) (n : Ann) (c : Scope) : Statement (.amominu s d a b n c) := fun hw => by
  refine decode_of_fields hw ?_
  change decodeFields (BitVec.ofBool s ++ 0xD#6 ++ d ++ a ++ b ++ 0x16#5 ++ n.code ++ c.code) = _
  rw [Major.m0D (Layout.l9_x25_6 ..)]
  rw [decodeAtomic]
  rw [show BitVec.extractLsb' 5 5 _ = 22#5 from Layout.l9_x5_5 ..]
  rw [Layout.l9_x0_3, Layout.l9_b31, Layout.l9_x20_5, Layout.l9_x15_5, Layout.l9_x10_5, Layout.l9_x3_2, Ann.ofCode_code, Scope.ofCode_code] <;> rfl

theorem amomaxu (s : Bool) (d : Reg) (a : Reg) (b : Reg) (n : Ann) (c : Scope) : Statement (.amomaxu s d a b n c) := fun hw => by
  refine decode_of_fields hw ?_
  change decodeFields (BitVec.ofBool s ++ 0xD#6 ++ d ++ a ++ b ++ 0x18#5 ++ n.code ++ c.code) = _
  rw [Major.m0D (Layout.l9_x25_6 ..)]
  rw [decodeAtomic]
  rw [show BitVec.extractLsb' 5 5 _ = 24#5 from Layout.l9_x5_5 ..]
  rw [Layout.l9_x0_3, Layout.l9_b31, Layout.l9_x20_5, Layout.l9_x15_5, Layout.l9_x10_5, Layout.l9_x3_2, Ann.ofCode_code, Scope.ofCode_code] <;> rfl

theorem amofaddS (s : Bool) (d : Reg) (a : Reg) (b : Reg) (n : Ann) (c : Scope) : Statement (.amofaddS s d a b n c) := fun hw => by
  refine decode_of_fields hw ?_
  change decodeFields (BitVec.ofBool s ++ 0xD#6 ++ d ++ a ++ b ++ 0x1A#5 ++ n.code ++ c.code) = _
  rw [Major.m0D (Layout.l9_x25_6 ..)]
  rw [decodeAtomic]
  rw [show BitVec.extractLsb' 5 5 _ = 26#5 from Layout.l9_x5_5 ..]
  rw [Layout.l9_x0_3, Layout.l9_b31, Layout.l9_x20_5, Layout.l9_x15_5, Layout.l9_x10_5, Layout.l9_x3_2, Ann.ofCode_code, Scope.ofCode_code] <;> rfl

theorem amofaddD (s : Bool) (d : Reg) (a : Reg) (b : Reg) (n : Ann) (c : Scope) : Statement (.amofaddD s d a b n c) := fun hw => by
  refine decode_of_fields hw ?_
  change decodeFields (BitVec.ofBool s ++ 0xD#6 ++ d ++ a ++ b ++ 0x1C#5 ++ n.code ++ c.code) = _
  rw [Major.m0D (Layout.l9_x25_6 ..)]
  rw [decodeAtomic]
  rw [show BitVec.extractLsb' 5 5 _ = 28#5 from Layout.l9_x5_5 ..]
  rw [Layout.l9_x0_3, Layout.l9_b31, Layout.l9_x20_5, Layout.l9_x15_5, Layout.l9_x10_5, Layout.l9_x3_2, Ann.ofCode_code, Scope.ofCode_code] <;> rfl

theorem famoadd (s : Bool) (d : Reg) (a : Reg) (b : Reg) (w : Bool) (n : Ann) (c : Scope) : Statement (.famoadd s d a b w n c) := fun hw => by
  refine decode_of_fields hw ?_
  cases w
  · change decodeFields (BitVec.ofBool s ++ 0xD#6 ++ d ++ a ++ b ++ 0x0#3 ++ BitVec.ofBool false ++ 0x1#1 ++ n.code ++ c.code) = _
    rw [Major.m0D (Layout.l15_x25_6 ..)]
    rw [decodeAtomic]
    rw [show BitVec.extractLsb' 5 5 _ = 1#5 from Layout.l15_x5_5 ..]
    rw [Layout.l15_x0_3, Layout.l15_b31, Layout.l15_x20_5, Layout.l15_x15_5, Layout.l15_x10_5, Layout.l15_b6, Layout.l15_x3_2, Ann.ofCode_code, Scope.ofCode_code] <;> rfl
  · change decodeFields (BitVec.ofBool s ++ 0xD#6 ++ d ++ a ++ b ++ 0x0#3 ++ BitVec.ofBool true ++ 0x1#1 ++ n.code ++ c.code) = _
    rw [Major.m0D (Layout.l15_x25_6 ..)]
    rw [decodeAtomic]
    rw [show BitVec.extractLsb' 5 5 _ = 3#5 from Layout.l15_x5_5 ..]
    rw [Layout.l15_x0_3, Layout.l15_b31, Layout.l15_x20_5, Layout.l15_x15_5, Layout.l15_x10_5, Layout.l15_b6, Layout.l15_x3_2, Ann.ofCode_code, Scope.ofCode_code] <;> rfl

theorem famoswap (s : Bool) (d : Reg) (a : Reg) (b : Reg) (w : Bool) (n : Ann) (c : Scope) : Statement (.famoswap s d a b w n c) := fun hw => by
  refine decode_of_fields hw ?_
  cases w
  · change decodeFields (BitVec.ofBool s ++ 0xD#6 ++ d ++ a ++ b ++ 0x1#3 ++ BitVec.ofBool false ++ 0x1#1 ++ n.code ++ c.code) = _
    rw [Major.m0D (Layout.l15_x25_6 ..)]
    rw [decodeAtomic]
    rw [show BitVec.extractLsb' 5 5 _ = 5#5 from Layout.l15_x5_5 ..]
    rw [Layout.l15_x0_3, Layout.l15_b31, Layout.l15_x20_5, Layout.l15_x15_5, Layout.l15_x10_5, Layout.l15_b6, Layout.l15_x3_2, Ann.ofCode_code, Scope.ofCode_code] <;> rfl
  · change decodeFields (BitVec.ofBool s ++ 0xD#6 ++ d ++ a ++ b ++ 0x1#3 ++ BitVec.ofBool true ++ 0x1#1 ++ n.code ++ c.code) = _
    rw [Major.m0D (Layout.l15_x25_6 ..)]
    rw [decodeAtomic]
    rw [show BitVec.extractLsb' 5 5 _ = 7#5 from Layout.l15_x5_5 ..]
    rw [Layout.l15_x0_3, Layout.l15_b31, Layout.l15_x20_5, Layout.l15_x15_5, Layout.l15_x10_5, Layout.l15_b6, Layout.l15_x3_2, Ann.ofCode_code, Scope.ofCode_code] <;> rfl

theorem famocas (s : Bool) (d : Reg) (a : Reg) (b : Reg) (w : Bool) (n : Ann) (c : Scope) : Statement (.famocas s d a b w n c) := fun hw => by
  refine decode_of_fields hw ?_
  cases w
  · change decodeFields (BitVec.ofBool s ++ 0xD#6 ++ d ++ a ++ b ++ 0x2#3 ++ BitVec.ofBool false ++ 0x1#1 ++ n.code ++ c.code) = _
    rw [Major.m0D (Layout.l15_x25_6 ..)]
    rw [decodeAtomic]
    rw [show BitVec.extractLsb' 5 5 _ = 9#5 from Layout.l15_x5_5 ..]
    rw [Layout.l15_x0_3, Layout.l15_b31, Layout.l15_x20_5, Layout.l15_x15_5, Layout.l15_x10_5, Layout.l15_b6, Layout.l15_x3_2, Ann.ofCode_code, Scope.ofCode_code] <;> rfl
  · change decodeFields (BitVec.ofBool s ++ 0xD#6 ++ d ++ a ++ b ++ 0x2#3 ++ BitVec.ofBool true ++ 0x1#1 ++ n.code ++ c.code) = _
    rw [Major.m0D (Layout.l15_x25_6 ..)]
    rw [decodeAtomic]
    rw [show BitVec.extractLsb' 5 5 _ = 11#5 from Layout.l15_x5_5 ..]
    rw [Layout.l15_x0_3, Layout.l15_b31, Layout.l15_x20_5, Layout.l15_x15_5, Layout.l15_x10_5, Layout.l15_b6, Layout.l15_x3_2, Ann.ofCode_code, Scope.ofCode_code] <;> rfl

theorem famoand (s : Bool) (d : Reg) (a : Reg) (b : Reg) (n : Ann) (c : Scope) : Statement (.famoand s d a b n c) := fun hw => by
  refine decode_of_fields hw ?_
  change decodeFields (BitVec.ofBool s ++ 0xD#6 ++ d ++ a ++ b ++ 0xD#5 ++ n.code ++ c.code) = _
  rw [Major.m0D (Layout.l9_x25_6 ..)]
  rw [decodeAtomic]
  rw [show BitVec.extractLsb' 5 5 _ = 13#5 from Layout.l9_x5_5 ..]
  rw [Layout.l9_x0_3, Layout.l9_b31, Layout.l9_x20_5, Layout.l9_x15_5, Layout.l9_x10_5, Layout.l9_x3_2, Ann.ofCode_code, Scope.ofCode_code] <;> rfl

theorem famoor (s : Bool) (d : Reg) (a : Reg) (b : Reg) (n : Ann) (c : Scope) : Statement (.famoor s d a b n c) := fun hw => by
  refine decode_of_fields hw ?_
  change decodeFields (BitVec.ofBool s ++ 0xD#6 ++ d ++ a ++ b ++ 0xF#5 ++ n.code ++ c.code) = _
  rw [Major.m0D (Layout.l9_x25_6 ..)]
  rw [decodeAtomic]
  rw [show BitVec.extractLsb' 5 5 _ = 15#5 from Layout.l9_x5_5 ..]
  rw [Layout.l9_x0_3, Layout.l9_b31, Layout.l9_x20_5, Layout.l9_x15_5, Layout.l9_x10_5, Layout.l9_x3_2, Ann.ofCode_code, Scope.ofCode_code] <;> rfl

theorem famoxor (s : Bool) (d : Reg) (a : Reg) (b : Reg) (n : Ann) (c : Scope) : Statement (.famoxor s d a b n c) := fun hw => by
  refine decode_of_fields hw ?_
  change decodeFields (BitVec.ofBool s ++ 0xD#6 ++ d ++ a ++ b ++ 0x11#5 ++ n.code ++ c.code) = _
  rw [Major.m0D (Layout.l9_x25_6 ..)]
  rw [decodeAtomic]
  rw [show BitVec.extractLsb' 5 5 _ = 17#5 from Layout.l9_x5_5 ..]
  rw [Layout.l9_x0_3, Layout.l9_b31, Layout.l9_x20_5, Layout.l9_x15_5, Layout.l9_x10_5, Layout.l9_x3_2, Ann.ofCode_code, Scope.ofCode_code] <;> rfl

theorem famomin (s : Bool) (d : Reg) (a : Reg) (b : Reg) (n : Ann) (c : Scope) : Statement (.famomin s d a b n c) := fun hw => by
  refine decode_of_fields hw ?_
  change decodeFields (BitVec.ofBool s ++ 0xD#6 ++ d ++ a ++ b ++ 0x13#5 ++ n.code ++ c.code) = _
  rw [Major.m0D (Layout.l9_x25_6 ..)]
  rw [decodeAtomic]
  rw [show BitVec.extractLsb' 5 5 _ = 19#5 from Layout.l9_x5_5 ..]
  rw [Layout.l9_x0_3, Layout.l9_b31, Layout.l9_x20_5, Layout.l9_x15_5, Layout.l9_x10_5, Layout.l9_x3_2, Ann.ofCode_code, Scope.ofCode_code] <;> rfl

theorem famomax (s : Bool) (d : Reg) (a : Reg) (b : Reg) (n : Ann) (c : Scope) : Statement (.famomax s d a b n c) := fun hw => by
  refine decode_of_fields hw ?_
  change decodeFields (BitVec.ofBool s ++ 0xD#6 ++ d ++ a ++ b ++ 0x15#5 ++ n.code ++ c.code) = _
  rw [Major.m0D (Layout.l9_x25_6 ..)]
  rw [decodeAtomic]
  rw [show BitVec.extractLsb' 5 5 _ = 21#5 from Layout.l9_x5_5 ..]
  rw [Layout.l9_x0_3, Layout.l9_b31, Layout.l9_x20_5, Layout.l9_x15_5, Layout.l9_x10_5, Layout.l9_x3_2, Ann.ofCode_code, Scope.ofCode_code] <;> rfl

theorem famominu (s : Bool) (d : Reg) (a : Reg) (b : Reg) (n : Ann) (c : Scope) : Statement (.famominu s d a b n c) := fun hw => by
  refine decode_of_fields hw ?_
  change decodeFields (BitVec.ofBool s ++ 0xD#6 ++ d ++ a ++ b ++ 0x17#5 ++ n.code ++ c.code) = _
  rw [Major.m0D (Layout.l9_x25_6 ..)]
  rw [decodeAtomic]
  rw [show BitVec.extractLsb' 5 5 _ = 23#5 from Layout.l9_x5_5 ..]
  rw [Layout.l9_x0_3, Layout.l9_b31, Layout.l9_x20_5, Layout.l9_x15_5, Layout.l9_x10_5, Layout.l9_x3_2, Ann.ofCode_code, Scope.ofCode_code] <;> rfl

theorem famomaxu (s : Bool) (d : Reg) (a : Reg) (b : Reg) (n : Ann) (c : Scope) : Statement (.famomaxu s d a b n c) := fun hw => by
  refine decode_of_fields hw ?_
  change decodeFields (BitVec.ofBool s ++ 0xD#6 ++ d ++ a ++ b ++ 0x19#5 ++ n.code ++ c.code) = _
  rw [Major.m0D (Layout.l9_x25_6 ..)]
  rw [decodeAtomic]
  rw [show BitVec.extractLsb' 5 5 _ = 25#5 from Layout.l9_x5_5 ..]
  rw [Layout.l9_x0_3, Layout.l9_b31, Layout.l9_x20_5, Layout.l9_x15_5, Layout.l9_x10_5, Layout.l9_x3_2, Ann.ofCode_code, Scope.ofCode_code] <;> rfl

theorem famofaddS (s : Bool) (d : Reg) (a : Reg) (b : Reg) (n : Ann) (c : Scope) : Statement (.famofaddS s d a b n c) := fun hw => by
  refine decode_of_fields hw ?_
  change decodeFields (BitVec.ofBool s ++ 0xD#6 ++ d ++ a ++ b ++ 0x1B#5 ++ n.code ++ c.code) = _
  rw [Major.m0D (Layout.l9_x25_6 ..)]
  rw [decodeAtomic]
  rw [show BitVec.extractLsb' 5 5 _ = 27#5 from Layout.l9_x5_5 ..]
  rw [Layout.l9_x0_3, Layout.l9_b31, Layout.l9_x20_5, Layout.l9_x15_5, Layout.l9_x10_5, Layout.l9_x3_2, Ann.ofCode_code, Scope.ofCode_code] <;> rfl

theorem famofaddD (s : Bool) (d : Reg) (a : Reg) (b : Reg) (n : Ann) (c : Scope) : Statement (.famofaddD s d a b n c) := fun hw => by
  refine decode_of_fields hw ?_
  change decodeFields (BitVec.ofBool s ++ 0xD#6 ++ d ++ a ++ b ++ 0x1D#5 ++ n.code ++ c.code) = _
  rw [Major.m0D (Layout.l9_x25_6 ..)]
  rw [decodeAtomic]
  rw [show BitVec.extractLsb' 5 5 _ = 29#5 from Layout.l9_x5_5 ..]
  rw [Layout.l9_x0_3, Layout.l9_b31, Layout.l9_x20_5, Layout.l9_x15_5, Layout.l9_x10_5, Layout.l9_x3_2, Ann.ofCode_code, Scope.ofCode_code] <;> rfl

theorem fencel (s : Bool) (p : BitVec 5) (c : Scope) : Statement (.fencel s p c) := fun hw => by
  refine decode_of_fields hw ?_
  change decodeFields (BitVec.ofBool s ++ 0xE#6 ++ 0x0#5 ++ p ++ 0x1#12 ++ c.code) = _
  rw [Major.m0E (Layout.l11_x25_6 ..)]
  rw [decodeFence]
  rw [show BitVec.extractLsb' 8 2 _ = 0#2 from Layout.l11_x8_2 ..]
  rw [show BitVec.extractLsb' 3 2 _ = 1#2 from Layout.l11_x3_2 ..]
  change (if _ = _ then _ else _) = _
  rw [if_pos (by rw [show (0x01F07CE0#32) = (0x0#1 ++ 0x0#6 ++ 0x1F#5 ++ 0x0#5 ++ 0xF9C#12 ++ 0x0#3 : BitVec 32) by decide, Layout.l11_and]; simp)]
  rw [Layout.l11_x0_3, Layout.l11_b31, Layout.l11_x15_5, Scope.ofCode_code] <;> rfl

theorem fencea (s : Bool) (p : BitVec 5) (c : Scope) : Statement (.fencea s p c) := fun hw => by
  refine decode_of_fields hw ?_
  change decodeFields (BitVec.ofBool s ++ 0xE#6 ++ 0x0#5 ++ p ++ 0x2#12 ++ c.code) = _
  rw [Major.m0E (Layout.l11_x25_6 ..)]
  rw [decodeFence]
  rw [show BitVec.extractLsb' 8 2 _ = 0#2 from Layout.l11_x8_2 ..]
  rw [show BitVec.extractLsb' 3 2 _ = 2#2 from Layout.l11_x3_2 ..]
  change (if _ = _ then _ else _) = _
  rw [if_pos (by rw [show (0x01F07CE0#32) = (0x0#1 ++ 0x0#6 ++ 0x1F#5 ++ 0x0#5 ++ 0xF9C#12 ++ 0x0#3 : BitVec 32) by decide, Layout.l11_and]; simp)]
  rw [Layout.l11_x0_3, Layout.l11_b31, Layout.l11_x15_5, Scope.ofCode_code] <;> rfl

theorem fence (s : Bool) (p : BitVec 5) (c : Scope) : Statement (.fence s p c) := fun hw => by
  refine decode_of_fields hw ?_
  change decodeFields (BitVec.ofBool s ++ 0xE#6 ++ 0x0#5 ++ p ++ 0x3#12 ++ c.code) = _
  rw [Major.m0E (Layout.l11_x25_6 ..)]
  rw [decodeFence]
  rw [show BitVec.extractLsb' 8 2 _ = 0#2 from Layout.l11_x8_2 ..]
  rw [show BitVec.extractLsb' 3 2 _ = 3#2 from Layout.l11_x3_2 ..]
  change (if _ = _ then _ else _) = _
  rw [if_pos (by rw [show (0x01F07CE0#32) = (0x0#1 ++ 0x0#6 ++ 0x1F#5 ++ 0x0#5 ++ 0xF9C#12 ++ 0x0#3 : BitVec 32) by decide, Layout.l11_and]; simp)]
  rw [Layout.l11_x0_3, Layout.l11_b31, Layout.l11_x15_5, Scope.ofCode_code] <;> rfl

theorem xfence (s : Bool) (p : BitVec 5) (q : BitVec 5) (c : Scope) : Statement (.xfence s p q c) := fun hw => by
  refine decode_of_fields hw ?_
  change decodeFields (BitVec.ofBool s ++ 0xE#6 ++ 0x0#5 ++ p ++ q ++ 0x20#7 ++ c.code) = _
  rw [Major.m0E (Layout.l16_x25_6 ..)]
  rw [decodeFence]
  rw [show BitVec.extractLsb' 8 2 _ = 1#2 from Layout.l16_x8_2 ..]
  rw [show BitVec.extractLsb' 3 2 _ = 0#2 from Layout.l16_x3_2 ..]
  change (if _ = _ then _ else _) = _
  rw [if_pos (by rw [show (0x01F000E0#32) = (0x0#1 ++ 0x0#6 ++ 0x1F#5 ++ 0x0#5 ++ 0x0#5 ++ 0x1C#7 ++ 0x0#3 : BitVec 32) by decide, Layout.l16_and]; simp)]
  rw [Layout.l16_x0_3, Layout.l16_b31, Layout.l16_x15_5, Layout.l16_x10_5, Scope.ofCode_code] <;> rfl

theorem ldp (s : Bool) (d : Reg) (a : Reg) (i : BitVec 12) : Statement (.ldp s d a i) := fun hw => by
  refine decode_of_fields hw ?_
  change decodeFields (BitVec.ofBool s ++ 0x39#6 ++ d ++ a ++ 0x0#3 ++ i) = _
  rw [Major.m39 (Layout.l17_x25_6 ..)]
  rw [decodeDeprecated]
  rw [show BitVec.extractLsb' 12 3 _ = 0#3 from Layout.l17_x12_3 ..]
  change Except.ok (Instr.ldp _ _ _ _) = _
  rw [Layout.l17_b31, Layout.l17_x20_5, Layout.l17_x15_5, Layout.l17_x0_12]

theorem vsetli (s : Bool) (d : Reg) (e : EW) (i : BitVec 10) : Statement (.vsetli s d e i) := fun hw => by
  refine decode_of_fields hw ?_
  change decodeFields (BitVec.ofBool s ++ 0x39#6 ++ d ++ 0x1#8 ++ e.code ++ i) = _
  rw [Major.m39 (Layout.l18_x25_6 ..)]
  rw [decodeDeprecated]
  rw [show BitVec.extractLsb' 12 3 _ = 1#3 from Layout.l18_x12_3 ..]
  change (if _ = _ then _ else _) = _
  rw [if_pos (by rw [show (0x000F8000#32) = (0x0#1 ++ 0x0#6 ++ 0x0#5 ++ 0xF8#8 ++ 0x0#2 ++ 0x0#10 : BitVec 32) by decide, Layout.l18_and]; simp)]
  change Except.ok (Instr.vsetli _ _ _ _) = _
  rw [Layout.l18_b31, Layout.l18_x20_5, Layout.l18_x10_2, Layout.l18_x0_10, EW.ofCode_code]

theorem fenceall (s : Bool) : Statement (.fenceall s) := fun hw => by
  refine decode_of_fields hw ?_
  change decodeFields (BitVec.ofBool s ++ 0x39#6 ++ 0x2000#25) = _
  rw [Major.m39 (Layout.l7_x25_6 ..)]
  rw [decodeDeprecated]
  rw [show BitVec.extractLsb' 12 3 _ = 2#3 from Layout.l7_x12_3 ..]
  change (if _ = _ then _ else _) = _
  rw [if_pos (by rw [show (0x01FF8FFF#32) = (0x0#1 ++ 0x0#6 ++ 0x1FF8FFF#25 : BitVec 32) by decide, Layout.l7_and]; simp)]
  change Except.ok (Instr.fenceall _) = _
  rw [Layout.l7_b31]

theorem hpfL1 (s : Bool) (a : Reg) (i : BitVec 12) : Statement (.hpfL1 s a i) := fun hw => by
  refine decode_of_fields hw ?_
  change decodeFields (BitVec.ofBool s ++ 0x3C#6 ++ 0x0#5 ++ a ++ 0x0#3 ++ i) = _
  rw [Major.m3C (Layout.l17_x25_6 ..), decodeHint, Layout.l17_x20_5, Layout.l17_x12_3, Layout.l17_x0_12,
    Layout.l17_x15_5, Layout.l17_b31]
  rfl

theorem hpfS (s : Bool) (a : Reg) (i : BitVec 12) : Statement (.hpfS s a i) := fun hw => by
  refine decode_of_fields hw ?_
  change decodeFields (BitVec.ofBool s ++ 0x3C#6 ++ 0x0#5 ++ a ++ 0x1#3 ++ i) = _
  rw [Major.m3C (Layout.l17_x25_6 ..), decodeHint, Layout.l17_x20_5, Layout.l17_x12_3, Layout.l17_x0_12,
    Layout.l17_x15_5, Layout.l17_b31]
  rfl

theorem hpfSx (s : Bool) (a : Reg) (i : BitVec 12) : Statement (.hpfSx s a i) := fun hw => by
  refine decode_of_fields hw ?_
  change decodeFields (BitVec.ofBool s ++ 0x3C#6 ++ 0x0#5 ++ a ++ 0x2#3 ++ i) = _
  rw [Major.m3C (Layout.l17_x25_6 ..), decodeHint, Layout.l17_x20_5, Layout.l17_x12_3, Layout.l17_x0_12,
    Layout.l17_x15_5, Layout.l17_b31]
  rfl

theorem hintNop (s : Bool) (body : BitVec 31) : Statement (.hintNop s body) := fun hw => by
  refine decode_of_fields hw ?_
  change decodeFields (BitVec.ofBool s ++ body) = _
  simp only [Instr.wellFormed, hintBodyOk, Bool.or_eq_true, Bool.and_eq_true, Bool.not_eq_true',
    decide_eq_true_eq, Bool.and_eq_false_iff, decide_eq_false_iff_not] at hw
  rcases hw with (h | h) | ⟨h, hn⟩
  · rw [Major.m3D ((Layout.l19_x25_6 ..).trans h), Layout.l19_b31, Layout.l19_x0_31]
  · rw [Major.m3E ((Layout.l19_x25_6 ..).trans h), Layout.l19_b31, Layout.l19_x0_31]
  · rw [Major.m3C ((Layout.l19_x25_6 ..).trans h), decodeHint, Layout.l19_x20_5, Layout.l19_x12_3, Layout.l19_b31, Layout.l19_x0_31]
    have h12 : ∀ k : BitVec 3, k.toNat ≤ 2 → ¬(body.extractLsb' 20 5 = 0 ∧ body.extractLsb' 12 3 = k) := by
      rintro k hk ⟨h1, h2⟩
      rcases hn with hn | hn
      · exact hn h1
      · exact hn (h2 ▸ hk)
    rw [if_neg (h12 0 (by decide)), if_neg (h12 1 (by decide)), if_neg (h12 2 (by decide))]

theorem setvl (s : Bool) (d : Reg) (a : Reg) (e : EW) : Statement (.setvl s d a e) := fun hw => by
  refine decode_of_fields hw ?_
  cases e
  · change decodeFields (BitVec.ofBool s ++ 0x2C#6 ++ d ++ a ++ 0x0#13 ++ 0#2) = _
    rw [Major.m2C (Layout.l20_x25_6 ..)]
    rw [decodeVConfig]
    rw [show BitVec.extractLsb' 0 10 _ = 0#10 from Layout.l20_x0_10 ..]
    change (if _ = _ then _ else _) = _
    rw [if_pos (by rw [show (0x00007C00#32) = (0x0#1 ++ 0x0#6 ++ 0x0#5 ++ 0x0#5 ++ 0x1F00#13 ++ 0x0#2 : BitVec 32) by decide, Layout.l20_and]; simp)]
    change Except.ok (Instr.setvl _ _ _ _) = _
    rw [Layout.l20_b31, Layout.l20_x20_5, Layout.l20_x15_5, Layout.l20_x0_2] <;> rfl
  · change decodeFields (BitVec.ofBool s ++ 0x2C#6 ++ d ++ a ++ 0x0#13 ++ 1#2) = _
    rw [Major.m2C (Layout.l20_x25_6 ..)]
    rw [decodeVConfig]
    rw [show BitVec.extractLsb' 0 10 _ = 1#10 from Layout.l20_x0_10 ..]
    change (if _ = _ then _ else _) = _
    rw [if_pos (by rw [show (0x00007C00#32) = (0x0#1 ++ 0x0#6 ++ 0x0#5 ++ 0x0#5 ++ 0x1F00#13 ++ 0x0#2 : BitVec 32) by decide, Layout.l20_and]; simp)]
    change Except.ok (Instr.setvl _ _ _ _) = _
    rw [Layout.l20_b31, Layout.l20_x20_5, Layout.l20_x15_5, Layout.l20_x0_2] <;> rfl
  · change decodeFields (BitVec.ofBool s ++ 0x2C#6 ++ d ++ a ++ 0x0#13 ++ 2#2) = _
    rw [Major.m2C (Layout.l20_x25_6 ..)]
    rw [decodeVConfig]
    rw [show BitVec.extractLsb' 0 10 _ = 2#10 from Layout.l20_x0_10 ..]
    change (if _ = _ then _ else _) = _
    rw [if_pos (by rw [show (0x00007C00#32) = (0x0#1 ++ 0x0#6 ++ 0x0#5 ++ 0x0#5 ++ 0x1F00#13 ++ 0x0#2 : BitVec 32) by decide, Layout.l20_and]; simp)]
    change Except.ok (Instr.setvl _ _ _ _) = _
    rw [Layout.l20_b31, Layout.l20_x20_5, Layout.l20_x15_5, Layout.l20_x0_2] <;> rfl
  · change decodeFields (BitVec.ofBool s ++ 0x2C#6 ++ d ++ a ++ 0x0#13 ++ 3#2) = _
    rw [Major.m2C (Layout.l20_x25_6 ..)]
    rw [decodeVConfig]
    rw [show BitVec.extractLsb' 0 10 _ = 3#10 from Layout.l20_x0_10 ..]
    change (if _ = _ then _ else _) = _
    rw [if_pos (by rw [show (0x00007C00#32) = (0x0#1 ++ 0x0#6 ++ 0x0#5 ++ 0x0#5 ++ 0x1F00#13 ++ 0x0#2 : BitVec 32) by decide, Layout.l20_and]; simp)]
    change Except.ok (Instr.setvl _ _ _ _) = _
    rw [Layout.l20_b31, Layout.l20_x20_5, Layout.l20_x15_5, Layout.l20_x0_2] <;> rfl

theorem vspill (s : Bool) (a : Reg) (b : Reg) : Statement (.vspill s a b) := fun hw => by
  refine decode_of_fields hw ?_
  change decodeFields (BitVec.ofBool s ++ 0x2C#6 ++ 0x0#5 ++ a ++ b ++ 0x10#10) = _
  rw [Major.m2C (Layout.l1_x25_6 ..)]
  rw [decodeVConfig]
  rw [show BitVec.extractLsb' 0 10 _ = 16#10 from Layout.l1_x0_10 ..]
  change (if _ = _ then _ else _) = _
  rw [if_pos (by rw [show (0x01F00000#32) = (0x0#1 ++ 0x0#6 ++ 0x1F#5 ++ 0x0#5 ++ 0x0#5 ++ 0x0#10 : BitVec 32) by decide, Layout.l1_and]; simp)]
  change Except.ok (Instr.vspill _ _ _) = _
  rw [Layout.l1_b31, Layout.l1_x15_5, Layout.l1_x10_5]

theorem vfill (s : Bool) (a : Reg) : Statement (.vfill s a) := fun hw => by
  refine decode_of_fields hw ?_
  change decodeFields (BitVec.ofBool s ++ 0x2C#6 ++ 0x0#5 ++ a ++ 0x11#15) = _
  rw [Major.m2C (Layout.l2_x25_6 ..)]
  rw [decodeVConfig]
  rw [show BitVec.extractLsb' 0 10 _ = 17#10 from Layout.l2_x0_10 ..]
  change (if _ = _ then _ else _) = _
  rw [if_pos (by rw [show (0x01F07C00#32) = (0x0#1 ++ 0x0#6 ++ 0x1F#5 ++ 0x0#5 ++ 0x7C00#15 : BitVec 32) by decide, Layout.l2_and]; simp)]
  change Except.ok (Instr.vfill _ _) = _
  rw [Layout.l2_b31, Layout.l2_x15_5]

theorem ringcfg (s : Bool) (d : Reg) (a : Reg) : Statement (.ringcfg s d a) := fun hw => by
  refine decode_of_fields hw ?_
  change decodeFields (BitVec.ofBool s ++ 0x2C#6 ++ d ++ a ++ 0x20#15) = _
  rw [Major.m2C (Layout.l2_x25_6 ..)]
  rw [decodeVConfig]
  rw [show BitVec.extractLsb' 0 10 _ = 32#10 from Layout.l2_x0_10 ..]
  change (if _ = _ then _ else _) = _
  rw [if_pos (by rw [show (0x00007C00#32) = (0x0#1 ++ 0x0#6 ++ 0x0#5 ++ 0x0#5 ++ 0x7C00#15 : BitVec 32) by decide, Layout.l2_and]; simp)]
  change Except.ok (Instr.ringcfg _ _ _) = _
  rw [Layout.l2_b31, Layout.l2_x20_5, Layout.l2_x15_5]

theorem mand (s : Bool) (d : Reg) (a : Reg) (b : Reg) : Statement (.mand s d a b) := fun hw => by
  refine decode_of_fields hw ?_
  change decodeFields (BitVec.ofBool s ++ 0x28#6 ++ d ++ a ++ b ++ 0x0#10) = _
  rw [Major.m28 (Layout.l1_x25_6 ..)]
  rw [decodeMaskOp]
  rw [show BitVec.extractLsb' 0 10 _ = 0#10 from Layout.l1_x0_10 ..]
  change Except.ok (Instr.mand _ _ _ _) = _
  rw [Layout.l1_b31, Layout.l1_x20_5, Layout.l1_x15_5, Layout.l1_x10_5]

theorem mor (s : Bool) (d : Reg) (a : Reg) (b : Reg) : Statement (.mor s d a b) := fun hw => by
  refine decode_of_fields hw ?_
  change decodeFields (BitVec.ofBool s ++ 0x28#6 ++ d ++ a ++ b ++ 0x1#10) = _
  rw [Major.m28 (Layout.l1_x25_6 ..)]
  rw [decodeMaskOp]
  rw [show BitVec.extractLsb' 0 10 _ = 1#10 from Layout.l1_x0_10 ..]
  change Except.ok (Instr.mor _ _ _ _) = _
  rw [Layout.l1_b31, Layout.l1_x20_5, Layout.l1_x15_5, Layout.l1_x10_5]

theorem mxor (s : Bool) (d : Reg) (a : Reg) (b : Reg) : Statement (.mxor s d a b) := fun hw => by
  refine decode_of_fields hw ?_
  change decodeFields (BitVec.ofBool s ++ 0x28#6 ++ d ++ a ++ b ++ 0x2#10) = _
  rw [Major.m28 (Layout.l1_x25_6 ..)]
  rw [decodeMaskOp]
  rw [show BitVec.extractLsb' 0 10 _ = 2#10 from Layout.l1_x0_10 ..]
  change Except.ok (Instr.mxor _ _ _ _) = _
  rw [Layout.l1_b31, Layout.l1_x20_5, Layout.l1_x15_5, Layout.l1_x10_5]

theorem mandn (s : Bool) (d : Reg) (a : Reg) (b : Reg) : Statement (.mandn s d a b) := fun hw => by
  refine decode_of_fields hw ?_
  change decodeFields (BitVec.ofBool s ++ 0x28#6 ++ d ++ a ++ b ++ 0x3#10) = _
  rw [Major.m28 (Layout.l1_x25_6 ..)]
  rw [decodeMaskOp]
  rw [show BitVec.extractLsb' 0 10 _ = 3#10 from Layout.l1_x0_10 ..]
  change Except.ok (Instr.mandn _ _ _ _) = _
  rw [Layout.l1_b31, Layout.l1_x20_5, Layout.l1_x15_5, Layout.l1_x10_5]

theorem mnot (s : Bool) (d : Reg) (a : Reg) : Statement (.mnot s d a) := fun hw => by
  refine decode_of_fields hw ?_
  change decodeFields (BitVec.ofBool s ++ 0x28#6 ++ d ++ a ++ 0x4#15) = _
  rw [Major.m28 (Layout.l2_x25_6 ..)]
  rw [decodeMaskOp]
  rw [show BitVec.extractLsb' 0 10 _ = 4#10 from Layout.l2_x0_10 ..]
  change (if _ = _ then _ else _) = _
  rw [if_pos (by rw [show (0x00007C00#32) = (0x0#1 ++ 0x0#6 ++ 0x0#5 ++ 0x0#5 ++ 0x7C00#15 : BitVec 32) by decide, Layout.l2_and]; simp)]
  change Except.ok (Instr.mnot _ _ _) = _
  rw [Layout.l2_b31, Layout.l2_x20_5, Layout.l2_x15_5]

theorem mset (s : Bool) (d : Reg) : Statement (.mset s d) := fun hw => by
  refine decode_of_fields hw ?_
  change decodeFields (BitVec.ofBool s ++ 0x28#6 ++ d ++ 0x5#20) = _
  rw [Major.m28 (Layout.l5_x25_6 ..)]
  rw [decodeMaskOp]
  rw [show BitVec.extractLsb' 0 10 _ = 5#10 from Layout.l5_x0_10 ..]
  change (if _ = _ then _ else _) = _
  rw [if_pos (by rw [show (0x000FFC00#32) = (0x0#1 ++ 0x0#6 ++ 0x0#5 ++ 0xFFC00#20 : BitVec 32) by decide, Layout.l5_and]; simp)]
  change Except.ok (Instr.mset _ _) = _
  rw [Layout.l5_b31, Layout.l5_x20_5]

theorem mpopc (s : Bool) (d : Reg) (a : Reg) : Statement (.mpopc s d a) := fun hw => by
  refine decode_of_fields hw ?_
  change decodeFields (BitVec.ofBool s ++ 0x28#6 ++ d ++ a ++ 0x6#15) = _
  rw [Major.m28 (Layout.l2_x25_6 ..)]
  rw [decodeMaskOp]
  rw [show BitVec.extractLsb' 0 10 _ = 6#10 from Layout.l2_x0_10 ..]
  change (if _ = _ then _ else _) = _
  rw [if_pos (by rw [show (0x00007C00#32) = (0x0#1 ++ 0x0#6 ++ 0x0#5 ++ 0x0#5 ++ 0x7C00#15 : BitVec 32) by decide, Layout.l2_and]; simp)]
  change Except.ok (Instr.mpopc _ _ _) = _
  rw [Layout.l2_b31, Layout.l2_x20_5, Layout.l2_x15_5]

theorem mfirst (s : Bool) (d : Reg) (a : Reg) : Statement (.mfirst s d a) := fun hw => by
  refine decode_of_fields hw ?_
  change decodeFields (BitVec.ofBool s ++ 0x28#6 ++ d ++ a ++ 0x7#15) = _
  rw [Major.m28 (Layout.l2_x25_6 ..)]
  rw [decodeMaskOp]
  rw [show BitVec.extractLsb' 0 10 _ = 7#10 from Layout.l2_x0_10 ..]
  change (if _ = _ then _ else _) = _
  rw [if_pos (by rw [show (0x00007C00#32) = (0x0#1 ++ 0x0#6 ++ 0x0#5 ++ 0x0#5 ++ 0x7C00#15 : BitVec 32) by decide, Layout.l2_and]; simp)]
  change Except.ok (Instr.mfirst _ _ _) = _
  rw [Layout.l2_b31, Layout.l2_x20_5, Layout.l2_x15_5]

theorem vadd (s : Bool) (d : Reg) (a : Reg) (b : Reg) (k : Reg) : Statement (.vadd s d a b k) := fun hw => by
  refine decode_of_fields hw ?_
  change decodeFields (BitVec.ofBool s ++ 0x20#6 ++ d ++ a ++ b ++ k ++ 0x0#5) = _
  rw [Major.m20 (Layout.l21_x25_6 ..)]
  rw [decodeVInt]
  rw [show BitVec.extractLsb' 0 4 _ = 0#4 from Layout.l21_x0_4 ..]
  change (if _ = _ then _ else _) = _
  rw [if_pos (by rw [show (0x00000010#32) = (0x0#1 ++ 0x0#6 ++ 0x0#5 ++ 0x0#5 ++ 0x0#5 ++ 0x0#5 ++ 0x10#5 : BitVec 32) by decide, Layout.l21_and]; simp)]
  change Except.ok (Instr.vadd _ _ _ _ _) = _
  rw [Layout.l21_b31, Layout.l21_x20_5, Layout.l21_x15_5, Layout.l21_x10_5, Layout.l21_x5_5]

theorem vsub (s : Bool) (d : Reg) (a : Reg) (b : Reg) (k : Reg) : Statement (.vsub s d a b k) := fun hw => by
  refine decode_of_fields hw ?_
  change decodeFields (BitVec.ofBool s ++ 0x20#6 ++ d ++ a ++ b ++ k ++ 0x1#5) = _
  rw [Major.m20 (Layout.l21_x25_6 ..)]
  rw [decodeVInt]
  rw [show BitVec.extractLsb' 0 4 _ = 1#4 from Layout.l21_x0_4 ..]
  change (if _ = _ then _ else _) = _
  rw [if_pos (by rw [show (0x00000010#32) = (0x0#1 ++ 0x0#6 ++ 0x0#5 ++ 0x0#5 ++ 0x0#5 ++ 0x0#5 ++ 0x10#5 : BitVec 32) by decide, Layout.l21_and]; simp)]
  change Except.ok (Instr.vsub _ _ _ _ _) = _
  rw [Layout.l21_b31, Layout.l21_x20_5, Layout.l21_x15_5, Layout.l21_x10_5, Layout.l21_x5_5]

theorem vmul (s : Bool) (d : Reg) (a : Reg) (b : Reg) (k : Reg) : Statement (.vmul s d a b k) := fun hw => by
  refine decode_of_fields hw ?_
  change decodeFields (BitVec.ofBool s ++ 0x20#6 ++ d ++ a ++ b ++ k ++ 0x2#5) = _
  rw [Major.m20 (Layout.l21_x25_6 ..)]
  rw [decodeVInt]
  rw [show BitVec.extractLsb' 0 4 _ = 2#4 from Layout.l21_x0_4 ..]
  change (if _ = _ then _ else _) = _
  rw [if_pos (by rw [show (0x00000010#32) = (0x0#1 ++ 0x0#6 ++ 0x0#5 ++ 0x0#5 ++ 0x0#5 ++ 0x0#5 ++ 0x10#5 : BitVec 32) by decide, Layout.l21_and]; simp)]
  change Except.ok (Instr.vmul _ _ _ _ _) = _
  rw [Layout.l21_b31, Layout.l21_x20_5, Layout.l21_x15_5, Layout.l21_x10_5, Layout.l21_x5_5]

theorem vmulh (s : Bool) (d : Reg) (a : Reg) (b : Reg) (k : Reg) : Statement (.vmulh s d a b k) := fun hw => by
  refine decode_of_fields hw ?_
  change decodeFields (BitVec.ofBool s ++ 0x20#6 ++ d ++ a ++ b ++ k ++ 0x3#5) = _
  rw [Major.m20 (Layout.l21_x25_6 ..)]
  rw [decodeVInt]
  rw [show BitVec.extractLsb' 0 4 _ = 3#4 from Layout.l21_x0_4 ..]
  change (if _ = _ then _ else _) = _
  rw [if_pos (by rw [show (0x00000010#32) = (0x0#1 ++ 0x0#6 ++ 0x0#5 ++ 0x0#5 ++ 0x0#5 ++ 0x0#5 ++ 0x10#5 : BitVec 32) by decide, Layout.l21_and]; simp)]
  change Except.ok (Instr.vmulh _ _ _ _ _) = _
  rw [Layout.l21_b31, Layout.l21_x20_5, Layout.l21_x15_5, Layout.l21_x10_5, Layout.l21_x5_5]

theorem vmulhu (s : Bool) (d : Reg) (a : Reg) (b : Reg) (k : Reg) : Statement (.vmulhu s d a b k) := fun hw => by
  refine decode_of_fields hw ?_
  change decodeFields (BitVec.ofBool s ++ 0x20#6 ++ d ++ a ++ b ++ k ++ 0x4#5) = _
  rw [Major.m20 (Layout.l21_x25_6 ..)]
  rw [decodeVInt]
  rw [show BitVec.extractLsb' 0 4 _ = 4#4 from Layout.l21_x0_4 ..]
  change (if _ = _ then _ else _) = _
  rw [if_pos (by rw [show (0x00000010#32) = (0x0#1 ++ 0x0#6 ++ 0x0#5 ++ 0x0#5 ++ 0x0#5 ++ 0x0#5 ++ 0x10#5 : BitVec 32) by decide, Layout.l21_and]; simp)]
  change Except.ok (Instr.vmulhu _ _ _ _ _) = _
  rw [Layout.l21_b31, Layout.l21_x20_5, Layout.l21_x15_5, Layout.l21_x10_5, Layout.l21_x5_5]

theorem vand (s : Bool) (d : Reg) (a : Reg) (b : Reg) (k : Reg) : Statement (.vand s d a b k) := fun hw => by
  refine decode_of_fields hw ?_
  change decodeFields (BitVec.ofBool s ++ 0x20#6 ++ d ++ a ++ b ++ k ++ 0x5#5) = _
  rw [Major.m20 (Layout.l21_x25_6 ..)]
  rw [decodeVInt]
  rw [show BitVec.extractLsb' 0 4 _ = 5#4 from Layout.l21_x0_4 ..]
  change (if _ = _ then _ else _) = _
  rw [if_pos (by rw [show (0x00000010#32) = (0x0#1 ++ 0x0#6 ++ 0x0#5 ++ 0x0#5 ++ 0x0#5 ++ 0x0#5 ++ 0x10#5 : BitVec 32) by decide, Layout.l21_and]; simp)]
  change Except.ok (Instr.vand _ _ _ _ _) = _
  rw [Layout.l21_b31, Layout.l21_x20_5, Layout.l21_x15_5, Layout.l21_x10_5, Layout.l21_x5_5]

theorem vor (s : Bool) (d : Reg) (a : Reg) (b : Reg) (k : Reg) : Statement (.vor s d a b k) := fun hw => by
  refine decode_of_fields hw ?_
  change decodeFields (BitVec.ofBool s ++ 0x20#6 ++ d ++ a ++ b ++ k ++ 0x6#5) = _
  rw [Major.m20 (Layout.l21_x25_6 ..)]
  rw [decodeVInt]
  rw [show BitVec.extractLsb' 0 4 _ = 6#4 from Layout.l21_x0_4 ..]
  change (if _ = _ then _ else _) = _
  rw [if_pos (by rw [show (0x00000010#32) = (0x0#1 ++ 0x0#6 ++ 0x0#5 ++ 0x0#5 ++ 0x0#5 ++ 0x0#5 ++ 0x10#5 : BitVec 32) by decide, Layout.l21_and]; simp)]
  change Except.ok (Instr.vor _ _ _ _ _) = _
  rw [Layout.l21_b31, Layout.l21_x20_5, Layout.l21_x15_5, Layout.l21_x10_5, Layout.l21_x5_5]

theorem vxor (s : Bool) (d : Reg) (a : Reg) (b : Reg) (k : Reg) : Statement (.vxor s d a b k) := fun hw => by
  refine decode_of_fields hw ?_
  change decodeFields (BitVec.ofBool s ++ 0x20#6 ++ d ++ a ++ b ++ k ++ 0x7#5) = _
  rw [Major.m20 (Layout.l21_x25_6 ..)]
  rw [decodeVInt]
  rw [show BitVec.extractLsb' 0 4 _ = 7#4 from Layout.l21_x0_4 ..]
  change (if _ = _ then _ else _) = _
  rw [if_pos (by rw [show (0x00000010#32) = (0x0#1 ++ 0x0#6 ++ 0x0#5 ++ 0x0#5 ++ 0x0#5 ++ 0x0#5 ++ 0x10#5 : BitVec 32) by decide, Layout.l21_and]; simp)]
  change Except.ok (Instr.vxor _ _ _ _ _) = _
  rw [Layout.l21_b31, Layout.l21_x20_5, Layout.l21_x15_5, Layout.l21_x10_5, Layout.l21_x5_5]

theorem vsll (s : Bool) (d : Reg) (a : Reg) (b : Reg) (k : Reg) : Statement (.vsll s d a b k) := fun hw => by
  refine decode_of_fields hw ?_
  change decodeFields (BitVec.ofBool s ++ 0x20#6 ++ d ++ a ++ b ++ k ++ 0x8#5) = _
  rw [Major.m20 (Layout.l21_x25_6 ..)]
  rw [decodeVInt]
  rw [show BitVec.extractLsb' 0 4 _ = 8#4 from Layout.l21_x0_4 ..]
  change (if _ = _ then _ else _) = _
  rw [if_pos (by rw [show (0x00000010#32) = (0x0#1 ++ 0x0#6 ++ 0x0#5 ++ 0x0#5 ++ 0x0#5 ++ 0x0#5 ++ 0x10#5 : BitVec 32) by decide, Layout.l21_and]; simp)]
  change Except.ok (Instr.vsll _ _ _ _ _) = _
  rw [Layout.l21_b31, Layout.l21_x20_5, Layout.l21_x15_5, Layout.l21_x10_5, Layout.l21_x5_5]

theorem vsrl (s : Bool) (d : Reg) (a : Reg) (b : Reg) (k : Reg) : Statement (.vsrl s d a b k) := fun hw => by
  refine decode_of_fields hw ?_
  change decodeFields (BitVec.ofBool s ++ 0x20#6 ++ d ++ a ++ b ++ k ++ 0x9#5) = _
  rw [Major.m20 (Layout.l21_x25_6 ..)]
  rw [decodeVInt]
  rw [show BitVec.extractLsb' 0 4 _ = 9#4 from Layout.l21_x0_4 ..]
  change (if _ = _ then _ else _) = _
  rw [if_pos (by rw [show (0x00000010#32) = (0x0#1 ++ 0x0#6 ++ 0x0#5 ++ 0x0#5 ++ 0x0#5 ++ 0x0#5 ++ 0x10#5 : BitVec 32) by decide, Layout.l21_and]; simp)]
  change Except.ok (Instr.vsrl _ _ _ _ _) = _
  rw [Layout.l21_b31, Layout.l21_x20_5, Layout.l21_x15_5, Layout.l21_x10_5, Layout.l21_x5_5]

theorem vsra (s : Bool) (d : Reg) (a : Reg) (b : Reg) (k : Reg) : Statement (.vsra s d a b k) := fun hw => by
  refine decode_of_fields hw ?_
  change decodeFields (BitVec.ofBool s ++ 0x20#6 ++ d ++ a ++ b ++ k ++ 0xA#5) = _
  rw [Major.m20 (Layout.l21_x25_6 ..)]
  rw [decodeVInt]
  rw [show BitVec.extractLsb' 0 4 _ = 10#4 from Layout.l21_x0_4 ..]
  change (if _ = _ then _ else _) = _
  rw [if_pos (by rw [show (0x00000010#32) = (0x0#1 ++ 0x0#6 ++ 0x0#5 ++ 0x0#5 ++ 0x0#5 ++ 0x0#5 ++ 0x10#5 : BitVec 32) by decide, Layout.l21_and]; simp)]
  change Except.ok (Instr.vsra _ _ _ _ _) = _
  rw [Layout.l21_b31, Layout.l21_x20_5, Layout.l21_x15_5, Layout.l21_x10_5, Layout.l21_x5_5]

theorem vmin (s : Bool) (d : Reg) (a : Reg) (b : Reg) (k : Reg) : Statement (.vmin s d a b k) := fun hw => by
  refine decode_of_fields hw ?_
  change decodeFields (BitVec.ofBool s ++ 0x20#6 ++ d ++ a ++ b ++ k ++ 0xB#5) = _
  rw [Major.m20 (Layout.l21_x25_6 ..)]
  rw [decodeVInt]
  rw [show BitVec.extractLsb' 0 4 _ = 11#4 from Layout.l21_x0_4 ..]
  change (if _ = _ then _ else _) = _
  rw [if_pos (by rw [show (0x00000010#32) = (0x0#1 ++ 0x0#6 ++ 0x0#5 ++ 0x0#5 ++ 0x0#5 ++ 0x0#5 ++ 0x10#5 : BitVec 32) by decide, Layout.l21_and]; simp)]
  change Except.ok (Instr.vmin _ _ _ _ _) = _
  rw [Layout.l21_b31, Layout.l21_x20_5, Layout.l21_x15_5, Layout.l21_x10_5, Layout.l21_x5_5]

theorem vmax (s : Bool) (d : Reg) (a : Reg) (b : Reg) (k : Reg) : Statement (.vmax s d a b k) := fun hw => by
  refine decode_of_fields hw ?_
  change decodeFields (BitVec.ofBool s ++ 0x20#6 ++ d ++ a ++ b ++ k ++ 0xC#5) = _
  rw [Major.m20 (Layout.l21_x25_6 ..)]
  rw [decodeVInt]
  rw [show BitVec.extractLsb' 0 4 _ = 12#4 from Layout.l21_x0_4 ..]
  change (if _ = _ then _ else _) = _
  rw [if_pos (by rw [show (0x00000010#32) = (0x0#1 ++ 0x0#6 ++ 0x0#5 ++ 0x0#5 ++ 0x0#5 ++ 0x0#5 ++ 0x10#5 : BitVec 32) by decide, Layout.l21_and]; simp)]
  change Except.ok (Instr.vmax _ _ _ _ _) = _
  rw [Layout.l21_b31, Layout.l21_x20_5, Layout.l21_x15_5, Layout.l21_x10_5, Layout.l21_x5_5]

theorem vminu (s : Bool) (d : Reg) (a : Reg) (b : Reg) (k : Reg) : Statement (.vminu s d a b k) := fun hw => by
  refine decode_of_fields hw ?_
  change decodeFields (BitVec.ofBool s ++ 0x20#6 ++ d ++ a ++ b ++ k ++ 0xD#5) = _
  rw [Major.m20 (Layout.l21_x25_6 ..)]
  rw [decodeVInt]
  rw [show BitVec.extractLsb' 0 4 _ = 13#4 from Layout.l21_x0_4 ..]
  change (if _ = _ then _ else _) = _
  rw [if_pos (by rw [show (0x00000010#32) = (0x0#1 ++ 0x0#6 ++ 0x0#5 ++ 0x0#5 ++ 0x0#5 ++ 0x0#5 ++ 0x10#5 : BitVec 32) by decide, Layout.l21_and]; simp)]
  change Except.ok (Instr.vminu _ _ _ _ _) = _
  rw [Layout.l21_b31, Layout.l21_x20_5, Layout.l21_x15_5, Layout.l21_x10_5, Layout.l21_x5_5]

theorem vmaxu (s : Bool) (d : Reg) (a : Reg) (b : Reg) (k : Reg) : Statement (.vmaxu s d a b k) := fun hw => by
  refine decode_of_fields hw ?_
  change decodeFields (BitVec.ofBool s ++ 0x20#6 ++ d ++ a ++ b ++ k ++ 0xE#5) = _
  rw [Major.m20 (Layout.l21_x25_6 ..)]
  rw [decodeVInt]
  rw [show BitVec.extractLsb' 0 4 _ = 14#4 from Layout.l21_x0_4 ..]
  change (if _ = _ then _ else _) = _
  rw [if_pos (by rw [show (0x00000010#32) = (0x0#1 ++ 0x0#6 ++ 0x0#5 ++ 0x0#5 ++ 0x0#5 ++ 0x0#5 ++ 0x10#5 : BitVec 32) by decide, Layout.l21_and]; simp)]
  change Except.ok (Instr.vmaxu _ _ _ _ _) = _
  rw [Layout.l21_b31, Layout.l21_x20_5, Layout.l21_x15_5, Layout.l21_x10_5, Layout.l21_x5_5]

theorem vsadd (s : Bool) (d : Reg) (a : Reg) (b : Reg) (k : Reg) (x : Bool) : Statement (.vsadd s d a b k x) := fun hw => by
  refine decode_of_fields hw ?_
  change decodeFields (BitVec.ofBool s ++ 0x21#6 ++ d ++ a ++ b ++ k ++ BitVec.ofBool x ++ 0x0#4) = _
  rw [Major.m21 (Layout.l22_x25_6 ..)]
  rw [decodeVIntMisc]
  rw [show BitVec.extractLsb' 0 4 _ = 0#4 from Layout.l22_x0_4 ..]
  change Except.ok (Instr.vsadd _ _ _ _ _ _) = _
  rw [Layout.l22_b31, Layout.l22_x20_5, Layout.l22_x15_5, Layout.l22_x10_5, Layout.l22_x5_5, Layout.l22_b4]

theorem vsaddu (s : Bool) (d : Reg) (a : Reg) (b : Reg) (k : Reg) (x : Bool) : Statement (.vsaddu s d a b k x) := fun hw => by
  refine decode_of_fields hw ?_
  change decodeFields (BitVec.ofBool s ++ 0x21#6 ++ d ++ a ++ b ++ k ++ BitVec.ofBool x ++ 0x1#4) = _
  rw [Major.m21 (Layout.l22_x25_6 ..)]
  rw [decodeVIntMisc]
  rw [show BitVec.extractLsb' 0 4 _ = 1#4 from Layout.l22_x0_4 ..]
  change Except.ok (Instr.vsaddu _ _ _ _ _ _) = _
  rw [Layout.l22_b31, Layout.l22_x20_5, Layout.l22_x15_5, Layout.l22_x10_5, Layout.l22_x5_5, Layout.l22_b4]

theorem vssub (s : Bool) (d : Reg) (a : Reg) (b : Reg) (k : Reg) (x : Bool) : Statement (.vssub s d a b k x) := fun hw => by
  refine decode_of_fields hw ?_
  change decodeFields (BitVec.ofBool s ++ 0x21#6 ++ d ++ a ++ b ++ k ++ BitVec.ofBool x ++ 0x2#4) = _
  rw [Major.m21 (Layout.l22_x25_6 ..)]
  rw [decodeVIntMisc]
  rw [show BitVec.extractLsb' 0 4 _ = 2#4 from Layout.l22_x0_4 ..]
  change Except.ok (Instr.vssub _ _ _ _ _ _) = _
  rw [Layout.l22_b31, Layout.l22_x20_5, Layout.l22_x15_5, Layout.l22_x10_5, Layout.l22_x5_5, Layout.l22_b4]

theorem vssubu (s : Bool) (d : Reg) (a : Reg) (b : Reg) (k : Reg) (x : Bool) : Statement (.vssubu s d a b k x) := fun hw => by
  refine decode_of_fields hw ?_
  change decodeFields (BitVec.ofBool s ++ 0x21#6 ++ d ++ a ++ b ++ k ++ BitVec.ofBool x ++ 0x3#4) = _
  rw [Major.m21 (Layout.l22_x25_6 ..)]
  rw [decodeVIntMisc]
  rw [show BitVec.extractLsb' 0 4 _ = 3#4 from Layout.l22_x0_4 ..]
  change Except.ok (Instr.vssubu _ _ _ _ _ _) = _
  rw [Layout.l22_b31, Layout.l22_x20_5, Layout.l22_x15_5, Layout.l22_x10_5, Layout.l22_x5_5, Layout.l22_b4]

theorem vabs (s : Bool) (d : Reg) (a : Reg) (k : Reg) : Statement (.vabs s d a k) := fun hw => by
  refine decode_of_fields hw ?_
  change decodeFields (BitVec.ofBool s ++ 0x21#6 ++ d ++ a ++ 0x0#5 ++ k ++ 0x4#5) = _
  rw [Major.m21 (Layout.l21_x25_6 ..)]
  rw [decodeVIntMisc]
  rw [show BitVec.extractLsb' 0 4 _ = 4#4 from Layout.l21_x0_4 ..]
  change (if _ = _ then _ else _) = _
  rw [if_pos (by rw [show (0x00007C10#32) = (0x0#1 ++ 0x0#6 ++ 0x0#5 ++ 0x0#5 ++ 0x1F#5 ++ 0x0#5 ++ 0x10#5 : BitVec 32) by decide, Layout.l21_and]; simp)]
  change Except.ok (Instr.vabs _ _ _ _) = _
  rw [Layout.l21_b31, Layout.l21_x20_5, Layout.l21_x15_5, Layout.l21_x5_5]

theorem vsplat (s : Bool) (d : Reg) (a : Reg) (k : Reg) : Statement (.vsplat s d a k) := fun hw => by
  refine decode_of_fields hw ?_
  change decodeFields (BitVec.ofBool s ++ 0x21#6 ++ d ++ a ++ 0x0#5 ++ k ++ 0x5#5) = _
  rw [Major.m21 (Layout.l21_x25_6 ..)]
  rw [decodeVIntMisc]
  rw [show BitVec.extractLsb' 0 4 _ = 5#4 from Layout.l21_x0_4 ..]
  change (if _ = _ then _ else _) = _
  rw [if_pos (by rw [show (0x00007C10#32) = (0x0#1 ++ 0x0#6 ++ 0x0#5 ++ 0x0#5 ++ 0x1F#5 ++ 0x0#5 ++ 0x10#5 : BitVec 32) by decide, Layout.l21_and]; simp)]
  change Except.ok (Instr.vsplat _ _ _ _) = _
  rw [Layout.l21_b31, Layout.l21_x20_5, Layout.l21_x15_5, Layout.l21_x5_5]

theorem viota (s : Bool) (d : Reg) (k : Reg) : Statement (.viota s d k) := fun hw => by
  refine decode_of_fields hw ?_
  change decodeFields (BitVec.ofBool s ++ 0x21#6 ++ d ++ 0x0#10 ++ k ++ 0x6#5) = _
  rw [Major.m21 (Layout.l23_x25_6 ..)]
  rw [decodeVIntMisc]
  rw [show BitVec.extractLsb' 0 4 _ = 6#4 from Layout.l23_x0_4 ..]
  change (if _ = _ then _ else _) = _
  rw [if_pos (by rw [show (0x000FFC10#32) = (0x0#1 ++ 0x0#6 ++ 0x0#5 ++ 0x3FF#10 ++ 0x0#5 ++ 0x10#5 : BitVec 32) by decide, Layout.l23_and]; simp)]
  change Except.ok (Instr.viota _ _ _) = _
  rw [Layout.l23_b31, Layout.l23_x20_5, Layout.l23_x5_5]

theorem vmv (s : Bool) (d : Reg) (a : Reg) (k : Reg) : Statement (.vmv s d a k) := fun hw => by
  refine decode_of_fields hw ?_
  change decodeFields (BitVec.ofBool s ++ 0x21#6 ++ d ++ a ++ 0x0#5 ++ k ++ 0x7#5) = _
  rw [Major.m21 (Layout.l21_x25_6 ..)]
  rw [decodeVIntMisc]
  rw [show BitVec.extractLsb' 0 4 _ = 7#4 from Layout.l21_x0_4 ..]
  change (if _ = _ then _ else _) = _
  rw [if_pos (by rw [show (0x00007C10#32) = (0x0#1 ++ 0x0#6 ++ 0x0#5 ++ 0x0#5 ++ 0x1F#5 ++ 0x0#5 ++ 0x10#5 : BitVec 32) by decide, Layout.l21_and]; simp)]
  change Except.ok (Instr.vmv _ _ _ _) = _
  rw [Layout.l21_b31, Layout.l21_x20_5, Layout.l21_x15_5, Layout.l21_x5_5]

theorem vsext (s : Bool) (d : Reg) (a : Reg) (k : Reg) : Statement (.vsext s d a k) := fun hw => by
  refine decode_of_fields hw ?_
  change decodeFields (BitVec.ofBool s ++ 0x21#6 ++ d ++ a ++ 0x0#5 ++ k ++ 0x8#5) = _
  rw [Major.m21 (Layout.l21_x25_6 ..)]
  rw [decodeVIntMisc]
  rw [show BitVec.extractLsb' 0 4 _ = 8#4 from Layout.l21_x0_4 ..]
  change (if _ = _ then _ else _) = _
  rw [if_pos (by rw [show (0x00007C10#32) = (0x0#1 ++ 0x0#6 ++ 0x0#5 ++ 0x0#5 ++ 0x1F#5 ++ 0x0#5 ++ 0x10#5 : BitVec 32) by decide, Layout.l21_and]; simp)]
  change Except.ok (Instr.vsext _ _ _ _) = _
  rw [Layout.l21_b31, Layout.l21_x20_5, Layout.l21_x15_5, Layout.l21_x5_5]

theorem vzext (s : Bool) (d : Reg) (a : Reg) (k : Reg) : Statement (.vzext s d a k) := fun hw => by
  refine decode_of_fields hw ?_
  change decodeFields (BitVec.ofBool s ++ 0x21#6 ++ d ++ a ++ 0x0#5 ++ k ++ 0x9#5) = _
  rw [Major.m21 (Layout.l21_x25_6 ..)]
  rw [decodeVIntMisc]
  rw [show BitVec.extractLsb' 0 4 _ = 9#4 from Layout.l21_x0_4 ..]
  change (if _ = _ then _ else _) = _
  rw [if_pos (by rw [show (0x00007C10#32) = (0x0#1 ++ 0x0#6 ++ 0x0#5 ++ 0x0#5 ++ 0x1F#5 ++ 0x0#5 ++ 0x10#5 : BitVec 32) by decide, Layout.l21_and]; simp)]
  change Except.ok (Instr.vzext _ _ _ _) = _
  rw [Layout.l21_b31, Layout.l21_x20_5, Layout.l21_x15_5, Layout.l21_x5_5]

theorem vfadd (s : Bool) (d : Reg) (a : Reg) (b : Reg) (k : Reg) (x : Bool) : Statement (.vfadd s d a b k x) := fun hw => by
  refine decode_of_fields hw ?_
  change decodeFields (BitVec.ofBool s ++ 0x22#6 ++ d ++ a ++ b ++ k ++ BitVec.ofBool x ++ 0x0#4) = _
  rw [Major.m22 (Layout.l22_x25_6 ..)]
  rw [decodeVFp]
  rw [show BitVec.extractLsb' 0 4 _ = 0#4 from Layout.l22_x0_4 ..]
  change Except.ok (Instr.vfadd _ _ _ _ _ _) = _
  rw [Layout.l22_b31, Layout.l22_x20_5, Layout.l22_x15_5, Layout.l22_x10_5, Layout.l22_x5_5, Layout.l22_b4]

theorem vfsub (s : Bool) (d : Reg) (a : Reg) (b : Reg) (k : Reg) (x : Bool) : Statement (.vfsub s d a b k x) := fun hw => by
  refine decode_of_fields hw ?_
  change decodeFields (BitVec.ofBool s ++ 0x22#6 ++ d ++ a ++ b ++ k ++ BitVec.ofBool x ++ 0x1#4) = _
  rw [Major.m22 (Layout.l22_x25_6 ..)]
  rw [decodeVFp]
  rw [show BitVec.extractLsb' 0 4 _ = 1#4 from Layout.l22_x0_4 ..]
  change Except.ok (Instr.vfsub _ _ _ _ _ _) = _
  rw [Layout.l22_b31, Layout.l22_x20_5, Layout.l22_x15_5, Layout.l22_x10_5, Layout.l22_x5_5, Layout.l22_b4]

theorem vfmul (s : Bool) (d : Reg) (a : Reg) (b : Reg) (k : Reg) (x : Bool) : Statement (.vfmul s d a b k x) := fun hw => by
  refine decode_of_fields hw ?_
  change decodeFields (BitVec.ofBool s ++ 0x22#6 ++ d ++ a ++ b ++ k ++ BitVec.ofBool x ++ 0x2#4) = _
  rw [Major.m22 (Layout.l22_x25_6 ..)]
  rw [decodeVFp]
  rw [show BitVec.extractLsb' 0 4 _ = 2#4 from Layout.l22_x0_4 ..]
  change Except.ok (Instr.vfmul _ _ _ _ _ _) = _
  rw [Layout.l22_b31, Layout.l22_x20_5, Layout.l22_x15_5, Layout.l22_x10_5, Layout.l22_x5_5, Layout.l22_b4]

theorem vfdiv (s : Bool) (d : Reg) (a : Reg) (b : Reg) (k : Reg) (x : Bool) : Statement (.vfdiv s d a b k x) := fun hw => by
  refine decode_of_fields hw ?_
  change decodeFields (BitVec.ofBool s ++ 0x22#6 ++ d ++ a ++ b ++ k ++ BitVec.ofBool x ++ 0x3#4) = _
  rw [Major.m22 (Layout.l22_x25_6 ..)]
  rw [decodeVFp]
  rw [show BitVec.extractLsb' 0 4 _ = 3#4 from Layout.l22_x0_4 ..]
  change Except.ok (Instr.vfdiv _ _ _ _ _ _) = _
  rw [Layout.l22_b31, Layout.l22_x20_5, Layout.l22_x15_5, Layout.l22_x10_5, Layout.l22_x5_5, Layout.l22_b4]

theorem vfsqrt (s : Bool) (d : Reg) (a : Reg) (k : Reg) (x : Bool) : Statement (.vfsqrt s d a k x) := fun hw => by
  refine decode_of_fields hw ?_
  change decodeFields (BitVec.ofBool s ++ 0x22#6 ++ d ++ a ++ 0x0#5 ++ k ++ BitVec.ofBool x ++ 0x4#4) = _
  rw [Major.m22 (Layout.l22_x25_6 ..)]
  rw [decodeVFp]
  rw [show BitVec.extractLsb' 0 4 _ = 4#4 from Layout.l22_x0_4 ..]
  change (if _ = _ then _ else _) = _
  rw [if_pos (by rw [show (0x00007C00#32) = (0x0#1 ++ 0x0#6 ++ 0x0#5 ++ 0x0#5 ++ 0x1F#5 ++ 0x0#5 ++ 0x0#1 ++ 0x0#4 : BitVec 32) by decide, Layout.l22_and]; simp)]
  change Except.ok (Instr.vfsqrt _ _ _ _ _) = _
  rw [Layout.l22_b31, Layout.l22_x20_5, Layout.l22_x15_5, Layout.l22_x5_5, Layout.l22_b4]

theorem vfmin (s : Bool) (d : Reg) (a : Reg) (b : Reg) (k : Reg) (x : Bool) : Statement (.vfmin s d a b k x) := fun hw => by
  refine decode_of_fields hw ?_
  change decodeFields (BitVec.ofBool s ++ 0x22#6 ++ d ++ a ++ b ++ k ++ BitVec.ofBool x ++ 0x5#4) = _
  rw [Major.m22 (Layout.l22_x25_6 ..)]
  rw [decodeVFp]
  rw [show BitVec.extractLsb' 0 4 _ = 5#4 from Layout.l22_x0_4 ..]
  change Except.ok (Instr.vfmin _ _ _ _ _ _) = _
  rw [Layout.l22_b31, Layout.l22_x20_5, Layout.l22_x15_5, Layout.l22_x10_5, Layout.l22_x5_5, Layout.l22_b4]

theorem vfmax (s : Bool) (d : Reg) (a : Reg) (b : Reg) (k : Reg) (x : Bool) : Statement (.vfmax s d a b k x) := fun hw => by
  refine decode_of_fields hw ?_
  change decodeFields (BitVec.ofBool s ++ 0x22#6 ++ d ++ a ++ b ++ k ++ BitVec.ofBool x ++ 0x6#4) = _
  rw [Major.m22 (Layout.l22_x25_6 ..)]
  rw [decodeVFp]
  rw [show BitVec.extractLsb' 0 4 _ = 6#4 from Layout.l22_x0_4 ..]
  change Except.ok (Instr.vfmax _ _ _ _ _ _) = _
  rw [Layout.l22_b31, Layout.l22_x20_5, Layout.l22_x15_5, Layout.l22_x10_5, Layout.l22_x5_5, Layout.l22_b4]

theorem vfcpsgn (s : Bool) (d : Reg) (a : Reg) (b : Reg) (k : Reg) : Statement (.vfcpsgn s d a b k) := fun hw => by
  refine decode_of_fields hw ?_
  change decodeFields (BitVec.ofBool s ++ 0x22#6 ++ d ++ a ++ b ++ k ++ 0x7#5) = _
  rw [Major.m22 (Layout.l21_x25_6 ..)]
  rw [decodeVFp]
  rw [show BitVec.extractLsb' 0 4 _ = 7#4 from Layout.l21_x0_4 ..]
  change (if _ = _ then _ else _) = _
  rw [if_pos (by rw [show (0x00000010#32) = (0x0#1 ++ 0x0#6 ++ 0x0#5 ++ 0x0#5 ++ 0x0#5 ++ 0x0#5 ++ 0x10#5 : BitVec 32) by decide, Layout.l21_and]; simp)]
  change Except.ok (Instr.vfcpsgn _ _ _ _ _) = _
  rw [Layout.l21_b31, Layout.l21_x20_5, Layout.l21_x15_5, Layout.l21_x10_5, Layout.l21_x5_5]

theorem vfneg (s : Bool) (d : Reg) (a : Reg) (k : Reg) : Statement (.vfneg s d a k) := fun hw => by
  refine decode_of_fields hw ?_
  change decodeFields (BitVec.ofBool s ++ 0x22#6 ++ d ++ a ++ 0x0#5 ++ k ++ 0x8#5) = _
  rw [Major.m22 (Layout.l21_x25_6 ..)]
  rw [decodeVFp]
  rw [show BitVec.extractLsb' 0 4 _ = 8#4 from Layout.l21_x0_4 ..]
  change (if _ = _ then _ else _) = _
  rw [if_pos (by rw [show (0x00007C10#32) = (0x0#1 ++ 0x0#6 ++ 0x0#5 ++ 0x0#5 ++ 0x1F#5 ++ 0x0#5 ++ 0x10#5 : BitVec 32) by decide, Layout.l21_and]; simp)]
  change Except.ok (Instr.vfneg _ _ _ _) = _
  rw [Layout.l21_b31, Layout.l21_x20_5, Layout.l21_x15_5, Layout.l21_x5_5]

theorem vfabs (s : Bool) (d : Reg) (a : Reg) (k : Reg) : Statement (.vfabs s d a k) := fun hw => by
  refine decode_of_fields hw ?_
  change decodeFields (BitVec.ofBool s ++ 0x22#6 ++ d ++ a ++ 0x0#5 ++ k ++ 0x9#5) = _
  rw [Major.m22 (Layout.l21_x25_6 ..)]
  rw [decodeVFp]
  rw [show BitVec.extractLsb' 0 4 _ = 9#4 from Layout.l21_x0_4 ..]
  change (if _ = _ then _ else _) = _
  rw [if_pos (by rw [show (0x00007C10#32) = (0x0#1 ++ 0x0#6 ++ 0x0#5 ++ 0x0#5 ++ 0x1F#5 ++ 0x0#5 ++ 0x10#5 : BitVec 32) by decide, Layout.l21_and]; simp)]
  change Except.ok (Instr.vfabs _ _ _ _) = _
  rw [Layout.l21_b31, Layout.l21_x20_5, Layout.l21_x15_5, Layout.l21_x5_5]

theorem vfxsgn (s : Bool) (d : Reg) (a : Reg) (b : Reg) (k : Reg) : Statement (.vfxsgn s d a b k) := fun hw => by
  refine decode_of_fields hw ?_
  change decodeFields (BitVec.ofBool s ++ 0x22#6 ++ d ++ a ++ b ++ k ++ 0xA#5) = _
  rw [Major.m22 (Layout.l21_x25_6 ..)]
  rw [decodeVFp]
  rw [show BitVec.extractLsb' 0 4 _ = 10#4 from Layout.l21_x0_4 ..]
  change (if _ = _ then _ else _) = _
  rw [if_pos (by rw [show (0x00000010#32) = (0x0#1 ++ 0x0#6 ++ 0x0#5 ++ 0x0#5 ++ 0x0#5 ++ 0x0#5 ++ 0x10#5 : BitVec 32) by decide, Layout.l21_and]; simp)]
  change Except.ok (Instr.vfxsgn _ _ _ _ _) = _
  rw [Layout.l21_b31, Layout.l21_x20_5, Layout.l21_x15_5, Layout.l21_x10_5, Layout.l21_x5_5]

theorem vbadd (s : Bool) (d : Reg) (a : Reg) (b : Reg) (k : Reg) (x : Bool) : Statement (.vbadd s d a b k x) := fun hw => by
  refine decode_of_fields hw ?_
  change decodeFields (BitVec.ofBool s ++ 0x23#6 ++ d ++ a ++ b ++ k ++ BitVec.ofBool x ++ 0x0#4) = _
  rw [Major.m23 (Layout.l22_x25_6 ..)]
  rw [decodeVConvert]
  rw [show BitVec.extractLsb' 0 4 _ = 0#4 from Layout.l22_x0_4 ..]
  change Except.ok (Instr.vbadd _ _ _ _ _ _) = _
  rw [Layout.l22_b31, Layout.l22_x20_5, Layout.l22_x15_5, Layout.l22_x10_5, Layout.l22_x5_5, Layout.l22_b4]

theorem vbsub (s : Bool) (d : Reg) (a : Reg) (b : Reg) (k : Reg) (x : Bool) : Statement (.vbsub s d a b k x) := fun hw => by
  refine decode_of_fields hw ?_
  change decodeFields (BitVec.ofBool s ++ 0x23#6 ++ d ++ a ++ b ++ k ++ BitVec.ofBool x ++ 0x1#4) = _
  rw [Major.m23 (Layout.l22_x25_6 ..)]
  rw [decodeVConvert]
  rw [show BitVec.extractLsb' 0 4 _ = 1#4 from Layout.l22_x0_4 ..]
  change Except.ok (Instr.vbsub _ _ _ _ _ _) = _
  rw [Layout.l22_b31, Layout.l22_x20_5, Layout.l22_x15_5, Layout.l22_x10_5, Layout.l22_x5_5, Layout.l22_b4]

theorem vbmul (s : Bool) (d : Reg) (a : Reg) (b : Reg) (k : Reg) (x : Bool) : Statement (.vbmul s d a b k x) := fun hw => by
  refine decode_of_fields hw ?_
  change decodeFields (BitVec.ofBool s ++ 0x23#6 ++ d ++ a ++ b ++ k ++ BitVec.ofBool x ++ 0x2#4) = _
  rw [Major.m23 (Layout.l22_x25_6 ..)]
  rw [decodeVConvert]
  rw [show BitVec.extractLsb' 0 4 _ = 2#4 from Layout.l22_x0_4 ..]
  change Except.ok (Instr.vbmul _ _ _ _ _ _) = _
  rw [Layout.l22_b31, Layout.l22_x20_5, Layout.l22_x15_5, Layout.l22_x10_5, Layout.l22_x5_5, Layout.l22_b4]

theorem vfclass (s : Bool) (d : Reg) (a : Reg) (k : Reg) : Statement (.vfclass s d a k) := fun hw => by
  refine decode_of_fields hw ?_
  change decodeFields (BitVec.ofBool s ++ 0x23#6 ++ d ++ a ++ 0x0#5 ++ k ++ 0x3#5) = _
  rw [Major.m23 (Layout.l21_x25_6 ..)]
  rw [decodeVConvert]
  rw [show BitVec.extractLsb' 0 4 _ = 3#4 from Layout.l21_x0_4 ..]
  change (if _ = _ then _ else _) = _
  rw [if_pos (by rw [show (0x00007C10#32) = (0x0#1 ++ 0x0#6 ++ 0x0#5 ++ 0x0#5 ++ 0x1F#5 ++ 0x0#5 ++ 0x10#5 : BitVec 32) by decide, Layout.l21_and]; simp)]
  change Except.ok (Instr.vfclass _ _ _ _) = _
  rw [Layout.l21_b31, Layout.l21_x20_5, Layout.l21_x15_5, Layout.l21_x5_5]

theorem vfcvtw (s : Bool) (d : Reg) (a : Reg) (g : BitVec 5) (k : Reg) (x : Bool) : Statement (.vfcvtw s d a g k x) := fun hw => by
  refine decode_of_fields hw ?_
  change decodeFields (BitVec.ofBool s ++ 0x23#6 ++ d ++ a ++ g ++ k ++ BitVec.ofBool x ++ 0x4#4) = _
  rw [Major.m23 (Layout.l22_x25_6 ..)]
  rw [decodeVConvert]
  rw [show BitVec.extractLsb' 0 4 _ = 4#4 from Layout.l22_x0_4 ..]
  change Except.ok (Instr.vfcvtw _ _ _ _ _ _) = _
  rw [Layout.l22_b31, Layout.l22_x20_5, Layout.l22_x15_5, Layout.l22_x10_5, Layout.l22_x5_5, Layout.l22_b4]

theorem vfcvtn (s : Bool) (d : Reg) (a : Reg) (g : BitVec 5) (k : Reg) (x : Bool) : Statement (.vfcvtn s d a g k x) := fun hw => by
  refine decode_of_fields hw ?_
  change decodeFields (BitVec.ofBool s ++ 0x23#6 ++ d ++ a ++ g ++ k ++ BitVec.ofBool x ++ 0x5#4) = _
  rw [Major.m23 (Layout.l22_x25_6 ..)]
  rw [decodeVConvert]
  rw [show BitVec.extractLsb' 0 4 _ = 5#4 from Layout.l22_x0_4 ..]
  change Except.ok (Instr.vfcvtn _ _ _ _ _ _) = _
  rw [Layout.l22_b31, Layout.l22_x20_5, Layout.l22_x15_5, Layout.l22_x10_5, Layout.l22_x5_5, Layout.l22_b4]

theorem vfcvti (s : Bool) (d : Reg) (a : Reg) (k : Reg) (x : Bool) : Statement (.vfcvti s d a k x) := fun hw => by
  refine decode_of_fields hw ?_
  change decodeFields (BitVec.ofBool s ++ 0x23#6 ++ d ++ a ++ 0x0#5 ++ k ++ BitVec.ofBool x ++ 0x6#4) = _
  rw [Major.m23 (Layout.l22_x25_6 ..)]
  rw [decodeVConvert]
  rw [show BitVec.extractLsb' 0 4 _ = 6#4 from Layout.l22_x0_4 ..]
  change (if _ = _ then _ else _) = _
  rw [if_pos (by rw [show (0x00007C00#32) = (0x0#1 ++ 0x0#6 ++ 0x0#5 ++ 0x0#5 ++ 0x1F#5 ++ 0x0#5 ++ 0x0#1 ++ 0x0#4 : BitVec 32) by decide, Layout.l22_and]; simp)]
  change Except.ok (Instr.vfcvti _ _ _ _ _) = _
  rw [Layout.l22_b31, Layout.l22_x20_5, Layout.l22_x15_5, Layout.l22_x5_5, Layout.l22_b4]

theorem vicvtf (s : Bool) (d : Reg) (a : Reg) (k : Reg) (x : Bool) : Statement (.vicvtf s d a k x) := fun hw => by
  refine decode_of_fields hw ?_
  change decodeFields (BitVec.ofBool s ++ 0x23#6 ++ d ++ a ++ 0x0#5 ++ k ++ BitVec.ofBool x ++ 0x7#4) = _
  rw [Major.m23 (Layout.l22_x25_6 ..)]
  rw [decodeVConvert]
  rw [show BitVec.extractLsb' 0 4 _ = 7#4 from Layout.l22_x0_4 ..]
  change (if _ = _ then _ else _) = _
  rw [if_pos (by rw [show (0x00007C00#32) = (0x0#1 ++ 0x0#6 ++ 0x0#5 ++ 0x0#5 ++ 0x1F#5 ++ 0x0#5 ++ 0x0#1 ++ 0x0#4 : BitVec 32) by decide, Layout.l22_and]; simp)]
  change Except.ok (Instr.vicvtf _ _ _ _ _) = _
  rw [Layout.l22_b31, Layout.l22_x20_5, Layout.l22_x15_5, Layout.l22_x5_5, Layout.l22_b4]

theorem vfcvtiu (s : Bool) (d : Reg) (a : Reg) (k : Reg) (x : Bool) : Statement (.vfcvtiu s d a k x) := fun hw => by
  refine decode_of_fields hw ?_
  change decodeFields (BitVec.ofBool s ++ 0x23#6 ++ d ++ a ++ 0x0#5 ++ k ++ BitVec.ofBool x ++ 0x8#4) = _
  rw [Major.m23 (Layout.l22_x25_6 ..)]
  rw [decodeVConvert]
  rw [show BitVec.extractLsb' 0 4 _ = 8#4 from Layout.l22_x0_4 ..]
  change (if _ = _ then _ else _) = _
  rw [if_pos (by rw [show (0x00007C00#32) = (0x0#1 ++ 0x0#6 ++ 0x0#5 ++ 0x0#5 ++ 0x1F#5 ++ 0x0#5 ++ 0x0#1 ++ 0x0#4 : BitVec 32) by decide, Layout.l22_and]; simp)]
  change Except.ok (Instr.vfcvtiu _ _ _ _ _) = _
  rw [Layout.l22_b31, Layout.l22_x20_5, Layout.l22_x15_5, Layout.l22_x5_5, Layout.l22_b4]

theorem viucvtf (s : Bool) (d : Reg) (a : Reg) (k : Reg) (x : Bool) : Statement (.viucvtf s d a k x) := fun hw => by
  refine decode_of_fields hw ?_
  change decodeFields (BitVec.ofBool s ++ 0x23#6 ++ d ++ a ++ 0x0#5 ++ k ++ BitVec.ofBool x ++ 0x9#4) = _
  rw [Major.m23 (Layout.l22_x25_6 ..)]
  rw [decodeVConvert]
  rw [show BitVec.extractLsb' 0 4 _ = 9#4 from Layout.l22_x0_4 ..]
  change (if _ = _ then _ else _) = _
  rw [if_pos (by rw [show (0x00007C00#32) = (0x0#1 ++ 0x0#6 ++ 0x0#5 ++ 0x0#5 ++ 0x1F#5 ++ 0x0#5 ++ 0x0#1 ++ 0x0#4 : BitVec 32) by decide, Layout.l22_and]; simp)]
  change Except.ok (Instr.viucvtf _ _ _ _ _) = _
  rw [Layout.l22_b31, Layout.l22_x20_5, Layout.l22_x15_5, Layout.l22_x5_5, Layout.l22_b4]

theorem vfmadd (s : Bool) (d : Reg) (a : Reg) (b : Reg) (k : Reg) (x : Bool) : Statement (.vfmadd s d a b k x) := fun hw => by
  refine decode_of_fields hw ?_
  change decodeFields (BitVec.ofBool s ++ 0x24#6 ++ d ++ a ++ b ++ k ++ BitVec.ofBool x ++ 0x0#4) = _
  rw [Major.m24 (Layout.l22_x25_6 ..)]
  rw [decodeVFma]
  rw [show BitVec.extractLsb' 0 4 _ = 0#4 from Layout.l22_x0_4 ..]
  change Except.ok (Instr.vfmadd _ _ _ _ _ _) = _
  rw [Layout.l22_b31, Layout.l22_x20_5, Layout.l22_x15_5, Layout.l22_x10_5, Layout.l22_x5_5, Layout.l22_b4]

theorem vfmsub (s : Bool) (d : Reg) (a : Reg) (b : Reg) (k : Reg) (x : Bool) : Statement (.vfmsub s d a b k x) := fun hw => by
  refine decode_of_fields hw ?_
  change decodeFields (BitVec.ofBool s ++ 0x24#6 ++ d ++ a ++ b ++ k ++ BitVec.ofBool x ++ 0x1#4) = _
  rw [Major.m24 (Layout.l22_x25_6 ..)]
  rw [decodeVFma]
  rw [show BitVec.extractLsb' 0 4 _ = 1#4 from Layout.l22_x0_4 ..]
  change Except.ok (Instr.vfmsub _ _ _ _ _ _) = _
  rw [Layout.l22_b31, Layout.l22_x20_5, Layout.l22_x15_5, Layout.l22_x10_5, Layout.l22_x5_5, Layout.l22_b4]

theorem vfnmadd (s : Bool) (d : Reg) (a : Reg) (b : Reg) (k : Reg) (x : Bool) : Statement (.vfnmadd s d a b k x) := fun hw => by
  refine decode_of_fields hw ?_
  change decodeFields (BitVec.ofBool s ++ 0x24#6 ++ d ++ a ++ b ++ k ++ BitVec.ofBool x ++ 0x2#4) = _
  rw [Major.m24 (Layout.l22_x25_6 ..)]
  rw [decodeVFma]
  rw [show BitVec.extractLsb' 0 4 _ = 2#4 from Layout.l22_x0_4 ..]
  change Except.ok (Instr.vfnmadd _ _ _ _ _ _) = _
  rw [Layout.l22_b31, Layout.l22_x20_5, Layout.l22_x15_5, Layout.l22_x10_5, Layout.l22_x5_5, Layout.l22_b4]

theorem vfnmsub (s : Bool) (d : Reg) (a : Reg) (b : Reg) (k : Reg) (x : Bool) : Statement (.vfnmsub s d a b k x) := fun hw => by
  refine decode_of_fields hw ?_
  change decodeFields (BitVec.ofBool s ++ 0x24#6 ++ d ++ a ++ b ++ k ++ BitVec.ofBool x ++ 0x3#4) = _
  rw [Major.m24 (Layout.l22_x25_6 ..)]
  rw [decodeVFma]
  rw [show BitVec.extractLsb' 0 4 _ = 3#4 from Layout.l22_x0_4 ..]
  change Except.ok (Instr.vfnmsub _ _ _ _ _ _) = _
  rw [Layout.l22_b31, Layout.l22_x20_5, Layout.l22_x15_5, Layout.l22_x10_5, Layout.l22_x5_5, Layout.l22_b4]

theorem vbfmadd (s : Bool) (d : Reg) (a : Reg) (b : Reg) (k : Reg) (x : Bool) : Statement (.vbfmadd s d a b k x) := fun hw => by
  refine decode_of_fields hw ?_
  change decodeFields (BitVec.ofBool s ++ 0x24#6 ++ d ++ a ++ b ++ k ++ BitVec.ofBool x ++ 0x4#4) = _
  rw [Major.m24 (Layout.l22_x25_6 ..)]
  rw [decodeVFma]
  rw [show BitVec.extractLsb' 0 4 _ = 4#4 from Layout.l22_x0_4 ..]
  change Except.ok (Instr.vbfmadd _ _ _ _ _ _) = _
  rw [Layout.l22_b31, Layout.l22_x20_5, Layout.l22_x15_5, Layout.l22_x10_5, Layout.l22_x5_5, Layout.l22_b4]

theorem vfwma (s : Bool) (d : Reg) (a : Reg) (b : Reg) (k : Reg) (x : Bool) : Statement (.vfwma s d a b k x) := fun hw => by
  refine decode_of_fields hw ?_
  change decodeFields (BitVec.ofBool s ++ 0x24#6 ++ d ++ a ++ b ++ k ++ BitVec.ofBool x ++ 0x5#4) = _
  rw [Major.m24 (Layout.l22_x25_6 ..)]
  rw [decodeVFma]
  rw [show BitVec.extractLsb' 0 4 _ = 5#4 from Layout.l22_x0_4 ..]
  change Except.ok (Instr.vfwma _ _ _ _ _ _) = _
  rw [Layout.l22_b31, Layout.l22_x20_5, Layout.l22_x15_5, Layout.l22_x10_5, Layout.l22_x5_5, Layout.l22_b4]

theorem vbfwma (s : Bool) (d : Reg) (a : Reg) (b : Reg) (k : Reg) (x : Bool) : Statement (.vbfwma s d a b k x) := fun hw => by
  refine decode_of_fields hw ?_
  change decodeFields (BitVec.ofBool s ++ 0x24#6 ++ d ++ a ++ b ++ k ++ BitVec.ofBool x ++ 0x6#4) = _
  rw [Major.m24 (Layout.l22_x25_6 ..)]
  rw [decodeVFma]
  rw [show BitVec.extractLsb' 0 4 _ = 6#4 from Layout.l22_x0_4 ..]
  change Except.ok (Instr.vbfwma _ _ _ _ _ _) = _
  rw [Layout.l22_b31, Layout.l22_x20_5, Layout.l22_x15_5, Layout.l22_x10_5, Layout.l22_x5_5, Layout.l22_b4]

theorem vfdot2 (s : Bool) (d : Reg) (a : Reg) (b : Reg) (k : Reg) (x : Bool) : Statement (.vfdot2 s d a b k x) := fun hw => by
  refine decode_of_fields hw ?_
  change decodeFields (BitVec.ofBool s ++ 0x24#6 ++ d ++ a ++ b ++ k ++ BitVec.ofBool x ++ 0x7#4) = _
  rw [Major.m24 (Layout.l22_x25_6 ..)]
  rw [decodeVFma]
  rw [show BitVec.extractLsb' 0 4 _ = 7#4 from Layout.l22_x0_4 ..]
  change Except.ok (Instr.vfdot2 _ _ _ _ _ _) = _
  rw [Layout.l22_b31, Layout.l22_x20_5, Layout.l22_x15_5, Layout.l22_x10_5, Layout.l22_x5_5, Layout.l22_b4]

theorem vbfdot2 (s : Bool) (d : Reg) (a : Reg) (b : Reg) (k : Reg) (x : Bool) : Statement (.vbfdot2 s d a b k x) := fun hw => by
  refine decode_of_fields hw ?_
  change decodeFields (BitVec.ofBool s ++ 0x24#6 ++ d ++ a ++ b ++ k ++ BitVec.ofBool x ++ 0x8#4) = _
  rw [Major.m24 (Layout.l22_x25_6 ..)]
  rw [decodeVFma]
  rw [show BitVec.extractLsb' 0 4 _ = 8#4 from Layout.l22_x0_4 ..]
  change Except.ok (Instr.vbfdot2 _ _ _ _ _ _) = _
  rw [Layout.l22_b31, Layout.l22_x20_5, Layout.l22_x15_5, Layout.l22_x10_5, Layout.l22_x5_5, Layout.l22_b4]

theorem vdot4 (s : Bool) (d : Reg) (a : Reg) (b : Reg) (k : Reg) : Statement (.vdot4 s d a b k) := fun hw => by
  refine decode_of_fields hw ?_
  change decodeFields (BitVec.ofBool s ++ 0x24#6 ++ d ++ a ++ b ++ k ++ 0x9#5) = _
  rw [Major.m24 (Layout.l21_x25_6 ..)]
  rw [decodeVFma]
  rw [show BitVec.extractLsb' 0 4 _ = 9#4 from Layout.l21_x0_4 ..]
  change (if _ = _ then _ else _) = _
  rw [if_pos (by rw [show (0x00000010#32) = (0x0#1 ++ 0x0#6 ++ 0x0#5 ++ 0x0#5 ++ 0x0#5 ++ 0x0#5 ++ 0x10#5 : BitVec 32) by decide, Layout.l21_and]; simp)]
  change Except.ok (Instr.vdot4 _ _ _ _ _) = _
  rw [Layout.l21_b31, Layout.l21_x20_5, Layout.l21_x15_5, Layout.l21_x10_5, Layout.l21_x5_5]

theorem vdot4u (s : Bool) (d : Reg) (a : Reg) (b : Reg) (k : Reg) : Statement (.vdot4u s d a b k) := fun hw => by
  refine decode_of_fields hw ?_
  change decodeFields (BitVec.ofBool s ++ 0x24#6 ++ d ++ a ++ b ++ k ++ 0xA#5) = _
  rw [Major.m24 (Layout.l21_x25_6 ..)]
  rw [decodeVFma]
  rw [show BitVec.extractLsb' 0 4 _ = 10#4 from Layout.l21_x0_4 ..]
  change (if _ = _ then _ else _) = _
  rw [if_pos (by rw [show (0x00000010#32) = (0x0#1 ++ 0x0#6 ++ 0x0#5 ++ 0x0#5 ++ 0x0#5 ++ 0x0#5 ++ 0x10#5 : BitVec 32) by decide, Layout.l21_and]; simp)]
  change Except.ok (Instr.vdot4u _ _ _ _ _) = _
  rw [Layout.l21_b31, Layout.l21_x20_5, Layout.l21_x15_5, Layout.l21_x10_5, Layout.l21_x5_5]

theorem vmacc (s : Bool) (d : Reg) (a : Reg) (b : Reg) (k : Reg) : Statement (.vmacc s d a b k) := fun hw => by
  refine decode_of_fields hw ?_
  change decodeFields (BitVec.ofBool s ++ 0x24#6 ++ d ++ a ++ b ++ k ++ 0xB#5) = _
  rw [Major.m24 (Layout.l21_x25_6 ..)]
  rw [decodeVFma]
  rw [show BitVec.extractLsb' 0 4 _ = 11#4 from Layout.l21_x0_4 ..]
  change (if _ = _ then _ else _) = _
  rw [if_pos (by rw [show (0x00000010#32) = (0x0#1 ++ 0x0#6 ++ 0x0#5 ++ 0x0#5 ++ 0x0#5 ++ 0x0#5 ++ 0x10#5 : BitVec 32) by decide, Layout.l21_and]; simp)]
  change Except.ok (Instr.vmacc _ _ _ _ _) = _
  rw [Layout.l21_b31, Layout.l21_x20_5, Layout.l21_x15_5, Layout.l21_x10_5, Layout.l21_x5_5]

theorem vcmpeq (s : Bool) (d : Reg) (a : Reg) (b : Reg) (k : Reg) : Statement (.vcmpeq s d a b k) := fun hw => by
  refine decode_of_fields hw ?_
  change decodeFields (BitVec.ofBool s ++ 0x25#6 ++ d ++ a ++ b ++ k ++ 0x0#5) = _
  rw [Major.m25 (Layout.l21_x25_6 ..)]
  rw [decodeVCompare]
  rw [show BitVec.extractLsb' 0 4 _ = 0#4 from Layout.l21_x0_4 ..]
  change (if _ = _ then _ else _) = _
  rw [if_pos (by rw [show (0x00000010#32) = (0x0#1 ++ 0x0#6 ++ 0x0#5 ++ 0x0#5 ++ 0x0#5 ++ 0x0#5 ++ 0x10#5 : BitVec 32) by decide, Layout.l21_and]; simp)]
  change Except.ok (Instr.vcmpeq _ _ _ _ _) = _
  rw [Layout.l21_b31, Layout.l21_x20_5, Layout.l21_x15_5, Layout.l21_x10_5, Layout.l21_x5_5]

theorem vcmpne (s : Bool) (d : Reg) (a : Reg) (b : Reg) (k : Reg) : Statement (.vcmpne s d a b k) := fun hw => by
  refine decode_of_fields hw ?_
  change decodeFields (BitVec.ofBool s ++ 0x25#6 ++ d ++ a ++ b ++ k ++ 0x1#5) = _
  rw [Major.m25 (Layout.l21_x25_6 ..)]
  rw [decodeVCompare]
  rw [show BitVec.extractLsb' 0 4 _ = 1#4 from Layout.l21_x0_4 ..]
  change (if _ = _ then _ else _) = _
  rw [if_pos (by rw [show (0x00000010#32) = (0x0#1 ++ 0x0#6 ++ 0x0#5 ++ 0x0#5 ++ 0x0#5 ++ 0x0#5 ++ 0x10#5 : BitVec 32) by decide, Layout.l21_and]; simp)]
  change Except.ok (Instr.vcmpne _ _ _ _ _) = _
  rw [Layout.l21_b31, Layout.l21_x20_5, Layout.l21_x15_5, Layout.l21_x10_5, Layout.l21_x5_5]

theorem vcmplt (s : Bool) (d : Reg) (a : Reg) (b : Reg) (k : Reg) : Statement (.vcmplt s d a b k) := fun hw => by
  refine decode_of_fields hw ?_
  change decodeFields (BitVec.ofBool s ++ 0x25#6 ++ d ++ a ++ b ++ k ++ 0x2#5) = _
  rw [Major.m25 (Layout.l21_x25_6 ..)]
  rw [decodeVCompare]
  rw [show BitVec.extractLsb' 0 4 _ = 2#4 from Layout.l21_x0_4 ..]
  change (if _ = _ then _ else _) = _
  rw [if_pos (by rw [show (0x00000010#32) = (0x0#1 ++ 0x0#6 ++ 0x0#5 ++ 0x0#5 ++ 0x0#5 ++ 0x0#5 ++ 0x10#5 : BitVec 32) by decide, Layout.l21_and]; simp)]
  change Except.ok (Instr.vcmplt _ _ _ _ _) = _
  rw [Layout.l21_b31, Layout.l21_x20_5, Layout.l21_x15_5, Layout.l21_x10_5, Layout.l21_x5_5]

theorem vcmple (s : Bool) (d : Reg) (a : Reg) (b : Reg) (k : Reg) : Statement (.vcmple s d a b k) := fun hw => by
  refine decode_of_fields hw ?_
  change decodeFields (BitVec.ofBool s ++ 0x25#6 ++ d ++ a ++ b ++ k ++ 0x3#5) = _
  rw [Major.m25 (Layout.l21_x25_6 ..)]
  rw [decodeVCompare]
  rw [show BitVec.extractLsb' 0 4 _ = 3#4 from Layout.l21_x0_4 ..]
  change (if _ = _ then _ else _) = _
  rw [if_pos (by rw [show (0x00000010#32) = (0x0#1 ++ 0x0#6 ++ 0x0#5 ++ 0x0#5 ++ 0x0#5 ++ 0x0#5 ++ 0x10#5 : BitVec 32) by decide, Layout.l21_and]; simp)]
  change Except.ok (Instr.vcmple _ _ _ _ _) = _
  rw [Layout.l21_b31, Layout.l21_x20_5, Layout.l21_x15_5, Layout.l21_x10_5, Layout.l21_x5_5]

theorem vcmpltu (s : Bool) (d : Reg) (a : Reg) (b : Reg) (k : Reg) : Statement (.vcmpltu s d a b k) := fun hw => by
  refine decode_of_fields hw ?_
  change decodeFields (BitVec.ofBool s ++ 0x25#6 ++ d ++ a ++ b ++ k ++ 0x4#5) = _
  rw [Major.m25 (Layout.l21_x25_6 ..)]
  rw [decodeVCompare]
  rw [show BitVec.extractLsb' 0 4 _ = 4#4 from Layout.l21_x0_4 ..]
  change (if _ = _ then _ else _) = _
  rw [if_pos (by rw [show (0x00000010#32) = (0x0#1 ++ 0x0#6 ++ 0x0#5 ++ 0x0#5 ++ 0x0#5 ++ 0x0#5 ++ 0x10#5 : BitVec 32) by decide, Layout.l21_and]; simp)]
  change Except.ok (Instr.vcmpltu _ _ _ _ _) = _
  rw [Layout.l21_b31, Layout.l21_x20_5, Layout.l21_x15_5, Layout.l21_x10_5, Layout.l21_x5_5]

theorem vcmpleu (s : Bool) (d : Reg) (a : Reg) (b : Reg) (k : Reg) : Statement (.vcmpleu s d a b k) := fun hw => by
  refine decode_of_fields hw ?_
  change decodeFields (BitVec.ofBool s ++ 0x25#6 ++ d ++ a ++ b ++ k ++ 0x5#5) = _
  rw [Major.m25 (Layout.l21_x25_6 ..)]
  rw [decodeVCompare]
  rw [show BitVec.extractLsb' 0 4 _ = 5#4 from Layout.l21_x0_4 ..]
  change (if _ = _ then _ else _) = _
  rw [if_pos (by rw [show (0x00000010#32) = (0x0#1 ++ 0x0#6 ++ 0x0#5 ++ 0x0#5 ++ 0x0#5 ++ 0x0#5 ++ 0x10#5 : BitVec 32) by decide, Layout.l21_and]; simp)]
  change Except.ok (Instr.vcmpleu _ _ _ _ _) = _
  rw [Layout.l21_b31, Layout.l21_x20_5, Layout.l21_x15_5, Layout.l21_x10_5, Layout.l21_x5_5]

theorem vfcmpeq (s : Bool) (d : Reg) (a : Reg) (b : Reg) (k : Reg) (x : Bool) : Statement (.vfcmpeq s d a b k x) := fun hw => by
  refine decode_of_fields hw ?_
  change decodeFields (BitVec.ofBool s ++ 0x25#6 ++ d ++ a ++ b ++ k ++ BitVec.ofBool x ++ 0x6#4) = _
  rw [Major.m25 (Layout.l22_x25_6 ..)]
  rw [decodeVCompare]
  rw [show BitVec.extractLsb' 0 4 _ = 6#4 from Layout.l22_x0_4 ..]
  change Except.ok (Instr.vfcmpeq _ _ _ _ _ _) = _
  rw [Layout.l22_b31, Layout.l22_x20_5, Layout.l22_x15_5, Layout.l22_x10_5, Layout.l22_x5_5, Layout.l22_b4]

theorem vfcmplt (s : Bool) (d : Reg) (a : Reg) (b : Reg) (k : Reg) (x : Bool) : Statement (.vfcmplt s d a b k x) := fun hw => by
  refine decode_of_fields hw ?_
  change decodeFields (BitVec.ofBool s ++ 0x25#6 ++ d ++ a ++ b ++ k ++ BitVec.ofBool x ++ 0x7#4) = _
  rw [Major.m25 (Layout.l22_x25_6 ..)]
  rw [decodeVCompare]
  rw [show BitVec.extractLsb' 0 4 _ = 7#4 from Layout.l22_x0_4 ..]
  change Except.ok (Instr.vfcmplt _ _ _ _ _ _) = _
  rw [Layout.l22_b31, Layout.l22_x20_5, Layout.l22_x15_5, Layout.l22_x10_5, Layout.l22_x5_5, Layout.l22_b4]

theorem vfcmple (s : Bool) (d : Reg) (a : Reg) (b : Reg) (k : Reg) (x : Bool) : Statement (.vfcmple s d a b k x) := fun hw => by
  refine decode_of_fields hw ?_
  change decodeFields (BitVec.ofBool s ++ 0x25#6 ++ d ++ a ++ b ++ k ++ BitVec.ofBool x ++ 0x8#4) = _
  rw [Major.m25 (Layout.l22_x25_6 ..)]
  rw [decodeVCompare]
  rw [show BitVec.extractLsb' 0 4 _ = 8#4 from Layout.l22_x0_4 ..]
  change Except.ok (Instr.vfcmple _ _ _ _ _ _) = _
  rw [Layout.l22_b31, Layout.l22_x20_5, Layout.l22_x15_5, Layout.l22_x10_5, Layout.l22_x5_5, Layout.l22_b4]

theorem vwhile (s : Bool) (d : Reg) (a : Reg) (b : Reg) (k : Reg) : Statement (.vwhile s d a b k) := fun hw => by
  refine decode_of_fields hw ?_
  change decodeFields (BitVec.ofBool s ++ 0x25#6 ++ d ++ a ++ b ++ k ++ 0x9#5) = _
  rw [Major.m25 (Layout.l21_x25_6 ..)]
  rw [decodeVCompare]
  rw [show BitVec.extractLsb' 0 4 _ = 9#4 from Layout.l21_x0_4 ..]
  change (if _ = _ then _ else _) = _
  rw [if_pos (by rw [show (0x00000010#32) = (0x0#1 ++ 0x0#6 ++ 0x0#5 ++ 0x0#5 ++ 0x0#5 ++ 0x0#5 ++ 0x10#5 : BitVec 32) by decide, Layout.l21_and]; simp)]
  change Except.ok (Instr.vwhile _ _ _ _ _) = _
  rw [Layout.l21_b31, Layout.l21_x20_5, Layout.l21_x15_5, Layout.l21_x10_5, Layout.l21_x5_5]

theorem vslideup (s : Bool) (d : Reg) (a : Reg) (b : Reg) (k : Reg) : Statement (.vslideup s d a b k) := fun hw => by
  refine decode_of_fields hw ?_
  change decodeFields (BitVec.ofBool s ++ 0x26#6 ++ d ++ a ++ b ++ k ++ 0x0#5) = _
  rw [Major.m26 (Layout.l21_x25_6 ..)]
  rw [decodeVPermute]
  rw [show BitVec.extractLsb' 0 4 _ = 0#4 from Layout.l21_x0_4 ..]
  change (if _ = _ then _ else _) = _
  rw [if_pos (by rw [show (0x00000010#32) = (0x0#1 ++ 0x0#6 ++ 0x0#5 ++ 0x0#5 ++ 0x0#5 ++ 0x0#5 ++ 0x10#5 : BitVec 32) by decide, Layout.l21_and]; simp)]
  change Except.ok (Instr.vslideup _ _ _ _ _) = _
  rw [Layout.l21_b31, Layout.l21_x20_5, Layout.l21_x15_5, Layout.l21_x10_5, Layout.l21_x5_5]

theorem vslidedn (s : Bool) (d : Reg) (a : Reg) (b : Reg) (k : Reg) : Statement (.vslidedn s d a b k) := fun hw => by
  refine decode_of_fields hw ?_
  change decodeFields (BitVec.ofBool s ++ 0x26#6 ++ d ++ a ++ b ++ k ++ 0x1#5) = _
  rw [Major.m26 (Layout.l21_x25_6 ..)]
  rw [decodeVPermute]
  rw [show BitVec.extractLsb' 0 4 _ = 1#4 from Layout.l21_x0_4 ..]
  change (if _ = _ then _ else _) = _
  rw [if_pos (by rw [show (0x00000010#32) = (0x0#1 ++ 0x0#6 ++ 0x0#5 ++ 0x0#5 ++ 0x0#5 ++ 0x0#5 ++ 0x10#5 : BitVec 32) by decide, Layout.l21_and]; simp)]
  change Except.ok (Instr.vslidedn _ _ _ _ _) = _
  rw [Layout.l21_b31, Layout.l21_x20_5, Layout.l21_x15_5, Layout.l21_x10_5, Layout.l21_x5_5]

theorem vgather (s : Bool) (d : Reg) (a : Reg) (b : Reg) (k : Reg) : Statement (.vgather s d a b k) := fun hw => by
  refine decode_of_fields hw ?_
  change decodeFields (BitVec.ofBool s ++ 0x26#6 ++ d ++ a ++ b ++ k ++ 0x2#5) = _
  rw [Major.m26 (Layout.l21_x25_6 ..)]
  rw [decodeVPermute]
  rw [show BitVec.extractLsb' 0 4 _ = 2#4 from Layout.l21_x0_4 ..]
  change (if _ = _ then _ else _) = _
  rw [if_pos (by rw [show (0x00000010#32) = (0x0#1 ++ 0x0#6 ++ 0x0#5 ++ 0x0#5 ++ 0x0#5 ++ 0x0#5 ++ 0x10#5 : BitVec 32) by decide, Layout.l21_and]; simp)]
  change Except.ok (Instr.vgather _ _ _ _ _) = _
  rw [Layout.l21_b31, Layout.l21_x20_5, Layout.l21_x15_5, Layout.l21_x10_5, Layout.l21_x5_5]

theorem vcompress (s : Bool) (d : Reg) (a : Reg) (k : Reg) : Statement (.vcompress s d a k) := fun hw => by
  refine decode_of_fields hw ?_
  change decodeFields (BitVec.ofBool s ++ 0x26#6 ++ d ++ a ++ 0x0#5 ++ k ++ 0x3#5) = _
  rw [Major.m26 (Layout.l21_x25_6 ..)]
  rw [decodeVPermute]
  rw [show BitVec.extractLsb' 0 4 _ = 3#4 from Layout.l21_x0_4 ..]
  change (if _ = _ then _ else _) = _
  rw [if_pos (by rw [show (0x00007C10#32) = (0x0#1 ++ 0x0#6 ++ 0x0#5 ++ 0x0#5 ++ 0x1F#5 ++ 0x0#5 ++ 0x10#5 : BitVec 32) by decide, Layout.l21_and]; simp)]
  change Except.ok (Instr.vcompress _ _ _ _) = _
  rw [Layout.l21_b31, Layout.l21_x20_5, Layout.l21_x15_5, Layout.l21_x5_5]

theorem vext (s : Bool) (d : Reg) (a : Reg) (b : Reg) : Statement (.vext s d a b) := fun hw => by
  refine decode_of_fields hw ?_
  change decodeFields (BitVec.ofBool s ++ 0x26#6 ++ d ++ a ++ b ++ 0x3E4#10) = _
  rw [Major.m26 (Layout.l1_x25_6 ..)]
  rw [decodeVPermute]
  rw [show BitVec.extractLsb' 0 4 _ = 4#4 from Layout.l1_x0_4 ..]
  change (if _ = _ then _ else _) = _
  rw [if_pos (by rw [show (0x000003F0#32) = (0x0#1 ++ 0x0#6 ++ 0x0#5 ++ 0x0#5 ++ 0x0#5 ++ 0x3F0#10 : BitVec 32) by decide, Layout.l1_and]; simp)]
  change Except.ok (Instr.vext _ _ _ _) = _
  rw [Layout.l1_b31, Layout.l1_x20_5, Layout.l1_x15_5, Layout.l1_x10_5]

theorem vins (s : Bool) (d : Reg) (a : Reg) (b : Reg) : Statement (.vins s d a b) := fun hw => by
  refine decode_of_fields hw ?_
  change decodeFields (BitVec.ofBool s ++ 0x26#6 ++ d ++ a ++ b ++ 0x3E5#10) = _
  rw [Major.m26 (Layout.l1_x25_6 ..)]
  rw [decodeVPermute]
  rw [show BitVec.extractLsb' 0 4 _ = 5#4 from Layout.l1_x0_4 ..]
  change (if _ = _ then _ else _) = _
  rw [if_pos (by rw [show (0x000003F0#32) = (0x0#1 ++ 0x0#6 ++ 0x0#5 ++ 0x0#5 ++ 0x0#5 ++ 0x3F0#10 : BitVec 32) by decide, Layout.l1_and]; simp)]
  change Except.ok (Instr.vins _ _ _ _) = _
  rw [Layout.l1_b31, Layout.l1_x20_5, Layout.l1_x15_5, Layout.l1_x10_5]

theorem vrev (s : Bool) (d : Reg) (a : Reg) (k : Reg) : Statement (.vrev s d a k) := fun hw => by
  refine decode_of_fields hw ?_
  change decodeFields (BitVec.ofBool s ++ 0x26#6 ++ d ++ a ++ 0x0#5 ++ k ++ 0x6#5) = _
  rw [Major.m26 (Layout.l21_x25_6 ..)]
  rw [decodeVPermute]
  rw [show BitVec.extractLsb' 0 4 _ = 6#4 from Layout.l21_x0_4 ..]
  change (if _ = _ then _ else _) = _
  rw [if_pos (by rw [show (0x00007C10#32) = (0x0#1 ++ 0x0#6 ++ 0x0#5 ++ 0x0#5 ++ 0x1F#5 ++ 0x0#5 ++ 0x10#5 : BitVec 32) by decide, Layout.l21_and]; simp)]
  change Except.ok (Instr.vrev _ _ _ _) = _
  rw [Layout.l21_b31, Layout.l21_x20_5, Layout.l21_x15_5, Layout.l21_x5_5]

theorem vredsum (s : Bool) (d : Reg) (a : Reg) (b : Reg) (k : Reg) : Statement (.vredsum s d a b k) := fun hw => by
  refine decode_of_fields hw ?_
  change decodeFields (BitVec.ofBool s ++ 0x27#6 ++ d ++ a ++ b ++ k ++ 0x0#5) = _
  rw [Major.m27 (Layout.l21_x25_6 ..)]
  rw [decodeVReduce]
  rw [show BitVec.extractLsb' 0 4 _ = 0#4 from Layout.l21_x0_4 ..]
  change (if _ = _ then _ else _) = _
  rw [if_pos (by rw [show (0x00000010#32) = (0x0#1 ++ 0x0#6 ++ 0x0#5 ++ 0x0#5 ++ 0x0#5 ++ 0x0#5 ++ 0x10#5 : BitVec 32) by decide, Layout.l21_and]; simp)]
  change Except.ok (Instr.vredsum _ _ _ _ _) = _
  rw [Layout.l21_b31, Layout.l21_x20_5, Layout.l21_x15_5, Layout.l21_x10_5, Layout.l21_x5_5]

theorem vredmin (s : Bool) (d : Reg) (a : Reg) (b : Reg) (k : Reg) : Statement (.vredmin s d a b k) := fun hw => by
  refine decode_of_fields hw ?_
  change decodeFields (BitVec.ofBool s ++ 0x27#6 ++ d ++ a ++ b ++ k ++ 0x1#5) = _
  rw [Major.m27 (Layout.l21_x25_6 ..)]
  rw [decodeVReduce]
  rw [show BitVec.extractLsb' 0 4 _ = 1#4 from Layout.l21_x0_4 ..]
  change (if _ = _ then _ else _) = _
  rw [if_pos (by rw [show (0x00000010#32) = (0x0#1 ++ 0x0#6 ++ 0x0#5 ++ 0x0#5 ++ 0x0#5 ++ 0x0#5 ++ 0x10#5 : BitVec 32) by decide, Layout.l21_and]; simp)]
  change Except.ok (Instr.vredmin _ _ _ _ _) = _
  rw [Layout.l21_b31, Layout.l21_x20_5, Layout.l21_x15_5, Layout.l21_x10_5, Layout.l21_x5_5]

theorem vredmax (s : Bool) (d : Reg) (a : Reg) (b : Reg) (k : Reg) : Statement (.vredmax s d a b k) := fun hw => by
  refine decode_of_fields hw ?_
  change decodeFields (BitVec.ofBool s ++ 0x27#6 ++ d ++ a ++ b ++ k ++ 0x2#5) = _
  rw [Major.m27 (Layout.l21_x25_6 ..)]
  rw [decodeVReduce]
  rw [show BitVec.extractLsb' 0 4 _ = 2#4 from Layout.l21_x0_4 ..]
  change (if _ = _ then _ else _) = _
  rw [if_pos (by rw [show (0x00000010#32) = (0x0#1 ++ 0x0#6 ++ 0x0#5 ++ 0x0#5 ++ 0x0#5 ++ 0x0#5 ++ 0x10#5 : BitVec 32) by decide, Layout.l21_and]; simp)]
  change Except.ok (Instr.vredmax _ _ _ _ _) = _
  rw [Layout.l21_b31, Layout.l21_x20_5, Layout.l21_x15_5, Layout.l21_x10_5, Layout.l21_x5_5]

theorem vredminu (s : Bool) (d : Reg) (a : Reg) (b : Reg) (k : Reg) : Statement (.vredminu s d a b k) := fun hw => by
  refine decode_of_fields hw ?_
  change decodeFields (BitVec.ofBool s ++ 0x27#6 ++ d ++ a ++ b ++ k ++ 0x3#5) = _
  rw [Major.m27 (Layout.l21_x25_6 ..)]
  rw [decodeVReduce]
  rw [show BitVec.extractLsb' 0 4 _ = 3#4 from Layout.l21_x0_4 ..]
  change (if _ = _ then _ else _) = _
  rw [if_pos (by rw [show (0x00000010#32) = (0x0#1 ++ 0x0#6 ++ 0x0#5 ++ 0x0#5 ++ 0x0#5 ++ 0x0#5 ++ 0x10#5 : BitVec 32) by decide, Layout.l21_and]; simp)]
  change Except.ok (Instr.vredminu _ _ _ _ _) = _
  rw [Layout.l21_b31, Layout.l21_x20_5, Layout.l21_x15_5, Layout.l21_x10_5, Layout.l21_x5_5]

theorem vredmaxu (s : Bool) (d : Reg) (a : Reg) (b : Reg) (k : Reg) : Statement (.vredmaxu s d a b k) := fun hw => by
  refine decode_of_fields hw ?_
  change decodeFields (BitVec.ofBool s ++ 0x27#6 ++ d ++ a ++ b ++ k ++ 0x4#5) = _
  rw [Major.m27 (Layout.l21_x25_6 ..)]
  rw [decodeVReduce]
  rw [show BitVec.extractLsb' 0 4 _ = 4#4 from Layout.l21_x0_4 ..]
  change (if _ = _ then _ else _) = _
  rw [if_pos (by rw [show (0x00000010#32) = (0x0#1 ++ 0x0#6 ++ 0x0#5 ++ 0x0#5 ++ 0x0#5 ++ 0x0#5 ++ 0x10#5 : BitVec 32) by decide, Layout.l21_and]; simp)]
  change Except.ok (Instr.vredmaxu _ _ _ _ _) = _
  rw [Layout.l21_b31, Layout.l21_x20_5, Layout.l21_x15_5, Layout.l21_x10_5, Layout.l21_x5_5]

theorem vfredsum (s : Bool) (d : Reg) (a : Reg) (b : Reg) (k : Reg) : Statement (.vfredsum s d a b k) := fun hw => by
  refine decode_of_fields hw ?_
  change decodeFields (BitVec.ofBool s ++ 0x27#6 ++ d ++ a ++ b ++ k ++ 0x5#5) = _
  rw [Major.m27 (Layout.l21_x25_6 ..)]
  rw [decodeVReduce]
  rw [show BitVec.extractLsb' 0 4 _ = 5#4 from Layout.l21_x0_4 ..]
  change (if _ = _ then _ else _) = _
  rw [if_pos (by rw [show (0x00000010#32) = (0x0#1 ++ 0x0#6 ++ 0x0#5 ++ 0x0#5 ++ 0x0#5 ++ 0x0#5 ++ 0x10#5 : BitVec 32) by decide, Layout.l21_and]; simp)]
  change Except.ok (Instr.vfredsum _ _ _ _ _) = _
  rw [Layout.l21_b31, Layout.l21_x20_5, Layout.l21_x15_5, Layout.l21_x10_5, Layout.l21_x5_5]

theorem vfredmin (s : Bool) (d : Reg) (a : Reg) (b : Reg) (k : Reg) : Statement (.vfredmin s d a b k) := fun hw => by
  refine decode_of_fields hw ?_
  change decodeFields (BitVec.ofBool s ++ 0x27#6 ++ d ++ a ++ b ++ k ++ 0x6#5) = _
  rw [Major.m27 (Layout.l21_x25_6 ..)]
  rw [decodeVReduce]
  rw [show BitVec.extractLsb' 0 4 _ = 6#4 from Layout.l21_x0_4 ..]
  change (if _ = _ then _ else _) = _
  rw [if_pos (by rw [show (0x00000010#32) = (0x0#1 ++ 0x0#6 ++ 0x0#5 ++ 0x0#5 ++ 0x0#5 ++ 0x0#5 ++ 0x10#5 : BitVec 32) by decide, Layout.l21_and]; simp)]
  change Except.ok (Instr.vfredmin _ _ _ _ _) = _
  rw [Layout.l21_b31, Layout.l21_x20_5, Layout.l21_x15_5, Layout.l21_x10_5, Layout.l21_x5_5]

theorem vfredmax (s : Bool) (d : Reg) (a : Reg) (b : Reg) (k : Reg) : Statement (.vfredmax s d a b k) := fun hw => by
  refine decode_of_fields hw ?_
  change decodeFields (BitVec.ofBool s ++ 0x27#6 ++ d ++ a ++ b ++ k ++ 0x7#5) = _
  rw [Major.m27 (Layout.l21_x25_6 ..)]
  rw [decodeVReduce]
  rw [show BitVec.extractLsb' 0 4 _ = 7#4 from Layout.l21_x0_4 ..]
  change (if _ = _ then _ else _) = _
  rw [if_pos (by rw [show (0x00000010#32) = (0x0#1 ++ 0x0#6 ++ 0x0#5 ++ 0x0#5 ++ 0x0#5 ++ 0x0#5 ++ 0x10#5 : BitVec 32) by decide, Layout.l21_and]; simp)]
  change Except.ok (Instr.vfredmax _ _ _ _ _) = _
  rw [Layout.l21_b31, Layout.l21_x20_5, Layout.l21_x15_5, Layout.l21_x10_5, Layout.l21_x5_5]

theorem vld (s : Bool) (d : Reg) (a : Reg) (k : Reg) : Statement (.vld s d a k) := fun hw => by
  refine decode_of_fields hw ?_
  change decodeFields (BitVec.ofBool s ++ 0x29#6 ++ d ++ a ++ 0x0#5 ++ k ++ 0x0#5) = _
  rw [Major.m29 (Layout.l21_x25_6 ..)]
  rw [decodeVLoad]
  rw [show BitVec.extractLsb' 0 4 _ = 0#4 from Layout.l21_x0_4 ..]
  change (if _ = _ then _ else _) = _
  rw [if_pos (by rw [show (0x00007C10#32) = (0x0#1 ++ 0x0#6 ++ 0x0#5 ++ 0x0#5 ++ 0x1F#5 ++ 0x0#5 ++ 0x10#5 : BitVec 32) by decide, Layout.l21_and]; simp)]
  change Except.ok (Instr.vld _ _ _ _) = _
  rw [Layout.l21_b31, Layout.l21_x20_5, Layout.l21_x15_5, Layout.l21_x5_5]

theorem vldOffset (s : Bool) (d : Reg) (a : Reg) (b : Reg) (k : Reg) : Statement (.vldOffset s d a b k) := fun hw => by
  refine decode_of_fields hw ?_
  change decodeFields (BitVec.ofBool s ++ 0x29#6 ++ d ++ a ++ b ++ k ++ 0x1#5) = _
  rw [Major.m29 (Layout.l21_x25_6 ..)]
  rw [decodeVLoad]
  rw [show BitVec.extractLsb' 0 4 _ = 1#4 from Layout.l21_x0_4 ..]
  change (if _ = _ then _ else _) = _
  rw [if_pos (by rw [show (0x00000010#32) = (0x0#1 ++ 0x0#6 ++ 0x0#5 ++ 0x0#5 ++ 0x0#5 ++ 0x0#5 ++ 0x10#5 : BitVec 32) by decide, Layout.l21_and]; simp)]
  change Except.ok (Instr.vldOffset _ _ _ _ _) = _
  rw [Layout.l21_b31, Layout.l21_x20_5, Layout.l21_x15_5, Layout.l21_x10_5, Layout.l21_x5_5]

theorem vlds (s : Bool) (d : Reg) (a : Reg) (b : Reg) (k : Reg) : Statement (.vlds s d a b k) := fun hw => by
  refine decode_of_fields hw ?_
  change decodeFields (BitVec.ofBool s ++ 0x29#6 ++ d ++ a ++ b ++ k ++ 0x2#5) = _
  rw [Major.m29 (Layout.l21_x25_6 ..)]
  rw [decodeVLoad]
  rw [show BitVec.extractLsb' 0 4 _ = 2#4 from Layout.l21_x0_4 ..]
  change (if _ = _ then _ else _) = _
  rw [if_pos (by rw [show (0x00000010#32) = (0x0#1 ++ 0x0#6 ++ 0x0#5 ++ 0x0#5 ++ 0x0#5 ++ 0x0#5 ++ 0x10#5 : BitVec 32) by decide, Layout.l21_and]; simp)]
  change Except.ok (Instr.vlds _ _ _ _ _) = _
  rw [Layout.l21_b31, Layout.l21_x20_5, Layout.l21_x15_5, Layout.l21_x10_5, Layout.l21_x5_5]

theorem vldx (s : Bool) (d : Reg) (a : Reg) (b : Reg) (k : Reg) : Statement (.vldx s d a b k) := fun hw => by
  refine decode_of_fields hw ?_
  change decodeFields (BitVec.ofBool s ++ 0x29#6 ++ d ++ a ++ b ++ k ++ 0x3#5) = _
  rw [Major.m29 (Layout.l21_x25_6 ..)]
  rw [decodeVLoad]
  rw [show BitVec.extractLsb' 0 4 _ = 3#4 from Layout.l21_x0_4 ..]
  change (if _ = _ then _ else _) = _
  rw [if_pos (by rw [show (0x00000010#32) = (0x0#1 ++ 0x0#6 ++ 0x0#5 ++ 0x0#5 ++ 0x0#5 ++ 0x0#5 ++ 0x10#5 : BitVec 32) by decide, Layout.l21_and]; simp)]
  change Except.ok (Instr.vldx _ _ _ _ _) = _
  rw [Layout.l21_b31, Layout.l21_x20_5, Layout.l21_x15_5, Layout.l21_x10_5, Layout.l21_x5_5]

theorem vldff (s : Bool) (d : Reg) (a : Reg) (k : Reg) : Statement (.vldff s d a k) := fun hw => by
  refine decode_of_fields hw ?_
  change decodeFields (BitVec.ofBool s ++ 0x29#6 ++ d ++ a ++ 0x0#5 ++ k ++ 0x4#5) = _
  rw [Major.m29 (Layout.l21_x25_6 ..)]
  rw [decodeVLoad]
  rw [show BitVec.extractLsb' 0 4 _ = 4#4 from Layout.l21_x0_4 ..]
  change (if _ = _ then _ else _) = _
  rw [if_pos (by rw [show (0x00007C10#32) = (0x0#1 ++ 0x0#6 ++ 0x0#5 ++ 0x0#5 ++ 0x1F#5 ++ 0x0#5 ++ 0x10#5 : BitVec 32) by decide, Layout.l21_and]; simp)]
  change Except.ok (Instr.vldff _ _ _ _) = _
  rw [Layout.l21_b31, Layout.l21_x20_5, Layout.l21_x15_5, Layout.l21_x5_5]

theorem vld2d (s : Bool) (d : Reg) (a : Reg) (k : Reg) : Statement (.vld2d s d a k) := fun hw => by
  refine decode_of_fields hw ?_
  change decodeFields (BitVec.ofBool s ++ 0x29#6 ++ d ++ a ++ 0x0#5 ++ k ++ 0x5#5) = _
  rw [Major.m29 (Layout.l21_x25_6 ..)]
  rw [decodeVLoad]
  rw [show BitVec.extractLsb' 0 4 _ = 5#4 from Layout.l21_x0_4 ..]
  change (if _ = _ then _ else _) = _
  rw [if_pos (by rw [show (0x00007C10#32) = (0x0#1 ++ 0x0#6 ++ 0x0#5 ++ 0x0#5 ++ 0x1F#5 ++ 0x0#5 ++ 0x10#5 : BitVec 32) by decide, Layout.l21_and]; simp)]
  change Except.ok (Instr.vld2d _ _ _ _) = _
  rw [Layout.l21_b31, Layout.l21_x20_5, Layout.l21_x15_5, Layout.l21_x5_5]

theorem vst (s : Bool) (d : Reg) (a : Reg) (k : Reg) : Statement (.vst s d a k) := fun hw => by
  refine decode_of_fields hw ?_
  change decodeFields (BitVec.ofBool s ++ 0x2A#6 ++ d ++ a ++ 0x0#5 ++ k ++ 0x0#5) = _
  rw [Major.m2A (Layout.l21_x25_6 ..)]
  rw [decodeVStore]
  rw [show BitVec.extractLsb' 0 4 _ = 0#4 from Layout.l21_x0_4 ..]
  change (if _ = _ then _ else _) = _
  rw [if_pos (by rw [show (0x00007C10#32) = (0x0#1 ++ 0x0#6 ++ 0x0#5 ++ 0x0#5 ++ 0x1F#5 ++ 0x0#5 ++ 0x10#5 : BitVec 32) by decide, Layout.l21_and]; simp)]
  change Except.ok (Instr.vst _ _ _ _) = _
  rw [Layout.l21_b31, Layout.l21_x20_5, Layout.l21_x15_5, Layout.l21_x5_5]

theorem vstOffset (s : Bool) (d : Reg) (a : Reg) (b : Reg) (k : Reg) : Statement (.vstOffset s d a b k) := fun hw => by
  refine decode_of_fields hw ?_
  change decodeFields (BitVec.ofBool s ++ 0x2A#6 ++ d ++ a ++ b ++ k ++ 0x1#5) = _
  rw [Major.m2A (Layout.l21_x25_6 ..)]
  rw [decodeVStore]
  rw [show BitVec.extractLsb' 0 4 _ = 1#4 from Layout.l21_x0_4 ..]
  change (if _ = _ then _ else _) = _
  rw [if_pos (by rw [show (0x00000010#32) = (0x0#1 ++ 0x0#6 ++ 0x0#5 ++ 0x0#5 ++ 0x0#5 ++ 0x0#5 ++ 0x10#5 : BitVec 32) by decide, Layout.l21_and]; simp)]
  change Except.ok (Instr.vstOffset _ _ _ _ _) = _
  rw [Layout.l21_b31, Layout.l21_x20_5, Layout.l21_x15_5, Layout.l21_x10_5, Layout.l21_x5_5]

theorem vsts (s : Bool) (d : Reg) (a : Reg) (b : Reg) (k : Reg) : Statement (.vsts s d a b k) := fun hw => by
  refine decode_of_fields hw ?_
  change decodeFields (BitVec.ofBool s ++ 0x2A#6 ++ d ++ a ++ b ++ k ++ 0x2#5) = _
  rw [Major.m2A (Layout.l21_x25_6 ..)]
  rw [decodeVStore]
  rw [show BitVec.extractLsb' 0 4 _ = 2#4 from Layout.l21_x0_4 ..]
  change (if _ = _ then _ else _) = _
  rw [if_pos (by rw [show (0x00000010#32) = (0x0#1 ++ 0x0#6 ++ 0x0#5 ++ 0x0#5 ++ 0x0#5 ++ 0x0#5 ++ 0x10#5 : BitVec 32) by decide, Layout.l21_and]; simp)]
  change Except.ok (Instr.vsts _ _ _ _ _) = _
  rw [Layout.l21_b31, Layout.l21_x20_5, Layout.l21_x15_5, Layout.l21_x10_5, Layout.l21_x5_5]

theorem vstx (s : Bool) (d : Reg) (a : Reg) (b : Reg) (k : Reg) : Statement (.vstx s d a b k) := fun hw => by
  refine decode_of_fields hw ?_
  change decodeFields (BitVec.ofBool s ++ 0x2A#6 ++ d ++ a ++ b ++ k ++ 0x3#5) = _
  rw [Major.m2A (Layout.l21_x25_6 ..)]
  rw [decodeVStore]
  rw [show BitVec.extractLsb' 0 4 _ = 3#4 from Layout.l21_x0_4 ..]
  change (if _ = _ then _ else _) = _
  rw [if_pos (by rw [show (0x00000010#32) = (0x0#1 ++ 0x0#6 ++ 0x0#5 ++ 0x0#5 ++ 0x0#5 ++ 0x0#5 ++ 0x10#5 : BitVec 32) by decide, Layout.l21_and]; simp)]
  change Except.ok (Instr.vstx _ _ _ _ _) = _
  rw [Layout.l21_b31, Layout.l21_x20_5, Layout.l21_x15_5, Layout.l21_x10_5, Layout.l21_x5_5]

theorem vst2d (s : Bool) (d : Reg) (a : Reg) (k : Reg) : Statement (.vst2d s d a k) := fun hw => by
  refine decode_of_fields hw ?_
  change decodeFields (BitVec.ofBool s ++ 0x2A#6 ++ d ++ a ++ 0x0#5 ++ k ++ 0x5#5) = _
  rw [Major.m2A (Layout.l21_x25_6 ..)]
  rw [decodeVStore]
  rw [show BitVec.extractLsb' 0 4 _ = 5#4 from Layout.l21_x0_4 ..]
  change (if _ = _ then _ else _) = _
  rw [if_pos (by rw [show (0x00007C10#32) = (0x0#1 ++ 0x0#6 ++ 0x0#5 ++ 0x0#5 ++ 0x1F#5 ++ 0x0#5 ++ 0x10#5 : BitVec 32) by decide, Layout.l21_and]; simp)]
  change Except.ok (Instr.vst2d _ _ _ _) = _
  rw [Layout.l21_b31, Layout.l21_x20_5, Layout.l21_x15_5, Layout.l21_x5_5]

theorem vamoadd (s : Bool) (d : Reg) (a : Reg) (b : Reg) (k : Reg) : Statement (.vamoadd s d a b k) := fun hw => by
  refine decode_of_fields hw ?_
  change decodeFields (BitVec.ofBool s ++ 0x2B#6 ++ d ++ a ++ b ++ k ++ 0x0#5) = _
  rw [Major.m2B (Layout.l21_x25_6 ..)]
  rw [decodeLaneAtomic]
  rw [show BitVec.extractLsb' 0 4 _ = 0#4 from Layout.l21_x0_4 ..]
  change (if _ = _ then _ else _) = _
  rw [if_pos (by rw [show (0x00000010#32) = (0x0#1 ++ 0x0#6 ++ 0x0#5 ++ 0x0#5 ++ 0x0#5 ++ 0x0#5 ++ 0x10#5 : BitVec 32) by decide, Layout.l21_and]; simp)]
  change Except.ok (Instr.vamoadd _ _ _ _ _) = _
  rw [Layout.l21_b31, Layout.l21_x20_5, Layout.l21_x15_5, Layout.l21_x10_5, Layout.l21_x5_5]

theorem vamoswap (s : Bool) (d : Reg) (a : Reg) (b : Reg) (k : Reg) : Statement (.vamoswap s d a b k) := fun hw => by
  refine decode_of_fields hw ?_
  change decodeFields (BitVec.ofBool s ++ 0x2B#6 ++ d ++ a ++ b ++ k ++ 0x1#5) = _
  rw [Major.m2B (Layout.l21_x25_6 ..)]
  rw [decodeLaneAtomic]
  rw [show BitVec.extractLsb' 0 4 _ = 1#4 from Layout.l21_x0_4 ..]
  change (if _ = _ then _ else _) = _
  rw [if_pos (by rw [show (0x00000010#32) = (0x0#1 ++ 0x0#6 ++ 0x0#5 ++ 0x0#5 ++ 0x0#5 ++ 0x0#5 ++ 0x10#5 : BitVec 32) by decide, Layout.l21_and]; simp)]
  change Except.ok (Instr.vamoswap _ _ _ _ _) = _
  rw [Layout.l21_b31, Layout.l21_x20_5, Layout.l21_x15_5, Layout.l21_x10_5, Layout.l21_x5_5]

theorem vamomin (s : Bool) (d : Reg) (a : Reg) (b : Reg) (k : Reg) : Statement (.vamomin s d a b k) := fun hw => by
  refine decode_of_fields hw ?_
  change decodeFields (BitVec.ofBool s ++ 0x2B#6 ++ d ++ a ++ b ++ k ++ 0x2#5) = _
  rw [Major.m2B (Layout.l21_x25_6 ..)]
  rw [decodeLaneAtomic]
  rw [show BitVec.extractLsb' 0 4 _ = 2#4 from Layout.l21_x0_4 ..]
  change (if _ = _ then _ else _) = _
  rw [if_pos (by rw [show (0x00000010#32) = (0x0#1 ++ 0x0#6 ++ 0x0#5 ++ 0x0#5 ++ 0x0#5 ++ 0x0#5 ++ 0x10#5 : BitVec 32) by decide, Layout.l21_and]; simp)]
  change Except.ok (Instr.vamomin _ _ _ _ _) = _
  rw [Layout.l21_b31, Layout.l21_x20_5, Layout.l21_x15_5, Layout.l21_x10_5, Layout.l21_x5_5]

theorem vamomax (s : Bool) (d : Reg) (a : Reg) (b : Reg) (k : Reg) : Statement (.vamomax s d a b k) := fun hw => by
  refine decode_of_fields hw ?_
  change decodeFields (BitVec.ofBool s ++ 0x2B#6 ++ d ++ a ++ b ++ k ++ 0x3#5) = _
  rw [Major.m2B (Layout.l21_x25_6 ..)]
  rw [decodeLaneAtomic]
  rw [show BitVec.extractLsb' 0 4 _ = 3#4 from Layout.l21_x0_4 ..]
  change (if _ = _ then _ else _) = _
  rw [if_pos (by rw [show (0x00000010#32) = (0x0#1 ++ 0x0#6 ++ 0x0#5 ++ 0x0#5 ++ 0x0#5 ++ 0x0#5 ++ 0x10#5 : BitVec 32) by decide, Layout.l21_and]; simp)]
  change Except.ok (Instr.vamomax _ _ _ _ _) = _
  rw [Layout.l21_b31, Layout.l21_x20_5, Layout.l21_x15_5, Layout.l21_x10_5, Layout.l21_x5_5]

theorem vamominu (s : Bool) (d : Reg) (a : Reg) (b : Reg) (k : Reg) : Statement (.vamominu s d a b k) := fun hw => by
  refine decode_of_fields hw ?_
  change decodeFields (BitVec.ofBool s ++ 0x2B#6 ++ d ++ a ++ b ++ k ++ 0x4#5) = _
  rw [Major.m2B (Layout.l21_x25_6 ..)]
  rw [decodeLaneAtomic]
  rw [show BitVec.extractLsb' 0 4 _ = 4#4 from Layout.l21_x0_4 ..]
  change (if _ = _ then _ else _) = _
  rw [if_pos (by rw [show (0x00000010#32) = (0x0#1 ++ 0x0#6 ++ 0x0#5 ++ 0x0#5 ++ 0x0#5 ++ 0x0#5 ++ 0x10#5 : BitVec 32) by decide, Layout.l21_and]; simp)]
  change Except.ok (Instr.vamominu _ _ _ _ _) = _
  rw [Layout.l21_b31, Layout.l21_x20_5, Layout.l21_x15_5, Layout.l21_x10_5, Layout.l21_x5_5]

theorem vamomaxu (s : Bool) (d : Reg) (a : Reg) (b : Reg) (k : Reg) : Statement (.vamomaxu s d a b k) := fun hw => by
  refine decode_of_fields hw ?_
  change decodeFields (BitVec.ofBool s ++ 0x2B#6 ++ d ++ a ++ b ++ k ++ 0x5#5) = _
  rw [Major.m2B (Layout.l21_x25_6 ..)]
  rw [decodeLaneAtomic]
  rw [show BitVec.extractLsb' 0 4 _ = 5#4 from Layout.l21_x0_4 ..]
  change (if _ = _ then _ else _) = _
  rw [if_pos (by rw [show (0x00000010#32) = (0x0#1 ++ 0x0#6 ++ 0x0#5 ++ 0x0#5 ++ 0x0#5 ++ 0x0#5 ++ 0x10#5 : BitVec 32) by decide, Layout.l21_and]; simp)]
  change Except.ok (Instr.vamomaxu _ _ _ _ _) = _
  rw [Layout.l21_b31, Layout.l21_x20_5, Layout.l21_x15_5, Layout.l21_x10_5, Layout.l21_x5_5]

theorem vamoand (s : Bool) (d : Reg) (a : Reg) (b : Reg) (k : Reg) : Statement (.vamoand s d a b k) := fun hw => by
  refine decode_of_fields hw ?_
  change decodeFields (BitVec.ofBool s ++ 0x2B#6 ++ d ++ a ++ b ++ k ++ 0x6#5) = _
  rw [Major.m2B (Layout.l21_x25_6 ..)]
  rw [decodeLaneAtomic]
  rw [show BitVec.extractLsb' 0 4 _ = 6#4 from Layout.l21_x0_4 ..]
  change (if _ = _ then _ else _) = _
  rw [if_pos (by rw [show (0x00000010#32) = (0x0#1 ++ 0x0#6 ++ 0x0#5 ++ 0x0#5 ++ 0x0#5 ++ 0x0#5 ++ 0x10#5 : BitVec 32) by decide, Layout.l21_and]; simp)]
  change Except.ok (Instr.vamoand _ _ _ _ _) = _
  rw [Layout.l21_b31, Layout.l21_x20_5, Layout.l21_x15_5, Layout.l21_x10_5, Layout.l21_x5_5]

theorem vamoor (s : Bool) (d : Reg) (a : Reg) (b : Reg) (k : Reg) : Statement (.vamoor s d a b k) := fun hw => by
  refine decode_of_fields hw ?_
  change decodeFields (BitVec.ofBool s ++ 0x2B#6 ++ d ++ a ++ b ++ k ++ 0x7#5) = _
  rw [Major.m2B (Layout.l21_x25_6 ..)]
  rw [decodeLaneAtomic]
  rw [show BitVec.extractLsb' 0 4 _ = 7#4 from Layout.l21_x0_4 ..]
  change (if _ = _ then _ else _) = _
  rw [if_pos (by rw [show (0x00000010#32) = (0x0#1 ++ 0x0#6 ++ 0x0#5 ++ 0x0#5 ++ 0x0#5 ++ 0x0#5 ++ 0x10#5 : BitVec 32) by decide, Layout.l21_and]; simp)]
  change Except.ok (Instr.vamoor _ _ _ _ _) = _
  rw [Layout.l21_b31, Layout.l21_x20_5, Layout.l21_x15_5, Layout.l21_x10_5, Layout.l21_x5_5]

theorem vamoxor (s : Bool) (d : Reg) (a : Reg) (b : Reg) (k : Reg) : Statement (.vamoxor s d a b k) := fun hw => by
  refine decode_of_fields hw ?_
  change decodeFields (BitVec.ofBool s ++ 0x2B#6 ++ d ++ a ++ b ++ k ++ 0x8#5) = _
  rw [Major.m2B (Layout.l21_x25_6 ..)]
  rw [decodeLaneAtomic]
  rw [show BitVec.extractLsb' 0 4 _ = 8#4 from Layout.l21_x0_4 ..]
  change (if _ = _ then _ else _) = _
  rw [if_pos (by rw [show (0x00000010#32) = (0x0#1 ++ 0x0#6 ++ 0x0#5 ++ 0x0#5 ++ 0x0#5 ++ 0x0#5 ++ 0x10#5 : BitVec 32) by decide, Layout.l21_and]; simp)]
  change Except.ok (Instr.vamoxor _ _ _ _ _) = _
  rw [Layout.l21_b31, Layout.l21_x20_5, Layout.l21_x15_5, Layout.l21_x10_5, Layout.l21_x5_5]

theorem vamofadd (s : Bool) (d : Reg) (a : Reg) (b : Reg) (k : Reg) : Statement (.vamofadd s d a b k) := fun hw => by
  refine decode_of_fields hw ?_
  change decodeFields (BitVec.ofBool s ++ 0x2B#6 ++ d ++ a ++ b ++ k ++ 0x9#5) = _
  rw [Major.m2B (Layout.l21_x25_6 ..)]
  rw [decodeLaneAtomic]
  rw [show BitVec.extractLsb' 0 4 _ = 9#4 from Layout.l21_x0_4 ..]
  change (if _ = _ then _ else _) = _
  rw [if_pos (by rw [show (0x00000010#32) = (0x0#1 ++ 0x0#6 ++ 0x0#5 ++ 0x0#5 ++ 0x0#5 ++ 0x0#5 ++ 0x10#5 : BitVec 32) by decide, Layout.l21_and]; simp)]
  change Except.ok (Instr.vamofadd _ _ _ _ _) = _
  rw [Layout.l21_b31, Layout.l21_x20_5, Layout.l21_x15_5, Layout.l21_x10_5, Layout.l21_x5_5]

theorem vorient2 (s : Bool) (d : Reg) (a : Reg) (k : Reg) (x : Bool) : Statement (.vorient2 s d a k x) := fun hw => by
  refine decode_of_fields hw ?_
  change decodeFields (BitVec.ofBool s ++ 0x2D#6 ++ d ++ a ++ 0x0#5 ++ k ++ BitVec.ofBool x ++ 0x0#4) = _
  rw [Major.m2D (Layout.l22_x25_6 ..)]
  rw [decodeGeom]
  rw [show BitVec.extractLsb' 0 4 _ = 0#4 from Layout.l22_x0_4 ..]
  change (if _ = _ then _ else _) = _
  rw [if_pos (by rw [show (0x00007C00#32) = (0x0#1 ++ 0x0#6 ++ 0x0#5 ++ 0x0#5 ++ 0x1F#5 ++ 0x0#5 ++ 0x0#1 ++ 0x0#4 : BitVec 32) by decide, Layout.l22_and]; simp)]
  change Except.ok (Instr.vorient2 _ _ _ _ _) = _
  rw [Layout.l22_b31, Layout.l22_x20_5, Layout.l22_x15_5, Layout.l22_x5_5, Layout.l22_b4]

theorem vorient3 (s : Bool) (d : Reg) (a : Reg) (k : Reg) (x : Bool) : Statement (.vorient3 s d a k x) := fun hw => by
  refine decode_of_fields hw ?_
  change decodeFields (BitVec.ofBool s ++ 0x2D#6 ++ d ++ a ++ 0x0#5 ++ k ++ BitVec.ofBool x ++ 0x1#4) = _
  rw [Major.m2D (Layout.l22_x25_6 ..)]
  rw [decodeGeom]
  rw [show BitVec.extractLsb' 0 4 _ = 1#4 from Layout.l22_x0_4 ..]
  change (if _ = _ then _ else _) = _
  rw [if_pos (by rw [show (0x00007C00#32) = (0x0#1 ++ 0x0#6 ++ 0x0#5 ++ 0x0#5 ++ 0x1F#5 ++ 0x0#5 ++ 0x0#1 ++ 0x0#4 : BitVec 32) by decide, Layout.l22_and]; simp)]
  change Except.ok (Instr.vorient3 _ _ _ _ _) = _
  rw [Layout.l22_b31, Layout.l22_x20_5, Layout.l22_x15_5, Layout.l22_x5_5, Layout.l22_b4]

theorem vincirc (s : Bool) (d : Reg) (a : Reg) (k : Reg) (x : Bool) : Statement (.vincirc s d a k x) := fun hw => by
  refine decode_of_fields hw ?_
  change decodeFields (BitVec.ofBool s ++ 0x2D#6 ++ d ++ a ++ 0x0#5 ++ k ++ BitVec.ofBool x ++ 0x2#4) = _
  rw [Major.m2D (Layout.l22_x25_6 ..)]
  rw [decodeGeom]
  rw [show BitVec.extractLsb' 0 4 _ = 2#4 from Layout.l22_x0_4 ..]
  change (if _ = _ then _ else _) = _
  rw [if_pos (by rw [show (0x00007C00#32) = (0x0#1 ++ 0x0#6 ++ 0x0#5 ++ 0x0#5 ++ 0x1F#5 ++ 0x0#5 ++ 0x0#1 ++ 0x0#4 : BitVec 32) by decide, Layout.l22_and]; simp)]
  change Except.ok (Instr.vincirc _ _ _ _ _) = _
  rw [Layout.l22_b31, Layout.l22_x20_5, Layout.l22_x15_5, Layout.l22_x5_5, Layout.l22_b4]

theorem vinsph (s : Bool) (d : Reg) (a : Reg) (k : Reg) (x : Bool) : Statement (.vinsph s d a k x) := fun hw => by
  refine decode_of_fields hw ?_
  change decodeFields (BitVec.ofBool s ++ 0x2D#6 ++ d ++ a ++ 0x0#5 ++ k ++ BitVec.ofBool x ++ 0x3#4) = _
  rw [Major.m2D (Layout.l22_x25_6 ..)]
  rw [decodeGeom]
  rw [show BitVec.extractLsb' 0 4 _ = 3#4 from Layout.l22_x0_4 ..]
  change (if _ = _ then _ else _) = _
  rw [if_pos (by rw [show (0x00007C00#32) = (0x0#1 ++ 0x0#6 ++ 0x0#5 ++ 0x0#5 ++ 0x1F#5 ++ 0x0#5 ++ 0x0#1 ++ 0x0#4 : BitVec 32) by decide, Layout.l22_and]; simp)]
  change Except.ok (Instr.vinsph _ _ _ _ _) = _
  rw [Layout.l22_b31, Layout.l22_x20_5, Layout.l22_x15_5, Layout.l22_x5_5, Layout.l22_b4]

theorem vsegx (s : Bool) (d : Reg) (a : Reg) (k : Reg) (x : Bool) : Statement (.vsegx s d a k x) := fun hw => by
  refine decode_of_fields hw ?_
  change decodeFields (BitVec.ofBool s ++ 0x2D#6 ++ d ++ a ++ 0x0#5 ++ k ++ BitVec.ofBool x ++ 0x4#4) = _
  rw [Major.m2D (Layout.l22_x25_6 ..)]
  rw [decodeGeom]
  rw [show BitVec.extractLsb' 0 4 _ = 4#4 from Layout.l22_x0_4 ..]
  change (if _ = _ then _ else _) = _
  rw [if_pos (by rw [show (0x00007C00#32) = (0x0#1 ++ 0x0#6 ++ 0x0#5 ++ 0x0#5 ++ 0x1F#5 ++ 0x0#5 ++ 0x0#1 ++ 0x0#4 : BitVec 32) by decide, Layout.l22_and]; simp)]
  change Except.ok (Instr.vsegx _ _ _ _ _) = _
  rw [Layout.l22_b31, Layout.l22_x20_5, Layout.l22_x15_5, Layout.l22_x5_5, Layout.l22_b4]

theorem vorient2t (s : Bool) (d : Reg) (a : Reg) (k : Reg) (x : Bool) : Statement (.vorient2t s d a k x) := fun hw => by
  refine decode_of_fields hw ?_
  change decodeFields (BitVec.ofBool s ++ 0x2D#6 ++ d ++ a ++ 0x0#5 ++ k ++ BitVec.ofBool x ++ 0x8#4) = _
  rw [Major.m2D (Layout.l22_x25_6 ..)]
  rw [decodeGeom]
  rw [show BitVec.extractLsb' 0 4 _ = 8#4 from Layout.l22_x0_4 ..]
  change (if _ = _ then _ else _) = _
  rw [if_pos (by rw [show (0x00007C00#32) = (0x0#1 ++ 0x0#6 ++ 0x0#5 ++ 0x0#5 ++ 0x1F#5 ++ 0x0#5 ++ 0x0#1 ++ 0x0#4 : BitVec 32) by decide, Layout.l22_and]; simp)]
  change Except.ok (Instr.vorient2t _ _ _ _ _) = _
  rw [Layout.l22_b31, Layout.l22_x20_5, Layout.l22_x15_5, Layout.l22_x5_5, Layout.l22_b4]

theorem vorient3t (s : Bool) (d : Reg) (a : Reg) (k : Reg) (x : Bool) : Statement (.vorient3t s d a k x) := fun hw => by
  refine decode_of_fields hw ?_
  change decodeFields (BitVec.ofBool s ++ 0x2D#6 ++ d ++ a ++ 0x0#5 ++ k ++ BitVec.ofBool x ++ 0x9#4) = _
  rw [Major.m2D (Layout.l22_x25_6 ..)]
  rw [decodeGeom]
  rw [show BitVec.extractLsb' 0 4 _ = 9#4 from Layout.l22_x0_4 ..]
  change (if _ = _ then _ else _) = _
  rw [if_pos (by rw [show (0x00007C00#32) = (0x0#1 ++ 0x0#6 ++ 0x0#5 ++ 0x0#5 ++ 0x1F#5 ++ 0x0#5 ++ 0x0#1 ++ 0x0#4 : BitVec 32) by decide, Layout.l22_and]; simp)]
  change Except.ok (Instr.vorient3t _ _ _ _ _) = _
  rw [Layout.l22_b31, Layout.l22_x20_5, Layout.l22_x15_5, Layout.l22_x5_5, Layout.l22_b4]

theorem vincirct (s : Bool) (d : Reg) (a : Reg) (k : Reg) (x : Bool) : Statement (.vincirct s d a k x) := fun hw => by
  refine decode_of_fields hw ?_
  change decodeFields (BitVec.ofBool s ++ 0x2D#6 ++ d ++ a ++ 0x0#5 ++ k ++ BitVec.ofBool x ++ 0xA#4) = _
  rw [Major.m2D (Layout.l22_x25_6 ..)]
  rw [decodeGeom]
  rw [show BitVec.extractLsb' 0 4 _ = 10#4 from Layout.l22_x0_4 ..]
  change (if _ = _ then _ else _) = _
  rw [if_pos (by rw [show (0x00007C00#32) = (0x0#1 ++ 0x0#6 ++ 0x0#5 ++ 0x0#5 ++ 0x1F#5 ++ 0x0#5 ++ 0x0#1 ++ 0x0#4 : BitVec 32) by decide, Layout.l22_and]; simp)]
  change Except.ok (Instr.vincirct _ _ _ _ _) = _
  rw [Layout.l22_b31, Layout.l22_x20_5, Layout.l22_x15_5, Layout.l22_x5_5, Layout.l22_b4]

theorem vinspht (s : Bool) (d : Reg) (a : Reg) (k : Reg) (x : Bool) : Statement (.vinspht s d a k x) := fun hw => by
  refine decode_of_fields hw ?_
  change decodeFields (BitVec.ofBool s ++ 0x2D#6 ++ d ++ a ++ 0x0#5 ++ k ++ BitVec.ofBool x ++ 0xB#4) = _
  rw [Major.m2D (Layout.l22_x25_6 ..)]
  rw [decodeGeom]
  rw [show BitVec.extractLsb' 0 4 _ = 11#4 from Layout.l22_x0_4 ..]
  change (if _ = _ then _ else _) = _
  rw [if_pos (by rw [show (0x00007C00#32) = (0x0#1 ++ 0x0#6 ++ 0x0#5 ++ 0x0#5 ++ 0x1F#5 ++ 0x0#5 ++ 0x0#1 ++ 0x0#4 : BitVec 32) by decide, Layout.l22_and]; simp)]
  change Except.ok (Instr.vinspht _ _ _ _ _) = _
  rw [Layout.l22_b31, Layout.l22_x20_5, Layout.l22_x15_5, Layout.l22_x5_5, Layout.l22_b4]

theorem escalationSettle (slot : Nat) : Statement (.escalationSettle slot) := fun h => Bool.noConfusion h

theorem tcfg (s : Bool) (t : BitVec 3) (x : Reg) : Statement (.tcfg s t x) := fun hw => by
  refine decode_of_fields hw ?_
  change decodeFields (BitVec.ofBool s ++ 0x30#6 ++ t ++ 0x0#6 ++ x ++ 0x0#11) = _
  rw [Major.m30 (Layout.l24_x25_6 ..)]
  rw [decodeTileControl]
  rw [show BitVec.extractLsb' 6 5 _ = 0#5 from Layout.l24_x6_5 ..]
  change (if _ = _ then _ else _) = _
  rw [if_pos (by rw [show (0x003F003F#32) = (0x0#1 ++ 0x0#6 ++ 0x0#3 ++ 0x3F#6 ++ 0x0#5 ++ 0x3F#11 : BitVec 32) by decide, Layout.l24_and]; simp)]
  change Except.ok (Instr.tcfg _ _ _) = _
  rw [Layout.l24_b31, Layout.l24_x22_3, Layout.l24_x11_5]

theorem acfg (s : Bool) (t : BitVec 3) (x : Reg) : Statement (.acfg s t x) := fun hw => by
  refine decode_of_fields hw ?_
  change decodeFields (BitVec.ofBool s ++ 0x30#6 ++ t ++ 0x0#6 ++ x ++ 0x40#11) = _
  rw [Major.m30 (Layout.l24_x25_6 ..)]
  rw [decodeTileControl]
  rw [show BitVec.extractLsb' 6 5 _ = 1#5 from Layout.l24_x6_5 ..]
  change (if _ = _ then _ else _) = _
  rw [if_pos (by rw [show (0x003F003F#32) = (0x0#1 ++ 0x0#6 ++ 0x0#3 ++ 0x3F#6 ++ 0x0#5 ++ 0x3F#11 : BitVec 32) by decide, Layout.l24_and]; simp)]
  change Except.ok (Instr.acfg _ _ _) = _
  rw [Layout.l24_b31, Layout.l24_x22_3, Layout.l24_x11_5]

theorem tzero (s : Bool) (t : BitVec 3) : Statement (.tzero s t) := fun hw => by
  refine decode_of_fields hw ?_
  change decodeFields (BitVec.ofBool s ++ 0x30#6 ++ t ++ 0x80#22) = _
  rw [Major.m30 (Layout.l25_x25_6 ..)]
  rw [decodeTileControl]
  rw [show BitVec.extractLsb' 6 5 _ = 2#5 from Layout.l25_x6_5 ..]
  change (if _ = _ then _ else _) = _
  rw [if_pos (by rw [show (0x003FF83F#32) = (0x0#1 ++ 0x0#6 ++ 0x0#3 ++ 0x3FF83F#22 : BitVec 32) by decide, Layout.l25_and]; simp)]
  change Except.ok (Instr.tzero _ _) = _
  rw [Layout.l25_b31, Layout.l25_x22_3]

theorem azero (s : Bool) (t : BitVec 3) : Statement (.azero s t) := fun hw => by
  refine decode_of_fields hw ?_
  change decodeFields (BitVec.ofBool s ++ 0x30#6 ++ t ++ 0xC0#22) = _
  rw [Major.m30 (Layout.l25_x25_6 ..)]
  rw [decodeTileControl]
  rw [show BitVec.extractLsb' 6 5 _ = 3#5 from Layout.l25_x6_5 ..]
  change (if _ = _ then _ else _) = _
  rw [if_pos (by rw [show (0x003FF83F#32) = (0x0#1 ++ 0x0#6 ++ 0x0#3 ++ 0x3FF83F#22 : BitVec 32) by decide, Layout.l25_and]; simp)]
  change Except.ok (Instr.azero _ _) = _
  rw [Layout.l25_b31, Layout.l25_x22_3]

theorem tgetr (s : Bool) (t : BitVec 3) (x : Reg) (r : BitVec 6) : Statement (.tgetr s t x r) := fun hw => by
  refine decode_of_fields hw ?_
  change decodeFields (BitVec.ofBool s ++ 0x30#6 ++ t ++ 0x0#6 ++ x ++ 0x4#5 ++ r) = _
  rw [Major.m30 (Layout.l26_x25_6 ..)]
  rw [decodeTileControl]
  rw [show BitVec.extractLsb' 6 5 _ = 4#5 from Layout.l26_x6_5 ..]
  change (if _ = _ then _ else _) = _
  rw [if_pos (by rw [show (0x003F0000#32) = (0x0#1 ++ 0x0#6 ++ 0x0#3 ++ 0x3F#6 ++ 0x0#5 ++ 0x0#5 ++ 0x0#6 : BitVec 32) by decide, Layout.l26_and]; simp)]
  change Except.ok (Instr.tgetr _ _ _ _) = _
  rw [Layout.l26_b31, Layout.l26_x22_3, Layout.l26_x11_5, Layout.l26_x0_6]

theorem tsetr (s : Bool) (t : BitVec 3) (x : Reg) (r : BitVec 6) : Statement (.tsetr s t x r) := fun hw => by
  refine decode_of_fields hw ?_
  change decodeFields (BitVec.ofBool s ++ 0x30#6 ++ t ++ 0x0#6 ++ x ++ 0x5#5 ++ r) = _
  rw [Major.m30 (Layout.l26_x25_6 ..)]
  rw [decodeTileControl]
  rw [show BitVec.extractLsb' 6 5 _ = 5#5 from Layout.l26_x6_5 ..]
  change (if _ = _ then _ else _) = _
  rw [if_pos (by rw [show (0x003F0000#32) = (0x0#1 ++ 0x0#6 ++ 0x0#3 ++ 0x3F#6 ++ 0x0#5 ++ 0x0#5 ++ 0x0#6 : BitVec 32) by decide, Layout.l26_and]; simp)]
  change Except.ok (Instr.tsetr _ _ _ _) = _
  rw [Layout.l26_b31, Layout.l26_x22_3, Layout.l26_x11_5, Layout.l26_x0_6]

theorem agetr (s : Bool) (t : BitVec 3) (x : Reg) (r : BitVec 6) : Statement (.agetr s t x r) := fun hw => by
  refine decode_of_fields hw ?_
  change decodeFields (BitVec.ofBool s ++ 0x30#6 ++ t ++ 0x0#6 ++ x ++ 0x6#5 ++ r) = _
  rw [Major.m30 (Layout.l26_x25_6 ..)]
  rw [decodeTileControl]
  rw [show BitVec.extractLsb' 6 5 _ = 6#5 from Layout.l26_x6_5 ..]
  change (if _ = _ then _ else _) = _
  rw [if_pos (by rw [show (0x003F0000#32) = (0x0#1 ++ 0x0#6 ++ 0x0#3 ++ 0x3F#6 ++ 0x0#5 ++ 0x0#5 ++ 0x0#6 : BitVec 32) by decide, Layout.l26_and]; simp)]
  change Except.ok (Instr.agetr _ _ _ _) = _
  rw [Layout.l26_b31, Layout.l26_x22_3, Layout.l26_x11_5, Layout.l26_x0_6]

theorem asetr (s : Bool) (t : BitVec 3) (x : Reg) (r : BitVec 6) : Statement (.asetr s t x r) := fun hw => by
  refine decode_of_fields hw ?_
  change decodeFields (BitVec.ofBool s ++ 0x30#6 ++ t ++ 0x0#6 ++ x ++ 0x7#5 ++ r) = _
  rw [Major.m30 (Layout.l26_x25_6 ..)]
  rw [decodeTileControl]
  rw [show BitVec.extractLsb' 6 5 _ = 7#5 from Layout.l26_x6_5 ..]
  change (if _ = _ then _ else _) = _
  rw [if_pos (by rw [show (0x003F0000#32) = (0x0#1 ++ 0x0#6 ++ 0x0#3 ++ 0x3F#6 ++ 0x0#5 ++ 0x0#5 ++ 0x0#6 : BitVec 32) by decide, Layout.l26_and]; simp)]
  change Except.ok (Instr.asetr _ _ _ _) = _
  rw [Layout.l26_b31, Layout.l26_x22_3, Layout.l26_x11_5, Layout.l26_x0_6]

theorem ttrans (s : Bool) (t : BitVec 3) (a : BitVec 3) : Statement (.ttrans s t a) := fun hw => by
  refine decode_of_fields hw ?_
  change decodeFields (BitVec.ofBool s ++ 0x30#6 ++ t ++ a ++ 0x200#19) = _
  rw [Major.m30 (Layout.l27_x25_6 ..)]
  rw [decodeTileControl]
  rw [show BitVec.extractLsb' 6 5 _ = 8#5 from Layout.l27_x6_5 ..]
  change (if _ = _ then _ else _) = _
  rw [if_pos (by rw [show (0x0007F83F#32) = (0x0#1 ++ 0x0#6 ++ 0x0#3 ++ 0x0#3 ++ 0x7F83F#19 : BitVec 32) by decide, Layout.l27_and]; simp)]
  change Except.ok (Instr.ttrans _ _ _) = _
  rw [Layout.l27_b31, Layout.l27_x22_3, Layout.l27_x19_3]

theorem acvt (s : Bool) (t : BitVec 3) (a : BitVec 3) : Statement (.acvt s t a) := fun hw => by
  refine decode_of_fields hw ?_
  change decodeFields (BitVec.ofBool s ++ 0x30#6 ++ t ++ a ++ 0x240#19) = _
  rw [Major.m30 (Layout.l27_x25_6 ..)]
  rw [decodeTileControl]
  rw [show BitVec.extractLsb' 6 5 _ = 9#5 from Layout.l27_x6_5 ..]
  change (if _ = _ then _ else _) = _
  rw [if_pos (by rw [show (0x0007F83F#32) = (0x0#1 ++ 0x0#6 ++ 0x0#3 ++ 0x0#3 ++ 0x7F83F#19 : BitVec 32) by decide, Layout.l27_and]; simp)]
  change Except.ok (Instr.acvt _ _ _) = _
  rw [Layout.l27_b31, Layout.l27_x22_3, Layout.l27_x19_3]

theorem tmmaD (s : Bool) (t : BitVec 3) (a : BitVec 3) (b : BitVec 3) : Statement (.tmmaD s t a b) := fun hw => by
  refine decode_of_fields hw ?_
  change decodeFields (BitVec.ofBool s ++ 0x31#6 ++ t ++ a ++ b ++ 0x0#16) = _
  rw [Major.m31 (Layout.l28_x25_6 ..)]
  rw [decodeTmma]
  rw [show BitVec.extractLsb' 0 11 _ = 0#11 from Layout.l28_x0_11 ..]
  change (if _ = _ then _ else _) = _
  rw [if_pos (by rw [show (0x0000F800#32) = (0x0#1 ++ 0x0#6 ++ 0x0#3 ++ 0x0#3 ++ 0x0#3 ++ 0xF800#16 : BitVec 32) by decide, Layout.l28_and]; simp)]
  change Except.ok (Instr.tmmaD _ _ _ _) = _
  rw [Layout.l28_b31, Layout.l28_x22_3, Layout.l28_x19_3, Layout.l28_x16_3]

theorem tmmaHf (s : Bool) (t : BitVec 3) (a : BitVec 3) (b : BitVec 3) : Statement (.tmmaHf s t a b) := fun hw => by
  refine decode_of_fields hw ?_
  change decodeFields (BitVec.ofBool s ++ 0x31#6 ++ t ++ a ++ b ++ 0x1#16) = _
  rw [Major.m31 (Layout.l28_x25_6 ..)]
  rw [decodeTmma]
  rw [show BitVec.extractLsb' 0 11 _ = 1#11 from Layout.l28_x0_11 ..]
  change (if _ = _ then _ else _) = _
  rw [if_pos (by rw [show (0x0000F800#32) = (0x0#1 ++ 0x0#6 ++ 0x0#3 ++ 0x0#3 ++ 0x0#3 ++ 0xF800#16 : BitVec 32) by decide, Layout.l28_and]; simp)]
  change Except.ok (Instr.tmmaHf _ _ _ _) = _
  rw [Layout.l28_b31, Layout.l28_x22_3, Layout.l28_x19_3, Layout.l28_x16_3]

theorem tmmaBf (s : Bool) (t : BitVec 3) (a : BitVec 3) (b : BitVec 3) : Statement (.tmmaBf s t a b) := fun hw => by
  refine decode_of_fields hw ?_
  change decodeFields (BitVec.ofBool s ++ 0x31#6 ++ t ++ a ++ b ++ 0x2#16) = _
  rw [Major.m31 (Layout.l28_x25_6 ..)]
  rw [decodeTmma]
  rw [show BitVec.extractLsb' 0 11 _ = 2#11 from Layout.l28_x0_11 ..]
  change (if _ = _ then _ else _) = _
  rw [if_pos (by rw [show (0x0000F800#32) = (0x0#1 ++ 0x0#6 ++ 0x0#3 ++ 0x0#3 ++ 0x0#3 ++ 0xF800#16 : BitVec 32) by decide, Layout.l28_and]; simp)]
  change Except.ok (Instr.tmmaBf _ _ _ _) = _
  rw [Layout.l28_b31, Layout.l28_x22_3, Layout.l28_x19_3, Layout.l28_x16_3]

theorem tmmaE4e4 (s : Bool) (t : BitVec 3) (a : BitVec 3) (b : BitVec 3) (x : Reg) : Statement (.tmmaE4e4 s t a b x) := fun hw => by
  refine decode_of_fields hw ?_
  change decodeFields (BitVec.ofBool s ++ 0x31#6 ++ t ++ a ++ b ++ x ++ 0x3#11) = _
  rw [Major.m31 (Layout.l29_x25_6 ..)]
  rw [decodeTmma]
  rw [show BitVec.extractLsb' 0 11 _ = 3#11 from Layout.l29_x0_11 ..]
  change Except.ok (Instr.tmmaE4e4 _ _ _ _ _) = _
  rw [Layout.l29_b31, Layout.l29_x22_3, Layout.l29_x19_3, Layout.l29_x16_3, Layout.l29_x11_5]

theorem tmmaE4e5 (s : Bool) (t : BitVec 3) (a : BitVec 3) (b : BitVec 3) (x : Reg) : Statement (.tmmaE4e5 s t a b x) := fun hw => by
  refine decode_of_fields hw ?_
  change decodeFields (BitVec.ofBool s ++ 0x31#6 ++ t ++ a ++ b ++ x ++ 0x4#11) = _
  rw [Major.m31 (Layout.l29_x25_6 ..)]
  rw [decodeTmma]
  rw [show BitVec.extractLsb' 0 11 _ = 4#11 from Layout.l29_x0_11 ..]
  change Except.ok (Instr.tmmaE4e5 _ _ _ _ _) = _
  rw [Layout.l29_b31, Layout.l29_x22_3, Layout.l29_x19_3, Layout.l29_x16_3, Layout.l29_x11_5]

theorem tmmaE5e4 (s : Bool) (t : BitVec 3) (a : BitVec 3) (b : BitVec 3) (x : Reg) : Statement (.tmmaE5e4 s t a b x) := fun hw => by
  refine decode_of_fields hw ?_
  change decodeFields (BitVec.ofBool s ++ 0x31#6 ++ t ++ a ++ b ++ x ++ 0x5#11) = _
  rw [Major.m31 (Layout.l29_x25_6 ..)]
  rw [decodeTmma]
  rw [show BitVec.extractLsb' 0 11 _ = 5#11 from Layout.l29_x0_11 ..]
  change Except.ok (Instr.tmmaE5e4 _ _ _ _ _) = _
  rw [Layout.l29_b31, Layout.l29_x22_3, Layout.l29_x19_3, Layout.l29_x16_3, Layout.l29_x11_5]

theorem tmmaE5e5 (s : Bool) (t : BitVec 3) (a : BitVec 3) (b : BitVec 3) (x : Reg) : Statement (.tmmaE5e5 s t a b x) := fun hw => by
  refine decode_of_fields hw ?_
  change decodeFields (BitVec.ofBool s ++ 0x31#6 ++ t ++ a ++ b ++ x ++ 0x6#11) = _
  rw [Major.m31 (Layout.l29_x25_6 ..)]
  rw [decodeTmma]
  rw [show BitVec.extractLsb' 0 11 _ = 6#11 from Layout.l29_x0_11 ..]
  change Except.ok (Instr.tmmaE5e5 _ _ _ _ _) = _
  rw [Layout.l29_b31, Layout.l29_x22_3, Layout.l29_x19_3, Layout.l29_x16_3, Layout.l29_x11_5]

theorem tmmaI8 (s : Bool) (t : BitVec 3) (a : BitVec 3) (b : BitVec 3) : Statement (.tmmaI8 s t a b) := fun hw => by
  refine decode_of_fields hw ?_
  change decodeFields (BitVec.ofBool s ++ 0x31#6 ++ t ++ a ++ b ++ 0x7#16) = _
  rw [Major.m31 (Layout.l28_x25_6 ..)]
  rw [decodeTmma]
  rw [show BitVec.extractLsb' 0 11 _ = 7#11 from Layout.l28_x0_11 ..]
  change (if _ = _ then _ else _) = _
  rw [if_pos (by rw [show (0x0000F800#32) = (0x0#1 ++ 0x0#6 ++ 0x0#3 ++ 0x0#3 ++ 0x0#3 ++ 0xF800#16 : BitVec 32) by decide, Layout.l28_and]; simp)]
  change Except.ok (Instr.tmmaI8 _ _ _ _) = _
  rw [Layout.l28_b31, Layout.l28_x22_3, Layout.l28_x19_3, Layout.l28_x16_3]

theorem tmmaC8 (s : Bool) (t : BitVec 3) (a : BitVec 3) (b : BitVec 3) (x : Reg) : Statement (.tmmaC8 s t a b x) := fun hw => by
  refine decode_of_fields hw ?_
  change decodeFields (BitVec.ofBool s ++ 0x31#6 ++ t ++ a ++ b ++ x ++ 0x8#11) = _
  rw [Major.m31 (Layout.l29_x25_6 ..)]
  rw [decodeTmma]
  rw [show BitVec.extractLsb' 0 11 _ = 8#11 from Layout.l29_x0_11 ..]
  change Except.ok (Instr.tmmaC8 _ _ _ _ _) = _
  rw [Layout.l29_b31, Layout.l29_x22_3, Layout.l29_x19_3, Layout.l29_x16_3, Layout.l29_x11_5]

theorem tmmaC6 (s : Bool) (t : BitVec 3) (a : BitVec 3) (b : BitVec 3) (x : Reg) : Statement (.tmmaC6 s t a b x) := fun hw => by
  refine decode_of_fields hw ?_
  change decodeFields (BitVec.ofBool s ++ 0x31#6 ++ t ++ a ++ b ++ x ++ 0x9#11) = _
  rw [Major.m31 (Layout.l29_x25_6 ..)]
  rw [decodeTmma]
  rw [show BitVec.extractLsb' 0 11 _ = 9#11 from Layout.l29_x0_11 ..]
  change Except.ok (Instr.tmmaC6 _ _ _ _ _) = _
  rw [Layout.l29_b31, Layout.l29_x22_3, Layout.l29_x19_3, Layout.l29_x16_3, Layout.l29_x11_5]

theorem tmmaC4 (s : Bool) (t : BitVec 3) (a : BitVec 3) (b : BitVec 3) (x : Reg) : Statement (.tmmaC4 s t a b x) := fun hw => by
  refine decode_of_fields hw ?_
  change decodeFields (BitVec.ofBool s ++ 0x31#6 ++ t ++ a ++ b ++ x ++ 0xA#11) = _
  rw [Major.m31 (Layout.l29_x25_6 ..)]
  rw [decodeTmma]
  rw [show BitVec.extractLsb' 0 11 _ = 10#11 from Layout.l29_x0_11 ..]
  change Except.ok (Instr.tmmaC4 _ _ _ _ _) = _
  rw [Layout.l29_b31, Layout.l29_x22_3, Layout.l29_x19_3, Layout.l29_x16_3, Layout.l29_x11_5]

theorem tld (s : Bool) (t : BitVec 3) (x : Reg) : Statement (.tld s t x) := fun hw => by
  refine decode_of_fields hw ?_
  change decodeFields (BitVec.ofBool s ++ 0x32#6 ++ t ++ 0x0#6 ++ x ++ 0x0#11) = _
  rw [Major.m32 (Layout.l24_x25_6 ..)]
  rw [decodeTileMem]
  rw [show BitVec.extractLsb' 0 11 _ = 0#11 from Layout.l24_x0_11 ..]
  change (if _ = _ then _ else _) = _
  rw [if_pos (by rw [show (0x003F0000#32) = (0x0#1 ++ 0x0#6 ++ 0x0#3 ++ 0x3F#6 ++ 0x0#5 ++ 0x0#11 : BitVec 32) by decide, Layout.l24_and]; simp)]
  change Except.ok (Instr.tld _ _ _) = _
  rw [Layout.l24_b31, Layout.l24_x22_3, Layout.l24_x11_5]

theorem tst (s : Bool) (t : BitVec 3) (x : Reg) : Statement (.tst s t x) := fun hw => by
  refine decode_of_fields hw ?_
  change decodeFields (BitVec.ofBool s ++ 0x32#6 ++ t ++ 0x0#6 ++ x ++ 0x1#11) = _
  rw [Major.m32 (Layout.l24_x25_6 ..)]
  rw [decodeTileMem]
  rw [show BitVec.extractLsb' 0 11 _ = 1#11 from Layout.l24_x0_11 ..]
  change (if _ = _ then _ else _) = _
  rw [if_pos (by rw [show (0x003F0000#32) = (0x0#1 ++ 0x0#6 ++ 0x0#3 ++ 0x3F#6 ++ 0x0#5 ++ 0x0#11 : BitVec 32) by decide, Layout.l24_and]; simp)]
  change Except.ok (Instr.tst _ _ _) = _
  rw [Layout.l24_b31, Layout.l24_x22_3, Layout.l24_x11_5]

theorem ald (s : Bool) (t : BitVec 3) (x : Reg) : Statement (.ald s t x) := fun hw => by
  refine decode_of_fields hw ?_
  change decodeFields (BitVec.ofBool s ++ 0x32#6 ++ t ++ 0x0#6 ++ x ++ 0x2#11) = _
  rw [Major.m32 (Layout.l24_x25_6 ..)]
  rw [decodeTileMem]
  rw [show BitVec.extractLsb' 0 11 _ = 2#11 from Layout.l24_x0_11 ..]
  change (if _ = _ then _ else _) = _
  rw [if_pos (by rw [show (0x003F0000#32) = (0x0#1 ++ 0x0#6 ++ 0x0#3 ++ 0x3F#6 ++ 0x0#5 ++ 0x0#11 : BitVec 32) by decide, Layout.l24_and]; simp)]
  change Except.ok (Instr.ald _ _ _) = _
  rw [Layout.l24_b31, Layout.l24_x22_3, Layout.l24_x11_5]

theorem ast (s : Bool) (t : BitVec 3) (x : Reg) : Statement (.ast s t x) := fun hw => by
  refine decode_of_fields hw ?_
  change decodeFields (BitVec.ofBool s ++ 0x32#6 ++ t ++ 0x0#6 ++ x ++ 0x3#11) = _
  rw [Major.m32 (Layout.l24_x25_6 ..)]
  rw [decodeTileMem]
  rw [show BitVec.extractLsb' 0 11 _ = 3#11 from Layout.l24_x0_11 ..]
  change (if _ = _ then _ else _) = _
  rw [if_pos (by rw [show (0x003F0000#32) = (0x0#1 ++ 0x0#6 ++ 0x0#3 ++ 0x3F#6 ++ 0x0#5 ++ 0x0#11 : BitVec 32) by decide, Layout.l24_and]; simp)]
  change Except.ok (Instr.ast _ _ _) = _
  rw [Layout.l24_b31, Layout.l24_x22_3, Layout.l24_x11_5]

theorem tileInstructionStart (slot : Nat) : Statement (.tileInstructionStart slot) := fun h => Bool.noConfusion h

theorem matrixArbiterSelect (cell : Nat) : Statement (.matrixArbiterSelect cell) := fun h => Bool.noConfusion h

theorem spat (s : Bool) (p : BitVec 5) (a : Reg) : Statement (.spat s p a) := fun hw => by
  refine decode_of_fields hw ?_
  change decodeFields (BitVec.ofBool s ++ 0x33#6 ++ p ++ a ++ 0x0#15) = _
  rw [Major.m33 (Layout.l2_x25_6 ..)]
  rw [decodeStream]
  rw [show BitVec.extractLsb' 0 10 _ = 0#10 from Layout.l2_x0_10 ..]
  change (if _ = _ then _ else _) = _
  rw [if_pos (by rw [show (0x00007C00#32) = (0x0#1 ++ 0x0#6 ++ 0x0#5 ++ 0x0#5 ++ 0x7C00#15 : BitVec 32) by decide, Layout.l2_and]; simp)]
  change Except.ok (Instr.spat _ _ _) = _
  rw [Layout.l2_b31, Layout.l2_x20_5, Layout.l2_x15_5]

theorem scmd (s : Bool) (a : Reg) : Statement (.scmd s a) := fun hw => by
  refine decode_of_fields hw ?_
  change decodeFields (BitVec.ofBool s ++ 0x33#6 ++ 0x0#5 ++ a ++ 0x1#15) = _
  rw [Major.m33 (Layout.l2_x25_6 ..)]
  rw [decodeStream]
  rw [show BitVec.extractLsb' 0 10 _ = 1#10 from Layout.l2_x0_10 ..]
  change (if _ = _ then _ else _) = _
  rw [if_pos (by rw [show (0x01F07C00#32) = (0x0#1 ++ 0x0#6 ++ 0x1F#5 ++ 0x0#5 ++ 0x7C00#15 : BitVec 32) by decide, Layout.l2_and]; simp)]
  change Except.ok (Instr.scmd _ _) = _
  rw [Layout.l2_b31, Layout.l2_x15_5]

theorem sseal (s : Bool) (d : Reg) : Statement (.sseal s d) := fun hw => by
  refine decode_of_fields hw ?_
  change decodeFields (BitVec.ofBool s ++ 0x33#6 ++ d ++ 0x2#20) = _
  rw [Major.m33 (Layout.l5_x25_6 ..)]
  rw [decodeStream]
  rw [show BitVec.extractLsb' 0 10 _ = 2#10 from Layout.l5_x0_10 ..]
  change (if _ = _ then _ else _) = _
  rw [if_pos (by rw [show (0x000FFC00#32) = (0x0#1 ++ 0x0#6 ++ 0x0#5 ++ 0xFFC00#20 : BitVec 32) by decide, Layout.l5_and]; simp)]
  change Except.ok (Instr.sseal _ _) = _
  rw [Layout.l5_b31, Layout.l5_x20_5]

theorem swaitb (s : Bool) (d : Reg) (n : BitVec 5) : Statement (.swaitb s d n) := fun hw => by
  refine decode_of_fields hw ?_
  change decodeFields (BitVec.ofBool s ++ 0x33#6 ++ d ++ 0x0#5 ++ n ++ 0x3#10) = _
  rw [Major.m33 (Layout.l1_x25_6 ..)]
  rw [decodeStream]
  rw [show BitVec.extractLsb' 0 10 _ = 3#10 from Layout.l1_x0_10 ..]
  change (if _ = _ then _ else _) = _
  rw [if_pos (by rw [show (0x000F8000#32) = (0x0#1 ++ 0x0#6 ++ 0x0#5 ++ 0x1F#5 ++ 0x0#5 ++ 0x0#10 : BitVec 32) by decide, Layout.l1_and]; simp)]
  change Except.ok (Instr.swaitb _ _ _) = _
  rw [Layout.l1_b31, Layout.l1_x20_5, Layout.l1_x10_5]

theorem sclose (s : Bool) (p : BitVec 5) : Statement (.sclose s p) := fun hw => by
  refine decode_of_fields hw ?_
  change decodeFields (BitVec.ofBool s ++ 0x33#6 ++ 0x0#10 ++ p ++ 0x4#10) = _
  rw [Major.m33 (Layout.l30_x25_6 ..)]
  rw [decodeStream]
  rw [show BitVec.extractLsb' 0 10 _ = 4#10 from Layout.l30_x0_10 ..]
  change (if _ = _ then _ else _) = _
  rw [if_pos (by rw [show (0x01FF8000#32) = (0x0#1 ++ 0x0#6 ++ 0x3FF#10 ++ 0x0#5 ++ 0x0#10 : BitVec 32) by decide, Layout.l30_and]; simp)]
  change Except.ok (Instr.sclose _ _) = _
  rw [Layout.l30_b31, Layout.l30_x10_5]

theorem sstat (s : Bool) (d : Reg) (a : Reg) : Statement (.sstat s d a) := fun hw => by
  refine decode_of_fields hw ?_
  change decodeFields (BitVec.ofBool s ++ 0x33#6 ++ d ++ a ++ 0x5#15) = _
  rw [Major.m33 (Layout.l2_x25_6 ..)]
  rw [decodeStream]
  rw [show BitVec.extractLsb' 0 10 _ = 5#10 from Layout.l2_x0_10 ..]
  change (if _ = _ then _ else _) = _
  rw [if_pos (by rw [show (0x00007C00#32) = (0x0#1 ++ 0x0#6 ++ 0x0#5 ++ 0x0#5 ++ 0x7C00#15 : BitVec 32) by decide, Layout.l2_and]; simp)]
  change Except.ok (Instr.sstat _ _ _) = _
  rw [Layout.l2_b31, Layout.l2_x20_5, Layout.l2_x15_5]

theorem scancel (s : Bool) : Statement (.scancel s) := fun hw => by
  refine decode_of_fields hw ?_
  change decodeFields (BitVec.ofBool s ++ 0x33#6 ++ 0x6#25) = _
  rw [Major.m33 (Layout.l7_x25_6 ..)]
  rw [decodeStream]
  rw [show BitVec.extractLsb' 0 10 _ = 6#10 from Layout.l7_x0_10 ..]
  change (if _ = _ then _ else _) = _
  rw [if_pos (by rw [show (0x01FFFC00#32) = (0x0#1 ++ 0x0#6 ++ 0x1FFFC00#25 : BitVec 32) by decide, Layout.l7_and]; simp)]
  change Except.ok (Instr.scancel _) = _
  rw [Layout.l7_b31]

theorem streamDispatch (cell : Nat) (port : Nat) : Statement (.streamDispatch cell port) := fun h => Bool.noConfusion h

theorem streamCommandComplete (cell : Nat) (port : Nat) : Statement (.streamCommandComplete cell port) := fun h => Bool.noConfusion h

theorem binit (s : Bool) (a : Reg) (b : Reg) : Statement (.binit s a b) := fun hw => by
  refine decode_of_fields hw ?_
  change decodeFields (BitVec.ofBool s ++ 0x34#6 ++ 0x0#5 ++ a ++ b ++ 0x0#10) = _
  rw [Major.m34 (Layout.l1_x25_6 ..)]
  rw [decodeSync]
  rw [show BitVec.extractLsb' 6 4 _ = 0#4 from Layout.l1_x6_4 ..]
  change (if _ = _ then _ else _) = _
  rw [if_pos (by rw [show (0x01F0003F#32) = (0x0#1 ++ 0x0#6 ++ 0x1F#5 ++ 0x0#5 ++ 0x0#5 ++ 0x3F#10 : BitVec 32) by decide, Layout.l1_and]; simp)]
  change Except.ok (Instr.binit _ _ _) = _
  rw [Layout.l1_b31, Layout.l1_x15_5, Layout.l1_x10_5]

theorem barrive (s : Bool) (d : Reg) (a : Reg) : Statement (.barrive s d a) := fun hw => by
  refine decode_of_fields hw ?_
  change decodeFields (BitVec.ofBool s ++ 0x34#6 ++ d ++ a ++ 0x40#15) = _
  rw [Major.m34 (Layout.l2_x25_6 ..)]
  rw [decodeSync]
  rw [show BitVec.extractLsb' 6 4 _ = 1#4 from Layout.l2_x6_4 ..]
  change (if _ = _ then _ else _) = _
  rw [if_pos (by rw [show (0x00007C3F#32) = (0x0#1 ++ 0x0#6 ++ 0x0#5 ++ 0x0#5 ++ 0x7C3F#15 : BitVec 32) by decide, Layout.l2_and]; simp)]
  change Except.ok (Instr.barrive _ _ _) = _
  rw [Layout.l2_b31, Layout.l2_x20_5, Layout.l2_x15_5]

theorem bwait (s : Bool) (a : Reg) (b : Reg) : Statement (.bwait s a b) := fun hw => by
  refine decode_of_fields hw ?_
  change decodeFields (BitVec.ofBool s ++ 0x34#6 ++ 0x0#5 ++ a ++ b ++ 0x80#10) = _
  rw [Major.m34 (Layout.l1_x25_6 ..)]
  rw [decodeSync]
  rw [show BitVec.extractLsb' 6 4 _ = 2#4 from Layout.l1_x6_4 ..]
  change (if _ = _ then _ else _) = _
  rw [if_pos (by rw [show (0x01F0003F#32) = (0x0#1 ++ 0x0#6 ++ 0x1F#5 ++ 0x0#5 ++ 0x0#5 ++ 0x3F#10 : BitVec 32) by decide, Layout.l1_and]; simp)]
  change Except.ok (Instr.bwait _ _ _) = _
  rw [Layout.l1_b31, Layout.l1_x15_5, Layout.l1_x10_5]

theorem bsync (s : Bool) (a : Reg) : Statement (.bsync s a) := fun hw => by
  refine decode_of_fields hw ?_
  change decodeFields (BitVec.ofBool s ++ 0x34#6 ++ 0x0#5 ++ a ++ 0xC0#15) = _
  rw [Major.m34 (Layout.l2_x25_6 ..)]
  rw [decodeSync]
  rw [show BitVec.extractLsb' 6 4 _ = 3#4 from Layout.l2_x6_4 ..]
  change (if _ = _ then _ else _) = _
  rw [if_pos (by rw [show (0x01F07C3F#32) = (0x0#1 ++ 0x0#6 ++ 0x1F#5 ++ 0x0#5 ++ 0x7C3F#15 : BitVec 32) by decide, Layout.l2_and]; simp)]
  change Except.ok (Instr.bsync _ _) = _
  rw [Layout.l2_b31, Layout.l2_x15_5]

theorem mwait (s : Bool) (d : Reg) (a : Reg) (n : BitVec 6) : Statement (.mwait s d a n) := fun hw => by
  refine decode_of_fields hw ?_
  change decodeFields (BitVec.ofBool s ++ 0x34#6 ++ d ++ a ++ 0x4#9 ++ n) = _
  rw [Major.m34 (Layout.l3_x25_6 ..)]
  rw [decodeSync]
  rw [show BitVec.extractLsb' 6 4 _ = 4#4 from Layout.l3_x6_4 ..]
  change (if _ = _ then _ else _) = _
  rw [if_pos (by rw [show (0x00007C00#32) = (0x0#1 ++ 0x0#6 ++ 0x0#5 ++ 0x0#5 ++ 0x1F0#9 ++ 0x0#6 : BitVec 32) by decide, Layout.l3_and]; simp)]
  change Except.ok (Instr.mwait _ _ _ _) = _
  rw [Layout.l3_b31, Layout.l3_x20_5, Layout.l3_x15_5, Layout.l3_x0_6]

theorem msend (s : Bool) (a : Reg) (b : Reg) : Statement (.msend s a b) := fun hw => by
  refine decode_of_fields hw ?_
  change decodeFields (BitVec.ofBool s ++ 0x34#6 ++ 0x0#5 ++ a ++ b ++ 0x140#10) = _
  rw [Major.m34 (Layout.l1_x25_6 ..)]
  rw [decodeSync]
  rw [show BitVec.extractLsb' 6 4 _ = 5#4 from Layout.l1_x6_4 ..]
  change (if _ = _ then _ else _) = _
  rw [if_pos (by rw [show (0x01F0003F#32) = (0x0#1 ++ 0x0#6 ++ 0x1F#5 ++ 0x0#5 ++ 0x0#5 ++ 0x3F#10 : BitVec 32) by decide, Layout.l1_and]; simp)]
  change Except.ok (Instr.msend _ _ _) = _
  rw [Layout.l1_b31, Layout.l1_x15_5, Layout.l1_x10_5]

theorem mrd (s : Bool) (d : Reg) (n : BitVec 2) : Statement (.mrd s d n) := fun hw => by
  refine decode_of_fields hw ?_
  change decodeFields (BitVec.ofBool s ++ 0x34#6 ++ d ++ 0x60#18 ++ n) = _
  rw [Major.m34 (Layout.l31_x25_6 ..)]
  rw [decodeSync]
  rw [show BitVec.extractLsb' 6 4 _ = 6#4 from Layout.l31_x6_4 ..]
  change (if _ = _ then _ else _) = _
  rw [if_pos (by rw [show (0x000FFC3C#32) = (0x0#1 ++ 0x0#6 ++ 0x0#5 ++ 0x3FF0F#18 ++ 0x0#2 : BitVec 32) by decide, Layout.l31_and]; simp)]
  change Except.ok (Instr.mrd _ _ _) = _
  rw [Layout.l31_b31, Layout.l31_x20_5, Layout.l31_x0_2]

theorem mwr (s : Bool) (a : Reg) (n : BitVec 2) : Statement (.mwr s a n) := fun hw => by
  refine decode_of_fields hw ?_
  change decodeFields (BitVec.ofBool s ++ 0x34#6 ++ 0x0#5 ++ a ++ 0x70#13 ++ n) = _
  rw [Major.m34 (Layout.l20_x25_6 ..)]
  rw [decodeSync]
  rw [show BitVec.extractLsb' 6 4 _ = 7#4 from Layout.l20_x6_4 ..]
  change (if _ = _ then _ else _) = _
  rw [if_pos (by rw [show (0x01F07C3C#32) = (0x0#1 ++ 0x0#6 ++ 0x1F#5 ++ 0x0#5 ++ 0x1F0F#13 ++ 0x0#2 : BitVec 32) by decide, Layout.l20_and]; simp)]
  change Except.ok (Instr.mwr _ _ _) = _
  rw [Layout.l20_b31, Layout.l20_x15_5, Layout.l20_x0_2]

theorem yield (s : Bool) (a : Reg) : Statement (.yield s a) := fun hw => by
  refine decode_of_fields hw ?_
  change decodeFields (BitVec.ofBool s ++ 0x34#6 ++ 0x0#5 ++ a ++ 0x200#15) = _
  rw [Major.m34 (Layout.l2_x25_6 ..)]
  rw [decodeSync]
  rw [show BitVec.extractLsb' 6 4 _ = 8#4 from Layout.l2_x6_4 ..]
  change (if _ = _ then _ else _) = _
  rw [if_pos (by rw [show (0x01F07C3F#32) = (0x0#1 ++ 0x0#6 ++ 0x1F#5 ++ 0x0#5 ++ 0x7C3F#15 : BitVec 32) by decide, Layout.l2_and]; simp)]
  change Except.ok (Instr.yield _ _) = _
  rw [Layout.l2_b31, Layout.l2_x15_5]

theorem garrive (s : Bool) (d : Reg) (a : Reg) : Statement (.garrive s d a) := fun hw => by
  refine decode_of_fields hw ?_
  change decodeFields (BitVec.ofBool s ++ 0x35#6 ++ d ++ a ++ 0x0#15) = _
  rw [Major.m35 (Layout.l2_x25_6 ..)]
  rw [decodeGang]
  rw [show BitVec.extractLsb' 6 4 _ = 0#4 from Layout.l2_x6_4 ..]
  change (if _ = _ then _ else _) = _
  rw [if_pos (by rw [show (0x00007C3F#32) = (0x0#1 ++ 0x0#6 ++ 0x0#5 ++ 0x0#5 ++ 0x7C3F#15 : BitVec 32) by decide, Layout.l2_and]; simp)]
  change Except.ok (Instr.garrive _ _ _) = _
  rw [Layout.l2_b31, Layout.l2_x20_5, Layout.l2_x15_5]

theorem gwaitb (s : Bool) (a : Reg) (b : Reg) : Statement (.gwaitb s a b) := fun hw => by
  refine decode_of_fields hw ?_
  change decodeFields (BitVec.ofBool s ++ 0x35#6 ++ 0x0#5 ++ a ++ b ++ 0x40#10) = _
  rw [Major.m35 (Layout.l1_x25_6 ..)]
  rw [decodeGang]
  rw [show BitVec.extractLsb' 6 4 _ = 1#4 from Layout.l1_x6_4 ..]
  change (if _ = _ then _ else _) = _
  rw [if_pos (by rw [show (0x01F0003F#32) = (0x0#1 ++ 0x0#6 ++ 0x1F#5 ++ 0x0#5 ++ 0x0#5 ++ 0x3F#10 : BitVec 32) by decide, Layout.l1_and]; simp)]
  change Except.ok (Instr.gwaitb _ _ _) = _
  rw [Layout.l1_b31, Layout.l1_x15_5, Layout.l1_x10_5]

theorem gbar (s : Bool) (a : Reg) : Statement (.gbar s a) := fun hw => by
  refine decode_of_fields hw ?_
  change decodeFields (BitVec.ofBool s ++ 0x35#6 ++ 0x0#5 ++ a ++ 0x80#15) = _
  rw [Major.m35 (Layout.l2_x25_6 ..)]
  rw [decodeGang]
  rw [show BitVec.extractLsb' 6 4 _ = 2#4 from Layout.l2_x6_4 ..]
  change (if _ = _ then _ else _) = _
  rw [if_pos (by rw [show (0x01F07C3F#32) = (0x0#1 ++ 0x0#6 ++ 0x1F#5 ++ 0x0#5 ++ 0x7C3F#15 : BitVec 32) by decide, Layout.l2_and]; simp)]
  change Except.ok (Instr.gbar _ _) = _
  rw [Layout.l2_b31, Layout.l2_x15_5]

theorem gbarj (s : Bool) (a : Reg) : Statement (.gbarj s a) := fun hw => by
  refine decode_of_fields hw ?_
  change decodeFields (BitVec.ofBool s ++ 0x35#6 ++ 0x0#5 ++ a ++ 0x81#15) = _
  rw [Major.m35 (Layout.l2_x25_6 ..)]
  rw [decodeGang]
  rw [show BitVec.extractLsb' 6 4 _ = 2#4 from Layout.l2_x6_4 ..]
  change (if _ = _ then _ else _) = _
  rw [if_neg (by rw [show (0x01F07C3F#32) = (0x0#1 ++ 0x0#6 ++ 0x1F#5 ++ 0x0#5 ++ 0x7C3F#15 : BitVec 32) by decide, Layout.l2_and]; simp)]
  change (if _ = _ then _ else _) = _
  rw [if_pos (by rw [show (0x01F07C3F#32) = (0x0#1 ++ 0x0#6 ++ 0x1F#5 ++ 0x0#5 ++ 0x7C3F#15 : BitVec 32) by decide, Layout.l2_and]; simp)]
  change Except.ok (Instr.gbarj _ _) = _
  rw [Layout.l2_b31, Layout.l2_x15_5]

theorem gmcast (s : Bool) (a : Reg) (b : Reg) : Statement (.gmcast s a b) := fun hw => by
  refine decode_of_fields hw ?_
  change decodeFields (BitVec.ofBool s ++ 0x35#6 ++ 0x0#5 ++ a ++ b ++ 0xC0#10) = _
  rw [Major.m35 (Layout.l1_x25_6 ..)]
  rw [decodeGang]
  rw [show BitVec.extractLsb' 6 4 _ = 3#4 from Layout.l1_x6_4 ..]
  change (if _ = _ then _ else _) = _
  rw [if_pos (by rw [show (0x01F0003F#32) = (0x0#1 ++ 0x0#6 ++ 0x1F#5 ++ 0x0#5 ++ 0x0#5 ++ 0x3F#10 : BitVec 32) by decide, Layout.l1_and]; simp)]
  change Except.ok (Instr.gmcast _ _ _) = _
  rw [Layout.l1_b31, Layout.l1_x15_5, Layout.l1_x10_5]

theorem ginfo (s : Bool) (d : Reg) (n : BitVec 6) : Statement (.ginfo s d n) := fun hw => by
  refine decode_of_fields hw ?_
  change decodeFields (BitVec.ofBool s ++ 0x35#6 ++ d ++ 0x4#14 ++ n) = _
  rw [Major.m35 (Layout.l32_x25_6 ..)]
  rw [decodeGang]
  rw [show BitVec.extractLsb' 6 4 _ = 4#4 from Layout.l32_x6_4 ..]
  change (if _ = _ then _ else _) = _
  rw [if_pos (by rw [show (0x000FFC00#32) = (0x0#1 ++ 0x0#6 ++ 0x0#5 ++ 0x3FF0#14 ++ 0x0#6 : BitVec 32) by decide, Layout.l32_and]; simp)]
  change Except.ok (Instr.ginfo _ _ _) = _
  rw [Layout.l32_b31, Layout.l32_x20_5, Layout.l32_x0_6]

theorem tkinit (s : Bool) (d : Reg) (a : Reg) (b : Reg) : Statement (.tkinit s d a b) := fun hw => by
  refine decode_of_fields hw ?_
  change decodeFields (BitVec.ofBool s ++ 0x36#6 ++ d ++ a ++ b ++ 0x0#10) = _
  rw [Major.m36 (Layout.l1_x25_6 ..)]
  rw [decodeTask]
  rw [show BitVec.extractLsb' 0 10 _ = 0#10 from Layout.l1_x0_10 ..]
  change Except.ok (Instr.tkinit _ _ _ _) = _
  rw [Layout.l1_b31, Layout.l1_x20_5, Layout.l1_x15_5, Layout.l1_x10_5]

theorem tkdec (s : Bool) (a : Reg) : Statement (.tkdec s a) := fun hw => by
  refine decode_of_fields hw ?_
  change decodeFields (BitVec.ofBool s ++ 0x36#6 ++ 0x0#5 ++ a ++ 0x1#15) = _
  rw [Major.m36 (Layout.l2_x25_6 ..)]
  rw [decodeTask]
  rw [show BitVec.extractLsb' 0 10 _ = 1#10 from Layout.l2_x0_10 ..]
  change (if _ = _ then _ else _) = _
  rw [if_pos (by rw [show (0x01F07C00#32) = (0x0#1 ++ 0x0#6 ++ 0x1F#5 ++ 0x0#5 ++ 0x7C00#15 : BitVec 32) by decide, Layout.l2_and]; simp)]
  change Except.ok (Instr.tkdec _ _) = _
  rw [Layout.l2_b31, Layout.l2_x15_5]

theorem tkpop (s : Bool) (d : Reg) (a : Reg) : Statement (.tkpop s d a) := fun hw => by
  refine decode_of_fields hw ?_
  change decodeFields (BitVec.ofBool s ++ 0x36#6 ++ d ++ a ++ 0x2#15) = _
  rw [Major.m36 (Layout.l2_x25_6 ..)]
  rw [decodeTask]
  rw [show BitVec.extractLsb' 0 10 _ = 2#10 from Layout.l2_x0_10 ..]
  change (if _ = _ then _ else _) = _
  rw [if_pos (by rw [show (0x00007C00#32) = (0x0#1 ++ 0x0#6 ++ 0x0#5 ++ 0x0#5 ++ 0x7C00#15 : BitVec 32) by decide, Layout.l2_and]; simp)]
  change Except.ok (Instr.tkpop _ _ _) = _
  rw [Layout.l2_b31, Layout.l2_x20_5, Layout.l2_x15_5]

theorem tkstat (s : Bool) (d : Reg) (a : Reg) : Statement (.tkstat s d a) := fun hw => by
  refine decode_of_fields hw ?_
  change decodeFields (BitVec.ofBool s ++ 0x36#6 ++ d ++ a ++ 0x3#15) = _
  rw [Major.m36 (Layout.l2_x25_6 ..)]
  rw [decodeTask]
  rw [show BitVec.extractLsb' 0 10 _ = 3#10 from Layout.l2_x0_10 ..]
  change (if _ = _ then _ else _) = _
  rw [if_pos (by rw [show (0x00007C00#32) = (0x0#1 ++ 0x0#6 ++ 0x0#5 ++ 0x0#5 ++ 0x7C00#15 : BitVec 32) by decide, Layout.l2_and]; simp)]
  change Except.ok (Instr.tkstat _ _ _) = _
  rw [Layout.l2_b31, Layout.l2_x20_5, Layout.l2_x15_5]

theorem taskEnqueue (frame : Nat) : Statement (.taskEnqueue frame) := fun h => Bool.noConfusion h

theorem taskAging (frame : Nat) : Statement (.taskAging frame) := fun h => Bool.noConfusion h

theorem tuctlWrite (frame : Nat) (v : Word) : Statement (.tuctlWrite frame v) := fun h => Bool.noConfusion h

theorem launch (s : Bool) (a : Reg) : Statement (.launch s a) := fun hw => by
  refine decode_of_fields hw ?_
  change decodeFields (BitVec.ofBool s ++ 0x37#6 ++ 0x0#5 ++ a ++ 0x0#15) = _
  rw [Major.m37 (Layout.l2_x25_6 ..)]
  rw [decodeKernel]
  rw [show BitVec.extractLsb' 0 10 _ = 0#10 from Layout.l2_x0_10 ..]
  change (if _ = _ then _ else _) = _
  rw [if_pos (by rw [show (0x01F07C00#32) = (0x0#1 ++ 0x0#6 ++ 0x1F#5 ++ 0x0#5 ++ 0x7C00#15 : BitVec 32) by decide, Layout.l2_and]; simp)]
  change Except.ok (Instr.launch _ _) = _
  rw [Layout.l2_b31, Layout.l2_x15_5]

theorem relay (s : Bool) (a : Reg) (b : Reg) : Statement (.relay s a b) := fun hw => by
  refine decode_of_fields hw ?_
  change decodeFields (BitVec.ofBool s ++ 0x37#6 ++ 0x0#5 ++ a ++ b ++ 0x1#10) = _
  rw [Major.m37 (Layout.l1_x25_6 ..)]
  rw [decodeKernel]
  rw [show BitVec.extractLsb' 0 10 _ = 1#10 from Layout.l1_x0_10 ..]
  change (if _ = _ then _ else _) = _
  rw [if_pos (by rw [show (0x01F00000#32) = (0x0#1 ++ 0x0#6 ++ 0x1F#5 ++ 0x0#5 ++ 0x0#5 ++ 0x0#10 : BitVec 32) by decide, Layout.l1_and]; simp)]
  change Except.ok (Instr.relay _ _ _) = _
  rw [Layout.l1_b31, Layout.l1_x15_5, Layout.l1_x10_5]

theorem trigger (s : Bool) : Statement (.trigger s) := fun hw => by
  refine decode_of_fields hw ?_
  change decodeFields (BitVec.ofBool s ++ 0x37#6 ++ 0x2#25) = _
  rw [Major.m37 (Layout.l7_x25_6 ..)]
  rw [decodeKernel]
  rw [show BitVec.extractLsb' 0 10 _ = 2#10 from Layout.l7_x0_10 ..]
  change (if _ = _ then _ else _) = _
  rw [if_pos (by rw [show (0x01FFFC00#32) = (0x0#1 ++ 0x0#6 ++ 0x1FFFC00#25 : BitVec 32) by decide, Layout.l7_and]; simp)]
  change Except.ok (Instr.trigger _) = _
  rw [Layout.l7_b31]

theorem retire (s : Bool) : Statement (.retire s) := fun hw => by
  refine decode_of_fields hw ?_
  change decodeFields (BitVec.ofBool s ++ 0x37#6 ++ 0x3#25) = _
  rw [Major.m37 (Layout.l7_x25_6 ..)]
  rw [decodeKernel]
  rw [show BitVec.extractLsb' 0 10 _ = 3#10 from Layout.l7_x0_10 ..]
  change (if _ = _ then _ else _) = _
  rw [if_pos (by rw [show (0x01FFFC00#32) = (0x0#1 ++ 0x0#6 ++ 0x1FFFC00#25 : BitVec 32) by decide, Layout.l7_and]; simp)]
  change Except.ok (Instr.retire _) = _
  rw [Layout.l7_b31]

theorem successorStart (slot : Nat) : Statement (.successorStart slot) := fun h => Bool.noConfusion h

theorem gangPlacement (unit : Nat) : Statement (.gangPlacement unit) := fun h => Bool.noConfusion h

theorem memberStart (slot : Nat) : Statement (.memberStart slot) := fun h => Bool.noConfusion h

theorem preemption (unit : Nat) : Statement (.preemption unit) := fun h => Bool.noConfusion h

theorem victimStopTimeout (gang : Nat) : Statement (.victimStopTimeout gang) := fun h => Bool.noConfusion h

theorem gangComplete (gang : Nat) : Statement (.gangComplete gang) := fun h => Bool.noConfusion h

theorem triggerListLaunch (gang : Nat) : Statement (.triggerListLaunch gang) := fun h => Bool.noConfusion h

theorem resultWritten (slot : Nat) : Statement (.resultWritten slot) := fun h => Bool.noConfusion h

theorem vectorCreditRound (cell : Nat) (cluster : Nat) : Statement (.vectorCreditRound cell cluster) := fun h => Bool.noConfusion h

theorem vectorStep (slot : Nat) : Statement (.vectorStep slot) := fun h => Bool.noConfusion h

theorem ringStall (slot : Nat) : Statement (.ringStall slot) := fun h => Bool.noConfusion h

theorem lanectlWrite (cell : Nat) : Statement (.lanectlWrite cell) := fun h => Bool.noConfusion h

theorem pageWalk (comb : Nat) : Statement (.pageWalk comb) := fun h => Bool.noConfusion h

theorem migrationTimeout (comb : Nat) : Statement (.migrationTimeout comb) := fun h => Bool.noConfusion h

theorem pageRelease (asid : Nat) (page : Nat) : Statement (.pageRelease asid page) := fun h => Bool.noConfusion h

theorem tfenceBroadcast (slot : Nat) : Statement (.tfenceBroadcast slot) := fun h => Bool.noConfusion h

theorem tfenceAck (comb : Nat) (slot : Nat) : Statement (.tfenceAck comb slot) := fun h => Bool.noConfusion h

theorem entryAgeDrain (cell : Nat) : Statement (.entryAgeDrain cell) := fun h => Bool.noConfusion h

theorem epochAdvance (cell : Nat) : Statement (.epochAdvance cell) := fun h => Bool.noConfusion h

theorem l1Fill (cell : Nat) : Statement (.l1Fill cell) := fun h => Bool.noConfusion h

theorem icacheFill (cell : Nat) (line : Nat) : Statement (.icacheFill cell line) := fun h => Bool.noConfusion h

theorem poolScrub (cell : Nat) (row : Nat) : Statement (.poolScrub cell row) := fun h => Bool.noConfusion h

theorem arbitrate (comb : Nat) (port : Nat) : Statement (.arbitrate comb port) := fun h => Bool.noConfusion h

theorem recoveryTimeout (comb : Nat) (port : Nat) : Statement (.recoveryTimeout comb port) := fun h => Bool.noConfusion h

theorem linkReplay (comb : Nat) (port : Nat) : Statement (.linkReplay comb port) := fun h => Bool.noConfusion h

theorem openRoute (cell : Nat) (port : Nat) : Statement (.openRoute cell port) := fun h => Bool.noConfusion h

theorem dataFlit (cell : Nat) (port : Nat) : Statement (.dataFlit cell port) := fun h => Bool.noConfusion h

theorem closeRoute (cell : Nat) (port : Nat) : Statement (.closeRoute cell port) := fun h => Bool.noConfusion h

theorem truncRoute (cell : Nat) (port : Nat) : Statement (.truncRoute cell port) := fun h => Bool.noConfusion h

theorem mcast (cell : Nat) : Statement (.mcast cell) := fun h => Bool.noConfusion h

theorem barrierArrival (gang : Nat) (id : Nat) (comb : Nat) : Statement (.barrierArrival gang id comb) := fun h => Bool.noConfusion h

theorem barrierCompletion (gang : Nat) (id : Nat) (comb : Nat) : Statement (.barrierCompletion gang id comb) := fun h => Bool.noConfusion h

theorem deposit (n : Nat) : Statement (.deposit n) := fun h => Bool.noConfusion h

theorem localRead (comb : Nat) (line : Nat) : Statement (.localRead comb line) := fun h => Bool.noConfusion h

theorem localWrite (comb : Nat) (line : Nat) : Statement (.localWrite comb line) := fun h => Bool.noConfusion h

theorem gets (n : Nat) : Statement (.gets n) := fun h => Bool.noConfusion h

theorem getm (n : Nat) : Statement (.getm n) := fun h => Bool.noConfusion h

theorem upg (n : Nat) : Statement (.upg n) := fun h => Bool.noConfusion h

theorem ncrd (n : Nat) : Statement (.ncrd n) := fun h => Bool.noConfusion h

theorem ncwr (n : Nat) : Statement (.ncwr n) := fun h => Bool.noConfusion h

theorem faop (n : Nat) : Statement (.faop n) := fun h => Bool.noConfusion h

theorem fwds (n : Nat) : Statement (.fwds n) := fun h => Bool.noConfusion h

theorem fwdm (n : Nat) : Statement (.fwdm n) := fun h => Bool.noConfusion h

theorem inv (n : Nat) : Statement (.inv n) := fun h => Bool.noConfusion h

theorem rcl (n : Nat) : Statement (.rcl n) := fun h => Bool.noConfusion h

theorem datas (n : Nat) : Statement (.datas n) := fun h => Bool.noConfusion h

theorem datae (n : Nat) : Statement (.datae n) := fun h => Bool.noConfusion h

theorem datam (n : Nat) : Statement (.datam n) := fun h => Bool.noConfusion h

theorem datamg (n : Nat) : Statement (.datamg n) := fun h => Bool.noConfusion h

theorem go (n : Nat) : Statement (.go n) := fun h => Bool.noConfusion h

theorem iack (n : Nat) : Statement (.iack n) := fun h => Bool.noConfusion h

theorem facks (n : Nat) : Statement (.facks n) := fun h => Bool.noConfusion h

theorem facko (n : Nat) : Statement (.facko n) := fun h => Bool.noConfusion h

theorem facki (n : Nat) : Statement (.facki n) := fun h => Bool.noConfusion h

theorem fackn (n : Nat) : Statement (.fackn n) := fun h => Bool.noConfusion h

theorem cmp (n : Nat) : Statement (.cmp n) := fun h => Bool.noConfusion h

theorem wback (n : Nat) : Statement (.wback n) := fun h => Bool.noConfusion h

theorem ncrsp (n : Nat) : Statement (.ncrsp n) := fun h => Bool.noConfusion h

theorem rcld (n : Nat) : Statement (.rcld n) := fun h => Bool.noConfusion h

theorem wbd (n : Nat) : Statement (.wbd n) := fun h => Bool.noConfusion h

theorem hiveLinkFailure (port : Nat) : Statement (.hiveLinkFailure port) := fun h => Bool.noConfusion h

theorem rowRemap (block : Nat) : Statement (.rowRemap block) := fun h => Bool.noConfusion h

theorem remapFlashWrite (block : Nat) : Statement (.remapFlashWrite block) := fun h => Bool.noConfusion h

theorem foragerRead (block : Nat) : Statement (.foragerRead block) := fun h => Bool.noConfusion h

theorem foragerLag (block : Nat) : Statement (.foragerLag block) := fun h => Bool.noConfusion h

theorem interrupt (slot : Nat) : Statement (.interrupt slot) := fun h => Bool.noConfusion h

theorem hpost (frame : Nat) (vf : Bool) (v : Word) : Statement (.hpost frame vf v) := fun h => Bool.noConfusion h

theorem hmsg (frame : Nat) (v : Word) : Statement (.hmsg frame v) := fun h => Bool.noConfusion h

theorem hostWrite (off : Nat) (v : Word) : Statement (.hostWrite off v) := fun h => Bool.noConfusion h

theorem hostRead (off : Nat) : Statement (.hostRead off) := fun h => Bool.noConfusion h

theorem hintr (v : Word) : Statement (.hintr v) := fun h => Bool.noConfusion h

theorem swint (comb : Nat) (v : Word) : Statement (.swint comb v) := fun h => Bool.noConfusion h

theorem hiveLinkTraining (port : Nat) (node : Nat) (peer : Nat) : Statement (.hiveLinkTraining port node peer) := fun h => Bool.noConfusion h

theorem signatureVerify (ok : Bool) : Statement (.signatureVerify ok) := fun h => Bool.noConfusion h

theorem bootWatchdog : Statement (.bootWatchdog) := fun h => Bool.noConfusion h

theorem bootctlOk : Statement (.bootctlOk) := fun h => Bool.noConfusion h

theorem moduleReset : Statement (.moduleReset) := fun h => Bool.noConfusion h

theorem coldPowerCycle : Statement (.coldPowerCycle) := fun h => Bool.noConfusion h

theorem resetThreadStart (cell : Nat) : Statement (.resetThreadStart cell) := fun h => Bool.noConfusion h

theorem wgctl (v : Word) : Statement (.wgctl v) := fun h => Bool.noConfusion h

theorem wagglePacket (comb : Nat) (dir : Nat) : Statement (.wagglePacket comb dir) := fun h => Bool.noConfusion h

theorem waggleReply (comb : Nat) : Statement (.waggleReply comb) := fun h => Bool.noConfusion h

theorem waggleTimeout : Statement (.waggleTimeout) := fun h => Bool.noConfusion h

theorem bbctl (v : Word) : Statement (.bbctl v) := fun h => Bool.noConfusion h

theorem bootBroadcastPacket : Statement (.bootBroadcastPacket) := fun h => Bool.noConfusion h

theorem sparemap (comb : Nat) (v : Word) : Statement (.sparemap comb v) := fun h => Bool.noConfusion h

theorem alarm (src : Nat) : Statement (.alarm src) := fun h => Bool.noConfusion h

theorem freeze : Statement (.freeze) := fun h => Bool.noConfusion h

theorem attestation (nonce : BitVec 256) : Statement (.attestation nonce) := fun h => Bool.noConfusion h

theorem pwrlim (watts : Nat) : Statement (.pwrlim watts) := fun h => Bool.noConfusion h

theorem islandClockStep (island : Nat) (up : Bool) : Statement (.islandClockStep island up) := fun h => Bool.noConfusion h

theorem burmealLoad (addr : Nat) : Statement (.burmealLoad addr) := fun h => Bool.noConfusion h

theorem registerWrite (off : Nat) (v : Word) : Statement (.registerWrite off v) := fun h => Bool.noConfusion h

theorem illegalInstruction (w : BitVec 32) : Statement (.illegalInstruction w) := fun h => Bool.noConfusion h

theorem yieldEnd (slot : Nat) : Statement (.yieldEnd slot) := fun h => Bool.noConfusion h

theorem tmmaComplete (cell : Nat) : Statement (.tmmaComplete cell) := fun h => Bool.noConfusion h

theorem laneFailure (port : Nat) : Statement (.laneFailure port) := fun h => Bool.noConfusion h

theorem flashUpdate : Statement (.flashUpdate) := fun h => Bool.noConfusion h

end Sys2Proof.Laws.RoundTrip
end

