-- ==== Sys2Proof/Tests/Slice0.lean ====
section
/-! SUPPORT. Tests of the model: the words of the spec's encodings, the refusals of WellFormed, single steps
with the spec's worked results, and for every statement a state that meets its hypotheses. -/

namespace Sys2Proof.Tests

open Sys2Proof Sys2Proof.Machine Host

set_option maxRecDepth 100000
set_option Elab.async false

/-! ### States for the tests -/

/-- The module after reset with one thread, live in slot 0 in machine mode, changed by `f`; its queues run at once, by element groups. -/
def one (f : Thread → Thread) : State :=
  { State.reset with
    ahead := false
    apart := false
    threads := [(0, f { Thread.empty with live := true, resident := true, mode := .machine, pc := 0x1000 })] }

/-- As `one`, with values in s1 and s2. -/
def two (x y : Word) (f : Thread → Thread := id) : State := one fun t => f { t with v := [(1, ⟨x, 0⟩), (2, ⟨y, 0⟩)] }

/-- The next state's answer to `q`; none after a stop. -/
def ask {α : Type} (o : Outcome State Fault Refusal) (q : State → α) : Option α :=
  match o with
  | .next t => some (q t)
  | _ => none

/-- `State.Released`, as a Bool. -/
def freed (s : State) (p : BitVec 5) (c : Scope) : Bool := !s.relWaits s.cur p c && !(s.relDrain s.cur p c).relOpen s.cur p c

theorem freed_iff (s : State) (p : BitVec 5) (c : Scope) : freed s p c = true ↔ s.Released p c := by
  simp [freed, State.Released]

/-- The values under way to registers. -/
def State.onTheWay (s : State) : List (Nat × Option Word) := s.thr.pend.map fun p => (p.reg, p.value)

/-- A vector instruction is queued. -/
def entry0 : QEntry where
  seq := 0
  pc := 0x1000
  kind := .vadd
  d := 3
  a := 1
  b := 2
  k := 31
  x := false
  g := 0
  sa := 0
  sb := 0
  len := 2
  ew := .e64
  rlen := 4096
  fpctl := 0
  xsel := 0
  rows := 0
  pitch := 0
  ringEn := false
  ringTo := 0
  rings := []
  xl := ⟨.machine, 0, 0, 0⟩
  cb := false
  prog := none
  run := .fresh

/-! ### Words of the encoding tables, field by field (R257 to R271 and the tables of the instruction chapters) -/

theorem test_decode_major_01_a :
    decode 0b1_000001_00011_10001_01010_0000000000 = .ok (.add true 3 17 10) ∧
    decode 0b1_000001_00011_10001_01010_0000000001 = .ok (.sub true 3 17 10) ∧
    decode 0b1_000001_00011_10001_01010_0000000010 = .ok (.add32 true 3 17 10) ∧
    decode 0b1_000001_00011_10001_01010_0000000011 = .ok (.sub32 true 3 17 10) ∧
    decode 0b1_000001_00011_10001_01010_0000000100 = .ok (.and true 3 17 10) ∧
    decode 0b1_000001_00011_10001_01010_0000000101 = .ok (.or true 3 17 10) ∧
    decode 0b1_000001_00011_10001_01010_0000000110 = .ok (.xor true 3 17 10) ∧
    decode 0b1_000001_00011_10001_01010_0000000111 = .ok (.andn true 3 17 10) ∧
    decode 0b1_000001_00011_10001_01010_0000001000 = .ok (.sll true 3 17 10) ∧
    decode 0b1_000001_00011_10001_01010_0000001001 = .ok (.srl true 3 17 10) ∧
    decode 0b1_000001_00011_10001_01010_0000001010 = .ok (.sra true 3 17 10) ∧
    decode 0b1_000001_00011_10001_01010_0000001011 = .ok (.ror true 3 17 10) := by
  refine ⟨?_, ?_, ?_, ?_, ?_, ?_, ?_, ?_, ?_, ?_, ?_, ?_⟩ <;> rfl

theorem test_decode_major_01_b :
    decode 0b1_000001_00011_10001_01010_0000001100 = .ok (.min true 3 17 10) ∧
    decode 0b1_000001_00011_10001_01010_0000001101 = .ok (.max true 3 17 10) ∧
    decode 0b1_000001_00011_10001_01010_0000001110 = .ok (.minu true 3 17 10) ∧
    decode 0b1_000001_00011_10001_01010_0000001111 = .ok (.maxu true 3 17 10) ∧
    decode 0b1_000001_00011_10001_000000000010000 = .ok (.clz true 3 17) ∧
    decode 0b1_000001_00011_10001_000000000010001 = .ok (.ctz true 3 17) ∧
    decode 0b1_000001_00011_10001_000000000010010 = .ok (.popc true 3 17) ∧
    decode 0b1_000001_00011_10001_000000000010011 = .ok (.byterev true 3 17) ∧
    decode 0b1_000001_00011_10001_01010_0000011000 = .ok (.slt true 3 17 10) ∧
    decode 0b1_000001_00011_10001_01010_0000011001 = .ok (.sltu true 3 17 10) ∧
    decode 0b1_000001_00011_10001_01010_0000011010 = .ok (.seq true 3 17 10) ∧
    decode 0b1_000001_00011_10001_01010_0000011011 = .ok (.sne true 3 17 10) := by
  refine ⟨?_, ?_, ?_, ?_, ?_, ?_, ?_, ?_, ?_, ?_, ?_, ?_⟩ <;> rfl

theorem test_decode_major_01_c :
    decode 0b1_000001_00011_10001_01010_0000011100 = .ok (.cmovnz true 3 17 10) ∧
    decode 0b1_000001_00011_10001_01010_0000011101 = .ok (.cmovz true 3 17 10) ∧
    decode 0b1_000001_00011_10001_01010_0001000000 = .ok (.mul true 3 17 10) ∧
    decode 0b1_000001_00011_10001_01010_0001000001 = .ok (.mulhs true 3 17 10) ∧
    decode 0b1_000001_00011_10001_01010_0001000010 = .ok (.mulhu true 3 17 10) ∧
    decode 0b1_000001_00011_10001_01010_0001000011 = .ok (.mulhus true 3 17 10) ∧
    decode 0b1_000001_00011_10001_01010_0001000100 = .ok (.mul32 true 3 17 10) ∧
    decode 0b1_000001_00011_10001_01010_0001000101 = .ok (.muladd true 3 17 10) ∧
    decode 0b1_000001_00011_10001_01010_0001000110 = .ok (.mulsub true 3 17 10) ∧
    decode 0b1_000001_00011_10001_01010_0001001000 = .ok (.div true 3 17 10) ∧
    decode 0b1_000001_00011_10001_01010_0001001001 = .ok (.divu true 3 17 10) ∧
    decode 0b1_000001_00011_10001_01010_0001001010 = .ok (.rem true 3 17 10) := by
  refine ⟨?_, ?_, ?_, ?_, ?_, ?_, ?_, ?_, ?_, ?_, ?_, ?_⟩ <;> rfl

theorem test_decode_major_01_d :
    decode 0b1_000001_00011_10001_01010_0001001011 = .ok (.remu true 3 17 10) := by
  rfl

theorem test_decode_major_02 :
    decode 0b1_000010_00011_10001_110011100101101 = .ok (.addi true 3 17 26413) := by
  rfl

theorem test_decode_major_03 :
    decode 0b1_000011_00011_10001_110011100101101 = .ok (.andi true 3 17 26413) := by
  rfl

theorem test_decode_major_04 :
    decode 0b1_000100_00011_10001_110011100101101 = .ok (.ori true 3 17 26413) := by
  rfl

theorem test_decode_major_05 :
    decode 0b1_000101_00011_10001_110011100101101 = .ok (.xori true 3 17 26413) := by
  rfl

theorem test_decode_major_06 :
    decode 0b1_000110_00011_10001_000000000_101101 = .ok (.slli true 3 17 45) ∧
    decode 0b1_000110_00011_10001_001000000_101101 = .ok (.srli true 3 17 45) ∧
    decode 0b1_000110_00011_10001_010000000_101101 = .ok (.srai true 3 17 45) ∧
    decode 0b1_000110_00011_10001_011000000_101101 = .ok (.rori true 3 17 45) := by
  refine ⟨?_, ?_, ?_, ?_⟩ <;> rfl

theorem test_decode_major_07 :
    decode 0b1_000111_00011_10001_0_10011100101101 = .ok (.slti true 3 17 10029) ∧
    decode 0b1_000111_00011_10001_1_10011100101101 = .ok (.sltiu true 3 17 10029) := by
  refine ⟨?_, ?_⟩ <;> rfl

theorem test_decode_major_08 :
    decode 0b1_001000_00011_00010110011100101101 = .ok (.lui true 3 91949) := by
  rfl

theorem test_decode_major_09 :
    decode 0b1_001001_00011_00010110011100101101 = .ok (.addpc true 3 91949) := by
  rfl

theorem test_decode_major_0a :
    decode 0b1_001010_00011_10001_0_10_011100101101 = .ok (.ld true 3 17 .w 1837) ∧
    decode 0b1_001010_00011_10001_1_10_011100101101 = .ok (.ldu true 3 17 .w 1837) := by
  refine ⟨?_, ?_⟩ <;> rfl

theorem test_decode_major_0b :
    decode 0b1_001011_01010_10001_0_10_011100101101 = .ok (.st true 10 17 .w 1837) := by
  rfl

theorem test_decode_major_0c :
    decode 0b1_001100_00011_10001_0000000_011_10_000 = .ok (.lda true 3 17 .frame .w) ∧
    decode 0b1_00110000000_10001_01010_01_011_10_000 = .ok (.stl true 17 10 .frame .w) := by
  refine ⟨?_, ?_⟩ <;> rfl

theorem test_decode_major_0d_a :
    decode 0b1_001101_00011_10001_01010_000_1_0_10_011 = .ok (.amoadd true 3 17 10 true .release .frame) ∧
    decode 0b1_001101_00011_10001_01010_001_1_0_10_011 = .ok (.amoswap true 3 17 10 true .release .frame) ∧
    decode 0b1_001101_00011_10001_01010_010_1_0_10_011 = .ok (.amocas true 3 17 10 true .release .frame) ∧
    decode 0b1_001101_00011_10001_01010_01100_10_011 = .ok (.amoand true 3 17 10 .release .frame) ∧
    decode 0b1_001101_00011_10001_01010_01110_10_011 = .ok (.amoor true 3 17 10 .release .frame) ∧
    decode 0b1_001101_00011_10001_01010_10000_10_011 = .ok (.amoxor true 3 17 10 .release .frame) ∧
    decode 0b1_001101_00011_10001_01010_10010_10_011 = .ok (.amomin true 3 17 10 .release .frame) ∧
    decode 0b1_001101_00011_10001_01010_10100_10_011 = .ok (.amomax true 3 17 10 .release .frame) ∧
    decode 0b1_001101_00011_10001_01010_10110_10_011 = .ok (.amominu true 3 17 10 .release .frame) ∧
    decode 0b1_001101_00011_10001_01010_11000_10_011 = .ok (.amomaxu true 3 17 10 .release .frame) ∧
    decode 0b1_001101_00011_10001_01010_11010_10_011 = .ok (.amofaddS true 3 17 10 .release .frame) ∧
    decode 0b1_001101_00011_10001_01010_11100_10_011 = .ok (.amofaddD true 3 17 10 .release .frame) := by
  refine ⟨?_, ?_, ?_, ?_, ?_, ?_, ?_, ?_, ?_, ?_, ?_, ?_⟩ <;> rfl

theorem test_decode_major_0d_b :
    decode 0b1_001101_00011_10001_01010_000_1_1_10_011 = .ok (.famoadd true 3 17 10 true .release .frame) ∧
    decode 0b1_001101_00011_10001_01010_001_1_1_10_011 = .ok (.famoswap true 3 17 10 true .release .frame) ∧
    decode 0b1_001101_00011_10001_01010_010_1_1_10_011 = .ok (.famocas true 3 17 10 true .release .frame) ∧
    decode 0b1_001101_00011_10001_01010_01101_10_011 = .ok (.famoand true 3 17 10 .release .frame) ∧
    decode 0b1_001101_00011_10001_01010_01111_10_011 = .ok (.famoor true 3 17 10 .release .frame) ∧
    decode 0b1_001101_00011_10001_01010_10001_10_011 = .ok (.famoxor true 3 17 10 .release .frame) ∧
    decode 0b1_001101_00011_10001_01010_10011_10_011 = .ok (.famomin true 3 17 10 .release .frame) ∧
    decode 0b1_001101_00011_10001_01010_10101_10_011 = .ok (.famomax true 3 17 10 .release .frame) ∧
    decode 0b1_001101_00011_10001_01010_10111_10_011 = .ok (.famominu true 3 17 10 .release .frame) ∧
    decode 0b1_001101_00011_10001_01010_11001_10_011 = .ok (.famomaxu true 3 17 10 .release .frame) ∧
    decode 0b1_001101_00011_10001_01010_11011_10_011 = .ok (.famofaddS true 3 17 10 .release .frame) ∧
    decode 0b1_001101_00011_10001_01010_11101_10_011 = .ok (.famofaddD true 3 17 10 .release .frame) := by
  refine ⟨?_, ?_, ?_, ?_, ?_, ?_, ?_, ?_, ?_, ?_, ?_, ?_⟩ <;> rfl

theorem test_decode_major_0e :
    decode 0b1_00111000000_01101_000000000001_011 = .ok (.fencel true 13 .frame) ∧
    decode 0b1_00111000000_01101_000000000010_011 = .ok (.fencea true 13 .frame) ∧
    decode 0b1_00111000000_01101_000000000011_011 = .ok (.fence true 13 .frame) ∧
    decode 0b1_00111000000_01101_01101_0100000_011 = .ok (.xfence true 13 13 .frame) := by
  refine ⟨?_, ?_, ?_, ?_⟩ <;> rfl

theorem test_decode_major_0f :
    decode 0b1_001111_00011_10001_00101_00_001011_0_1 = .ok (.bfx true 3 17 37 11) ∧
    decode 0b1_001111_00011_10001_00101_01_001011_0_1 = .ok (.bfxu true 3 17 37 11) ∧
    decode 0b1_001111_00011_10001_00101_10_001011_0_1 = .ok (.bfi true 3 17 37 11) := by
  refine ⟨?_, ?_, ?_⟩ <;> rfl

theorem test_decode_major_10 :
    decode 0b1_010000_10001_01010_110011100101101 = .ok (.beq true 17 10 26413) := by
  rfl

theorem test_decode_major_11 :
    decode 0b1_010001_10001_01010_110011100101101 = .ok (.bne true 17 10 26413) := by
  rfl

theorem test_decode_major_12 :
    decode 0b1_010010_10001_01010_110011100101101 = .ok (.blt true 17 10 26413) := by
  rfl

theorem test_decode_major_13 :
    decode 0b1_010011_10001_01010_110011100101101 = .ok (.bge true 17 10 26413) := by
  rfl

theorem test_decode_major_14 :
    decode 0b1_010100_10001_01010_110011100101101 = .ok (.bltu true 17 10 26413) := by
  rfl

theorem test_decode_major_15 :
    decode 0b1_010101_10001_01010_110011100101101 = .ok (.bgeu true 17 10 26413) := by
  rfl

theorem test_decode_major_16 :
    decode 0b1_010110_0000000010110011100101101 = .ok (.jal true 91949) := by
  rfl

theorem test_decode_major_17 :
    decode 0b1_010111_00011_10001_110011100101101 = .ok (.jalr true 3 17 26413) := by
  rfl

theorem test_decode_major_18 :
    decode 0b1_011000_10001_01010_110011100101101 = .ok (.subbr true 17 10 26413) := by
  rfl

theorem test_decode_major_19 :
    decode 0b1_0110010000000000_01101_000000_1101 = .ok (.loop true 13 13) := by
  rfl

theorem test_decode_major_1a :
    decode 0b1_011010_00011_10001_01010_00000_01_011 = .ok (.fadd true 3 17 10 .s .rup) ∧
    decode 0b1_011010_00011_10001_01010_00001_01_011 = .ok (.fsub true 3 17 10 .s .rup) ∧
    decode 0b1_011010_00011_10001_01010_00010_01_011 = .ok (.fmul true 3 17 10 .s .rup) ∧
    decode 0b1_011010_00011_10001_01010_00011_01_011 = .ok (.fdiv true 3 17 10 .s .rup) ∧
    decode 0b1_011010_00011_10001_0000000100_01_011 = .ok (.fsqrt true 3 17 .s .rup) ∧
    decode 0b1_011010_00011_10001_01010_00101_01_000 = .ok (.fmin true 3 17 10 .s) ∧
    decode 0b1_011010_00011_10001_01010_00110_01_000 = .ok (.fmax true 3 17 10 .s) ∧
    decode 0b1_011010_00011_10001_01010_00111_01_000 = .ok (.fcpsgn true 3 17 10 .s) ∧
    decode 0b1_011010_00011_10001_0000001000_01_000 = .ok (.fneg true 3 17 .s) ∧
    decode 0b1_011010_00011_10001_0000001001_01_000 = .ok (.fabs true 3 17 .s) ∧
    decode 0b1_011010_00011_10001_01010_01010_01_000 = .ok (.fxsgn true 3 17 10 .s) := by
  refine ⟨?_, ?_, ?_, ?_, ?_, ?_, ?_, ?_, ?_, ?_, ?_⟩ <;> rfl

theorem test_decode_major_1b :
    decode 0b1_011011_00011_10001_01010_01100_00_011 = .ok (.fmaddD true 3 17 10 12 .rup) ∧
    decode 0b1_011011_00011_10001_01010_01100_01_011 = .ok (.fmsubD true 3 17 10 12 .rup) ∧
    decode 0b1_011011_00011_10001_01010_01100_10_011 = .ok (.fnmaddD true 3 17 10 12 .rup) ∧
    decode 0b1_011011_00011_10001_01010_01100_11_011 = .ok (.fnmsubD true 3 17 10 12 .rup) := by
  refine ⟨?_, ?_, ?_, ?_⟩ <;> rfl

theorem test_decode_major_1c :
    decode 0b1_011100_00011_10001_01010_01100_00_011 = .ok (.fmaddS true 3 17 10 12 .rup) ∧
    decode 0b1_011100_00011_10001_01010_01100_01_011 = .ok (.fmsubS true 3 17 10 12 .rup) ∧
    decode 0b1_011100_00011_10001_01010_01100_10_011 = .ok (.fnmaddS true 3 17 10 12 .rup) ∧
    decode 0b1_011100_00011_10001_01010_01100_11_011 = .ok (.fnmsubS true 3 17 10 12 .rup) := by
  refine ⟨?_, ?_, ?_, ?_⟩ <;> rfl

theorem test_decode_major_1d :
    decode 0b1_011101_00011_10001_01010_00000_01_000 = .ok (.fcmpq true 3 17 10 .s) ∧
    decode 0b1_011101_00011_10001_01010_00001_01_000 = .ok (.fcmps true 3 17 10 .s) ∧
    decode 0b1_011101_00011_10001_0000000011_01_000 = .ok (.fclass true 3 17 .s) ∧
    decode 0b1_011101_00011_10001_0000000100_01_011 = .ok (.fcvt true 3 17 .s .rup) ∧
    decode 0b1_011101_00011_10001_0000000101_01_011 = .ok (.fcvti true 3 17 .s .rup) ∧
    decode 0b1_011101_00011_10001_0000000110_01_011 = .ok (.fcvtiu true 3 17 .s .rup) ∧
    decode 0b1_011101_00011_10001_0000000111_01_011 = .ok (.icvtf true 3 17 .s .rup) ∧
    decode 0b1_011101_00011_10001_0000001000_01_011 = .ok (.iucvtf true 3 17 .s .rup) ∧
    decode 0b1_011101_00011_10001_00100_01001_01_011 = .ok (.fcvtn true 3 17 4 .s .rup) ∧
    decode 0b1_011101_00011_10001_00100_01010_01_000 = .ok (.fcvtw true 3 17 4 .s) := by
  refine ⟨?_, ?_, ?_, ?_, ?_, ?_, ?_, ?_, ?_, ?_⟩ <;> rfl

theorem test_decode_major_20_a :
    decode 0b1_100000_00011_10001_01010_00101_00000 = .ok (.vadd true 3 17 10 5) ∧
    decode 0b1_100000_00011_10001_01010_00101_00001 = .ok (.vsub true 3 17 10 5) ∧
    decode 0b1_100000_00011_10001_01010_00101_00010 = .ok (.vmul true 3 17 10 5) ∧
    decode 0b1_100000_00011_10001_01010_00101_00011 = .ok (.vmulh true 3 17 10 5) ∧
    decode 0b1_100000_00011_10001_01010_00101_00100 = .ok (.vmulhu true 3 17 10 5) ∧
    decode 0b1_100000_00011_10001_01010_00101_00101 = .ok (.vand true 3 17 10 5) ∧
    decode 0b1_100000_00011_10001_01010_00101_00110 = .ok (.vor true 3 17 10 5) ∧
    decode 0b1_100000_00011_10001_01010_00101_00111 = .ok (.vxor true 3 17 10 5) ∧
    decode 0b1_100000_00011_10001_01010_00101_01000 = .ok (.vsll true 3 17 10 5) ∧
    decode 0b1_100000_00011_10001_01010_00101_01001 = .ok (.vsrl true 3 17 10 5) ∧
    decode 0b1_100000_00011_10001_01010_00101_01010 = .ok (.vsra true 3 17 10 5) ∧
    decode 0b1_100000_00011_10001_01010_00101_01011 = .ok (.vmin true 3 17 10 5) := by
  refine ⟨?_, ?_, ?_, ?_, ?_, ?_, ?_, ?_, ?_, ?_, ?_, ?_⟩ <;> rfl

theorem test_decode_major_20_b :
    decode 0b1_100000_00011_10001_01010_00101_01100 = .ok (.vmax true 3 17 10 5) ∧
    decode 0b1_100000_00011_10001_01010_00101_01101 = .ok (.vminu true 3 17 10 5) ∧
    decode 0b1_100000_00011_10001_01010_00101_01110 = .ok (.vmaxu true 3 17 10 5) := by
  refine ⟨?_, ?_, ?_⟩ <;> rfl

theorem test_decode_major_21 :
    decode 0b1_100001_00011_10001_01010_00101_1_0000 = .ok (.vsadd true 3 17 10 5 true) ∧
    decode 0b1_100001_00011_10001_01010_00101_1_0001 = .ok (.vsaddu true 3 17 10 5 true) ∧
    decode 0b1_100001_00011_10001_01010_00101_1_0010 = .ok (.vssub true 3 17 10 5 true) ∧
    decode 0b1_100001_00011_10001_01010_00101_1_0011 = .ok (.vssubu true 3 17 10 5 true) ∧
    decode 0b1_100001_00011_10001_00000_00101_00100 = .ok (.vabs true 3 17 5) ∧
    decode 0b1_100001_00011_10001_00000_00101_00101 = .ok (.vsplat true 3 17 5) ∧
    decode 0b1_100001_00011_0000000000_00101_00110 = .ok (.viota true 3 5) ∧
    decode 0b1_100001_00011_10001_00000_00101_00111 = .ok (.vmv true 3 17 5) ∧
    decode 0b1_100001_00011_10001_00000_00101_01000 = .ok (.vsext true 3 17 5) ∧
    decode 0b1_100001_00011_10001_00000_00101_01001 = .ok (.vzext true 3 17 5) := by
  refine ⟨?_, ?_, ?_, ?_, ?_, ?_, ?_, ?_, ?_, ?_⟩ <;> rfl

theorem test_decode_major_22 :
    decode 0b1_100010_00011_10001_01010_00101_1_0000 = .ok (.vfadd true 3 17 10 5 true) ∧
    decode 0b1_100010_00011_10001_01010_00101_1_0001 = .ok (.vfsub true 3 17 10 5 true) ∧
    decode 0b1_100010_00011_10001_01010_00101_1_0010 = .ok (.vfmul true 3 17 10 5 true) ∧
    decode 0b1_100010_00011_10001_01010_00101_1_0011 = .ok (.vfdiv true 3 17 10 5 true) ∧
    decode 0b1_100010_00011_10001_00000_00101_1_0100 = .ok (.vfsqrt true 3 17 5 true) ∧
    decode 0b1_100010_00011_10001_01010_00101_1_0101 = .ok (.vfmin true 3 17 10 5 true) ∧
    decode 0b1_100010_00011_10001_01010_00101_1_0110 = .ok (.vfmax true 3 17 10 5 true) ∧
    decode 0b1_100010_00011_10001_01010_00101_00111 = .ok (.vfcpsgn true 3 17 10 5) ∧
    decode 0b1_100010_00011_10001_00000_00101_01000 = .ok (.vfneg true 3 17 5) ∧
    decode 0b1_100010_00011_10001_00000_00101_01001 = .ok (.vfabs true 3 17 5) ∧
    decode 0b1_100010_00011_10001_01010_00101_01010 = .ok (.vfxsgn true 3 17 10 5) := by
  refine ⟨?_, ?_, ?_, ?_, ?_, ?_, ?_, ?_, ?_, ?_, ?_⟩ <;> rfl

theorem test_decode_major_23 :
    decode 0b1_100011_00011_10001_01010_00101_1_0000 = .ok (.vbadd true 3 17 10 5 true) ∧
    decode 0b1_100011_00011_10001_01010_00101_1_0001 = .ok (.vbsub true 3 17 10 5 true) ∧
    decode 0b1_100011_00011_10001_01010_00101_1_0010 = .ok (.vbmul true 3 17 10 5 true) ∧
    decode 0b1_100011_00011_10001_00000_00101_00011 = .ok (.vfclass true 3 17 5) ∧
    decode 0b1_100011_00011_10001_00100_00101_1_0100 = .ok (.vfcvtw true 3 17 4 5 true) ∧
    decode 0b1_100011_00011_10001_00100_00101_1_0101 = .ok (.vfcvtn true 3 17 4 5 true) ∧
    decode 0b1_100011_00011_10001_00000_00101_1_0110 = .ok (.vfcvti true 3 17 5 true) ∧
    decode 0b1_100011_00011_10001_00000_00101_1_0111 = .ok (.vicvtf true 3 17 5 true) ∧
    decode 0b1_100011_00011_10001_00000_00101_1_1000 = .ok (.vfcvtiu true 3 17 5 true) ∧
    decode 0b1_100011_00011_10001_00000_00101_1_1001 = .ok (.viucvtf true 3 17 5 true) := by
  refine ⟨?_, ?_, ?_, ?_, ?_, ?_, ?_, ?_, ?_, ?_⟩ <;> rfl

theorem test_decode_major_24 :
    decode 0b1_100100_00011_10001_01010_00101_1_0000 = .ok (.vfmadd true 3 17 10 5 true) ∧
    decode 0b1_100100_00011_10001_01010_00101_1_0001 = .ok (.vfmsub true 3 17 10 5 true) ∧
    decode 0b1_100100_00011_10001_01010_00101_1_0010 = .ok (.vfnmadd true 3 17 10 5 true) ∧
    decode 0b1_100100_00011_10001_01010_00101_1_0011 = .ok (.vfnmsub true 3 17 10 5 true) ∧
    decode 0b1_100100_00011_10001_01010_00101_1_0100 = .ok (.vbfmadd true 3 17 10 5 true) ∧
    decode 0b1_100100_00110_10001_01010_00101_1_0101 = .ok (.vfwma true 6 17 10 5 true) ∧
    decode 0b1_100100_00110_10001_01010_00101_1_0110 = .ok (.vbfwma true 6 17 10 5 true) ∧
    decode 0b1_100100_00011_10001_01010_00101_1_0111 = .ok (.vfdot2 true 3 17 10 5 true) ∧
    decode 0b1_100100_00011_10001_01010_00101_1_1000 = .ok (.vbfdot2 true 3 17 10 5 true) ∧
    decode 0b1_100100_00011_10001_01010_00101_01001 = .ok (.vdot4 true 3 17 10 5) ∧
    decode 0b1_100100_00011_10001_01010_00101_01010 = .ok (.vdot4u true 3 17 10 5) ∧
    decode 0b1_100100_00011_10001_01010_00101_01011 = .ok (.vmacc true 3 17 10 5) := by
  refine ⟨?_, ?_, ?_, ?_, ?_, ?_, ?_, ?_, ?_, ?_, ?_, ?_⟩ <;> rfl

theorem test_decode_major_25 :
    decode 0b1_100101_00011_10001_01010_00101_00000 = .ok (.vcmpeq true 3 17 10 5) ∧
    decode 0b1_100101_00011_10001_01010_00101_00001 = .ok (.vcmpne true 3 17 10 5) ∧
    decode 0b1_100101_00011_10001_01010_00101_00010 = .ok (.vcmplt true 3 17 10 5) ∧
    decode 0b1_100101_00011_10001_01010_00101_00011 = .ok (.vcmple true 3 17 10 5) ∧
    decode 0b1_100101_00011_10001_01010_00101_00100 = .ok (.vcmpltu true 3 17 10 5) ∧
    decode 0b1_100101_00011_10001_01010_00101_00101 = .ok (.vcmpleu true 3 17 10 5) ∧
    decode 0b1_100101_00011_10001_01010_00101_1_0110 = .ok (.vfcmpeq true 3 17 10 5 true) ∧
    decode 0b1_100101_00011_10001_01010_00101_1_0111 = .ok (.vfcmplt true 3 17 10 5 true) ∧
    decode 0b1_100101_00011_10001_01010_00101_1_1000 = .ok (.vfcmple true 3 17 10 5 true) ∧
    decode 0b1_100101_00011_10001_01010_00101_01001 = .ok (.vwhile true 3 17 10 5) := by
  refine ⟨?_, ?_, ?_, ?_, ?_, ?_, ?_, ?_, ?_, ?_⟩ <;> rfl

theorem test_decode_major_26 :
    decode 0b1_100110_00011_10001_01010_00101_00000 = .ok (.vslideup true 3 17 10 5) ∧
    decode 0b1_100110_00011_10001_01010_00101_00001 = .ok (.vslidedn true 3 17 10 5) ∧
    decode 0b1_100110_00011_10001_01010_00101_00010 = .ok (.vgather true 3 17 10 5) ∧
    decode 0b1_100110_00011_10001_00000_00101_00011 = .ok (.vcompress true 3 17 5) ∧
    decode 0b1_100110_00011_10001_01010_1111100100 = .ok (.vext true 3 17 10) ∧
    decode 0b1_100110_00011_10001_01010_1111100101 = .ok (.vins true 3 17 10) ∧
    decode 0b1_100110_00011_10001_00000_00101_00110 = .ok (.vrev true 3 17 5) := by
  refine ⟨?_, ?_, ?_, ?_, ?_, ?_, ?_⟩ <;> rfl

theorem test_decode_major_27 :
    decode 0b1_100111_00011_10001_01010_00101_00000 = .ok (.vredsum true 3 17 10 5) ∧
    decode 0b1_100111_00011_10001_01010_00101_00001 = .ok (.vredmin true 3 17 10 5) ∧
    decode 0b1_100111_00011_10001_01010_00101_00010 = .ok (.vredmax true 3 17 10 5) ∧
    decode 0b1_100111_00011_10001_01010_00101_00011 = .ok (.vredminu true 3 17 10 5) ∧
    decode 0b1_100111_00011_10001_01010_00101_00100 = .ok (.vredmaxu true 3 17 10 5) ∧
    decode 0b1_100111_00011_10001_01010_00101_00101 = .ok (.vfredsum true 3 17 10 5) ∧
    decode 0b1_100111_00011_10001_01010_00101_00110 = .ok (.vfredmin true 3 17 10 5) ∧
    decode 0b1_100111_00011_10001_01010_00101_00111 = .ok (.vfredmax true 3 17 10 5) := by
  refine ⟨?_, ?_, ?_, ?_, ?_, ?_, ?_, ?_⟩ <;> rfl

theorem test_decode_major_28 :
    decode 0b1_101000_00011_10001_01010_0000000000 = .ok (.mand true 3 17 10) ∧
    decode 0b1_101000_00011_10001_01010_0000000001 = .ok (.mor true 3 17 10) ∧
    decode 0b1_101000_00011_10001_01010_0000000010 = .ok (.mxor true 3 17 10) ∧
    decode 0b1_101000_00011_10001_01010_0000000011 = .ok (.mandn true 3 17 10) ∧
    decode 0b1_101000_00011_10001_000000000000100 = .ok (.mnot true 3 17) ∧
    decode 0b1_101000_00011_00000000000000000101 = .ok (.mset true 3) ∧
    decode 0b1_101000_00011_10001_000000000000110 = .ok (.mpopc true 3 17) ∧
    decode 0b1_101000_00011_10001_000000000000111 = .ok (.mfirst true 3 17) := by
  refine ⟨?_, ?_, ?_, ?_, ?_, ?_, ?_, ?_⟩ <;> rfl

theorem test_decode_major_29 :
    decode 0b1_101001_00011_10001_00000_00101_00000 = .ok (.vld true 3 17 5) ∧
    decode 0b1_101001_00011_10001_01010_00101_00001 = .ok (.vldOffset true 3 17 10 5) ∧
    decode 0b1_101001_00011_10001_01010_00101_00010 = .ok (.vlds true 3 17 10 5) ∧
    decode 0b1_101001_00011_10001_01010_00101_00011 = .ok (.vldx true 3 17 10 5) ∧
    decode 0b1_101001_00011_10001_00000_00101_00100 = .ok (.vldff true 3 17 5) ∧
    decode 0b1_101001_00011_10001_00000_00101_00101 = .ok (.vld2d true 3 17 5) := by
  refine ⟨?_, ?_, ?_, ?_, ?_, ?_⟩ <;> rfl

theorem test_decode_major_2a :
    decode 0b1_101010_00011_10001_00000_00101_00000 = .ok (.vst true 3 17 5) ∧
    decode 0b1_101010_00011_10001_01010_00101_00001 = .ok (.vstOffset true 3 17 10 5) ∧
    decode 0b1_101010_00011_10001_01010_00101_00010 = .ok (.vsts true 3 17 10 5) ∧
    decode 0b1_101010_00011_10001_01010_00101_00011 = .ok (.vstx true 3 17 10 5) ∧
    decode 0b1_101010_00011_10001_00000_00101_00101 = .ok (.vst2d true 3 17 5) := by
  refine ⟨?_, ?_, ?_, ?_, ?_⟩ <;> rfl

theorem test_decode_major_2b :
    decode 0b1_101011_00011_10001_01010_00101_00000 = .ok (.vamoadd true 3 17 10 5) ∧
    decode 0b1_101011_00011_10001_01010_00101_00001 = .ok (.vamoswap true 3 17 10 5) ∧
    decode 0b1_101011_00011_10001_01010_00101_00010 = .ok (.vamomin true 3 17 10 5) ∧
    decode 0b1_101011_00011_10001_01010_00101_00011 = .ok (.vamomax true 3 17 10 5) ∧
    decode 0b1_101011_00011_10001_01010_00101_00100 = .ok (.vamominu true 3 17 10 5) ∧
    decode 0b1_101011_00011_10001_01010_00101_00101 = .ok (.vamomaxu true 3 17 10 5) ∧
    decode 0b1_101011_00011_10001_01010_00101_00110 = .ok (.vamoand true 3 17 10 5) ∧
    decode 0b1_101011_00011_10001_01010_00101_00111 = .ok (.vamoor true 3 17 10 5) ∧
    decode 0b1_101011_00011_10001_01010_00101_01000 = .ok (.vamoxor true 3 17 10 5) ∧
    decode 0b1_101011_00011_10001_01010_00101_01001 = .ok (.vamofadd true 3 17 10 5) := by
  refine ⟨?_, ?_, ?_, ?_, ?_, ?_, ?_, ?_, ?_, ?_⟩ <;> rfl

theorem test_decode_major_2c :
    decode 0b1_101100_00011_10001_0000000000000_10 = .ok (.setvl true 3 17 .e32) ∧
    decode 0b1_10110000000_10001_01010_0000010000 = .ok (.vspill true 17 10) ∧
    decode 0b1_10110000000_10001_000000000010001 = .ok (.vfill true 17) ∧
    decode 0b1_101100_00011_10001_000000000100000 = .ok (.ringcfg true 3 17) := by
  refine ⟨?_, ?_, ?_, ?_⟩ <;> rfl

theorem test_decode_major_2d :
    decode 0b1_101101_00011_10001_00000_00101_1_0000 = .ok (.vorient2 true 3 17 5 true) ∧
    decode 0b1_101101_00011_10001_00000_00101_1_0001 = .ok (.vorient3 true 3 17 5 true) ∧
    decode 0b1_101101_00011_10001_00000_00101_1_0010 = .ok (.vincirc true 3 17 5 true) ∧
    decode 0b1_101101_00011_10001_00000_00101_1_0011 = .ok (.vinsph true 3 17 5 true) ∧
    decode 0b1_101101_00011_10001_00000_00101_1_0100 = .ok (.vsegx true 3 17 5 true) ∧
    decode 0b1_101101_00011_10001_00000_00101_1_1000 = .ok (.vorient2t true 3 17 5 true) ∧
    decode 0b1_101101_00011_01101_00000_00101_1_1001 = .ok (.vorient3t true 3 13 5 true) ∧
    decode 0b1_101101_00011_10001_00000_00101_1_1010 = .ok (.vincirct true 3 17 5 true) ∧
    decode 0b1_101101_00011_01010_00000_00101_1_1011 = .ok (.vinspht true 3 10 5 true) := by
  refine ⟨?_, ?_, ?_, ?_, ?_, ?_, ?_, ?_, ?_⟩ <;> rfl

theorem test_decode_major_30 :
    decode 0b1_110000_101_000000_01001_00000000000 = .ok (.tcfg true 5 9) ∧
    decode 0b1_110000_101_000000_01001_00001000000 = .ok (.acfg true 5 9) ∧
    decode 0b1_110000_101_0000000000000010000000 = .ok (.tzero true 5) ∧
    decode 0b1_110000_101_0000000000000011000000 = .ok (.azero true 5) ∧
    decode 0b1_110000_101_000000_01001_00100_101101 = .ok (.tgetr true 5 9 45) ∧
    decode 0b1_110000_101_000000_01001_00101_101101 = .ok (.tsetr true 5 9 45) ∧
    decode 0b1_110000_101_000000_01001_00110_101101 = .ok (.agetr true 5 9 45) ∧
    decode 0b1_110000_101_000000_01001_00111_101101 = .ok (.asetr true 5 9 45) ∧
    decode 0b1_110000_101_101_0000000001000000000 = .ok (.ttrans true 5 5) ∧
    decode 0b1_110000_101_101_0000000001001000000 = .ok (.acvt true 5 5) := by
  refine ⟨?_, ?_, ?_, ?_, ?_, ?_, ?_, ?_, ?_, ?_⟩ <;> rfl

theorem test_decode_major_31 :
    decode 0b1_110001_101_101_101_0000000000000000 = .ok (.tmmaD true 5 5 5) ∧
    decode 0b1_110001_101_101_101_0000000000000001 = .ok (.tmmaHf true 5 5 5) ∧
    decode 0b1_110001_101_101_101_0000000000000010 = .ok (.tmmaBf true 5 5 5) ∧
    decode 0b1_110001_101_101_101_01001_00000000011 = .ok (.tmmaE4e4 true 5 5 5 9) ∧
    decode 0b1_110001_101_101_101_01001_00000000100 = .ok (.tmmaE4e5 true 5 5 5 9) ∧
    decode 0b1_110001_101_101_101_01001_00000000101 = .ok (.tmmaE5e4 true 5 5 5 9) ∧
    decode 0b1_110001_101_101_101_01001_00000000110 = .ok (.tmmaE5e5 true 5 5 5 9) ∧
    decode 0b1_110001_101_101_101_0000000000000111 = .ok (.tmmaI8 true 5 5 5) ∧
    decode 0b1_110001_101_101_101_01001_00000001000 = .ok (.tmmaC8 true 5 5 5 9) ∧
    decode 0b1_110001_101_101_101_01001_00000001001 = .ok (.tmmaC6 true 5 5 5 9) ∧
    decode 0b1_110001_101_101_101_01001_00000001010 = .ok (.tmmaC4 true 5 5 5 9) := by
  refine ⟨?_, ?_, ?_, ?_, ?_, ?_, ?_, ?_, ?_, ?_, ?_⟩ <;> rfl

theorem test_decode_major_32 :
    decode 0b1_110010_101_000000_01001_00000000000 = .ok (.tld true 5 9) ∧
    decode 0b1_110010_101_000000_01001_00000000001 = .ok (.tst true 5 9) ∧
    decode 0b1_110010_101_000000_01001_00000000010 = .ok (.ald true 5 9) ∧
    decode 0b1_110010_101_000000_01001_00000000011 = .ok (.ast true 5 9) := by
  refine ⟨?_, ?_, ?_, ?_⟩ <;> rfl

theorem test_decode_major_33 :
    decode 0b1_110011_01101_10001_000000000000000 = .ok (.spat true 13 17) ∧
    decode 0b1_11001100000_10001_000000000000001 = .ok (.scmd true 17) ∧
    decode 0b1_110011_00011_00000000000000000010 = .ok (.sseal true 3) ∧
    decode 0b1_110011_00011_00000_10000_0000000011 = .ok (.swaitb true 3 16) ∧
    decode 0b1_1100110000000000_00010_0000000100 = .ok (.sclose true 2) ∧
    decode 0b1_110011_00011_10001_000000000000101 = .ok (.sstat true 3 17) ∧
    decode 0b1_1100110000000000000000000000110 = .ok (.scancel true) := by
  refine ⟨?_, ?_, ?_, ?_, ?_, ?_, ?_⟩ <;> rfl

theorem test_decode_major_34 :
    decode 0b1_11010000000_10001_01010_0000000000 = .ok (.binit true 17 10) ∧
    decode 0b1_110100_00011_10001_000000001000000 = .ok (.barrive true 3 17) ∧
    decode 0b1_11010000000_10001_01010_0010000000 = .ok (.bwait true 17 10) ∧
    decode 0b1_11010000000_10001_000000011000000 = .ok (.bsync true 17) ∧
    decode 0b1_110100_00011_10001_000000100_101101 = .ok (.mwait true 3 17 45) ∧
    decode 0b1_11010000000_10001_01010_0101000000 = .ok (.msend true 17 10) ∧
    decode 0b1_110100_00011_000000000001100000_01 = .ok (.mrd true 3 1) ∧
    decode 0b1_11010000000_10001_0000001110000_01 = .ok (.mwr true 17 1) ∧
    decode 0b1_11010000000_10001_000001000000000 = .ok (.yield true 17) := by
  refine ⟨?_, ?_, ?_, ?_, ?_, ?_, ?_, ?_, ?_⟩ <;> rfl

theorem test_decode_major_35 :
    decode 0b1_110101_00011_10001_000000000000000 = .ok (.garrive true 3 17) ∧
    decode 0b1_11010100000_10001_01010_0001000000 = .ok (.gwaitb true 17 10) ∧
    decode 0b1_11010100000_10001_000000010000000 = .ok (.gbar true 17) ∧
    decode 0b1_11010100000_10001_000000010000001 = .ok (.gbarj true 17) ∧
    decode 0b1_11010100000_10001_01010_0011000000 = .ok (.gmcast true 17 10) ∧
    decode 0b1_110101_00011_00000000000100_001001 = .ok (.ginfo true 3 9) := by
  refine ⟨?_, ?_, ?_, ?_, ?_, ?_⟩ <;> rfl

theorem test_decode_major_36 :
    decode 0b1_110110_00011_10001_01010_0000000000 = .ok (.tkinit true 3 17 10) ∧
    decode 0b1_11011000000_10001_000000000000001 = .ok (.tkdec true 17) ∧
    decode 0b1_110110_00011_10001_000000000000010 = .ok (.tkpop true 3 17) ∧
    decode 0b1_110110_00011_10001_000000000000011 = .ok (.tkstat true 3 17) := by
  refine ⟨?_, ?_, ?_, ?_⟩ <;> rfl

theorem test_decode_major_37 :
    decode 0b1_11011100000_10001_000000000000000 = .ok (.launch true 17) ∧
    decode 0b1_11011100000_10001_01010_0000000001 = .ok (.relay true 17 10) ∧
    decode 0b1_1101110000000000000000000000010 = .ok (.trigger true) ∧
    decode 0b1_1101110000000000000000000000011 = .ok (.retire true) := by
  refine ⟨?_, ?_, ?_, ?_⟩ <;> rfl

theorem test_decode_major_38_a :
    decode 0b1_111000_00011_00000_011100101101_000 = .ok (.crd true 3 1837) ∧
    decode 0b1_11100000000_10001_011100101101_001 = .ok (.cwr true 17 1837) ∧
    decode 0b1_111000_00011_10001_011100101101_010 = .ok (.cset true 3 17 1837) ∧
    decode 0b1_111000_00011_10001_011100101101_011 = .ok (.cclr true 3 17 1837) ∧
    decode 0b1_11100000000_10001_000000000000111 = .ok (.trap true 17) ∧
    decode 0b1_1110000000000000000000000001111 = .ok (.tret true) ∧
    decode 0b1_1110000000000000000000000010111 = .ok (.idle true) ∧
    decode 0b1_111000_01010_10001_000000000011111 = .ok (.tfence true 10 17) ∧
    decode 0b1_1110000000000000000000000100111 = .ok (.ifence true) ∧
    decode 0b1_111000_01010_10001_000000000101111 = .ok (.csave true 10 17) ∧
    decode 0b1_111000_01010_10001_000000000110111 = .ok (.crestore true 10 17) ∧
    decode 0b1_111000_00011_10001_000000000111111 = .ok (.gstop true 3 17) := by
  refine ⟨?_, ?_, ?_, ?_, ?_, ?_, ?_, ?_, ?_, ?_, ?_, ?_⟩ <;> rfl

theorem test_decode_major_38_b :
    decode 0b1_111000_00011_10001_000000001000111 = .ok (.gresume true 3 17) ∧
    decode 0b1_1110000000000000000000001001111 = .ok (.bkpt true) := by
  refine ⟨?_, ?_⟩ <;> rfl

theorem test_decode_major_39 :
    decode 0b1_111001_11100_10001_000_011100101101 = .ok (.ldp true 28 17 1837) ∧
    decode 0b1_111001_00011_00000001_10_1100101101 = .ok (.vsetli true 3 .e32 813) ∧
    decode 0b1_1110010000000000010000000000000 = .ok (.fenceall true) := by
  refine ⟨?_, ?_, ?_⟩ <;> rfl

theorem test_decode_major_3c :
    decode 0b1_11110000000_10001_000_011100101101 = .ok (.hpfL1 true 17 1837) ∧
    decode 0b1_11110000000_10001_001_011100101101 = .ok (.hpfS true 17 1837) ∧
    decode 0b1_11110000000_10001_010_011100101101 = .ok (.hpfSx true 17 1837) := by
  refine ⟨?_, ?_, ?_⟩ <;> rfl

/-! ### Ill-formed terms are refused, one for each check of WellFormed -/

theorem test_wellFormed_masks :
    (Instr.vadd false 1 2 3 24).wellFormed = false ∧ (Instr.vadd false 1 2 3 30).wellFormed = false ∧
    (Instr.vadd false 1 2 3 31).wellFormed = true ∧ (Instr.vfadd false 1 2 3 0 true).wellFormed = false ∧
    (Instr.vfadd false 1 2 3 24 true).wellFormed = false ∧ (Instr.vfadd false 1 2 3 0 false).wellFormed = true ∧
    (Instr.mand false 24 1 2).wellFormed = false ∧ (Instr.mand false 1 24 2).wellFormed = false ∧ (Instr.mand false 1 2 24).wellFormed = false ∧
    (Instr.mpopc false 30 24).wellFormed = false ∧ (Instr.vcmpeq false 24 1 2 31).wellFormed = false ∧
    (Instr.vfcmpeq false 4 1 2 4 true).wellFormed = false ∧ (Instr.vfcmpeq false 4 1 2 4 false).wellFormed = true := by decide

theorem test_wellFormed_fields :
    (Instr.ld false 1 2 .w 0x801).wellFormed = false ∧ (Instr.ldu false 1 2 .d 0).wellFormed = false ∧
    (Instr.st false 1 2 .w 0x808).wellFormed = false ∧ (Instr.bfx false 1 2 1 63).wellFormed = false ∧ (Instr.bfx false 1 2 0 63).wellFormed = true ∧
    (Instr.subbr false 31 1 4).wellFormed = false ∧ (Instr.fcvtn false 1 2 1 .d .rne).wellFormed = false ∧
    (Instr.fcvtw false 1 2 6 .d).wellFormed = false ∧ (Instr.vfcvtw false 1 2 0 31 false).wellFormed = false ∧
    (Instr.vfcvtn false 1 2 6 31 false).wellFormed = false ∧ (Instr.fence false 0 .cell).wellFormed = false ∧
    (Instr.xfence false 1 0 .cell).wellFormed = false ∧ (Instr.xfence false 0 1 .cell).wellFormed = false ∧
    (Instr.ldp false 1 2 0).wellFormed = false ∧ (Instr.ldp false 30 2 0).wellFormed = false ∧ (Instr.spat false 16 1).wellFormed = false ∧
    (Instr.swaitb false 1 17).wellFormed = false ∧ (Instr.sclose false 4).wellFormed = false ∧ (Instr.ginfo false 1 10).wellFormed = false ∧
    (Instr.hintNop false 0).wellFormed = false ∧ (Instr.hintNop false 0x7800_0000).wellFormed = false := by decide

theorem test_wellFormed_registers :
    (Instr.vfwma false 1 2 3 31 false).wellFormed = false ∧ (Instr.vslideup false 1 1 2 31).wellFormed = false ∧
    (Instr.vgather false 1 2 1 31).wellFormed = false ∧ (Instr.vcompress false 1 1 31).wellFormed = false ∧
    (Instr.vrev false 1 1 31).wellFormed = false ∧ (Instr.vorient2 false 1 27 31 false).wellFormed = false ∧
    (Instr.vorient2 false 5 0 31 false).wellFormed = false ∧ (Instr.vorient2 false 6 0 31 false).wellFormed = true ∧
    (Instr.vinspht false 20 0 31 false).wellFormed = true ∧ (Instr.vinspht false 19 0 31 false).wellFormed = false := by decide

theorem test_wellFormed_events :
    (Instr.freeze).wellFormed = false ∧ (Instr.interrupt 0).wellFormed = false ∧ (Instr.gets 0).wellFormed = false ∧
    (Instr.vectorStep 0).wellFormed = false ∧ (Instr.hmsg 0 0).wellFormed = false := by decide

/-! ### The hypotheses of the statements are met -/

theorem witness_IntegerRegisterResults : (two 5 3).OperandsReady [1, 2] [3] ∧ (two 5 3).OperandsReady [31, 31] [31] :=
  ⟨⟨rfl, rfl⟩, ⟨rfl, rfl⟩⟩

theorem witness_BitCountsAndAccumulation : (two 5 0).OperandsReady [1] [3] ∧ (two 5 0).OperandsReady [1, 2, 3] [3] ∧
    (two 5 0).OperandsReady [1, 2] [3] ∧ (two 5 0).rs 2 = 0 ∧ (two 5 3).OperandsReady [1, 2] [3] ∧ (two 5 3).rs 2 ≠ 0 :=
  ⟨⟨rfl, rfl⟩, ⟨rfl, rfl⟩, ⟨rfl, rfl⟩, rfl, ⟨rfl, rfl⟩, by decide⟩

/-- HZCTL.DZT on. -/
def dzt (t : Thread) : Thread := { t with csr := [(csrHZCTL, 4)] }

theorem witness_Division : (two 5 0).OperandsReady [1, 2] [3] ∧ bits ((two 5 0).thr.csrGet csrHZCTL) 2 1 = 0 ∧
    (two 5 3 dzt).OperandsReady [1, 2] [3] ∧ bits ((two 5 3 dzt).thr.csrGet csrHZCTL) 2 1 = 1 ∧ (two 5 3 dzt).rs 2 ≠ 0 ∧
    (two 5 0 dzt).OperandsReady [1, 2] [3] ∧ bits ((two 5 0 dzt).thr.csrGet csrHZCTL) 2 1 = 1 ∧ (two 5 0 dzt).rs 2 = 0 :=
  ⟨⟨rfl, rfl⟩, rfl, ⟨rfl, rfl⟩, rfl, by decide, ⟨rfl, rfl⟩, rfl, rfl⟩

theorem witness_ImmediatesAndBitfields : (two 5 3).OperandsReady [1] [3] ∧ (two 5 3).OperandsReady [] [31] ∧
    (two 5 3).OperandsReady [1, 3] [3] ∧ (0 : BitVec 6).toNat + ((63 : BitVec 6).toNat + 1) ≤ 64 ∧
    64 < (1 : BitVec 6).toNat + ((63 : BitVec 6).toNat + 1) :=
  ⟨⟨rfl, rfl⟩, ⟨rfl, rfl⟩, ⟨rfl, rfl⟩, by decide, by decide⟩

theorem witness_BranchesAndJumps : (two 3 5).thr.inBody = false ∧ (two 3 5).OperandsReady [1, 2] [] ∧
    (two 3 5).OperandsReady [] [30] ∧ (two 3 5).OperandsReady [1] [3] ∧ (1 : Reg) ≠ 31 ∧ (two 3 5).OperandsReady [1, 2] [1] ∧
    ((two 3 5).rs 1 - (two 3 5).rs 2).toInt ≤ 0 ∧ (two 5 5).OperandsReady [1, 2] [1] ∧
    ((two 5 5).rs 1 - (two 5 5).rs 2).toInt ≤ 0 ∧ (two 5 4).OperandsReady [1, 2] [1] ∧
    0 < ((two 5 4).rs 1 - (two 5 4).rs 2).toInt :=
  ⟨rfl, ⟨rfl, rfl⟩, ⟨rfl, rfl⟩, ⟨rfl, rfl⟩, by decide, ⟨rfl, rfl⟩, by decide, ⟨rfl, rfl⟩, by decide, ⟨rfl, rfl⟩, by decide⟩

/-- A pattern of `n` elements of 4 bytes, one behind the other; with bounds `m` and `k` in two more dimensions. -/
def line (n : Nat) : BitVec 256 := BitVec.ofNat 256 (2 ^ 252 + 2 ^ 248 + 2 * 2 ^ 240 + n * 2 ^ 24 + 1)
def block (n m k : Nat) : BitVec 256 :=
  BitVec.ofNat 256 (2 ^ 252 + 3 * 2 ^ 248 + 2 * 2 ^ 240 + k * 2 ^ 104 + m * 2 ^ 64 + n * 2 ^ 24 + 1)

/-- Slot 2 holds four passes, slot 3 more passes than a loop may have. -/
def slots (t : Thread) : Thread := { t with slots := [(2, line 4), (3, block 65535 65535 2)] }

/-- A loop of three words at 0xFFC, on pass `e` of four. -/
def looping (pc : Word) (e : Nat) : State := one fun t => { slots t with pc := pc, loop := some ⟨0xFFC, 3, 2, line 4, e, []⟩ }

theorem witness_LoopStartsAndPasses : (one slots).thr.inBody = false ∧ (one slots).thr.slotPat 0 = none ∧
    (one slots).thr.slotPat 3 = some (block 65535 65535 2) ∧ 2 ^ 32 ≤ patCount (block 65535 65535 2) ∧
    (one slots).thr.slotPat 2 = some (line 4) ∧ patCount (line 4) < 2 ^ 32 ∧
    ((looping 0x1000 0).thr.loop.isSome = true ∧ (looping 0x1000 0).thr.pc ≠ 0xFFC + BitVec.ofNat 64 (4 * (3 - 1))) ∧
    ((looping 0x1004 2).thr.pc = 0xFFC + BitVec.ofNat 64 (4 * (3 - 1)) ∧ 2 + 1 < patCount (line 4)) ∧
    ((looping 0x1004 3).thr.pc = 0xFFC + BitVec.ofNat 64 (4 * (3 - 1)) ∧ patCount (line 4) ≤ 3 + 1) :=
  ⟨rfl, rfl, rfl, by decide, rfl, by decide, ⟨rfl, by decide⟩, ⟨rfl, by decide⟩, ⟨rfl, by decide⟩⟩

theorem witness_LoopBodyExclusions : (looping 0xFFC 0).thr.inBody = true ∧ (looping 0x1004 3).thr.inBody = true := ⟨rfl, rfl⟩

/-- Every floating-point flag enabled. -/
def enabled (t : Thread) : Thread := { t with csr := [(csrFPCTL, 0x7F)] }

/-- The bits of 1.0, infinity and minus infinity in binary64. -/
def oneD : Nat := 0x3FF0_0000_0000_0000
def infD : Nat := 0x7FF0_0000_0000_0000
def ninfD : Nat := 0xFFF0_0000_0000_0000

theorem witness_FloatResults : (two 5 3).OperandsReady [1, 2] [3] ∧ (two 5 3).OperandsReady [1] [3] ∧
    (two 5 3).OperandsReady [1, 2, 4] [3] ∧ 2 ≤ (2 : BitVec 5).toNat ∧ (5 : BitVec 5).toNat ≤ 5 ∧
    (fmtD.add .rne oneD oneD).2 &&& (two 5 3 enabled).thr.fpEn = 0 ∧
    (fmtD.add .rne infD ninfD).2 &&& (two 5 3).thr.fpEn = 0 ∧
    (fmtD.add .rne infD ninfD).2 &&& (two 5 3 enabled).thr.fpEn ≠ 0 :=
  ⟨⟨rfl, rfl⟩, ⟨rfl, rfl⟩, ⟨rfl, rfl⟩, by decide, by decide, by decide +kernel, by decide +kernel, by decide +kernel⟩

theorem witness_FloatSignsDivideAndRoot : (two 5 3 enabled).OperandsReady [1, 2] [3] ∧ (two 5 3).OperandsReady [1] [3] ∧
    (two 5 3).thr.fpEn = 0 ∧ (two 5 3 enabled).thr.fpEn ≠ 0 ∧
    (fmtD.div .rne oneD oneD).2 &&& (two 5 3 enabled).thr.fpEn = 0 ∧
    (fmtD.div .rne oneD 0).2 &&& (two 5 3 enabled).thr.fpEn ≠ 0 :=
  ⟨⟨rfl, rfl⟩, ⟨rfl, rfl⟩, rfl, by decide, by decide +kernel, by decide +kernel⟩

/-- A load's result is under way to register `r`; HZCTL holds `h`. -/
def waiting (r : Nat) (h : Word) (t : Thread) : Thread :=
  { t with pend := [⟨.scalar, r, .all, some 7, false, 0, none, none, 0, none⟩], csr := [(csrHZCTL, h)] }

theorem witness_HazardsAndPoison :
    (∃ p ∈ (two 5 3 (waiting 1 0)).thr.pend, p.reg = (1 : Reg).toNat ∧ p.cls ≠ .mask ∧ p.who ≠ .writers) ∧
    bits ((two 5 3 (waiting 1 0)).thr.csrGet csrHZCTL) 0 1 = 0 ∧
    (∃ p ∈ (two 5 3 (waiting 3 1)).thr.pend, p.reg = (3 : Reg).toNat ∧ p.cls ≠ .mask ∧ p.who ≠ .writers) ∧
    (∀ p ∈ (two 5 3 (waiting 3 1)).thr.pend, p.reg ≠ (1 : Reg).toNat ∧ p.reg ≠ (2 : Reg).toNat) ∧
    bits ((two 5 3 (waiting 3 1)).thr.csrGet csrHZCTL) 0 1 = 1 ∧
    (two 5 3 fun t => { t with poison := [1 * 128] }).thr.pend = [] ∧
    NatSet.has (two 5 3 fun t => { t with poison := [1 * 128] }).thr.poison ((1 : Reg).toNat * 128) = true ∧
    NatSet.has (two 5 3 fun t => { t with poison := [2 * 128] }).thr.poison ((2 : Reg).toNat * 128) = true ∧
    NatSet.has (two 5 3 fun t => { t with poison := [2 * 128] }).thr.poison ((1 : Reg).toNat * 128) = false := by
  refine ⟨⟨_, List.mem_singleton.2 rfl, rfl, ?_, ?_⟩, rfl, ⟨_, List.mem_singleton.2 rfl, rfl, ?_, ?_⟩, ?_, rfl, rfl, rfl, rfl, rfl⟩ <;> decide

theorem witness_TrapEntry : ({ code := 65535, batch := 65535 } : TrapInfo).code < 2 ^ 16 ∧
    ({ code := 65535, batch := 65535 } : TrapInfo).batch < 2 ^ 16 ∧ (two 5 3 fun t => { t with vq := [entry0] }).thr.vq ++ [] ≠ [] := by decide

/-- The thread runs in U mode. -/
def inUser (t : Thread) : Thread := { t with mode := .user }

theorem witness_SoftwareTrapsAndPrivilege : (two 5 3).thr.inBody = false ∧ (two 5 3).OperandsReady [1] [] ∧
    (two 5 3 inUser).thr.inBody = false ∧ (two 5 3 inUser).thr.mode = .user ∧
    (∃ p fs, csrInfo csrEPC = some (p, fs) ∧ (two 5 3 inUser).thr.mode.code < p.code) ∧
    ∃ p fs, csrInfo csrMEPC = some (p, fs) ∧ (two 5 3 fun t => { t with mode := .supervisor }).thr.mode.code < p.code :=
  ⟨rfl, ⟨rfl, rfl⟩, rfl, rfl, ⟨_, _, rfl, by decide⟩, _, _, rfl, by decide⟩

/-- In supervisor mode with PSTATE `p`, and a loop saved at pass `e` of slot 2. -/
def saved (p : Word) (e : Nat) : State :=
  one fun t => { slots t with mode := .supervisor, csr := [(csrPSTATE, p)], loopS := some ⟨0x200, 3, 2, line 4, e, []⟩ }

theorem witness_TrapReturn :
    ((saved 0x30 0).thr.inBody = false ∧ (saved 0x30 0).thr.mode = .supervisor ∧ (saved 0x30 0).thr.vq = [] ∧ (saved 0x30 0).thr.tq = [] ∧
      bits ((saved 0x30 0).thr.csrGet csrPSTATE) 4 2 = 3) ∧
    (bits ((saved 0x100 0).thr.csrGet csrPSTATE) 4 2 ≠ 3 ∧ bits ((saved 0x100 0).thr.csrGet csrPSTATE) 8 1 = 1 ∧
      ({ saved 0x100 0 with ahead := true } : State).ahead = true) ∧
    (({ saved 0x10 0 with ahead := true }.upd fun t => { t with vq := [entry0] }).thr.vq ≠ [] ∧
      bits (({ saved 0x10 0 with ahead := true }.upd fun t => { t with vq := [entry0] }).thr.csrGet csrPSTATE) 4 2 ≠ 3) ∧
    (saved 0x10 0).thr.loopM = none ∧ (saved 0x10 0).thr.loopS.isSome = true ∧
    (bits ((saved 0x10 0).thr.csrGet csrPSTATE) 4 2 ≠ 3 ∧ bits ((saved 0x10 0).thr.csrGet csrPSTATE) 8 1 = 0) ∧
    ((one slots).thr.mode = .machine ∧ (one slots).thr.loopM = none ∧ bits ((one slots).thr.csrGet csrMPSTATE) 8 1 = 0) ∧
    ((saved 0x10 3).thr.slotPat 2 = some (line 4) ∧ patCount (line 4) < 2 ^ 32 ∧ 3 < patCount (line 4)) ∧
    ((saved 0x10 4).thr.slotPat 2 = some (line 4) ∧ patCount (line 4) ≤ 4) := by
  refine ⟨⟨rfl, rfl, rfl, rfl, rfl⟩, ⟨by decide, rfl, rfl⟩, ⟨by decide, by decide⟩, rfl, rfl, ⟨by decide, rfl⟩, ⟨rfl, rfl, rfl⟩, ⟨rfl, by decide, by decide⟩, rfl, by decide⟩

/-- A descriptor of a gang of one thread of one cell. -/
def desc1 : Desc where
  addr := 0x4000
  entry := 0x1000
  partw := partwReset
  ctx := 0
  rscope := 1
  prio := 3
  trunc := false
  fwd := false
  k := 1
  level := 1
  n := 1
  wctr := 0
  wframe := 0
  wv := false
  args := 0
  done := 0
  accept := 0
  trigs := []

/-- The gang of that descriptor in cell 1. -/
def gang1 : Gang where
  desc := desc1
  frame := 0
  cells := [1]
  combs := [0]
  w := 0
  h := 0
  routes := []
  tree := 0
  members := [(0, .running)]
  triggered := []
  trigDone := false
  trigLeft := []
  trigDesc := none
  doneAdded := false
  heirs := []
  stopped := true
  victim := none
  late := false
  slots := [4]
  doneSent := false
  doneBack := none
  rel := none
  mig := none
  stops := []
  saving := false

/-- Its member in slot 4. -/
def member1 : Thread := { Thread.empty with live := true, gang := some 0, resident := true, pc := 0x1000, stopped := true }

/-- Thread 0 in machine mode with `x` in s1 and 4 (slot 4) in s2, the gang in cell 1 stopped in place, and the context
table at address 0 with a home location at 0x2000. Cell 1 has no
scratchpad. -/
def imaging (x : Word) : State :=
  let s := two x 4
  { s with
    threads := s.threads ++ [(4, member1)], gangs := [(0, gang1)], stopped := [(0, ⟨some 0, State.reset.toLaunch 0 gang1, [4]⟩)]
    cells := [(1, { Cell.initial with partw := 0 })], regs := [(combReg 0 0xC_0010, 1)], mem := [(7, 0x80), (9, 0x20), (17, 0x10)] }

/-- What CSAVE has stored and waits for is performed (R309). -/
def imageReady (s : State) : State := (s.drainAll s.cc).quiesce 4

/-- What CSAVE finds of the locations of the image. -/
def imageLocs (s : State) : State × List (List Loc) :=
  let u := imageReady s
  let r := u.wordLocs .write (s.rs 1) (u.image 4 none 0).length
  (r.1.touchCtx (bits ((r.1.thread 4).csrGet csrPSTATE) 48 16), r.2.getD [])

theorem noErrors_of (s : State) (h : s.blocks = [] ∧ s.mpoison = [] ∧
    (s.msc.all (fun e => e.2.all fun m => m.err.isNone) && s.slices.all fun e => !e.2.pois) = true) : s.NoErrors := by
  obtain ⟨hb, hp, hm⟩ := h
  simp only [Bool.and_eq_true, List.all_eq_true, Option.isNone_iff_eq_none, Bool.not_eq_true'] at hm
  exact ⟨fun f => by simp [State.block, hb, Sparse.getD, Sparse.find?, Block.initial], hm.1, hp, hm.2⟩

theorem witness_ImageSaveAndRestore_csave :
    let s := imaging 0x8000
    let h := imaging 0x2000
    (s.thr.inBody = false ∧ s.thr.mode = .machine ∧ s.OperandsReady [1, 2] []) ∧ s.slotOf (s.rs 2) = 4 ∧
    (bits (s.rs 2) 17 47 = 0 ∧ (s.thread 4).live = true ∧ 4 ≠ s.cur ∧ (s.thread 4).gang = some 0 ∧
      s.stopped.any (fun e => decide (e.2.inPlace = some 0)) = true) ∧
    ((s.rs 1).toNat % 128 = 0 ∧ s.Released psLS .module ∧ (imageReady s).saveWaits 4 = false) ∧
    ((imageReady s).lateCount 4 = 0 ∧ (imageReady s).NoErrors ∧
      (∀ i < 8 * ((imageReady s).image 4 none 0).length, (imageReady s).region (0x8000 + i) = .hbm) ∧
      (match (imageReady s).ctxEntry (bits (((imageReady s).thread 4).csrGet csrPSTATE) 48 16) with
        | some e => decide (e.home ((imageReady s).thread 4).rank ≠ 0x8000)
        | none => false) = true) ∧
    (imageLocs s).2.length = ((imageReady s).image 4 none 0).length ∧
    ((imageLocs s).1.isHome 4 ((imageLocs s).2.headD [])).isNone = true ∧ (imageLocs s).1.lateCount 4 = 0 ∧
    ((imageLocs h).1.isHome 4 ((imageLocs h).2.headD [])).isSome = true := by
  refine ⟨⟨rfl, rfl, ⟨rfl, rfl⟩⟩, by decide +kernel, ⟨by decide +kernel, by decide +kernel, by decide, by decide +kernel, by decide +kernel⟩,
    ⟨by decide +kernel, ⟨by decide +kernel, by decide +kernel⟩, by decide +kernel⟩,
    ⟨by decide +kernel, noErrors_of _ (by decide +kernel), by decide +kernel, by decide +kernel⟩, ?_, ?_, ?_, ?_⟩ <;> decide +kernel

/-- The module after that CSAVE. -/
def imaged : State := (ask (exec (.csave false 2 1) (imaging 0x8000)) id).getD State.reset

/-- Acquired by the CRESTORE. -/
def imageTaken : State := (imaged.drainAll imaged.cc).acquire imaged.cur psLS .module

/-- The words of the image, as CRESTORE finds them. -/
def imageWords : List IWord :=
  (List.range (imageTaken.memRead (0x8000 + 24) 4 / 8)).map fun i => (imageTaken.memRead (0x8000 + 8 * i) 8, false)

/-- What CRESTORE reads, checks and restores. -/
def imageBack : Option (State × State × Bool) := do
  let s := imaged
  let h := imageTaken.readImage (s.rs 1) 4
  let hd ← h.2
  if imageHeadBad hd then none else
  let r := h.1.readImage (s.rs 1) ((hd.getD 3 (0, false)).1 % 2 ^ 32 / 8)
  let ws ← r.2
  match r.1.checkImage 4 (decide (r.1.mode = .supervisor)) ws with
  | .ok l =>
    let t := r.1.restoreImage 4 l
    match t.access t.cur t.thr.xlate pathFA .far (s.rs 1 + 32) 8 with
    | .ok u ls => some (t, u, decide ((ws.getD 5 (0, false)).1 % 65536 = 0) && decide ((u.unitRead u.cc u.mode ls).1 / 2 ^ 32 = 0))
    | _ => none
  | _ => none

theorem witness_ImageSaveAndRestore_crestore : (imaged.thr.hazard [1, 2] [] = none ∧ imaged.thr.poisonedRead [1, 2] = none ∧
    imaged.thr.inBody = false ∧ imaged.thr.mode = .machine ∧ (imaged.rs 1).toNat % 128 = 0) ∧
    (imaged.relWaits imaged.cur psLS .module = false ∧ (imaged.relDrain imaged.cur psLS .module).relOpen imaged.cur psLS .module = false) ∧
    ((imageTaken.blocks = [] ∧ imageTaken.mpoison = [] ∧
        (imageTaken.msc.all (fun e => e.2.all fun m => m.err.isNone) && imageTaken.slices.all fun e => !e.2.pois) = true) ∧
      (∀ i < 8 * imageWords.length, imageTaken.region (0x8000 + i) = .hbm) ∧
      imageTaken.memRead (0x8000 + 32) 8 / 2 ^ 32 = 0 ∧
      (match imageTaken.checkImage 4 false imageWords with | .ok _ => true | _ => false) = true ∧
      (imageWords.getD 5 (0, false)).1 % 65536 = 0) ∧
    (imageBack.map (·.2.2)) = some true := by
  refine ⟨?_, ?_, ?_, ?_⟩
  · decide +kernel
  · decide +kernel
  · decide +kernel
  · decide +kernel

/-- An interrupt of code 3 is pending and enabled. -/
def pendingInt (t : Thread) : Thread := { t with csr := [(csrIPEND, 8), (csrIENB, 8)] }

/-- The fence of slot 0 has been acknowledged by every comb. -/
def fenced : State := { two 5 3 with fences := [⟨0, 3, 5, true, [], []⟩] }

theorem witness_IdleAndFences : (two 5 3 pendingInt).thr.inBody = false ∧ (two 5 3 pendingInt).thr.mode ≠ .user ∧
    (two 5 3 pendingInt).thr.anyInt = true ∧ (two 5 3).thr.anyInt = false ∧ (two 5 3).thr.fwd ≠ .follower ∧
    fenced.OperandsReady [1, 2] [] ∧ fenced.fences.find? (fun f => decide (f.slot = fenced.cur)) = some ⟨0, 3, 5, true, [], []⟩ ∧
    (∀ f ∈ (two 5 0x0004_0000_0000_0000).fences, f.slot ≠ 0) ∧ tfenceBad ((two 5 0x0004_0000_0000_0000).rs 2) = false ∧
    (two 5 0x0004_0000_0000_0000).Released psLS .module := by
  refine ⟨rfl, by decide, rfl, rfl, by decide, ⟨rfl, rfl⟩, rfl, ?_, rfl, ⟨by decide +kernel, by decide +kernel⟩⟩
  intro f h
  cases h

/-- Thread 0 with `w` in s1, and the gang of cell 1 as `g` tells, its context in the table as in `imaging`. -/
def stopping (w : Word) (stopped : Sparse Stopped) : State :=
  let s := two w 0
  { s with
    threads := s.threads ++ [(4, { member1 with stopped := false })], gangs := [(0, { gang1 with stopped := false })]
    stopped := stopped, regs := [(combReg 0 0xC_0010, 1)], mem := [(7, 0x80), (9, 0x20), (17, 0x10)]
    cells := [(1, { Cell.initial with partw := 0 })] }

/-- The gang as a GSTOP with the save bit of thread 0 (d = 3) leaves it while it waits, and the module then. -/
def saving : Gang := { gang1 with stopped := false, stops := [(0, 3, false)], saving := true }
def stoppedForSave : State :=
  let s := stopping 0x1_0004 []
  gang1.liveSlots.foldl State.quiesce ((((s.touchCtx 0).parkAs .system).updGang 0 fun _ => saving).stopGang 0 saving)

theorem witness_GangStopAndResume :
    let s := stopping 4 []
    let n := stopping 8 []
    let r := stopping 0 [(0, ⟨some 0, State.reset.toLaunch 0 gang1, [4]⟩)]
    let q := stopping 0 [(0, ⟨none, State.reset.toLaunch 0 gang1, [4]⟩)]
    (s.thr.inBody = false ∧ s.thr.mode ≠ .user ∧ s.OperandsReady [1] [3] ∧ bits (s.rs 1) 17 47 = 0) ∧
    (s.slotOf (s.rs 1) = 4 ∧ (s.thread 4).live = true ∧ (s.thread 4).gang = some 0 ∧
      Sparse.find? 0 s.gangs = some { gang1 with stopped := false } ∧ s.thr.gang ≠ some 0 ∧ s.ctxStopped 0 = false ∧
      s.stopWaits { gang1 with stopped := false } = false ∧ (s.rs 1).getLsbD 16 = false ∧ s.savedNow 4 = false ∧
      s.cur ∉ gang1.liveSlots ∧ gang1.stops = [] ∧ gang1.saving = false ∧ s.stoppedNow 0 0 = false) ∧
    (stopping 4 [(0, ⟨none, State.reset.toLaunch 0 gang1, [4]⟩)]).savedNow 4 = true ∧
    (((stopping 0x1_0004 []).rs 1).getLsbD 16 = true ∧ ((stopping 0x1_0004 []).ctxEntry 0).isSome = true ∧
      gang1.liveSlots.any stoppedForSave.saveWaits = false ∧ (stoppedForSave.ctxEntry 0).isSome = true) ∧
    (n.slotOf (n.rs 1) = 8 ∧ (n.thread 8).live = false) ∧
    (bits (r.rs 1) 16 48 = 0 ∧ Sparse.find? (r.rs 1).toNat s.stopped = none ∧
      (Sparse.find? (r.rs 1).toNat r.stopped).map (·.inPlace) = some (some 0) ∧
      Sparse.find? 0 r.gangs = some { gang1 with stopped := false }) ∧
    (Sparse.find? (q.rs 1).toNat q.stopped).map (·.inPlace) = some none := by
  refine ⟨⟨rfl, by decide, ⟨rfl, rfl⟩, rfl⟩, ⟨by decide +kernel, rfl, rfl, rfl, by decide, rfl, rfl, rfl, by decide +kernel, by decide, rfl, rfl, rfl⟩, by decide +kernel,
    ⟨by decide +kernel, by decide +kernel, by decide +kernel, by decide +kernel⟩, ⟨by decide +kernel, rfl⟩, ⟨rfl, rfl, rfl, rfl⟩, rfl⟩

/-- Cell 0's first bytes of the local window, one below its end, and past it. -/
def firstByte : Word := BitVec.ofNat 64 winUser
def lastByte : Word := BitVec.ofNat 64 (winUser + Cell.initial.spadBytes - 1)

theorem witness_AddressesAndFaults :
    (0 < 1 ∧ 1 ≤ 65536 - (0xFFFF : Word).toNat % 65536) ∧
    (winUser ≤ (lastByte + 1).toNat ∧ (lastByte + 1).toNat < winUser + 2 ^ 44 ∧
      ((two 5 3).cell 0).spadBytes < (lastByte + 1).toNat - winUser + 1) ∧
    winSup ≤ (BitVec.ofNat 64 winSup).toNat ∧
    (windowOf (0x0100_0000_0000_0000 : Word) = none ∧ canonical 0x0100_0000_0000_0000 = false) ∧
    (windowOf (0xFFC0_0000_0000_0000 : Word) = none ∧ canonical 0xFFC0_0000_0000_0000 = true ∧
      (0xFFC0_0000_0000_0000 : Word).getLsbD 54 = true) ∧
    (windowOf (0x0010_0000_0000_0000 : Word) = none ∧ 2 ^ 52 ≤ (0x0010_0000_0000_0000 : Word).toNat) ∧
    (let s := two (lastByte - 2) 3
     s.thr.lsBusy (s.thr.ea (s.rs 1) 0) (widthBytes .w) = false ∧ s.OperandsReady (1 :: eaReads 0) [3] ∧
       s.OperandsReady (2 :: 1 :: eaReads 0) [] ∧
       (match s.access s.cur s.thr.xlate pathLS .read (s.thr.ea (s.rs 1) 0) (widthBytes .w) with
         | .fault _ f => decide (f.code = 0x07) | _ => false) = true) := by
  refine ⟨⟨by decide, by decide⟩, ?_, by decide +kernel, ?_, ?_, ?_, ⟨by decide +kernel, ⟨rfl, rfl⟩, ⟨rfl, rfl⟩, ?_⟩⟩ <;> decide +kernel

theorem witness_ScratchpadLoadsAndStores :
    ∀ s ∈ [two firstByte 3, two (lastByte - 7) 3],
      let va := s.thr.ea (s.rs 1) 0
      (winUser ≤ va.toNat ∧ va.toNat < winUser + 2 ^ 44 ∧ va.toNat - winUser + widthBytes .d ≤ s.cl.spadBytes) ∧
      s.thr.lsBusy va (widthBytes .d) = false ∧ s.afterQueue (locsFrom (.own (va.toNat - winUser)) 8) = false ∧
      s.byBytes va (widthBytes .d) = false ∧ (s.cl.rsb = [] ∧ s.cl.latent = []) ∧ s.thr.hazard (2 :: 1 :: eaReads 0) [3] = none ∧
      s.thr.poisonedRead (2 :: 1 :: eaReads 0) = none ∧ s.poolPoisoned s.cc (va.toNat - winUser) (widthBytes .d) = false := by
  decide +kernel

/-- One byte of the misaligned access is left, and none of it is done yet. -/
theorem witness_ScratchpadLoadsAndStores_apart :
    let s (p : Option PartAccess) : State := { two (firstByte + 1) 3 (fun t => { t with part := p }) with apart := true }
    (s none).byBytes (firstByte + 1) 2 = true ∧ (s none).thr.partOf (firstByte + 1) 2 false = ⟨firstByte + 1, 2, false, 0, 0, false⟩ ∧
      ∀ b, (s (some ⟨firstByte + 1, 2, b, 1, 0, false⟩)).thr.partOf (firstByte + 1) 2 b = ⟨firstByte + 1, 2, b, 1, 0, false⟩ := by
  decide +kernel

/-- In machine mode, a store to the last word of a line of HBM4E. -/
theorem witness_NormalStores :
    let s := two 0x807C 3
    let va := s.thr.ea (s.rs 1) 0
    s.OperandsReady (2 :: 1 :: eaReads 0) [] ∧ s.thr.lsBusy va (widthBytes .w) = false ∧
    (match s.access s.cur s.thr.xlate pathLS .write va (widthBytes .w) with
      | .ok u l => decide (l = locsFrom (.mem 0x807C .normal) 4 ∧ u.cl.wcb = [] ∧ u.byBytes va (widthBytes .w) = false ∧
        u.thr.nearBusy (locsFrom (.mem 0x807C .normal) 4) = false) | _ => false) = true ∧
    0x807C % 128 + widthBytes .w ≤ 128 := by
  refine ⟨⟨rfl, rfl⟩, ?_, ?_, ?_⟩ <;> decide +kernel

theorem witness_OrderedAndPairedAccesses :
    (((two 0x8001 3).rs 1).toNat % widthBytes .h ≠ 0 ∧ (two 0x8001 3).OperandsReady [1, 2] [] ∧ (two 0x8001 3).OperandsReady [1] [3]) ∧
    (∀ s ∈ [two firstByte 3, two (lastByte - 15) 3],
      let va := s.rs 1
      winUser ≤ va.toNat ∧ va.toNat < winUser + 2 ^ 44 ∧ va.toNat - winUser + 16 ≤ s.cl.spadBytes ∧ va.toNat % 8 = 0 ∧
      va.toNat % widthBytes .d = 0 ∧ s.afterQueue (locsFrom (.own (va.toNat - winUser)) 16) = false ∧ (s.cl.rsb = [] ∧ s.cl.latent = []) ∧ s.thr.hazard [1, 2] [28, 29] = none ∧ s.thr.poisonedRead [1, 2] = none ∧
      s.poolPoisoned s.cc (va.toNat - winUser) 16 = false ∧ s.thr.lsBusy va 16 = false ∧ s.relWaits s.cur psLS .cell = false ∧
      (s.relDrain s.cur psLS .cell).relOpen s.cur psLS .cell = false ∧ s.thr.lsBusy va 8 = false ∧
      (Sparse.getD s.depcnt (bits (s.thr.csrGet csrPSTATE) 48 16) 0).getLsbD 63 = false) ∧
    ((28 : Reg).toNat % 2 = 0 ∧ (28 : Reg).toNat ≤ 28 ∧ (27 : Reg).toNat % 2 = 1 ∧ 28 < (30 : Reg).toNat) := by
  refine ⟨⟨by decide, ⟨rfl, rfl⟩, ⟨rfl, rfl⟩⟩, by decide +kernel, by decide⟩

theorem witness_AtomicOperations : 0 < 1 ∧ 0 < 64 := by decide

theorem witness_NearAndFarAtomics :
    (∀ s ∈ [two firstByte 3, two (lastByte - 7) 3],
      let va := s.rs 1
      winUser ≤ va.toNat ∧ va.toNat < winUser + 2 ^ 44 ∧ (s.cl.rsb = [] ∧ s.cl.latent = []) ∧ s.thr.fpEn = 0 ∧
      (s.relWaits s.cur psLS .module = false ∧ (s.relDrain s.cur psLS .module).relOpen s.cur psLS .module = false ∧ s.cl.wcb = []) ∧
      s.thr.hazard [1, 2, 3] [3] = none ∧ s.thr.poisonedRead [1, 2, 3] = none ∧ va.toNat % 8 = 0 ∧
      s.afterQueue (locsFrom (.own (va.toNat - winUser)) 8) = false ∧
      va.toNat - winUser + 8 ≤ s.cl.spadBytes ∧ s.poolPoisoned s.cc (va.toNat - winUser) 8 = false ∧ s.thr.lsBusy va 8 = false) ∧
    (let s := two firstByte 0x7FF0_0000_0000_0001 enabled
     let f := fun (y : Nat) => (amoApply .fadd 64 (fpRmOf (s.thr.csrGet csrFPCTL)) (s.poolRead s.cc 0 8) y 0).2.1
     s.thr.fpEn ≠ 0 ∧ f (s.rs 2).toNat &&& s.thr.fpEn ≠ 0 ∧ f 0 &&& s.thr.fpEn = 0) ∧
    (let s := two 0x8078 3
     s.OperandsReady [1, 2, 3] [3] ∧ (s.rs 1).toNat % 8 = 0 ∧ s.Released psFA .system ∧
     s.thr.lsBusy (BitVec.ofNat 64 ((s.rs 1).toNat / 128 * 128)) 128 = false ∧
     (match s.access s.cur s.thr.xlate pathFA .far (s.rs 1) 8 with
      | .ok u l => decide (l = locsFrom (.mem 0x8078 .normal) 8 ∧ u.cl.wcb = [] ∧ u.writeWaits (combOf s.cc) (0x8078 / 128) = false)
      | _ => false) = true) := by
  refine ⟨by decide +kernel, by decide +kernel, ⟨rfl, rfl⟩, by decide, ⟨by decide +kernel, by decide +kernel⟩, by decide +kernel, by decide +kernel⟩

theorem witness_FencesAndHints : (two 5 3).Released psAll .system ∧ (two 5 3).Released 1 .frame ∧ (two 5 3).underWay 0 psAll = false ∧
    Scope.cell ≠ .frame ∧ (two 5 3).thr.loop = none ∧ (1 : BitVec 5).getLsbD 0 = true ∧ (2 : BitVec 5).getLsbD 0 = false ∧
    (two 5 3).thr.mode = .machine :=
  ⟨⟨by decide +kernel, by decide +kernel⟩, ⟨by decide +kernel, by decide +kernel⟩, by decide +kernel, by decide, rfl, rfl, rfl, rfl⟩

/-- A partition with two tiles and two accumulators of 4096 bytes for thread 0 and a carve-out of two granules. -/
def tiledPart : Word := 0x0684_0000_0000_000C ||| (2 <<< 13) ||| (2 <<< 17) ||| (2 <<< 45) ||| (2 <<< 47)

/-- Thread 0 in a cell with that partition. -/
def tiled (x y : Word) (f : Thread → Thread := id) : State :=
  { two x y f with cells := [(0, { Cell.initial with partw := tiledPart })] }

theorem witness_ControlRegisterReads :
    (∃ p fs, csrInfo csrLEN = some (p, fs) ∧ p.code ≤ (two 5 3).thr.mode.code ∧ csrPends csrLEN = false) ∧
    (∃ p fs, csrInfo csrFPFLG = some (p, fs) ∧ p.code ≤ (two 5 3 inUser).thr.mode.code ∧ csrPends csrFPFLG = true ∧
      ∀ f ∈ fs, f.acc ≠ .rc) ∧
    (∃ p fs, csrInfo csrCELLERR = some (p, fs) ∧ p.code ≤ (two 5 3).thr.mode.code ∧ csrPends csrCELLERR = true) ∧
    ((two 5 3).OperandsReady [] [3] ∧ (two 5 3).thr.vq = [] ∧ (two 5 3).thr.tq = [] ∧ (two 5 3).cl.rsb.length < 32 ∧
      (two 5 3).cl.rsbStalls < 2 ^ 32) ∧
    (tileOfCsr csrACFG0 = some (true, 0) ∧ 0 < (tiled 5 3).cl.tileCount true (tiled 5 3).ct ∧ (tiled 5 3).thr.tileUnavailable = false) := by
  refine ⟨⟨_, _, rfl, by decide, by decide⟩, ⟨_, _, rfl, by decide, by decide, by decide⟩, ⟨_, _, rfl, by decide, by decide⟩,
    ⟨⟨rfl, rfl⟩, rfl, rfl, by decide, by decide⟩, rfl, by decide, rfl⟩

theorem witness_ControlRegisterWrites :
    csrInfo 0xFFF = none ∧ (∃ p fs, csrInfo csrDEVID = some (p, fs) ∧ p.code ≤ (two 5 3).thr.mode.code ∧ readOnly fs = true) ∧
    (∃ p fs, csrInfo csrPSTATE = some (p, fs) ∧ p.code ≤ (two 5 3).thr.mode.code ∧ readOnly fs = false) ∧
    (tileOfCsr csrPSTATE = none ∧ csrPSTATE ≠ csrLANECTL ∧ (two 5 3).thr.vq = [] ∧ (two 5 3).thr.tq = [] ∧
      (two 5 3).OperandsReady [1] [] ∧ (two 5 3).OperandsReady [1] [3]) ∧
    (∃ p fs, csrInfo csrLANECTL = some (p, fs) ∧ p.code ≤ (two 5 3).thr.mode.code ∧ readOnly fs = false) ∧
    (two 5 3).lanesIdle 0 = true ∧
    (let s : State := { two 5 3 with threads := (two 5 3).threads ++ [(1, { member1 with vq := [entry0] })] }
     s.lanesIdle 0 = false ∧ s.thr.vq = []) := by
  refine ⟨rfl, ⟨_, _, rfl, by decide, by decide⟩, ⟨_, _, rfl, by decide, by decide⟩, ⟨rfl, by decide, rfl, rfl, ⟨rfl, rfl⟩, ⟨rfl, rfl⟩⟩,
    ⟨_, _, rfl, by decide, by decide⟩, by decide +kernel, by decide +kernel, rfl⟩

theorem witness_TileConfigurationAndAccess :
    (1 < (tiled 5 3).cl.tileCount true 0 ∧ (tiled 5 3).cl.tileCount false 0 = 2 ∧ (tiled 5 3).thr.tileUnavailable = false ∧
      (tiled 5 3).OperandsReady [1] [3] ∧ (tiled 5 3).OperandsReady [1] [] ∧ (tiled 5 3).thr.vq = [] ∧ (tiled 5 3).thr.tq = []) ∧
    (∃ p fs, csrInfo (cfgCsr true 1) = some (p, fs) ∧
      shapeOk true ((tiled 5 3).cl.tileCap true) (writeFields fs .machine 0x0104_0040 (BitVec.allOnes 64) 0) = true ∧
      shapeOk true ((tiled 5 3).cl.tileCap true) (writeFields fs .machine 0x0204_0040 (BitVec.allOnes 64) 0) = false) ∧
    ((tiled 5 3).cl.tileCount false 0 ≤ (2 : BitVec 3).toNat ∧ (1 : BitVec 3).toNat < (tiled 5 3).cl.tileCount true 0 ∧
      (tiled 5 3 inUser).thr.mode = .user ∧ bits ((tiled 5 3 inUser).thr.csrGet csrTSTAT) 16 1 = 0) := by
  refine ⟨⟨by decide, by decide, rfl, ⟨rfl, rfl⟩, ⟨rfl, rfl⟩, rfl, rfl⟩, ⟨_, _, rfl, by decide +kernel, by decide +kernel⟩, by decide, by decide, rfl, rfl⟩

theorem witness_FieldAccess : (∃ p fs, csrInfo csrCELLERR = some (p, fs) ∧ (∀ f ∈ fs, f.lo + f.len ≤ 64) ∧
    (fs.Pairwise fun f g => f.lo + f.len ≤ g.lo ∨ g.lo + g.len ≤ f.lo) ∧ ∃ f ∈ fs, f.may .supervisor = true ∧ f.may .user = false) :=
  ⟨_, _, rfl, by decide, by decide, _, List.mem_cons_self, by decide, by decide⟩

/-- The thread has `n` elements of width code `ew`, its scalar operands in s1 and s2, and FPCTL `fp`. -/
def lanes (n ew : Word) (x y : Word) (fp : Word := 0) : State :=
  two x y fun t => { t with csr := [(csrFPCTL, fp), (csrLEN, n), (csrEW, ew)] }

theorem lanes_ready (n ew x y fp : Word) : (lanes n ew x y fp).VectorReady :=
  ⟨rfl, rfl, rfl, rfl, rfl, rfl, rfl, rfl, rfl, rfl, show (csrReset csrRINGCTL).getLsbD 0 = false by decide⟩

theorem witness_VectorIntegers : (lanes 512 0 5 3).VectorReady ∧ (lanes 64 3 5 3).VectorReady ∧ (lanes 64 3 5 3).thr.ewNow ≠ .e8 ∧
    (lanes 512 0 5 3).thr.ewNow = .e8 ∧ raisedBy 64 (fun _ => true) (fun _ => (0, 0)) &&& (lanes 512 0 5 3).thr.fpEn = 0 :=
  ⟨lanes_ready .., lanes_ready .., by decide, rfl, by decide +kernel⟩

theorem witness_VectorFloats : (lanes 64 3 5 3).VectorReady ∧ (lanes 64 3 5 3).thr.ewNow ≠ .e8 ∧ (lanes 256 1 5 3).thr.ewNow = .e16 ∧
    (1 ≤ (1 : BitVec 5).toNat ∧ (5 : BitVec 5).toNat ≤ 5 ∧ (fmtOfCode 1).width < ewBits .e64 ∧ (fmtOfCode 4).width < ewBits .e16) ∧
    raisedBy 2 (fun _ => true) (fun _ => fmtD.add .rne oneD oneD) &&& (lanes 2 3 5 3 0x7F).thr.fpEn = 0 :=
  ⟨lanes_ready .., by decide, rfl, by decide, by decide +kernel⟩

theorem witness_VectorDotsAndWidening : (lanes 256 1 5 3).VectorReady ∧ (lanes 256 1 5 3).thr.ewNow = .e16 ∧
    (lanes 512 0 5 3).thr.ewNow = .e8 ∧ (lanes 128 2 5 3).thr.ewNow = .e32 ∧ (4 : Reg).toNat % 2 = 0 ∧
    256 * ewBits .e16 ≤ (lanes 256 1 5 3).cl.rlen ∧ (lanes 256 1 5 3).cl.rlen ≤ 8192 ∧
    raisedBy 2 (fun _ => true) (fun _ => fmtS.add .rne 0x3F80_0000 0x3F80_0000) &&& (lanes 2 2 5 3 0x7F).thr.fpEn = 0 :=
  ⟨lanes_ready .., rfl, rfl, rfl, by decide, by decide, by decide, by decide +kernel⟩

theorem witness_VectorComparesAndMasks : (lanes 512 0 5 3).VectorReady ∧ (lanes 128 2 5 3).thr.ewNow ≠ .e8 ∧
    0 < (lanes 1 2 5 3).thr.lenNow ∧
    raisedBy 1 (fun _ => true) (fun j => ((decide (j = 0)).toNat, 0)) &&& (lanes 1 2 5 3 0x7F).thr.fpEn = 0 :=
  ⟨lanes_ready .., by decide, by decide, by decide⟩

theorem witness_PermutesAndReductions : (lanes 1 3 5 3).VectorReady ∧ 0 < (lanes 1 3 5 3).thr.lenNow ∧ (lanes 1 3 5 3).thr.ewNow ≠ .e8 ∧
    (fmtD.add .rne oneD oneD).2 &&& (lanes 1 3 5 3 0x7F).thr.fpEn = 0 :=
  ⟨lanes_ready .., by decide, by decide, by decide +kernel⟩

/-- v1 holds 1 and infinity, v2 holds 1 and minus infinity; element 1 of their sum is invalid. -/
def infinities : State :=
  one fun t => { t with
    csr := [(csrFPCTL, 0x7F), (csrLEN, 2), (csrEW, 3)]
    v := [(1, ⟨BitVec.ofNat 64 oneD, BitVec.ofNat 8128 infD⟩), (2, ⟨BitVec.ofNat 64 oneD, BitVec.ofNat 8128 ninfD⟩)] }

theorem witness_VectorTrapsAndWidths :
    (let val (i : Nat) := fmtD.add (infinities.thr.rmOf .dyn) (infinities.thr.elem 1 64 i) (infinities.thr.elem 2 64 i)
     infinities.VectorReady ∧ infinities.NotWaiting ∧ infinities.thr.ewNow ≠ .e8 ∧ infinities.thr.loop = none ∧ 1 < infinities.thr.lenNow ∧ 1 * 64 < 8192 ∧
      infinities.thr.on 31 false 1 = true ∧ raisedBy 1 (infinities.thr.on 31 false) val &&& infinities.thr.fpEn = 0 ∧
      (val 1).2 &&& infinities.thr.fpEn ≠ 0) ∧
    (lanes 2 0 5 3).VectorReady ∧ (lanes 2 0 5 3).thr.ewNow = .e8 ∧ (lanes 2 3 5 3).VectorReady ∧ (lanes 2 3 5 3).thr.ewNow = .e64 := by
  refine ⟨⟨⟨rfl, rfl, rfl, rfl, rfl, rfl, rfl, rfl, rfl, rfl, rfl⟩, ⟨by decide, fun w h => nomatch h⟩, by decide, rfl, by decide, by decide, rfl, ?_, ?_⟩, lanes_ready .., rfl, lanes_ready .., rfl⟩ <;> decide +kernel

/-- Every element of a vector access lies in the local window, unpoisoned. -/
def elementsFit (s : State) (nb n : Nat) (addr : Nat → Word) : Bool :=
  (List.range n).all fun i =>
    decide (winUser ≤ (addr i).toNat ∧ (addr i).toNat - winUser + nb ≤ s.cl.spadBytes) &&
      !s.poolPoisoned s.cc ((addr i).toNat - winUser) nb

/-- With ROWS `r`. -/
def rowsOf (r : Word) (s : State) : State := s.upd fun t => t.csrSet csrROWS r

theorem witness_VectorLoads :
    (∀ s ∈ [lanes 64 3 firstByte 8, lanes 64 3 (lastByte - 511) 8],
      (s.cl.rsb = [] ∧ s.cl.latent = []) ∧ elementsFit s 8 64 (fun i => s.rs 1 + BitVec.ofNat 64 (i * 8)) = true ∧
        elementsFit s 8 64 (fun i => s.rs 1 + BitVec.ofNat 64 i * s.rs 2) = true) ∧
    (lanes 64 3 firstByte 8).VectorReady ∧
    (let s := rowsOf 1 (lanes 64 3 firstByte 0); bits (s.thr.csrGet csrROWS) 0 11 * 64 ≤ s.cl.rlen / 64) ∧
    (let s := rowsOf 2 (lanes 64 3 firstByte 0); s.cl.rlen / 64 < bits (s.thr.csrGet csrROWS) 0 11 * 64) ∧
    (let s := lanes 2 3 (lastByte - 7) 0
     elementsFit s 8 1 (fun i => s.rs 1 + BitVec.ofNat 64 (i * 8)) = true ∧ s.thr.on 31 false 0 = true ∧ s.thr.on 31 false 1 = true ∧
       winUser ≤ (s.rs 1 + 8).toNat ∧ (s.rs 1 + 8).toNat < winUser + 2 ^ 44 ∧ s.cl.spadBytes < (s.rs 1 + 8).toNat - winUser + 8) := by
  refine ⟨by decide +kernel, lanes_ready .., by decide +kernel, by decide +kernel, by decide +kernel⟩

theorem witness_VectorStores :
    (∀ s ∈ [lanes 64 3 firstByte 8, lanes 64 3 (lastByte - 511) 8],
      (s.cl.rsb = [] ∧ s.cl.latent = []) ∧ elementsFit s 8 64 (fun i => s.rs 1 + BitVec.ofNat 64 (i * 8)) = true ∧
        elementsFit s 8 64 (fun i => s.rs 1 + BitVec.ofNat 64 i * s.rs 2) = true) ∧ (lanes 64 3 firstByte 8).VectorReady ∧
    (let s := rowsOf 1 (lanes 64 3 firstByte 0); bits (s.thr.csrGet csrROWS) 0 11 * 64 ≤ s.cl.rlen / 64) := by
  refine ⟨by decide +kernel, lanes_ready .., by decide +kernel⟩

theorem witness_LaneAtomics :
    (lanes 4 3 firstByte 0).VectorReady ∧ (lanes 4 2 firstByte 0).VectorReady ∧ (lanes 4 2 firstByte 0).thr.ewNow = .e32 ∧
    (let s := lanes 4 3 (lastByte - 7) 0
     (s.cl.rsb = [] ∧ s.cl.latent = []) ∧ s.thr.ewNow = .e64 ∧
       elementsFit s 8 4 (fun i => s.rs 1 + (BitVec.ofNat 64 (s.thr.elem 4 64 i)).signExtend 64) = true ∧
       (∀ i ∈ List.range 4, (s.rs 1 + (BitVec.ofNat 64 (s.thr.elem 4 64 i)).signExtend 64).toNat % 8 = 0) ∧
       raisedBy 4 (s.thr.on 31 false) (fun _ => (0, 0)) &&& s.thr.fpEn = 0) :=
  ⟨lanes_ready .., lanes_ready .., rfl, by decide +kernel⟩

/-- A spilled frame of no register at the start of the pool: LEN 4, EW 64, RLEN 32 * 128, version 1. -/
def frame0 : State :=
  { lanes 4 3 firstByte 0 with cells := [(0, { Cell.initial with pool := [(0, 4), (2, 3), (3, 32), (12, 1)] })] }

theorem witness_SpillAndFill :
    (let s := lanes 64 3 firstByte 0xFFFF_FFFF
     s.VectorReady ∧ (s.cl.rsb = [] ∧ s.cl.latent = []) ∧ winUser ≤ (s.rs 1).toNat ∧ (s.rs 1).toNat % 16 = 0 ∧ (s.rs 2).toNat < 2 ^ 32 ∧ s.cl.rlen ≤ 8192 ∧
       (s.rs 1).toNat - winUser + (16 + 32 * (16 * ((64 * 64 + 127) / 128))) ≤ s.cl.spadBytes ∧
       ¬ s.poolRead 0 12 2 = 1) ∧
    (frame0.VectorReady ∧ (frame0.cl.rsb = [] ∧ frame0.cl.latent = []) ∧ frame0.poolRead 0 12 2 = 1 ∧ frame0.poolRead 0 2 1 ≤ 3 ∧ 0 < frame0.poolRead 0 3 1 ∧
       frame0.poolRead 0 3 1 ≤ 64 ∧ frame0.poolRead 0 0 2 ≤ frame0.poolRead 0 3 1 * 128 / 64 ∧ frame0.poolRead 0 4 4 = 0 ∧
       0 + 16 ≤ frame0.cl.spadBytes ∧ frame0.poolPoisoned 0 0 16 = false) := by
  refine ⟨⟨lanes_ready .., ?_⟩, ⟨rfl, rfl, rfl, rfl, rfl, rfl, rfl, rfl, rfl, rfl, rfl⟩, ?_⟩ <;> decide +kernel

/-- A thread that may define rings, with ring 2 defined in its cell. -/
def ringing (w : Word) : State :=
  { two w 0 with cells := [(0, { Cell.initial with partw := tiledPart, rings := [(2, ⟨false, 1600, 16, 0, 0⟩)] })] }

/-- The words of RINGCFG name: no ring; ring 2 to be bound; ring 7 to be defined at the start of the carve-out with one
line, and with all its 64 lines; the reserved action. -/
theorem witness_VectorLengthAndRings :
    ((two 0 3).OperandsReady [1] [3] ∧ ((two 0 3).rs 1).toInt ≤ 0 ∧ (two 100 3).OperandsReady [] [31] ∧ 0 < ((two 100 3).rs 1).toInt ∧
      (Sparse.getD (two 5 3).depcnt (bits ((two 5 3).thr.csrGet csrPSTATE) 48 16) 0).getLsbD 63 = false) ∧
    ((ringing 0).OperandsReady [1] [] ∧ (ringing 0).thr.vq = [] ∧ 28 ≤ (28 : Reg).toNat) ∧
    ([(0 : Word), 0x4002_0000_0000_0000, 0x8007_0640_0001_0000, 0x8007_0640_0040_0000, 0xC000_0000_0000_0000].all fun w =>
      decide (bits w 51 10 = 0 ∧ bits w 43 5 = 0 ∧ bits w 25 7 = 0 ∧ bits w 0 16 = 0)) = true ∧
    ([(0x8007_0640_0001_0000 : Word), 0x8007_0640_0040_0000].all fun w => decide (
      bits w 62 2 = 2 ∧ 0 < bits w 16 9 ∧ bits w 16 9 ≤ 480 ∧ (ringing 0).cl.carveLo ≤ bits w 32 11 * 128 ∧
      (bits w 32 11 + bits w 16 9) * 128 ≤ (ringing 0).cl.carveHi)) = true ∧
    (bits (0 : Word) 62 2 = 0 ∧ bits (0x4002_0000_0000_0000 : Word) 62 2 = 1 ∧ bits (0xC000_0000_0000_0000 : Word) 62 2 = 3) ∧
    (∀ x ∈ (ringing 0x8007_0640_0040_0000).cellBindings, x.2.2 ≠ 7) ∧
    (ringing 0x8007_0640_0040_0000).bindRefused 28 7 false = false ∧ (ringing 0x4002_0000_0000_0000).bindRefused 31 2 false = false ∧
    Sparse.find? 2 (ringing 0x4002_0000_0000_0000).cl.rings = some ⟨false, 1600, 16, 0, 0⟩ := by
  refine ⟨⟨⟨rfl, rfl⟩, by decide, ⟨rfl, rfl⟩, by decide, rfl⟩, ⟨⟨rfl, rfl⟩, rfl, by decide⟩, by decide +kernel, by decide +kernel,
    by decide +kernel, ?_, ?_, ?_, rfl⟩ <;> decide +kernel

theorem witness_GeometricPredicatesAndSigns : (lanes 2 3 5 3).VectorReady ∧ (lanes 2 3 5 3).thr.ewNow = .e64 ∧ (lanes 2 2 5 3).thr.ewNow = .e32 ∧
    (12 : Reg).toNat + (5 * 3 + 5) ≤ 32 ∧ (11 : Reg).toNat < (12 : Reg).toNat ∧ (0 : Reg).toNat + (3 * 2) ≤ (6 : Reg).toNat ∧
    raisedBy 2 (fun _ => true) (fun _ => (0, 0x7F)) &&& (lanes 2 3 5 3).thr.fpEn = 0 :=
  ⟨lanes_ready .., rfl, rfl, by decide, by decide, by decide, by decide⟩

/-- A shape: format, rows and bytes of a row. -/
def shapeW (f r b : Nat) : Word := BitVec.ofNat 64 (f * 2 ^ 24 + r * 2 ^ 16 + b)

/-- Thread 0 in the cell of `tiled`, with the shapes of two tiles and two accumulators. -/
def shaped (t0 t1 a0 a1 : Word) (x y : Word := 0) : State :=
  tiled x y fun t => { t with csr := [(csrTCFG0, t0), (csrTCFG0 + 1, t1), (csrACFG0, a0), (csrACFG0 + 1, a1)] }

theorem shaped_cl (t0 t1 a0 a1 x y : Word) : (shaped t0 t1 a0 a1 x y).cl = { Cell.initial with partw := tiledPart } := by
  simp [shaped, tiled, two, one, State.cl, State.cell, Sparse.getD, Sparse.find?, cellOf, State.reset]

theorem shaped_ready (t0 t1 a0 a1 x y : Word) : (shaped t0 t1 a0 a1 x y).TileReady [(false, 0), (false, 1), (true, 0), (true, 1)] := by
  refine ⟨⟨rfl, rfl, rfl, rfl, by rw [shaped_cl]; rfl, rfl, rfl, rfl, rfl, rfl, show (csrReset csrRINGCTL).getLsbD 0 = false by decide⟩,
    .inl (by rw [shaped_cl]; rfl), rfl, rfl, ?_⟩
  rw [shaped_cl]
  show ∀ r ∈ [(false, 0), (false, 1), (true, 0), (true, 1)], r.2 < ({ Cell.initial with partw := tiledPart } : Machine.Cell).tileCount r.1 0
  decide

theorem witness_TileControl :
    let s := shaped (shapeW 0 4 64) 0 (shapeW 1 4 64) 0 (shapeW 0 64 64)
    let h (acc : Bool) := s.thr.shape acc 0
    s.TileReady [(false, 0), (false, 1), (true, 0), (true, 1)] ∧
    (shapeOk false (s.cl.tileCap false) (s.rs 1) = true ∧ shapeOk true (s.cl.tileCap true) (shapeW 2 4 64) = false) ∧
    (h false).rows * (h false).rb ≤ 4096 ∧ (3 : BitVec 6).toNat < (h false).rows ∧ (h true).rows ≤ (4 : BitVec 6).toNat ∧
    (h true).rb ≤ s.cl.rlen / 8 ∧ s.cl.rlen ≤ 8192 ∧ (s.thr.shape true 1).rows = 0 ∧
    s.cl.rlen / 8 < ((shaped (shapeW 0 1 4096) 0 0 0).thr.shape false 0).rb :=
  ⟨shaped_ready .., by decide +kernel⟩

theorem witness_TileTransposeAndConvert :
    (let s := shaped (shapeW 1 8 8) (shapeW 1 2 32) 0 0
     let d := s.thr.shape false 0
     let a := s.thr.shape false 1
     s.TileReady [(false, 0), (false, 1), (true, 0), (true, 1)] ∧ d.rows ≠ 0 ∧ d.rows * d.rb ≤ 4096 ∧ a.rows * a.rb ≤ 4096 ∧ (0 : BitVec 3) ≠ 1 ∧
     d.fmt = a.fmt ∧ a.fmt < 8 ∧ a.rows ≠ 0 ∧ d.rows = a.rb / fmtBytes a.fmt ∧ d.rb / fmtBytes a.fmt = a.rows) ∧
    (∀ p ∈ [(shapeW 2 2 16, shapeW 1 2 32), (shapeW 6 2 8, shapeW 7 2 32), (shapeW 7 2 32, shapeW 7 2 32), (shapeW 8 2 72, shapeW 1 2 256), (shapeW 10 2 40, shapeW 1 2 256)],
     let s := shaped p.1 0 0 p.2
     let d := s.thr.shape false 0
     let a := s.thr.shape true 1
     d.rows ≠ 0 ∧ d.rows * d.rb ≤ 4096 ∧ a.rows = d.rows ∧ d.elems = a.elems ∧ acvtOk a.fmt d.fmt = true ∧ s.thr.fpEn = 0) := by
  refine ⟨⟨shaped_ready .., ?_⟩, ?_⟩
  · decide +kernel
  · simp only [List.forall_mem_cons]
    refine ⟨?_, ?_, ?_, ?_, ?_, ?_⟩ <;> first | (intro _ h; cases h) | decide +kernel

/-- A tile of 4 rows of 64 bytes, or of 4 rows of two CB8 blocks, whose rows lie 64 bytes apart at the start of the local
window, with scale records half a page on. -/
def tileMem (f : Nat) : State :=
  let rb := if f = 8 then 72 else 64
  tiled 0 0 fun t => { t with
    v := [(2, ⟨firstByte, 0⟩), (3, ⟨firstByte + 2048, 0⟩)]
    csr := [(csrPITCH, 64), (csrTCFG0, shapeW f 4 rb)] }

/-- The hypotheses of the statement on each span of bytes. -/
def spansFit (s : State) (h : Shape) : Bool :=
  let cb : Bool := decide (8 ≤ h.fmt)
  let bb := cbBytes h.fmt
  let fits (va : Word) (n k : Nat) : Bool :=
    decide (winUser ≤ va.toNat ∧ va.toNat - winUser + n ≤ s.cl.spadBytes ∧ va.toNat % k = 0) && !s.poolPoisoned s.cc (va.toNat - winUser) n
  (List.range h.rows).all fun r =>
    if cb then (List.range h.nb).all fun j =>
      fits (s.rs 2 + BitVec.ofNat 64 (r * 64 + j * bb)) bb 1 && fits (s.rs 3 + BitVec.ofNat 64 (4 * (r * (64 / bb) + j))) 4 4
    else fits (s.rs 2 + BitVec.ofNat 64 (r * 64)) h.rb (fmtBytes h.fmt)

theorem witness_TileMemory : ((tileMem 0).VectorReady ∧ (tileMem 8).VectorReady) ∧
    ∀ f ∈ [0, 8], let s := tileMem f
      let h := s.thr.shape false 0
      (s.cl.rsb = [] ∧ s.cl.latent = []) ∧ s.cl.unit = none ∧ s.thr.tpoison = [] ∧ s.thr.tileUnavailable = false ∧ 0 < s.cl.tileCount false s.ct ∧
      shapeOk false (s.cl.tileCap false) (s.thr.csrGet (cfgCsr false 0)) = true ∧ h.rows ≠ 0 ∧ h.rows * h.rb ≤ 4096 ∧
      Sparse.getD s.thr.tcfgSeen 0 (s.thr.csrGet (cfgCsr false 0)) = s.thr.csrGet (cfgCsr false 0) ∧
      ((2 : Reg).toNat % 2 = 0 ∧ ((s.thr.csrGet csrPITCH).setWidth 32).toInt = 64 ∧ (64 : Int) % cbBytes 8 = 0) ∧ spansFit s h = true := by
  refine ⟨⟨⟨rfl, rfl, rfl, rfl, rfl, rfl, rfl, rfl, rfl, rfl, by decide⟩, ⟨rfl, rfl, rfl, rfl, rfl, rfl, rfl, rfl, rfl, rfl, by decide⟩⟩, ?_⟩
  simp only [List.forall_mem_cons]
  refine ⟨?_, ?_, ?_⟩ <;> first | (intro _ h; cases h) | decide +kernel

/-- The shapes of one matrix multiply-accumulate: accumulator, A and B. -/
def shapesFit (c a b : Word) : Bool :=
  let s := shaped a b c 0
  let hc := s.thr.shape true 0
  let ha := s.thr.shape false 0
  let hb := s.thr.shape false 1
  decide (hc.rows ≠ 0 ∧ ha.rows ≠ 0 ∧ hb.rows ≠ 0 ∧ ha.rows = hc.rows ∧ ha.elems = hb.elems ∧ hb.rows = hc.elems ∧
    hc.rows * hc.rb ≤ 4096 ∧ hc.rb % fmtBytes hc.fmt = 0 ∧ s.thr.fpEn = 0)

theorem witness_MatrixMultiply : (shaped (shapeW 0 2 8) (shapeW 0 2 8) (shapeW 0 2 16) 0).TileReady [(false, 0), (false, 1), (true, 0), (true, 1)] ∧
    ([(0, 0, 0, 8, 16), (1, 2, 2, 8, 16), (1, 3, 3, 8, 16), (1, 4, 4, 8, 16), (1, 4, 5, 8, 16), (1, 5, 4, 8, 16), (1, 5, 5, 8, 16),
      (7, 6, 6, 8, 16), (1, 8, 8, 72, 16), (1, 9, 9, 56, 16), (1, 10, 10, 40, 16)].all fun p =>
      shapesFit (shapeW p.1 2 p.2.2.2.2) (shapeW p.2.1 2 p.2.2.2.1) (shapeW p.2.2.1 (p.2.2.2.2 / fmtBytes p.1) p.2.2.2.1)) = true :=
  ⟨shaped_ready .., by decide +kernel⟩

/-- A copy of the elements of slot 2 (4 elements, one behind the other) from the start of the pool to byte 128. -/
def copyWord : BitVec 256 := BitVec.ofNat 256 (2 * 2 ^ 252 + 2 * 2 ^ 248 + 4 * 2 ^ 245 + 2 * 2 ^ 243 + 128 * 2 ^ 162)

/-- v1 holds `w`; the pattern slots are filled. -/
def streaming (w : BitVec 256) (f : Thread → Thread := id) : State :=
  one fun t => f { slots t with v := [(1, ⟨w.setWidth 64, (w.extractLsb' 64 192).setWidth 8128⟩)] }

/-- A queued command of slot `slot` on port `port`. -/
def command (slot port : Nat) : Cmd where
  slot := slot
  id := 0
  port := port
  word := copyWord
  pat := line 4
  xl := ⟨.machine, 0, 0, 0⟩
  fpctl := 0
  pc := 0x1000
  mcast := none
  running := false
  elem := 0
  mig := none
  held := []
  ending := false

/-- `s` with the stream queue `q` in cell 0. -/
def withStream (q : List Cmd) (s : State) : State := { s with cells := [(0, { Cell.initial with stream := q })] }

/-- A sealed batch of one command. -/
def batch (n : Nat) (done : Bool) : Batch := ⟨n, [⟨n, done, .ok, [], 0, none, 0, none⟩], false⟩

/-- Thread 0 is the member of a gang of level comb, with `x` in s1. -/
def castGang : Gang := { gang1 with desc := { desc1 with level := 2 }, cells := [0], slots := [0], stopped := false }
def casting (x : Word) : State := { two x 0 (fun t => { t with gang := some 0 }) with gangs := [(0, castGang)] }

theorem witness_StreamInstructions :
    (let s := streaming (line 4)
     s.thr.pend = [] ∧ s.thr.poison = [] ∧ (15 : BitVec 5).toNat < 16 ∧ 256 ≤ s.cl.rlen ∧ patOk ((s.thr.readV 1).setWidth 256) = true) ∧
    patOk (((streaming 0).thr.readV 1).setWidth 256) = false ∧ ((streaming 0).cmdRefused (((streaming 0).thr.readV 1).setWidth 256)).isSome = true ∧
    (let s := streaming copyWord
     s.cmdRefused copyWord = none ∧ s.thr.slotPat (swSlot copyWord) = some (line 4) ∧ swKind copyWord = some .copy ∧
       s.cmdFull (s.cmdSpans s.cur copyWord (line 4) .copy ++ cmdWindows copyWord (line 4) .copy) = false ∧
       (withStream (List.replicate 32 (command 1 4)) s).cmdFull (s.cmdSpans s.cur copyWord (line 4) .copy ++ cmdWindows copyWord (line 4) .copy) = true) ∧
    (let s := casting (128 : Word)
     let x := s.rs 1
     (s.gangOf s.cur).map (·.desc.level) = some 2 ∧ x.getLsbD 32 = false ∧ bits x 33 31 = 0 ∧ bits x 25 1 = 0 ∧ bits x 0 18 % 128 = 0 ∧
       bits x 0 18 + (bits x 18 7 + 1) * 128 ≤ s.cl.spadBytes ∧ ¬(32 ≤ s.cl.stream.length ∨ 16 ≤ s.cl.rsb.length) ∧
       32 ≤ (withStream (List.replicate 32 (command 1 4)) s).cl.stream.length) ∧
    (let s := one fun t => { t with batches := (List.range 15).map (batch · false) }
     let m := one fun t => { t with batches := (List.range 16).map (batch · false) }
     let n := one fun t => { t with batches := [batch 65535 true, batch 0 false] }
     s.thr.unfinished < 16 ∧ 16 ≤ m.thr.unfinished ∧ n.thr.unfinished ≤ (1 : BitVec 5).toNat ∧ (0 : BitVec 5).toNat < n.thr.unfinished ∧
       m.thr.unfinished ≤ (16 : BitVec 5).toNat ∧ (∀ x ∈ n.thr.batches, x.heldFault = none ∧ x.num < 65536) ∧
       n.thr.finishedBatches.map (·.num) = [65535]) ∧
    (bits ((two 5 3).rs 1) 16 48 = 0) ∧
    (∃ k ∈ (withStream [command 0 3] (two 5 3)).cl.stream, k.slot = 0 ∧ k.port = (3 : BitVec 5).toNat ∧ k.ending = false ∧
      (two 5 3).cmdFlying k = false ∧ (two 5 3).cmdInFlight k = false ∧
      ({ two 5 3 with net := [⟨.ncwr, 5, 0, 0, 0, false, some (NcOp.new (.stream 0 0))⟩] } : State).cmdInFlight k = true) ∧
    (∀ k ∈ (withStream [command 0 3] (two 5 3)).cl.stream, ¬(k.slot = 0 ∧ k.port = (2 : BitVec 5).toNat)) ∧
    (let s : State := { two 5 3 with cells := [(0, { Cell.initial with ports := [(3, ⟨0, 20, 4, 1, 2, none⟩)] })] }
     ∃ r ∈ s.cl.ports, r.1 = (3 : BitVec 5).toNat ∧ r.2.slot = s.cur ∧ r.2.due = none) := by
  refine ⟨?_, ?_, ?_, ?_, ?_, ?_, ?_, ?_, ?_, ?_⟩ <;> decide +kernel

/-- Barrier 5 of cell 0 is `b`; the barrier word is in s1, `y` in s2. -/
def barred (b : NBar) (y : Word) (f : Thread → Thread := id) : State :=
  { two 5 y f with cells := [(0, { Cell.initial with bars := [(5, b)], mc := [(3, 7)] })] }

theorem witness_BarriersAndMessages :
    (let s := barred ⟨.cell, 3, 0, 65535, 0, 0⟩ 65535
     s.OperandsReady [1, 2] [] ∧ s.OperandsReady [1] [3] ∧ (s.rs 1).toNat < 512 ∧ 0 < (s.rs 2).toNat ∧ (s.rs 2).toNat ≤ 65535 ∧
       (s.cl.bar 5).bind ≠ .gang ∧ (s.cl.bar 5).arr = 0 ∧ freed s psBar .cell = true ∧ (s.cl.bar 5).gen < 65536 ∧
       (s.rs 2).toNat = (s.cl.bar 5).gen ∧ ¬((s.cl.bar 5).arr + 1 = (s.cl.bar 5).exp) ∧ s.thr.tokens = []) ∧
    ((two 512 3).OperandsReady [1] [3] ∧ 512 ≤ ((two 512 3).rs 1).toNat ∧ ((two 5 3).cl.bar 5).bind ≠ .cell) ∧
    (let s := barred ⟨.cell, 3, 2, 9, 0, 0⟩ 8 fun t => { t with tokens := [⟨0x1000, 5, 8⟩] }
     (s.cl.bar 5).arr + 1 = (s.cl.bar 5).exp ∧ (s.rs 2).toNat ≠ (s.cl.bar 5).gen ∧ s.thr.arrived 5 = some ⟨0x1000, 5, 8⟩ ∧
       (s.cl.bar 5).gen ≠ 8) ∧
    (let s := barred .initial 0
     s.OperandsReady [1] [3] ∧ (s.rs 1).toNat < 2 ^ 32 ∧ 0 < (s.rs 1).toNat ∧ Sparse.getD s.cl.waiters (3 : BitVec 6).toNat [] = [] ∧
       (s.rs 1).toNat ≤ s.mcAt s.cc (3 : BitVec 6).toNat ∧ s.mcAt s.cc (4 : BitVec 6).toNat < (s.rs 1).toNat) ∧
    (let s := casting 0
     s.OperandsReady [1, 2] [] ∧ s.gangOf s.cur = some castGang ∧ freed s (psLS ||| psMS) (scopeOf s.cc (cellOf (castGang.slots.getD 0 0))) = true ∧ bits (s.rs 2) 28 36 = 0 ∧
       bits (s.rs 2) 0 19 < castGang.desc.n * castGang.desc.k) ∧
    ((two 0 3).rs 1 = 0 ∧ (two 65535 3).rs 1 ≠ 0 ∧ bits ((two 65535 3).rs 1) 16 48 = 0 ∧ bits ((two 65536 3).rs 1) 16 48 ≠ 0) ∧
    (10 ≤ (10 : BitVec 6).toNat ∧ (9 : BitVec 6).toNat < 10 ∧ (two 5 3).gangOf (two 5 3).cur = none) ∧
    (let s : State := { barred ⟨.gang, 1, 0, 4, 0, 0⟩ 4 (fun t => { t with gang := some 0 }) with gangs := [(0, castGang)], gbars := [(5, ⟨1, 4, [0], [], [], [], 0⟩)] }
     s.gangOf s.cur = some castGang ∧ (s.rs 1).toNat < 512 ∧ (s.cl.bar 5).bind = .gang ∧ s.OperandsReady [1, 2] [] ∧
       freed s psBar (levelScope castGang.desc.level) = true ∧ (s.rs 2).toNat = (s.cl.bar 5).gen ∧ s.thr.arrived 5 = none ∧ (s.gbar 0 5).genNow = 5 ∧
       s.gangPassed 5 (s.cl.bar 5) 5 = false ∧ s.gangPassed 5 (s.cl.bar 5) 3 = true) := by
  refine ⟨⟨⟨rfl, rfl⟩, ⟨rfl, rfl⟩, ?_⟩, ⟨⟨rfl, rfl⟩, ?_⟩, ?_, ⟨⟨rfl, rfl⟩, ?_⟩, ⟨⟨rfl, rfl⟩, ?_⟩, ?_, ?_, ⟨?_, ?_, ?_, ⟨rfl, rfl⟩, ?_⟩⟩ <;> decide +kernel

/-- What the reads of TKINIT find, with no stop. -/
def taskRead (s : State) (va : Word) : Option (State × Nat) :=
  if s.thr.lsBusy va 8 then none
  else match s.access s.cur s.thr.xlate pathLS .read va 8 with
  | .ok s' ls =>
    match s'.waitRead ls with
    | some _ => none
    | none =>
      let r := s'.readLocs s'.cur false s'.mode ls
      if s'.byBytes va 8 || r.2.1 then none else some (r.2.2, r.1)
  | _ => none

theorem taskRead_reads (s u : State) (va : Word) (v : Nat) (h : taskRead s va = some (u, v)) : ∀ k, s.lsReadClean va 8 k = k u v := by
  intro k
  unfold taskRead at h
  unfold State.lsReadClean State.lsRead State.reach
  split at h
  · cases h
  · rename_i hb
    try simp only [hb]
    split at h
    · rename_i hr
      try simp only [hr]
      split at h
      · cases h
      · rename_i hx
        try simp only [hx]
        dsimp only at h
        split at h
        · cases h
        · rename_i hp
          simp only [Bool.or_eq_true, not_or, Bool.not_eq_true] at hp
          simp only [Option.some.injEq, Prod.mk.injEq] at h
          simp [hp.1, hp.2, h.1, h.2]
    · cases h

/-- Counter 7 of frame 0 is `c`; thread 0 has `n` in s1 and an aligned address in s2 and `m` in s3. -/
def counting (c : Counter) (n m : Word) : State :=
  { one (fun t => { t with v := [(1, ⟨n, 0⟩), (2, ⟨firstByte + 64, 0⟩), (3, ⟨m, 0⟩)] }) with ctrs := [(7, c)] }

/-- A task ready in a queue. -/
def ready1 : Ready := ⟨7, 3, 0, 0, 0x4000, true, 2, 1⟩

theorem witness_Tasks :
    (let s := counting ⟨2, true, 0x4000, 7, true, 2, 1, []⟩ 7 0
     bits (s.rs 1) 20 44 = 0 ∧ s.OperandsReady [1] [] ∧ s.OperandsReady [1] [3] ∧ freed s psAll .module = true ∧ 2 ≤ (s.ctr 0 7).count ∧
       (s.ctr 0 7).prio < 8 ∧ (s.ctr 0 7).count < 65536) ∧
    (let s := counting ⟨1, true, 0x4000, 7, true, 2, 1, []⟩ 7 0
     (s.ctr 0 7).count = 1 ∧ (s.readyQ 0 7).length < readyCap ∧ s.heldTasks 0 7 = []) ∧
    (let s := counting ⟨0, false, 0x4000, 7, true, 2, 1, []⟩ 7 65535
     (s.ctr 0 7).count = 0 ∧ s.OperandsReady [3, 1, 2] [] ∧ bits (s.rs 3) 16 48 = 0 ∧ (s.rs 2).toNat % 64 = 0 ∧ 0 < (s.rs 3).toNat ∧
     ∃ (u : State) (v : Nat), (∀ k, (s.relDrain s.cur psAll .module).lsReadClean (s.rs 2) 8 k = k u v) ∧ u.cur = s.cur ∧
       u.threads = s.threads ∧ bits (BitVec.ofNat 64 v : Word) 16 48 = 0 ∧ bits (BitVec.ofNat 64 v : Word) 10 2 = 0 ∧
       (u.ctr 0 7).count = 0) ∧
    (bits ((two 0x10_0000 0).rs 1) 20 44 ≠ 0) ∧
    (let s : State := { two 0 0 with ready := [(3, [ready1])] }
     bits (s.rs 1) 4 60 = 0 ∧ s.OperandsReady [1] [3] ∧ s.nextTask 0 = some ready1 ∧ Sparse.getD s.pops 0 [] = [] ∧
       (two 0 0).nextTask 0 = none ∧ (two 0 0).cur ∉ Sparse.getD (two 0 0).pops 0 []) := by
  refine ⟨⟨?_, ⟨rfl, rfl⟩, ⟨rfl, rfl⟩, ?_⟩, ?_, ⟨?_, ⟨rfl, rfl⟩, ?_, ?_, ?_, ?ex⟩, ?_, ⟨?_, ⟨rfl, rfl⟩, ?_⟩⟩
  case ex =>
    let s := counting ⟨0, false, 0x4000, 7, true, 2, 1, []⟩ 7 65535
    obtain ⟨r, hr⟩ := Option.isSome_iff_exists.1
      (show (taskRead (s.relDrain s.cur psAll .module) (s.rs 2)).isSome = true by decide +kernel)
    have hq : ∀ x ∈ taskRead (s.relDrain s.cur psAll .module) (s.rs 2), x.1.cur = s.cur ∧ x.1.threads = s.threads ∧
        bits (BitVec.ofNat 64 x.2 : Word) 16 48 = 0 ∧ bits (BitVec.ofNat 64 x.2 : Word) 10 2 = 0 ∧ (x.1.ctr 0 7).count = 0 := by
      decide +kernel
    exact ⟨r.1, r.2, taskRead_reads _ _ _ _ hr, hq r hr⟩
  all_goals decide +kernel

/-! ### Single steps, with results that the spec works out or that follow from a rule by hand -/

theorem test_add_wraps : ask (exec (.add false 3 1 2) (two (-1) 1)) (fun t => (t.rs 3, t.thr.pc)) = some (0, 0x1004) := by decide +kernel

/-- R286: the low 32 bits, sign-extended. -/
theorem test_sub32 : ask (exec (.sub32 false 3 1 2) (two 0x1_0000_0000 1)) (·.rs 3) = some (-1) := by decide +kernel

/-- R286: the shift amount is taken modulo 64. -/
theorem test_sll : ask (exec (.sll false 1 1 2) (two 3 65)) (·.rs 1) = some 6 := by decide +kernel
theorem test_ror : ask (exec (.ror false 3 1 2) (two 1 1)) (·.rs 3) = some 0x8000_0000_0000_0000 := by decide +kernel

theorem test_mulhs : ask (exec (.mulhs false 3 1 2) (two (-1) 1)) (·.rs 3) = some (-1) := by decide +kernel
theorem test_mulhus : ask (exec (.mulhus false 3 1 2) (two (-1) (-1))) (·.rs 3) = some (-1) := by decide +kernel

/-- The worked values of R286: −7 / 2 = −3 with remainder −1, on their way. -/
theorem test_div : ask (exec (.div false 3 1 2) (two (-7) 2)) State.onTheWay = some [(3, some (-3))] := by decide +kernel
theorem test_rem : ask (exec (.rem false 3 1 2) (two (-7) 2)) State.onTheWay = some [(3, some (-1))] := by decide +kernel

/-- R287: −2^63 by −1 saturates. -/
theorem test_div_saturates : ask (exec (.div false 3 1 2) (two 0x8000_0000_0000_0000 (-1))) State.onTheWay =
    some [(3, some 0x7FFF_FFFF_FFFF_FFFF)] := by decide +kernel

/-- The worked values of R289. -/
theorem test_bfx : ask (exec (.bfx false 2 1 60 3) (two 0xA000_0000_0000_0000 0)) (·.rs 2) = some (-6) := by decide +kernel
theorem test_bfxu : ask (exec (.bfxu false 2 1 60 3) (two 0xA000_0000_0000_0000 0)) (·.rs 2) = some 10 := by decide +kernel
theorem test_bfi : ask (exec (.bfi false 2 1 4 3) (two 0x5 0xFFF)) (·.rs 2) = some 0xF5F := by decide +kernel

/-- R259: offsets count words, from the branch itself. -/
theorem test_blt : ask (exec (.blt false 1 2 0x7FFF) (two (-1) 0)) (·.thr.pc) = some 0xFFC := by decide +kernel
theorem test_jalr : ask (exec (.jalr false 1 1 5) (two 0x2002 0)) (fun t => (t.rs 1, t.thr.pc)) = some (0x1004, 0x2004) := by decide +kernel
theorem test_subbr : ask (exec (.subbr false 1 2 2) (two 2 1)) (fun t => (t.rs 1, t.thr.pc)) = some (1, 0x1008) := by decide +kernel

/-- The worked values after R300: division by zero with and without its flag enabled. -/
theorem test_fdiv_dz : ask (exec (.fdiv false 3 1 2 .d .rne) (two 0x3FF0_0000_0000_0000 0)) State.onTheWay =
    some [(3, some 0x7FF0_0000_0000_0000)] := by decide +kernel
theorem test_fdiv_dz_trap : ask (exec (.fdiv false 3 1 2 .d .rne) (two 0x3FF0_0000_0000_0000 0 fun t => { t with csr := [(csrFPCTL, 2)] }))
    (fun t => (t.rs 3, t.thr.csrGet csrMCAUSE, t.thr.csrGet csrMTVAL, t.thr.csrGet csrFPFLG, t.thr.csrGet csrMEPC, t.thr.csrGet csrMSEPC)) =
    some (0, 0x06, 0x02, 0x02, 0x1000, 0x1000) := by decide +kernel

/-- 1 + 2 in binary32 leaves the upper half zero (R211). -/
theorem test_fadd_s : ask (exec (.fadd false 3 1 2 .s .rne) (two 0xFFFF_FFFF_3F80_0000 0x4000_0000)) (·.rs 3) = some 0x4040_0000 := by decide +kernel

/-- The worked case of R301: CCLR with s1 = 0x7F clears every flag. -/
theorem test_cclr : ask (exec (.cclr false 31 1 0x001) (two 0x7F 0 fun t => { t with csr := [(csrFPFLG, 0x55)] }))
    (fun t => t.thr.csrGet csrFPFLG) = some 0 := by decide +kernel
theorem test_cset : ask (exec (.cset false 3 1 0x002) (two 0x40 0)) (fun t => (t.rs 3, t.thr.csrGet csrXSEL)) = some (0x0F, 0x4F) := by decide +kernel

/-- R303, R235 to R238: the environment call from U mode enters S mode with SEPC behind it. -/
theorem test_trap : ask (exec (.trap false 1) (two 9 0 fun t => { t with mode := .user, csr := [(csrTVEC, 0x8000)] }))
    (fun t => (t.thr.mode, t.thr.pc, t.thr.csrGet csrCAUSE, t.thr.csrGet csrTVAL, t.thr.csrGet csrEPC, t.thr.csrGet csrSEPC)) =
    some (.supervisor, 0x8000, 0x15, 9, 0x1000, 0x1004) := by decide +kernel
theorem test_tret : ask (exec (.tret false) (two 9 0 fun t => { t with csr := [(csrMSEPC, 0x2000), (csrMPSTATE, 0x2)] }))
    (fun t => (t.thr.mode, t.thr.pc, bits (t.thr.csrGet csrMPSTATE) 0 1)) = some (.user, 0x2000, 1) := by decide +kernel

/-- R5, R17: a store is little-endian; R11: an address that wraps out of the user half faults. -/
theorem test_st : ask (exec (.st false 2 1 .w 4) (two firstByte 0x1122_3344)) (fun t => (t.poolByte 0 4, t.poolByte 0 7, t.poolByte 0 8)) =
    some (0x44, 0x11, 0) := by decide +kernel
theorem test_ld_not_canonical : ask (exec (.ld false 3 1 .d 16) (two 0x003F_FFFF_FFFF_FFF8 0 inUser))
    (fun t => (t.thr.csrGet csrCAUSE, t.thr.csrGet csrTVAL)) = some (0x07, 0x0040_0000_0000_0008) := by decide +kernel
theorem test_ldu : ask (exec (.ldu false 3 1 .b 1) ({ two firstByte 0 with cells := [(0, { Cell.initial with pool := [(1, 0x80)] })] }))
    State.onTheWay = some [(3, some 0x80)] := by decide +kernel

/-- R361: the .w forms act on the low 32 bits and give the old value sign-extended. -/
theorem test_amoadd : ask (exec (.amoadd false 3 1 2 false .relaxed .cell)
      ({ two firstByte 1 with cells := [(0, { Cell.initial with pool := [(0, 0xFF), (1, 0xFF), (2, 0xFF), (3, 0xFF)] })] }))
    (fun t => (State.onTheWay t, t.poolRead 0 0 8)) = some ([(3, some (-1))], 0) := by decide +kernel

/-- The worked case of R318: s0 = 100 at EW 64 with RLEN 4,096 gives LEN = 64. -/
theorem test_setvl : ask (exec (.setvl false 4 1 .e64) (two 100 0)) (fun t => (t.rs 4, t.thr.lenNow)) = some (64, 64) := by decide +kernel

/-- The worked case of R326: VWHILE with s5 = 60, s6 = 64 and LEN = 8. -/
theorem test_vwhile : ask (exec (.vwhile false 0 1 2 31) (lanes 8 2 60 64)) (fun t => t.thr.readM 0) = some 0x0F := by decide +kernel

/-- Lanes of a byte wrap on their own; a saturating add raises SAT. -/
theorem test_vadd : ask (exec (.vadd false 3 1 2 31) (lanes 2 0 0x01FF 0x0101)) (fun t => t.rs 3) = some 0x0200 := by decide +kernel
theorem test_vsadd : ask (exec (.vsadd false 3 1 2 31 false) (lanes 1 0 0x7F 0x01))
    (fun t => (t.rs 3, t.thr.csrGet csrFPFLG)) = some (0x7F, (flSAT.setWidth 64 : Word)) := by decide +kernel

/-- The worked case of R335: duplicate indices resolve in element order. -/
def ordered : State :=
  { one fun t => { t with
      csr := [(csrLEN, 4), (csrEW, 2)]
      v := [(1, ⟨0x0000_0008_0000_0000, 0x0000_0040_0000_0000⟩), (2, ⟨0x0000_0002_0000_0001, 0x0000_0004_0000_0003⟩), (4, ⟨firstByte, 0⟩)] } with
    cells := [(0, { Cell.initial with pool := [(0, 10), (8, 20), (64, 30)] })] }
theorem test_vamoadd : ask (exec (.vamoadd false 2 4 1 31) ordered)
    (fun t => ((List.range 4).map (t.thr.elem 2 32), t.poolRead 0 0 4, t.poolRead 0 8 4, t.poolRead 0 64 4)) =
    some ([10, 20, 11, 30], 14, 22, 34) := by decide +kernel

/-- The worked case of R400: four orientations, one degenerate, one that needs exact arithmetic, one with an infinity. -/
def triangles : State :=
  let r (a b c d : Nat) : VReg := ⟨BitVec.ofNat 64 a, BitVec.ofNat 8128 (b + c * 2 ^ 64 + d * 2 ^ 128)⟩
  one fun t => { t with
    csr := [(csrLEN, 4), (csrEW, 3)], m := [(0, 0xF)]
    v := [(0, r 0 0 0x3FE0_0000_0000_0000 0), (1, r 0 0 0x3FE0_0000_0000_0000 0),
      (2, r 0x3FF0_0000_0000_0000 0x3FF0_0000_0000_0000 0x4028_0000_0000_0000 0x7FF0_0000_0000_0000),
      (3, r 0 0x3FF0_0000_0000_0000 0x4028_0000_0000_0000 0), (4, r 0 0x4000_0000_0000_0000 0x4038_0000_0000_0000 0),
      (5, r 0x3FF0_0000_0000_0000 0x4000_0000_0000_0000 0x4038_0000_0000_0001 0x3FF0_0000_0000_0000)] }
theorem test_vorient2 : ask (exec (.vorient2 false 20 0 4 true) triangles)
    (fun t => ((List.range 4).map (t.thr.elem 20 64), bits (t.thr.readM 4 |>.setWidth 64) 0 4)) =
    some ([1, 0, 1, 0], 2) := by decide +kernel

/-- R353: one element of TMMA.I8 adds the signed products of a row of A and a row of B. -/
theorem test_tmma_i8 : ask (exec (.tmmaI8 false 0 0 1)
      ((shaped (shapeW 6 1 8) (shapeW 6 1 8) (shapeW 7 1 4) 0).upd fun t => { t with
        tiles := [(0, 0x02_FF), (1, 0x05_03)], accs := [(0, 10)], csr := Sparse.set csrACFG0 (shapeW 7 1 8) t.csr
          |> Sparse.set (csrTCFG0 + 1) (shapeW 6 2 8) }))
    (fun t => t.thr.tileAt true 0 0 4) = some 17 := by decide +kernel

/-- R59: the size and the place of the registers of a frame: LEN 100 at EW 32 with v4 to v7 takes 1,616 bytes. -/
theorem test_vspill : ask (exec (.vspill false 1 2) (lanes 100 2 firstByte 0xF0)) (fun t => (t.poolRead 0 0 2, t.poolRead 0 4 4, t.poolRead 0 8 4)) =
    some (100, 0xF0, 1616) := by decide +kernel

/-- R380: the last arrival begins the next generation, and BARRIVE returns the one it arrived in. -/
theorem test_barrive : ask (exec (.barrive false 3 1) (barred ⟨.cell, 2, 1, 9, 0, 0⟩ 0))
    (fun t => (State.onTheWay t, (t.cl.bar 5).gen, (t.cl.bar 5).arr)) = some ([(3, some 9)], 10, 0) := by decide +kernel

/-- R381: MWAIT takes its count from the counter. -/
theorem test_mwait : ask (exec (.mwait false 3 1 3) (barred .initial 0)) (fun t => (t.rs 3, t.mcAt 0 3)) = some (7, 2) := by decide +kernel

/-- R188: the last decrement releases the counter's task. -/
theorem test_tkdec : ask (exec (.tkdec false 1) (counting ⟨1, true, 0x4000, 5, false, 0, 0, []⟩ 7 0))
    (fun t => ((t.readyQ 0 5).map (·.task), (t.ctr 0 7).armed)) = some ([0x4000], false) := by decide +kernel

/-- R265: the word of zeros is illegal: in M mode the trap stays in M mode with the word in TVAL. -/
theorem test_zero_word : ask (exec (.illegalInstruction 0) (two 5 3)) (fun t => (t.thr.mode, t.thr.csrGet csrMCAUSE, t.thr.csrGet csrMTVAL)) =
    some (.machine, 0x01, 0) := by decide +kernel

/-- R256, R193: from the boot ROM the machine fetches DIV s3, s1, s2 and goes on behind it; reset with the word placed runs it. -/
theorem test_step_fetches : (match step (State.reset.withFetchWord 32 0x0230_8848) with
    | .next t => decide (t.thr.pc = (State.reset.withFetchWord 32 0x0230_8848).thr.pc + 4) | _ => false) = true := by decide +kernel

/-- What RELAY and LAUNCH find of a descriptor, with no stop. -/
def descRead (s : State) (a : Word) : Option (State × Desc) :=
  if a.toNat % 256 ≠ 0 then none
  else if s.thr.lsBusy a 256 then none
  else
    match s.access s.cur s.thr.xlate pathLS .read a 1 with
    | .ok s' l =>
      if !descMemory l then none
      else
        match s'.waitRead (locsFrom (l.headD (.own 0)) 256) with
        | some _ => none
        | none =>
          if (s'.readLocs s'.cur false s'.mode (locsFrom (l.headD (.own 0)) 256)).2.1 then none
          else
            match ((s'.readLocs s'.cur false s'.mode (locsFrom (l.headD (.own 0)) 256)).2.2.touchCtx (descOf a (descWords (s'.readLocs s'.cur false s'.mode (locsFrom (l.headD (.own 0)) 256)).1)).ctx).descCheck
                (if s'.mode = .user then some (bits (s'.thr.csrGet csrPSTATE) 48 16) else none) a
                (descWords (s'.readLocs s'.cur false s'.mode (locsFrom (l.headD (.own 0)) 256)).1) with
            | .ok d => some ((s'.readLocs s'.cur false s'.mode (locsFrom (l.headD (.own 0)) 256)).2.2.touchCtx (descOf a (descWords (s'.readLocs s'.cur false s'.mode (locsFrom (l.headD (.own 0)) 256)).1)).ctx, d)
            | .error _ => none
    | _ => none

theorem descRead_reads (s w : State) (a : Word) (d : Desc) (h : descRead s a = some (w, d)) : ∀ f, s.readDesc a f = f w d := by
  intro f
  unfold descRead at h
  unfold State.readDesc State.reach
  split at h
  · cases h
  · rename_i h1
    rw [if_neg h1]
    split at h
    · cases h
    · rename_i h2
      try simp only [h2]
      split at h
      · rename_i hr
        try simp only [hr]
        split at h
        · cases h
        · rename_i h3
          rw [if_neg h3]
          split at h
          · cases h
          · rename_i hw
            try simp only [hw]
            split at h
            · cases h
            · rename_i h4
              rw [if_neg h4]
              split at h
              · rename_i h5
                try simp only [h5]
                simp only [Option.some.injEq, Prod.mk.injEq] at h
                obtain ⟨rfl, rfl⟩ := h
                rfl
              · cases h
      · cases h

/-- Thread 0 is the member of a gang of one cell; the context table is at address 0 and a descriptor of such a gang, which
accepts nothing, at 0x4000, whose two lines comb 0's slice holds. s1 holds `a` and s2 holds `m`. -/
def kernel (a m : Word) (f : Thread → Thread := id) : State :=
  { two a m (fun t => f { t with gang := some 0 }) with
    gangs := [(0, { gang1 with cells := [0], slots := [0], stopped := false })]
    regs := [(combReg 0 0xC_0010, 1)]
    mem := [(7, 0x80), (0x4001, 0x10), (0x4008, 0x0C), (0x400E, 0x80), (0x400F, 0x06), (0x4010, 1), (0x4012, 32), (0x4014, 44), (0x4017, 1)] }
  |>.setSlice 0 (0x4000 / 128) { SliceLine.invalid with st := .e } |>.setSlice 0 (0x4000 / 128 + 1) { SliceLine.invalid with st := .e }

theorem witness_KernelOperations :
    let s := kernel 0x4000 0
    let u := s.relDrain s.cur psAll .module
    (s.thr.inBody = false ∧ s.OperandsReady [1] [] ∧ s.OperandsReady [1, 2] [] ∧ freed s psAll .module = true ∧ s.thr.descHeld = none ∧
      s.thr.gang = some 0 ∧ (Sparse.find? 0 s.gangs).isSome = true ∧ s.thr.vq = [] ∧ s.thr.tq = [] ∧ s.cl.rendez = none) ∧
    (∃ (w : State) (d : Desc), (∀ f, u.readDesc (s.rs 1) f = f w d) ∧ w.cur = s.cur ∧ w.thr.pc = s.thr.pc ∧
      (w.queue (unitOf d.level (frameOfComb (combOf s.cc))) d.prio).length < launchCap) ∧
    (∃ c v, ∀ f, ((kernel 0x4004 0).relDrain 0 psAll .module).readDesc 0x4004 f =
      ((kernel 0x4004 0).relDrain 0 psAll .module).trap { code := c, tval := v }) ∧
    (∃ (w : State) (d : Desc), (∀ f, s.readDesc (s.rs 1) f = f w d) ∧ w.cur = s.cur ∧ w.threads = s.threads ∧
      w.relayCheck d 1 = some 0x13 ∧ w.relayCheck d (s.rs 2) = none ∧
      w.relayWaits 0 ((partCell d.partw).spg * 4096) (rscopeOf d.rscope) = false ∧
      (w.drainAll w.cc).relOpen w.cur psAll (rscopeOf d.rscope) = false ∧ d.partw = w.cl.partw ∧ w.gangs = s.gangs) ∧
    (let h := kernel 0x4000 0 fun t => { t with descRead := some ⟨0x1000, desc1⟩ }
     h.thr.descHeld = some desc1 ∧
       launchCap ≤ (({ h with queues := [(3, List.replicate 256 (Launch.new desc1))] } : State).queue
         (unitOf desc1.level (frameOfComb (combOf h.cc))) desc1.prio).length) ∧
    ((kernel 0x4000 0 fun t => { t with descRead := some ⟨0x1000, desc1⟩, vq := [entry0] }).thr.vq ≠ []) := by
  intro s u
  refine ⟨⟨rfl, ⟨rfl, rfl⟩, ⟨rfl, rfl⟩, by decide +kernel, rfl, rfl, rfl, rfl, rfl, rfl⟩, ?_, ⟨0x10, 0x4004, fun f => ?_⟩, ?_,
    by decide +kernel, by decide +kernel⟩
  · obtain ⟨r, hr⟩ := Option.isSome_iff_exists.1 (show (descRead u (s.rs 1)).isSome = true by decide +kernel)
    have hq : ∀ x ∈ descRead u (s.rs 1), x.1.cur = s.cur ∧ x.1.thr.pc = s.thr.pc ∧
        (x.1.queue (unitOf x.2.level (frameOfComb (combOf s.cc))) x.2.prio).length < launchCap := by decide +kernel
    exact ⟨r.1, r.2, descRead_reads _ _ _ _ hr, hq r hr⟩
  · unfold State.readDesc
    rw [if_pos (by decide)]
  · obtain ⟨r, hr⟩ := Option.isSome_iff_exists.1 (show (descRead s (s.rs 1)).isSome = true by decide +kernel)
    have hq : ∀ x ∈ descRead s (s.rs 1), x.1.cur = s.cur ∧ x.1.threads = s.threads ∧ x.1.relayCheck x.2 1 = some 0x13 ∧
        x.1.relayCheck x.2 (s.rs 2) = none ∧ x.1.relayWaits 0 ((partCell x.2.partw).spg * 4096) (rscopeOf x.2.rscope) = false ∧
        (x.1.drainAll x.1.cc).relOpen x.1.cur psAll (rscopeOf x.2.rscope) = false ∧
        x.2.partw = x.1.cl.partw ∧ x.1.gangs = s.gangs := by decide +kernel
    exact ⟨r.1, r.2, descRead_reads _ _ _ _ hr, hq r hr⟩

/-- The fence of slot 0 has reached comb 1 and is on its way to comb 0. -/
def acking : State := { two 5 3 with fences := [⟨0, 3, 5, true, [0, 1], [1]⟩] }

theorem witness_ThreadEvents :
    (∀ p ∈ [Park.running, .idle],
      let u := (two 5 3 fun t => { pendingInt t with mode := .user, park := p }).thread 0
      u.interruptible = true ∧ u.intCode = some 3 ∧ u.vq = [] ∧ (two 5 3).unitChecks 0 = false) ∧
    ({ two 5 3 (fun t => { t with tq := [{ entry0 with kind := .tmmaI8, fpctl := 0x7F }] }) with cells := [(0, { Cell.initial with unit := some 0 })] } : State).unitChecks 0 = true ∧
    ((two 5 3).thr.intCode = none ∧ (two 5 3).thr.vq = [] ∧ (two 5 3).thr.inBody = false) ∧
    (let p : Pend := ⟨.scalar, 31, .all, some 7, false, 3, none, none, 0, some 64⟩
     ((two 5 3 fun t => { t with pend := [p] }).thread 0).pend.find? (fun p => p.value.isSome && p.far.isNone) = some p ∧ p.reg < 32) ∧
    (let s : State := { two 5 3 (fun t => { t with park := .yield 8 false }) with cycle := 7 }
     (s.thread 0).park = .yield 8 false ∧ s.cycle < 8 ∧ ({ s with cycle := 8 } : State).cycle = 8) ∧
    (let s : State := { two 5 3 (fun t => { t with park := .starting }) with cells := [(0, { Cell.initial with succ := [(0, ⟨desc1, 0, 0, 0⟩)] })] }
     (s.thread 0).live = true ∧ (s.thread 0).park = .starting ∧ (s.thread 0).stopped = false ∧ (s.cell 0).clear ≤ s.cycle ∧
       Sparse.find? 0 (s.cell 0).succ = some ⟨desc1, 0, 0, 0⟩ ∧ (s.thread 0).resident = true ∧
       Sparse.find? 0 ((two 5 3).cell 0).succ = none) ∧
    (let s : State := { two 5 3 with cells := [(0, { Cell.initial with laneNext := some (0, 1, 31, 2, false) })] }
     (s.cell 0).laneNext = some (0, 1, 31, 2, false) ∧ s.lanesIdle 0 = true) ∧
    (acking.fences.find? (fun f => decide (f.slot = 0) && f.here.elem 1) = some ⟨0, 3, 5, true, [0, 1], [1]⟩ ∧
      (∃ f ∈ acking.fences, f.slot = 0 ∧ 0 ∈ f.waiting) ∧ (acking.combFence 1 3 5).combBusy 1 = false ∧
      (acking.combFence 1 3 5).combStreams 1 3 5 = false ∧
      ({ acking with cells := [(17, { Cell.initial with stream := [{ command 68 4 with held := [⟨0, false, 0, 1, 0x87F, 0, 0⟩] }] })] } : State).combStreams 1 3 5 = true ∧
      (({ acking with accepted := [⟨1, 5, 0, 0, false, 17⟩] } : State).combFence 1 3 5).combBusy 1 = true) ∧
    (acking.fences.find? (fun f => decide (f.slot = 0) && !f.sent) = none ∧
      ({ acking with fences := [⟨0, 3, 5, false, [], []⟩] } : State).fences.find? (fun f => decide (f.slot = 0) && !f.sent) =
        some ⟨0, 3, 5, false, [], []⟩) := by
  refine ⟨?_, ?_, ?_, ?_, ?_, ?_, ?_, ?_, ?_⟩ <;> decide +kernel

/-- A register of the window holds `v`. -/
def reg (o : Nat) (v : Word) (s : State) : State := { s with regs := [(o, v)] }

/-- An image of no task at 0x8000. -/
def emptyImage : State :=
  { State.reset with mem := [(0x8000, 0x42), (0x8001, 0x55), (0x8002, 0x52), (0x8003, 0x4D), (0x8004, 1), (0x8006, 1), (0x8012, 1), (0x8013, 1)] }

/-- Reset with start-up as `f` makes it. -/
def booting (f : Boot → Boot) : State := { State.reset with boot := f .initial }

theorem witness_HostAndBootEvents :
    (bits (State.reset.dev (hpstatKey 0)) 63 1 = 0 ∧ bits ((reg (hpstatKey 0) (1 <<< 63) State.reset).dev (hpstatKey 0)) 63 1 = 1) ∧
    (State.reset.mcAt 0 0 < 2 ^ 32 - 1) ∧
    (State.reset.hostq = [] ∧ State.reset.requests .host = [] ∧ (booting fun b => { b with minimal := true }).boot.minimal = true ∧
      ({ State.reset with homes := [(256, ⟨hostPkt .ncwr 256 (NcOp.new .host), 0, false, false, false, false, false, [], []⟩)] } : State).requests .host ≠ []) ∧
    (Sparse.find? (0x8000 / 128) State.reset.homes = none ∧ (State.reset.dirOf (0x8000 / 128)).st = .i ∧ State.reset.blocks = [] ∧
      State.reset.mpoison = [] ∧ State.reset.msc = [] ∧ State.reset.slices = []) ∧
    ((State.reset.physLoc (State.reset.barPa 0x8000) .nc true) = some (.mem 0x8000 .nc) ∧
      (State.reset.physLoc (State.reset.barPa 0x201_0000_0000) .nc false) = some (.dev 0)) ∧
    (bits (0x3F : Word) 6 2 = 0 ∧ State.reset.boot.stage = 1 ∧ (booting fun b => { b with stage := 2 }).startable 5 = true) ∧
    (State.reset.wdogDue = false ∧ (booting fun b => { b with wdogFrom := some 0 }).wdogDue = decide ((State.reset.dev (propolisReg 8)).setWidth 32 = 0#32)) ∧
    ({ booting (fun b => { b with wdogFrom := some 0 }) with cycle := 2 ^ 40 } : State).wdogDue = true ∧
    (State.reset.boot.minimal = false ∧ State.reset.boot.alarmPending = []) ∧
    (let s := booting fun b => { b with floodFrom := some 0, reached := [(0, (0, 0))] }
     Sparse.find? 0 s.boot.reached = some (0, 0) ∧ meshNext 0 1 = some 1 ∧ s.boot.floodFrom.isSome = true ∧ (s.port 0 1).failed = false ∧
       Sparse.find? 1 s.boot.reached = none ∧ NatSet.has s.boot.replies 0 = false ∧ NatSet.has s.boot.replied 0 = false ∧
       s.linkDown 0 = false) ∧
    (match exec (.wgctl 5) State.reset with
      | .next t => decide ((({ t with cycle := 9 } : State).readyHeads 0 1).find? (·.isWaggle) ≠ none)
      | _ => false) = true ∧
    (0 < 17 ∧ (two 5 3).running (0 * 17 + 0) = true ∧ (two 5 3).mcAt (0 * 17 + 0) 63 < 2 ^ 32 - 1) ∧
    (let s : State := { booting (fun b => { b with floodFrom := some 0 }) with cycle := 65536 }
     s.boot.floodFrom = some 0 ∧ 0 + 65536 ≤ s.cycle) ∧
    ((booting fun b => { b with bcast := some (1, 0, 0, 0) }).boot.bcast = some (1, 0, 0, 0)) ∧
    (({ State.reset with frozen := true } : State).frozen = true ∧ State.reset.frozen = false ∧ State.reset.boot.policy = 0 ∧
      (booting fun b => { b with policy := 1 }).boot.policy ≠ 0 ∧ State.reset.boot.keys = true) ∧
    (combReg 1 0x8_0000 % 8 = 0 ∧ combReg 1 0x8_0000 % 0x10_0000 ∉ [0x9_0000, 0xB_0000, 0xD_0000] ∧
      combReg 1 0x8_0000 ∉ [combReg 0 0xE_0000, combReg 0 0xE_0018, blockReg 8 0x2_0008, propolisReg 8]) ∧
    ((emptyImage.burCheck 0x8000).isSome = true ∧ ∀ lv ∈ [2, 3, 4], (emptyImage.queue (unitOf lv 0) 0).length < launchCap) := by
  refine ⟨?_, ?_, ?_, ?_, ?_, ?_, ?_, ?_, ?_, ?_, ?_, ?_, ?_, ?_, ?_, ?_, ?_⟩ <;> decide +kernel

/-- Page 0 of every space is mapped to page 0 of memory, with all that a user may do; the context table is at address 0, its
first context may be pre-empted, and a descriptor of a gang of one cell is at 0x4000. -/
def mapped (c : Nat) (s : State) : State :=
  { s with
    cells := [(c, { Cell.initial with tlb := [⟨0, true, 0, 1, 0x87F, 0, 0⟩] })]
    regs := [(combReg 0 0xC_0000, 0x1_0000_0005), (combReg 0 0xC_0010, 1)]
    mem := [(7, 0xC0), (32, 1), (0x4001, 0x10), (0x4008, 0x0C), (0x400E, 0x80), (0x400F, 0x06), (0x4010, 1), (0x4012, 32), (0x4014, 44), (0x4017, 1)] }

/-- A launch of `desc1` waits at scheduler 0. -/
def placing : State := mapped 0 { State.reset with queues := [(3, [Launch.new desc1])] }

/-- A gang of level comb and lower priority holds every comb of frame 0 while that launch waits. -/
def crowded : State :=
  { placing with cycle := 9, gangs := [(0, { gang1 with desc := { desc1 with level := 2, prio := 2 }, stopped := false, combs := frameCombs 0, cells := [0] })] }

/-- The gang of cell 1 changed by `f`, its page mapped. -/
def ending (f : Gang → Gang) : State := mapped 1 { State.reset with gangs := [(0, f { gang1 with members := [(0, .retired)], stopped := false })] }

/-- The gang after its release: what it waited for is performed. -/
def released (g : Gang) : Gang := { g with trigDone := true, rel := some (0, []) }

/-- The completion word's address is translated, and the gang is still there. -/
def doneReached (s : State) : Bool :=
  match (s.touchCtx 0).resolve 1 (s.schedXlate 0) pathFA .far 0x8000 8 with
  | .ok s' (.mem pa _ :: _) => decide (pa = 0x8000) && (Sparse.find? 0 s'.gangs).isSome
  | _ => false

/-- The descriptor of a trigger list is read and checked, with `n` launches in its queue. -/
def triggerRead (s : State) (n : Nat) : Bool :=
  (match (s.touchCtx 0).resolve 1 (s.schedXlate 0) pathLS .read 0x4000 1 with
    | .ok _ l => descMemory l
    | _ => false) &&
  match Sparse.find? 0 s.gangs with
  | some g =>
    match s.readTrigger 0 g 0x4000 with
    | (w, some (some d)) => decide ((w.queue (unitOf d.level 0) d.prio).length = n) && (Sparse.find? 0 w.gangs).isSome
    | _ => false
  | none => false

/-- A message from slot 0 to slot 4. -/
def letter : Deposit := ⟨0, 4, 9, 1, 2, false⟩

theorem witness_SchedulingEvents_place :
    ((placing.queue 0 3).head? = some (Launch.new desc1) ∧ (Launch.new desc1).ready = true ∧
      ((placing.findPlace 0 [] desc1).map (·.cells)) = some [0] ∧ (∀ q ∈ [4, 5, 6, 7], placing.queue 0 q = []) ∧
      desc1.k ≤ 4 ∧ desc1.n ≤ 1 ∧ [0].Nodup) ∧
    ((crowded.queue 0 3).head? = some (Launch.new desc1) ∧ (Launch.new desc1).ready = true ∧
      (crowded.findPlace 0 [] desc1).isNone = true ∧ (crowded.gangs.map (·.2.victim)) = [none] ∧ bits (crowded.gsctl 0) 32 1 = 1 ∧
      bits (crowded.gsctl 0) 0 32 ≤ crowded.cycle - Sparse.getD crowded.headSince 3 0 ∧
      ((crowded.findPlace 0 ((crowded.gangs.filter fun e => crowded.mayPreempt 3 e.1 e.2).map (·.1)) desc1).map (crowded.overlapping 1)) = some [0] ∧
      (∀ e ∈ crowded.gangs, e.2.victim = none) ∧ ∀ q ∈ [4, 5, 6, 7], crowded.queue 0 q = []) ∧
    bits ((reg (combReg 0 0xC_0000) 5 State.reset).gsctl 0) 32 1 = 0 := by
  refine ⟨?_, ?_, ?_⟩ <;> decide +kernel

theorem witness_SchedulingEvents_gangs :
    (let g := { gang1 with victim := some 0, stopped := false }
     let s : State := { State.reset with gangs := [(0, g)], cycle := 1048576 }
     Sparse.find? 0 s.gangs = some g ∧ g.late = false ∧ 0 + 1048576 ≤ s.cycle ∧ g.frame < 8) ∧
    (let s := ending fun g => { g with trigDone := true }
     let g := (Sparse.find? 0 s.gangs).getD gang1
     g.complete = true ∧ g.trigDone = true ∧ g.doneAdded = false ∧ g.trigLeft = [] ∧ g.desc.done = 0) ∧
    (let s := ending fun g => { released g with desc := { g.desc with done := 0x8000 } }
     let g := (Sparse.find? 0 s.gangs).getD gang1
     g.desc.done ≠ 0 ∧ g.doneBack = none ∧ g.doneSent = false ∧ g.mig = none ∧ s.schedPerformed g = true ∧ doneReached s = true ∧
       ({ s with accepted := [⟨0, 5, 7, 1, false, 0⟩] } : State).schedPerformed { g with rel := some (0, [⟨0, 5, 7, 1, false, 0⟩]) } = false) ∧
    (gang1.complete = false ∧ gang1.trigDone = false ∧ gang1.trigComplete = false ∧ { gang1 with triggered := [0] }.trigComplete = true ∧
      gang1.rel = none) ∧
    triggerRead (ending fun g => { released g with trigLeft := [0x4000] }) 0 = true ∧
    triggerRead { ending fun g => { released g with trigLeft := [0x4000] } with queues := [(3, List.replicate 256 (Launch.new desc1))] } 256 = true ∧
    (let s : State := { ending fun g => { g with trigDone := true, trigLeft := [0x4000], trigDesc := some desc1 } with
        queues := [(3, List.replicate 256 (Launch.new desc1))] }
     ((Sparse.find? 0 s.gangs).map (·.trigDesc)) = some (some desc1) ∧ 256 ≤ (s.queue (unitOf desc1.level 0) desc1.prio).length) := by
  refine ⟨?_, ?_, ?_, ?_, ?_, ?_, ?_⟩ <;> decide +kernel

/-- A gang of level frame over combs 0 and 1, with its tree in entry 0 of both routers; every one of its two members has
arrived at barrier 5 in generation 7, `below` the routers, and a completion is on its way down from the root. -/
def arriving (below : Sparse Nat) : State :=
  let g := { gang1 with combs := [0, 1], cells := [0, 17], desc := { desc1 with level := 3, n := 2 } }
  { State.reset with
    gangs := [(0, g)], gbars := [(5, ⟨2, 7, [0, 1], below, [genAt 7 0], [], 1⟩)]
    cells := [(0, { Cell.initial with bars := [(5, ⟨.gang, 2, 0, 7, 0, 0⟩)] })]
    regs := [(treeReg 0 0, g.treeEntry 0), (treeReg 1 0, g.treeEntry 1)] }

theorem witness_SchedulingEvents_tree :
    (let b : GBar := ⟨2, 7, [0, 1], [(genAt 7 0, 1), (genAt 7 1, 1)], [genAt 7 0], [], 1⟩
     let s := arriving b.below
     let g := (Sparse.find? 0 s.gangs).getD gang1
     let e1 := s.treeAt g 1
     Sparse.find? (0 * 512 + 5) s.gbars = some b ∧ genAt 7 1 % 1024 = 1 ∧ genAt 7 1 / 1024 = 7 ∧
       (e1.getLsbD 63 = true ∧ bits e1 36 4 ≠ 0 ∧ (g.subtree 1).length ≤ 1 ∧ meshNext 1 (bits e1 36 4 - 1) = some 0) ∧
       (s.treeAt g 0).getLsbD 63 = true ∧ bits (s.treeAt g 0) 36 4 = 0 ∧ 1 < 2 ∧ b.genNow = 8 ∧ s.arrivalsBelow 0 5 g b 0 7 = true ∧
       s.arrivalsBelow 0 5 g b 1 7 = false) ∧
    (let s := arriving [(genAt 7 0, 2)]
     let g := (Sparse.find? 0 s.gangs).getD gang1
     Sparse.getD [(genAt 7 0, 2)] (genAt 7 0) 0 = 2 ∧ bits (s.treeAt g 0) 36 4 = 0 ∧ (s.treeAt g 0).getLsbD (32 + 1) = true ∧ meshNext 0 1 = some 1 ∧
       (s.treeAt g 0).getLsbD 0 = true ∧ ((s.cell 0).bar 5).bind = .gang ∧ ((s.cell 0).bar 5).gid = 0 ∧
       ([genAt 7 0].find? fun k => decide (k % 1024 = 0)) = some (genAt 7 0) ∧ (∀ k ∈ [genAt 7 0], k % 1024 ≠ 1) ∧
       (∀ x ∈ [(genAt 7 0, 2)], x.1 % 1024 ≠ 1) ∧ (State.reset.treeAt g 1).getLsbD 63 = false) ∧
    (let g := { gang1 with combs := [0, 1], cells := [17, 17], desc := { desc1 with level := 3, n := 2 } }
     let b : GBar := ⟨2, 7, [0], [(genAt 7 1, 1)], [], [], 1⟩
     1 < (g.subtree 1).length ∧ b.genNow = 7) := by
  refine ⟨?_, ?_, ?_⟩ <;> decide +kernel

theorem witness_SchedulingEvents_rest :
    (let s : State := { State.reset with msgs := [letter, letter], cycle := 9, threads := [(4, { Thread.empty with mbWrote := some (1, 9) })] }
     s.msgs[0]? = some letter ∧ s.msgs.take 0 = [] ∧ s.mcAt 1 2 < 2 ^ 32 - 1 ∧ letter.nodep = false ∧ letter.mb < 4 ∧
       (s.thread letter.slot).mbWrote = some (letter.mb, s.cycle) ∧
       (∃ o ∈ s.msgs.take 1, cellOf o.from_ = cellOf letter.from_ ∧ cellOf o.slot = cellOf letter.slot)) ∧
    (let s : State := { State.reset with ctrs := [(7, ⟨0, false, 0x4000, 3, false, 0, 0, [ready1]⟩)] }
     (s.readyQ 0 3).length < 4096 ∧ firstHeld (s.heldTasks 0 3) = some ready1 ∧ ∀ q ∈ [4, 5, 6, 7], s.heldTasks 0 q = []) ∧
    bits ((reg (combReg 0 0xB_0000) 0 State.reset).dev (combReg (frameComb 0) 0xB_0000)) 0 1 = 0 ∧
    (let s : State := { reg (combReg 0 0xB_0000) 1 State.reset with ready := [(3, [ready1])], cycle := 65536 }
     bits (s.dev (combReg (frameComb 0) 0xB_0000)) 0 1 = 1 ∧ s.readyQ 0 3 = [ready1] ∧ ready1.since + 65536 ≤ s.cycle ∧
       s.heldTasks 0 4 = [] ∧ ∀ q ∈ [0, 1, 2, 4, 5, 6, 7], s.readyQ 0 q = []) := by
  refine ⟨?_, ?_, ?_, ?_⟩ <;> decide +kernel

/-- Threads 0 and 1 of cell 0 with vector queues `p` and `q` and tile queues `t` and `u`; `f` changes the cell. -/
def queued (p q t u : List QEntry) (f : Machine.Cell → Machine.Cell := id) : State :=
  { State.reset with
    threads := [(0, { Thread.empty with live := true, resident := true, vq := p, tq := t, pc := 0x1004 }),
      (1, { Thread.empty with live := true, resident := true, vq := q, tq := u, pc := 0x1004 })]
    cells := [(0, f { Cell.initial with partw := tiledPart ||| 1 })] }

/-- The outcome is one that ends the entry. -/
def ends (o : VOut) : Bool := match o with | .done _ => true | _ => false
/-- The outcome is one that leaves it at the head. -/
def goesOn (o : VOut) : Bool := match o with | .more _ _ => true | _ => false

/-- VMV v3, v28 with an empty ring bound to v28; TZERO t0; TMMA.I8; an orientation of one element. -/
def popping : QEntry := { entry0 with kind := .vmv, a := 28, ringEn := true, ringTo := 1, rings := [some 2, none, none, none] }
def zeroing : QEntry := { entry0 with kind := .tzero, d := 0 }
def multiplying : QEntry := { entry0 with kind := .tmmaI8, d := 0, a := 0, b := 1 }
def orienting : QEntry := { entry0 with kind := .vorient2, d := 20, a := 0, len := 1 }
def loading : QEntry := { entry0 with kind := .tld, d := 0, sa := firstByte, pitch := 64 }

/-- Thread 0 runs an orientation of `n` elements whose queues of escalated elements are `q`, with `m` settled. -/
def escalating (n : Nat) (q : Sparse (List Nat)) (m : NatSet) : State :=
  (queued [{ orienting with len := n }] [] [] []).updThread 0 fun t => { t with pred := some ⟨0, [(0, 1)], q, m⟩ }

/-- How a stage of an instruction went: 0 it waits, 1 it goes on, 2 it is done. -/
def outcomeOf (o : VOut) : Nat := match o with | .wait _ => 0 | .more _ _ => 1 | .done _ => 2 | _ => 3

theorem witness_QueueEvents_lanes :
    ((State.reset.thread 0).vq = [] ∧ (State.reset.thread 0).ringSince = none) ∧
    (let s := queued [entry0] [entry0] [] []
     s.qHead 1 false = some entry0 ∧ s.noGroups 1 entry0 = false ∧ s.lanesFor 1 = [] ∧ (s.qStep 1 false).2 = true) ∧
    (let e := { entry0 with k := 0 }
     let s := queued [e] [] [] []
     s.qHead 0 false = some e ∧ s.noGroups 0 e = true) ∧
    (let s := queued [entry0] [entry0] [] []
     let s1 := s.laneSteps 0 (s.lanesFor 0)
     let s2 := s1.updThread 0 fun t => { t with lead := t.lead.filterMap fun e => if e.2 ≤ 1 then none else some (e.1, e.2 - 1) }
     s.qHead 0 false = some entry0 ∧ s.noGroups 0 entry0 = false ∧ s.lanesFor 0 ≠ [] ∧ entry0.kind.geom = none ∧
       (s.thread 0).issuedAt ≠ some s.cycle ∧ s1.groupDone 0 = true ∧ (s.thread 0).vq = [entry0] ∧ (s.thread 0).tq = [] ∧
       ends (s2.vecStep 0 entry0 (entry0.prog.getD ((s.thread 0).csrGet csrESI))) = true) ∧
    (let s := (queued [entry0] [] [] []).updThread 0 fun t => { t with issuedAt := some 0 }
     0 ∈ s.lanesFor 0 ∧ (s.thread 0).issuedAt = some s.cycle ∧
       ((s.portSlip 0 (s.lanesFor 0)).1.laneSteps 0 (s.portSlip 0 (s.lanesFor 0)).2).groupDone 0 = false) ∧
    (let e := { entry0 with len := 64 }
     let s := queued [e] [] [] []
     let s1 := s.laneSteps 0 (s.lanesFor 0)
     let s2 := s1.updThread 0 fun t => { t with lead := t.lead.filterMap fun e => if e.2 ≤ 1 then none else some (e.1, e.2 - 1) }
     s.lanesFor 0 ≠ [] ∧ s1.groupDone 0 = true ∧ goesOn (s2.vecStep 0 e 0) = true) ∧
    (let e := { entry0 with len := 64 }
     let s := (queued [e] [] [] []).updThread 0 fun t => { t with lead := [(0, 8)] }
     s.lanesFor 0 ≠ [] ∧ 0 ∉ s.lanesFor 0) ∧
    (let s := queued [orienting] [] [] []
     s.qHead 0 false = some orienting ∧ s.noGroups 0 orienting = false ∧ s.lanesFor 0 ≠ [] ∧ orienting.kind.geom.isSome = true ∧
       s.stageNext 0 orienting 0 = some 0 ∧ (s.thread 0).vActive orienting 0 = true) ∧
    (let s := queued [popping] [] [] [] fun c => { c with rings := [(2, ⟨false, 1600, 16, 0, 0⟩)] }
     let u := { s.thread 0 with ringSince := some ⟨2, 0, 0, 0⟩ }
     let t : State := { s.setThread 0 u with cycle := 2 }
     popping.ringTo ≠ 0 ∧ 0 + popping.ringTo < t.cycle ∧ ({ t with cycle := 1 } : State).cycle ≤ 0 + popping.ringTo ∧ (t.qStep 0 false).2 = false ∧
       t.ringBlocks 0 popping 1 = some 28) := by
  refine ⟨?_, ?_, ?_, ?_, ?_, ?_, ?_, ?_, ?_⟩ <;> decide +kernel

theorem witness_QueueEvents_tiles :
    (let s := queued [] [] [zeroing] [] fun c => { c with unit := some 0 }
     (s.cell 0).unit = some 0 ∧ zeroing.kind.isTmma = false ∧ (s.thread 0).vq = [] ∧ (s.thread 0).stopped = false ∧ s.inReplay 0 = false ∧
       ends (s.tileStep 0 zeroing 0) = true ∧ multiplying.kind.isTmma = true) ∧
    (let s := (queued [] [] [loading] [] fun c => { c with unit := some 0 }).updThread 0 fun t => { t with csr := [(csrTCFG0, shapeW 0 4 64)] }
     goesOn (s.tileStep 0 loading 0) = true) ∧
    ((queued [] [] [] []).cell 0).unit = none ∧ ((queued [] [] [] [] fun c => { c with unit := some 0 }).cell 0).unit.isSome = true ∧
    (let s := queued [] [] [multiplying] []
     let j (i : Nat) : Nat := ((s.cell 0).mlast + 1 + i) % 4
     (s.cell 0).unit = none ∧ (s.thread (0 * 4 + j 0)).tq ≠ [] ∧ s.tmmaRefused (0 * 4 + j 0) = true) ∧
    (let s := (queued [] [] [multiplying] [] fun c => { c with unit := some 0 }).updThread 0 fun t =>
       { t with csr := [(csrTCFG0, shapeW 6 2 8), (csrTCFG0 + 1, shapeW 6 4 8), (csrACFG0, shapeW 7 2 16)] }
     (s.cell 0).unit = some 0 ∧ s.tmmaRefused 0 = false ∧ ends (s.tileStep 0 multiplying 0) = true) := by
  refine ⟨?_, ?_, ?_, ?_, ?_, ?_⟩ <;> decide +kernel

theorem witness_QueueEvents_escalations : ∀ g, orienting.kind.geom = some g →
    (let s := escalating 1 [(0, [0])] []
     let s1 := s.updThread 0 (·.settleHead orienting 0)
     (s.thread 0).pred = some ⟨0, [(0, 1)], [(0, [0])], []⟩ ∧ Sparse.getD ((s.thread 0).predOf orienting).queues 0 [] = 0 :: [] ∧
       orienting.seq = 0 ∧ (Pred.mk 0 [(0, 1)] [(0, [0])] []).busy[s.cycle / 2 % 1]? = some 0 ∧ outcomeOf (s1.geomFlush 0 orienting g) = 2) ∧
    (let e := { orienting with len := 16 }
     let s1 := (escalating 16 [(0, [0])] [1]).updThread 0 (·.settleHead e 0)
     outcomeOf (s1.geomFlush 0 e g) = 1) ∧
    (let e := { orienting with len := 16 }
     let s1 := (escalating 16 [(0, [1]), (1, [2])] []).updThread 0 (·.settleHead e 0)
     outcomeOf (s1.geomFlush 0 e g) = 0) ∧ (Pred.mk 0 [(0, 1)] [(0, [])] []).busy = [] := by
  intro g h
  cases h
  refine ⟨?_, ?_, ?_, ?_⟩ <;> decide +kernel

/-- Cell 0 of a gang of two cells with the stream queue `q` and routes `r`. -/
def engine (q : List Cmd) (r : Sparse Route := []) : State :=
  { State.reset with
    apart := false
    threads := [(0, { Thread.empty with live := true, resident := true, gang := some 0, openCmds := [⟨0, false, .ok, [], 0, none, 0, none⟩] })]
    gangs := [(0, { gang1 with cells := [0, 1], slots := [0, 4], desc := { desc1 with level := 2, n := 2 }, stopped := false })]
    cells := [(0, { Cell.initial with stream := q, ports := r })] }

/-- A send of 32 elements, 128 bytes, to byte 256 of member cell 1 on port 0, counted in counter 3; and a multicast. -/
def sendWord : BitVec 256 := BitVec.ofNat 256 (2 * 2 ^ 252 + 2 * 2 ^ 248 + 1 * 2 ^ 243 + 1 * 2 ^ 204 + 3 * 2 ^ 198 + 256 * 2 ^ 162)
def sending : Cmd := { command 0 0 with word := sendWord, pat := line 32, running := true }
def casting8 : Cmd := { command 0 8 with mcast := some (0x0800_0000, 0), pat := line 32, running := true }

theorem witness_StreamEvents_engine :
    (let k := command 0 4
     let s := engine [k]
     (s.cell 0).stream.find? (fun k => decide (k.port = 4)) = some k ∧ k.running = false ∧ k.ending = false ∧ s.mayStart 0 k = true ∧ swRel k.word = false ∧
       (s.cell 0).runningCmd 4 = none) ∧
    (let k := { command 0 4 with word := copyWord + BitVec.ofNat 256 (2 ^ 233) }
     let s := engine [k]
     let v := s.relDrain 0 psAll .module
     s.mayStart 0 k = true ∧ swRel k.word = true ∧ k.mcast = none ∧ v.relOpen 0 psAll .module = false ∧ (v.cell 0).stream = [k] ∧
       (({ s with accepted := [⟨0, 5, 7, 1, false, 0⟩] } : State).relDrain 0 psAll .module).relOpen 0 psAll .module = true) ∧
    (let k := { command 0 4 with running := true, ending := true }
     let s := engine [k]
     (s.cell 0).stream.find? (fun k => decide (k.port = 4) && k.running) = some k ∧ s.cmdFlying k = false ∧ s.cmdInFlight k = false ∧
       s.apart = false ∧ (s.cell 0).runningCmd 5 = none) ∧
    (let k := { command 0 4 with running := true }
     let s := engine [k]
     let src (i : Nat) : Nat := ((swSpoff k.word : Int) + patOffset k.pat i).toNat
     let dst (i : Nat) : Nat := swDspoff k.word + i * 4
     (s.cell 0).stream.find? (fun k => decide (k.port = 4) && k.running) = some k ∧ k.ending = false ∧ k.mig = none ∧ k.kind = .copy ∧ swCvt k.word = false ∧ k.elem = 0 ∧ patEsz k.pat = 4 ∧ patCount k.pat = 4 ∧
       (∀ i ∈ List.range 4, dst i / 128 = dst 0 / 128 ∧ s.poolPoisoned 0 (src i) 4 = false ∧
         ∀ j ∈ List.range 4, src i + 4 ≤ dst j ∨ dst j + 4 ≤ src i)) ∧
    (let k := { command 0 4 with running := true, pat := line 64 }
     swDspoff k.word + 32 * 4 = 256 ∧ 32 ≤ patCount k.pat) ∧
    (let k := { command 0 4 with running := true, elem := 4 }
     let s := engine [k]
     (s.cell 0).runningCmd 4 = some k ∧ patCount k.pat ≤ k.elem ∧ s.cmdInFlight k = false ∧
       ({ s with net := [⟨.ncwr, 5, 0, 0, 0, false, some (NcOp.new (.stream 0 0))⟩] } : State).cmdInFlight k = true) := by
  refine ⟨?_, ?_, ?_, ?_, ?_, ?_⟩ <;> decide +kernel

theorem witness_StreamEvents_routes :
    (let s := engine [sending]
     (s.cell 0).runningCmd 0 = some sending ∧ sending.kind = .send ∧ sending.elem < sending.packets ∧ (s.sendPacket 0 sending 0).short = false ∧
       s.gangCell sending.slot (swDcell sending.word) = some 1 ∧ Sparse.find? 0 (s.cell 0).ports = none ∧
       { sending with elem := 1 }.packets ≤ 1 ∧ s.cmdFlying sending = false ∧
       (ask (exec (.openRoute 0 0) s) fun t => t.cmdFlying sending) = some true) ∧
    (let s := engine [sending] [(0, ⟨0, 1, 1, 0, 1, none⟩)]
     Sparse.find? 0 (s.cell 0).ports = some ⟨0, 1, 1, 0, 1, none⟩ ∧ 0 = sending.slot ∧ 1 = swDcell sending.word) ∧
    (let s := engine [sending] [(0, ⟨0, 0, 0, 0, 1, none⟩), (1, ⟨0, 0, 0, 0, 1, some false⟩), (2, ⟨0, 0, 0, 0, 1, some true⟩)]
     Sparse.find? 0 (s.cell 0).ports = some ⟨0, 0, 0, 0, 1, none⟩ ∧ 0 ≠ swDcell sending.word ∧
       Sparse.find? 1 (s.cell 0).ports = some ⟨0, 0, 0, 0, 1, some false⟩ ∧ Sparse.find? 2 (s.cell 0).ports = some ⟨0, 0, 0, 0, 1, some true⟩) ∧
    (let k := { sending with word := sendWord + BitVec.ofNat 256 (2 ^ 232) }
     let s := (engine [k]).updCellAt 0 fun c => { c with rings := [(0, ⟨true, 1600, 16, 0, 0⟩)] }
     (s.cell 0).runningCmd 0 = some k ∧ k.kind = .send ∧ swRv k.word = true ∧ (s.sendPacket 0 k 0).short = true) := by
  refine ⟨?_, ?_, ?_, ?_⟩ <;> decide +kernel

theorem witness_StreamEvents_landings :
    (let s := engine []
     let l := (s.cell 1).spadBytes
     (l - 128) + 128 ≤ l ∧ s.mcAt 1 3 < 2 ^ 32 - 1 ∧ l < (l - 127) + 128) ∧
    (let s := engine [casting8]
     (s.cell 0).runningCmd 8 = some casting8 ∧ casting8.mcast = some (0x0800_0000, 0) ∧ casting8.elem < casting8.packets ∧
       (s.thread casting8.slot).gang = some 0 ∧ (Sparse.find? 0 s.gangs).isSome = true ∧ (State.reset.cell 0).runningCmd 8 = none) ∧
    (let s : State := { engine [] with cells := [(1, { Cell.initial with gang := some 0 })] }
     let g := (Sparse.find? 0 s.gangs).getD gang1
     (s.cell 1).gang = some 0 ∧ 0 < g.desc.k ∧ (2 : Word).getLsbD (g.cells.idxOf 1 * g.desc.k + 0) = true ∧
       (1 : Word).getLsbD (g.cells.idxOf 1 * g.desc.k + 0) = false ∧ 256 + 128 ≤ (s.cell 1).spadBytes ∧ s.mcAt 1 3 < 2 ^ 32 - 1) := by
  refine ⟨?_, ?_, ?_⟩ <;> decide +kernel

/-- A user thread in slot 0 of comb 0 whose page 0 migrates: its tables are at 0x10000 and 0x20000, in comb 0's slice. -/
def migrating (q : List Replay) : State :=
  { State.reset with
    threads := [(0, { Thread.empty with live := true, resident := true, csr := [(csrUTBASE, 0x1_0001)], park := .replay })]
    mem := [(0x10000, 0x01), (0x10001, 0x20), (0x10002, 0x02), (0x20000, 0x7F), (0x20001, 0x18)]
    replays := [(0, q)], regs := [(combReg 0 0xA_0000, 100)], cycle := 200 }
  |>.setSlice 0 0x200 { SliceLine.invalid with st := .e } |>.setSlice 0 0x400 { SliceLine.invalid with st := .e }

/-- What the walk for a replay finds: 0 a migrating page, 1 that it waits, 2 anything else. -/
def walkFinds (s : State) (r : Replay) : Option Nat :=
  (s.replayXlate r).map fun x =>
    match s.lookup x.1 x.2 pathLS .read (pageVa r.page) with
    | .migrate _ _ => 0
    | .wait _ => 1
    | _ => 2

/-- Reset with block 0 as `f` makes it. -/
def block0 (f : Block → Block) (v : Word) : State := reg (forctl 0) v { State.reset with blocks := [(0, f .initial)] }

/-- Line 5 of the slice of comb 0 in state `st`. -/
def inSlice (st : Moesi) (s : State := State.reset) : State := s.setSlice 0 5 { SliceLine.invalid with st := st }

theorem witness_MemoryEvents_pages :
    (let r : Replay := ⟨[0], [], [], 0, 0, 3, true⟩
     let s := migrating [r]
     (s.replayOf 0).find? (·.outside) = some r ∧ walkFinds s r = some 0 ∧ ((s.replayOf 0).filter fun x => !x.outside).length < 64 ∧
       (s.thread 0).park = .replay ∧ walkFinds { s with mem := [] } r = some 2 ∧ s.replayXlate ⟨[], [], [], 0, 0, 3, true⟩ = none ∧ walkFinds { s with slices := [] } r = some 1) ∧
    (let s := migrating (⟨[0], [], [], 0, 0, 3, true⟩ :: List.replicate 64 ⟨[4], [], [], 0, 9, 0, false⟩)
     walkFinds s ⟨[0], [], [], 0, 0, 3, true⟩ = some 0 ∧ ¬ ((s.replayOf 0).filter fun x => !x.outside).length < 64) ∧
    (let r : Replay := ⟨[0], [(0, 0)], [], 0, 0, 100, false⟩
     let s := migrating [r]
     let lim := bits (s.dev (combReg 0 0xA_0000)) 0 32
     lim = 100 ∧ (s.replayOf 0).find? (fun r => !r.outside && decide (lim ≠ 0 ∧ r.since + lim ≤ s.cycle) && !(s.flitsAt 0).any (·.isRelease r.asid r.page)) = some r ∧
       (s.replayOf 0).find? (·.outside) = none ∧ bits ((reg (combReg 0 0xA_0000) 0 State.reset).dev (combReg 0 0xA_0000)) 0 32 = 0 ∧
       ({ s with cycle := 199 } : State).cycle < 100 + lim) ∧
    (let s : State := { migrating [⟨[0], [], [], 0, 0, 100, false⟩] with
        flits := [(0, [⟨0, 0, 19, 7, 0, false, 4, 0, 0, 19, some 7, some (0, 0, 31, 31), .mgmt (.release 0 0)⟩])] }
     (∃ e ∈ s.flits, e.1 = 0 ∧ e.2.any (·.isRelease 0 0) = true) ∧ s.replayOf 0 ≠ [] ∧ ¬ (∃ e ∈ s.flits, e.1 = 1)) := by
  refine ⟨?_, ?_, ?_, ?_⟩ <;> decide +kernel

theorem witness_MemoryEvents_cells :
    (let w : Wcb := ⟨0x100, 7, 1, false, false, 0, 0, 0⟩
     let s : State := { State.reset with cells := [(0, { Cell.initial with wcb := [w] })], cycle := 256 }
     (s.cell 0).wcb = [w] ∧ w.born + 256 ≤ s.cycle ∧ s.sliceOwns (combOf 0) w.line = false ∧
       (s.setSlice 0 0x100 { SliceLine.invalid with st := .e }).sliceOwns (combOf 0) w.line = true ∧
       regionAt (w.line * 128) ≠ .host ∧ regionAt (0x800_0000_0000 / 128 * 128) = .host ∧
       bits ((reg (blockReg 8 0x2_0020) 1 State.reset).dev (blockReg 8 0x2_0020)) 0 1 = 1 ∧ bits (State.reset.dev (blockReg 8 0x2_0020)) 0 1 = 0 ∧ ({ s with cycle := 255 } : State).cycle < w.born + 256) ∧
    (State.reset.cycle < ((State.reset.cell 0).epoch + 1) * 4096 ∧
      ((State.reset.cell 0).epoch + 1) * 4096 ≤ ({ State.reset with cycle := 4096 } : State).cycle) ∧
    (let s : State := inSlice .s { State.reset with cells := [(0, { Cell.initial with fills := [⟨5, true⟩] })] }
     (s.cell 0).fills = [⟨5, true⟩] ∧ s.sliceHas 0 5 = true ∧ (s.slice 0 5).pois = false ∧ (s.cell 0).wcb = [] ∧
       ((s.setSlice 0 5 { SliceLine.invalid with st := .s, pois := true }).slice 0 5).pois = true) ∧
    ((State.reset.slice 0 5).st = .i ∧ (State.reset.sliceSet 0 5).length < 12 ∧ State.reset.mayAsk 0 = true ∧
      ({ State.reset with slices := (List.range 128).map fun i => (i * 8192, { SliceLine.invalid with st := .isD }) } : State).mayAsk 0 = false) ∧
    (∀ st ∈ [Moesi.s, .o, .e, .m, .isD], ((inSlice st).slice 0 5).st = st) ∧
    (let a : Accepted := ⟨0, 5, 7, 1, false, 0⟩
     ({ inSlice .m with accepted := [a] } : State).accepted.filter (fun a => decide (a.comb = 0 ∧ a.line = 5)) = [a]) := by
  refine ⟨?_, ?_, ?_, ?_, ?_, ?_⟩ <;> decide +kernel

theorem witness_MemoryEvents_blocks :
    (let b := (block0 (fun b => { b with remapWait := [(0, 1, 2)], remap := [⟨0, 1, 3, 0, true, false, false⟩] }) 0).block 0
     b.remapWait = [(0, 1, 2)] ∧ (∀ r ∈ b.remap, r.bad1 = false) ∧ (b.bankRemaps 0 1).length < 4) ∧
    ((block0 (fun b => { b with remap := [⟨0, 1, 2, 0, true, false, false⟩, ⟨0, 1, 3, 1, false, false, false⟩] }) 0).block 0).remap =
      [⟨0, 1, 2, 0, true, false, false⟩] ++ ⟨0, 1, 3, 1, false, false, false⟩ :: [] ∧
    (let s := block0 (fun b => { b with errs := [(0, true)] }) 0x120
     bits (s.dev (forctl 0)) 8 1 = 1 ∧ s.blockPa 0 / 128 + (s.block 0).pass = 0 ∧ s.foragerMay 0 0 = true ∧ s.mscFind 0 = none ∧
       Sparse.find? 0 (s.block (blockOf 0).1).errs = some true ∧ Sparse.find? 0 s.homes = none) ∧
    bits ((block0 id 0).dev (forctl 0)) 8 1 = 0 ∧ (block0 id 0x100).foragerMay 0 0 = false := by
  refine ⟨?_, ?_, ?_, ?_, ?_⟩ <;> decide +kernel

/-- What the packets that ask for bytes ask: 8 bytes of line 5, for the scalar side of slot 1, with number 4. -/
def asked : NcOp := { NcOp.new (.scalar 1) with tag := 4, addr := 5 * 128, n := 8, val := 7 }

/-- A packet about line 5 that comb 1 asked for, on its way from comb 0 to comb 0. -/
def packet (op : CohOp) : Pkt := ⟨op, 5, 0, 0, 1, false, if op ∈ [.ncrd, .ncwr, .faop, .ncrsp] then some asked else none⟩

/-- That packet has arrived; line 5 has directory entry `d`, slice state `st` and transaction `x`. -/
def wire (op : CohOp) (d : DirEntry := .invalid) (st : Moesi := .i) (x : Option HomeTx := none) : State :=
  inSlice st { State.reset with net := [packet op], dir := [(5, d)], homes := match x with | some x => [(5, x)] | none => [] }

/-- A transaction of an `op` with `acks` left. -/
def tx (op : CohOp) (acks : Nat := 0) (probe sent : Bool := false) : HomeTx := ⟨packet op, acks, probe, false, sent, false, false, [], []⟩

theorem witness_CoherencePackets_taken :
    (∀ op ∈ [CohOp.gets, .getm, .upg, .ncrd, .ncwr, .faop, .fwds, .fwdm, .inv, .rcl, .datas, .datae, .datam, .datamg, .go, .iack, .facks,
        .facko, .facki, .fackn, .cmp, .wback, .ncrsp, .rcld, .wbd],
      (wire op).net[0]? = some (packet op) ∧ (wire op).net.take 0 = [] ∧ State.reset.net[0]? = none ∧ (wire op).lost (packet op) = false) ∧
    State.reset.lost { packet .gets with comb := farComb 3 5 } = true ∧
    (∀ op ∈ [CohOp.gets, .getm, .upg, .ncrd, .ncwr, .faop],
      Sparse.find? 5 (wire op).homes = none ∧ ((wire op).dirOf 5).st = .i ∧ ((wire op).homePoison 5).1 = false ∧
        Sparse.find? 5 (wire op .invalid .i (some (tx .gets))).homes = some (tx .gets)) ∧
    (∀ op ∈ [CohOp.ncrd, .ncwr, .faop], (packet op).nc = some asked) ∧
    (asked.addr / 128 = 5 ∧ asked.addr % 128 + asked.n ≤ 128 ∧ ((wire .faop).farTouch 5).1 = false ∧
      (({ wire .faop with mpoison := [5] } : State).farTouch 5).1 = true) := by
  refine ⟨?_, ?_, ?_, ?_, ?_⟩ <;> decide +kernel

theorem witness_CoherencePackets_errors : (wire .ncwr).NoErrors ∧ (wire .rcld ⟨.ex, 0, [], false, 0, 0⟩ .i (some (tx .ncwr 0 true))).NoErrors :=
  ⟨noErrors_of _ ⟨rfl, rfl, by decide +kernel⟩, noErrors_of _ ⟨rfl, rfl, by decide +kernel⟩⟩

theorem witness_CoherencePackets_home :
    (∀ d ∈ [(⟨.s, 0, [1], false, 0, 0⟩ : DirEntry), ⟨.ex, 1, [], false, 0, 0⟩, ⟨.os, 1, [], false, 0, 0⟩],
      ((wire .gets d).dirOf 5).st = d.st ∧ Sparse.find? 5 (wire .gets d).homes = none) ∧
    (let d : DirEntry := ⟨.s, 0, [1, 2], false, 0, 0⟩
     (wire .upg d).sharerCombs d [(packet .upg).req] ≠ []) ∧
    (let d : DirEntry := ⟨.s, 0, [1], false, 0, 0⟩
     d.ovf = false ∧ d.sharers = [(wire .upg d).pointer (packet .upg).req] ∧ (packet .upg).req < 1024) ∧
    (∀ p ∈ [(CohOp.facks, tx .gets 0 true), (.facko, tx .gets 0 true), (.facko, { tx .gets 0 true with gone := true }), (.facki, tx .getm 0 true),
        (.fackn, tx .gets 0 true), (.rcld, tx .ncwr 0 true), (.rcld, tx .rcl 1), (.fackn, tx .rcl 1), (.iack, tx .getm 2), (.iack, tx .getm 1),
        (.cmp, tx .getm 0 false true)],
      Sparse.find? 5 (wire p.1 ⟨.ex, 0, [], false, 0, 0⟩ .i (some p.2)).homes = some p.2 ∧ p.2.waiting = [] ∧ p.2.cmp = false ∧
        ((wire p.1 ⟨.ex, 0, [], false, 0, 0⟩).dirOf 5).st = .ex ∧ ((wire p.1 ⟨.os, 0, [], false, 0, 0⟩).dirOf 5).st = .os) ∧
    (tx .ncwr 0 true).pkt.nc = some asked ∧
    (∀ st ∈ [DirState.ex, .os], let s := wire .wbd ⟨st, 0, [], false, 0, 0⟩ .miA
     (s.dirOf 5).owner = s.pointer (packet .wbd).comb ∧ s.fencedLine 5 = false ∧ (tx .gets 0 true).pkt.op ≠ .rcl) ∧
    (let s := wire .wbd ⟨.ex, 3, [], false, 0, 0⟩ .miA
     (s.dirOf 5).owner ≠ s.pointer (packet .wbd).comb ∧ Sparse.find? 5 s.homes = none) := by
  refine ⟨?_, ?_, ?_, ?_, ?_, ?_, ?_⟩ <;> decide +kernel

theorem witness_CoherencePackets_slice :
    (∀ st ∈ [Moesi.s, .e, .o, .m, .isD, .imD, .smA, .omA, .miA, .oiA], ((wire .inv .invalid st).slice 0 5).st = st) ∧
    ((wire .inv .invalid .i).slice 0 5).st = .i ∧
    (∀ b ∈ [false, true],
      let s := (wire .datamg).setSlice 0 5 { SliceLine.invalid with st := .imD, gotGo := b, gotData := !b }
      (s.slice 0 5).gotGo = b ∧ (s.slice 0 5).gotData = !b ∧ (s.slice 0 5).deferred = []) ∧
    (let a : Accepted := ⟨0, 5, 7, 1, false, 0⟩
     ({ wire .datam .invalid .imD with accepted := [a] } : State).accepted.filter (fun a => decide (a.comb = 0 ∧ a.line = 5)) = [a]) ∧
    (let q : Pend := ⟨.scalar, 3, .all, none, false, 0, some 4, none, 5 * 128, none⟩
     let h : HomeRead := ⟨false, 5 * 128, 8, false, 4, none⟩
     let s (t : Thread) : State := { wire .ncrsp with threads := [(1, { t with live := true, resident := true })] }
     ((s { Thread.empty with pend := [q] }).thread 1).pend.find? (fun q => decide (q.far = some asked.tag)) = some q ∧ q.reg < 32 ∧
       ((s { Thread.empty with pend := [q] }).thread 1).reads.find? (fun h => decide (h.tag = asked.tag)) = none ∧
       ((s { Thread.empty with reads := [h] }).thread 1).reads.find? (fun h => decide (h.tag = asked.tag)) = some h ∧
       ((s Thread.empty).thread 1).pend.find? (fun q => decide (q.far = some asked.tag)) = none ∧ asked.fp = false ∧ asked.who = .scalar 1) ∧
    (Sparse.find? 0 ({ wire .ncrsp with net := [{ packet .ncrsp with nc := some { asked with who := .sched 0 0 } }], gangs := [(0, gang1)] } : State).gangs).isSome = true := by
  refine ⟨?_, ?_, ?_, ?_, ?_, ?_⟩ <;> decide +kernel

/-- A flit at router 0 for the slice of comb 1. -/
def flit (tc : Nat) (esc : Bool) (x : Load) : Flit := ⟨tc, 0, epSlice, tc, 0, esc, 4, 0, 1, epSlice, none, none, x⟩

/-- Router 0 with the flits `l`, its eastern port as `o`. -/
def portWith (l : List Flit) (o : OutPort := .initial) : State := { State.reset with flits := [(0, l)], outs := [(1, o)], cycle := 5000 }

/-- Flits of two classes, and a multicast packet of tree 0. -/
def reqFlit (esc : Bool) : Flit := flit 4 esc (.coh (packet .gets))
def fwdFlit (esc : Bool) : Flit := flit 6 esc (.coh (packet .facks))
def castFlit : Flit := { flit 0 false (.cast ⟨0, 0, 0, 7, [], 1, none, 0, 0, 0⟩) with out := some 4 }

theorem witness_FabricEvents_ports :
    ((portWith []).readyHeads 0 1 = [] ∧ ((portWith [reqFlit false] { OutPort.initial with failed := true }).port 0 1).failed = true) ∧
    ((portWith [reqFlit false]).readyHeads 0 1 = [reqFlit false] ∧ (reqFlit false).tc < 8) ∧
    ((portWith [reqFlit false, fwdFlit false]).readyHeads 0 1 = [reqFlit false, fwdFlit false] ∧ (fwdFlit false).tc = 6 ∧ (reqFlit false).tc < 6) ∧
    ((portWith [{ reqFlit false with tc := 7 }, fwdFlit true]).readyHeads 0 1 = [{ reqFlit false with tc := 7 }, fwdFlit true] ∧
      (fwdFlit true).esc = true) ∧
    Sparse.getD (portWith []).castBuf 0 [] = [] ∧
    ((reqFlit false).out = none ∧ (reqFlit false).dst ≠ 0 ∧ (reqFlit false).load.cls ≠ 1 ∧ (reqFlit false).load.cls ≠ 2) ∧
    (meshNext 0 1 = some 1 ∧ (reqFlit false).load.cls < 4 ∧ (reqFlit false).rect = none ∧ (reqFlit false).ep ≤ 21 ∧
      21 < { reqFlit false with ep := 22 }.ep) ∧
    (let f : Flit := { flit 7 false (.mgmt (.fence 0)) with rect := some (0, 0, 31, 31), dst := 0 }
     f.ep ≤ 21 ∧ f.dst = 0 ∧ 0 / 32 = 0 ∧ 0 % 32 < 31 ∧ 0 / 32 < 31) ∧
    (castFlit.rect = none ∧ castFlit.ep ≤ 21 ∧ castFlit.out.isSome = true ∧
      ((reg (treeReg 0 0) (BitVec.ofNat 64 (2 ^ 63 + 2 ^ 33 + 1)) State.reset).dev (treeReg 0 0)).getLsbD 63 = true ∧
      (State.reset.dev (treeReg 0 0)).getLsbD 63 = false) := by
  refine ⟨?_, ?_, ?_, ?_, ?_, ?_, ?_, ?_, ?_⟩ <;> decide +kernel

theorem witness_FabricEvents_links :
    ((portWith []).overdue 0 4 = [] ∧ (portWith [reqFlit false]).overdue 0 4 = [reqFlit false] ∧
      (portWith [{ fwdFlit false with inp := 3 }]).overdue 0 3 = [{ fwdFlit false with inp := 3 }]) ∧
    (meshNext 0 1 = some 1 ∧ meshNext 0 0 = none ∧ ((portWith [] { OutPort.initial with replays := 15 }).port 0 1).replays < 16 ∧
      16 ≤ ((portWith [] { OutPort.initial with replays := 16 }).port 0 1).replays) ∧
    (bits ((reg (hvstat 11) (1 <<< 63) State.reset).dev (hvstat 11)) 63 1 = 1 ∧ bits ((reg (hvstat 11) 0 State.reset).dev (hvstat 11)) 63 1 = 0) ∧
    (let s : State := { reg (hvstat 11) (2 + 2 ^ 53) State.reset with dir := [(5, ⟨.ex, 1024, [], false, 0, 0⟩)] }
     bits (s.dev (hvstat 11)) 0 4 = 2 ∧ (s.port (1024 + 11) 0).replays < 16 ∧ s.homes = [] ∧ Sparse.sorted s.dir = true ∧
       (s.dirOf 5).st = .ex ∧ (s.dirOf 5).owner / 1024 = bits (s.dev (hvstat 11)) 53 3 ∧ s.hivePort 1 5 = 11 ∧ s.fencedLine 5 = false) ∧
    (let s : State := { reg (hvstat 11) (2 + 2 ^ 53) State.reset with dir := [(5, ⟨.ex, 1024, [], false, 0, 0⟩)], homes := [(5, tx .gets 0 true)] }
     s.dir = [(5, ⟨.ex, 1024, [], false, 0, 0⟩)] ∧ s.homes = [(5, tx .gets 0 true)] ∧ (tx .gets 0 true).cmp = false ∧
       (tx .gets 0 true).pkt.op = .gets ∧ (tx .gets 0 true).far = [] ∧ (tx .gets 0 true).pkt.comb < 1024) ∧
    (let s := reg (hvstat 11) (2 + 2 ^ 53) State.reset
     s.portTo 1 11 = true ∧ s.spreads = [] ∧ s.leavesFor { packet .datas with comb := farComb 1 5 } = some 1 ∧
       s.leavesFor (packet .datas) = none ∧ CohOp.gets.toHome = true ∧ CohOp.gets.carries = false ∧ homeNode 5 = s.node ∧ 1 ≠ s.node) ∧
    (16 ≤ (({ State.reset with outs := [((1024 + 11) * 16, { OutPort.initial with replays := 16 })] } : State).port (1024 + 11) 0).replays) := by
  refine ⟨?_, ?_, ?_, ?_, ?_, ?_, ?_⟩ <;> decide +kernel

/-- A machine-mode thread at the start of the boot ROM, whose first word is DIV s3, s1, s2. -/
def atRom : State :=
  { two 7 2 (fun t => { t with pc := BitVec.ofNat 64 Config.romBase }) with
    agenda := [.issue 0]
    mem := [(Config.romBase, 0x48), (Config.romBase + 1, 0x88), (Config.romBase + 2, 0x30), (Config.romBase + 3, 0x02)] }

/-- The state in which that thread issues. -/
def atRom0 : State := ({ atRom with agenda := [], phase := 5 } : State).select 0

theorem witness_StepRunsDecoded :
    (atRom.agenda = [.issue 0] ++ [] ∧ atRom.frozen = false ∧ ({ atRom with agenda := [] } : State).mayIssue 0 = true ∧
      atRom0.thr.called = false ∧ atRom0.thr.fwdWaits = false ∧ atRom0.thr.loopWord = none ∧ (∀ o ∈ atRom.outs, o.2.failed = false)) ∧
    (match atRom0.running_.nextWord with
      | .word _ w => decide (w = 0x0230_8848) | .stop _ => false) = true ∧
    (BitVec.ofNat 32 (atRom.memRead Config.romBase 4) = 0x0230_8848 ∧ Config.romBase % 4 = 0 ∧ decode 0x0230_8848 = .ok (.div false 3 1 2)) ∧
    ((match ({ atRom0 with mem := [] } : State).updThread 0 inUser |>.running_.nextWord with
      | .stop _ => true | .word _ _ => false) = true) ∧
    (let t := (two 5 3 fun t => { pendingInt t with mode := .user }).thr
     t.called = true ∧ t.deferred = [] ∧ { t with deferred := [5] }.called = true) ∧
    ((looping 0x1000 0).upd fun t => { t with loop := some ⟨0xFFC, 3, 2, line 4, 0, [(1, 0x0230_8848)]⟩ }).thr.loopWord = some 0x0230_8848 ∧
    isEvent .freeze = true ∧ ({ State.reset with frozen := true } : State).frozen = true := by
  refine ⟨?_, ?_, ⟨?_, ?_, rfl⟩, ?_, ?_, ?_, ?_, ?_⟩ <;> decide +kernel

theorem witness_DecodeAndEncodeAgree : (Instr.div false 3 1 2).wellFormed = true ∧ decode 0x0230_8848 = .ok (.div false 3 1 2) := ⟨rfl, rfl⟩

theorem witness_MemoryStaysCanonical : Bytes.wf romByte atRom.mem = true ∧ Bytes.wf romByte atRom.dram = true ∧
    (match step atRom with | .next t => decide (t.thr.pc = BitVec.ofNat 64 (Config.romBase + 4)) | _ => false) = true := by
  refine ⟨?_, ?_, ?_⟩ <;> decide +kernel

end Sys2Proof.Tests
end

section
/-! The scalar instructions: division, branches and jumps, software traps and privilege (R286 to R303). -/

namespace Sys2Proof.Machine

open Host (Outcome)

/-! ### Division (R287) -/

theorem divS_eq (x y : Word) :
    divS x y = if y = 0 then 0 else if x = BitVec.intMin 64 ∧ y.toInt = -1 then BitVec.intMax 64
      else BitVec.ofInt 64 (x.toInt.tdiv y.toInt) := by
  have hx : x.toInt = -(2 ^ 63) ↔ x = BitVec.intMin 64 := BitVec.toInt_inj (y := BitVec.intMin 64)
  simp only [divS, hx]
  rfl

theorem divU_eq (x y : Word) : divU x y = if y = 0 then 0 else x / y := by
  simp only [divU, BitVec.udiv_def]

theorem remU_eq (x y : Word) : remU x y = if y = 0 then x else x % y := by
  simp only [remU, BitVec.umod_def]

/-- What a divide or remainder with ready operands does. -/
theorem divide_result {s : State} {mk : Bool} {d a b : Reg} {f : Word → Word → Word} {v : Word}
    (h : s.OperandsReady [a, b] [d]) (hv : f (s.rs a) (s.rs b) = v) :
    (bits (s.thr.csrGet csrHZCTL) 2 1 = 0 ∨ s.rs b ≠ 0 →
      Completes s mk 31 0 0 (underWay d v) (.next (s.divide mk d a b f))) ∧
    (bits (s.thr.csrGet csrHZCTL) 2 1 = 1 → s.rs b = 0 →
      (.next (s.divide mk d a b f) : Outcome State Fault Refusal) = .next (s.trap { code := 0x18 })) := by
  simp only [State.divide, State.guarded_ready h, hv]
  constructor
  · intro hc
    rw [if_neg fun ⟨hdzt, hb⟩ => hc.elim (fun h0 => by omega) fun hne => hne hb]
    simpa [Thread.raise] using completes_pend s mk d v 0
  · intro hdzt hb
    rw [if_pos ⟨hdzt, hb⟩]

/-- Settles O3: each of the four is `State.divide`, and the model's result is the one the rule gives. -/
theorem division : Obligations.Division := by
  intro s mk d a b h
  exact ⟨divide_result h (divS_eq _ _), divide_result h (divU_eq _ _),
    divide_result h rfl, divide_result h (remU_eq _ _)⟩

/-! ### Branches and jumps (R259, R290, R292) -/

/-- Outside a loop body, R294 refuses nothing. -/
theorem State.notInBody_outside {s : State} (h : s.thr.inBody = false) (w : BitVec 32) (f : State → State) :
    s.notInBody w f = f s := by
  simp [State.notInBody, h]

theorem shiftLeft_two_eq_four_mul (x : Word) : x <<< 2 = 4 * x := by
  rw [BitVec.shiftLeft_eq_mul_twoPow, BitVec.mul_comm]
  rfl

theorem targetB_eq (pc : Word) (o : BitVec 15) : targetB pc o = pc + 4 * o.signExtend 64 := by
  rw [targetB, shiftLeft_two_eq_four_mul]

theorem targetJ_eq (pc : Word) (o : BitVec 25) : targetJ pc o = pc + 4 * o.signExtend 64 := by
  rw [targetJ, shiftLeft_two_eq_four_mul]

/-- What a conditional branch with ready operands does, where `p` decides its condition. -/
theorem branch_result {s : State} {mk : Bool} {major : BitVec 6} {a b : Reg} {o : BitVec 15}
    {p : Word → Word → Bool} {taken : Prop} (hb : s.thr.inBody = false) (h : s.OperandsReady [a, b] [])
    (hp : p (s.rs a) (s.rs b) = true ↔ taken) :
    (taken → Jumps s mk 31 0 (s.thr.pc + 4 * o.signExtend 64) (.next (s.branch mk major a b o p))) ∧
    (¬taken → Completes s mk 31 0 0 [] (.next (s.branch mk major a b o p))) := by
  simp only [State.branch, State.notInBody_outside hb, State.guarded_ready h, targetB_eq]
  constructor
  · intro ht
    rw [if_pos (hp.2 ht)]
    exact jumps_goto s mk _
  · intro ht
    rw [if_neg (ht ∘ hp.1)]
    exact completes_advance s mk

theorem exec_jal_result {s : State} (mk : Bool) (o : BitVec 25) (hb : s.thr.inBody = false) (h : s.OperandsReady [] [30]) :
    Jumps s mk 30 (s.thr.pc + 4) (s.thr.pc + 4 * o.signExtend 64) (exec (.jal mk o) s) := by
  simp only [exec, execJal, State.notInBody_outside hb, State.guarded_ready h, targetJ_eq]
  exact jumps_ws s mk 30 _ _

theorem exec_jalr_result {s : State} (mk : Bool) {d a : Reg} (imm : BitVec 15) (hb : s.thr.inBody = false)
    (h : s.OperandsReady [a] [d]) :
    Jumps s mk d (s.thr.pc + 4) ((s.rs a + imm.signExtend 64) &&& ~~~3) (exec (.jalr mk d a imm) s) := by
  simp only [exec, execJalr, State.notInBody_outside hb, State.guarded_ready h]
  exact jumps_ws s mk d _ _

/-- SUBBR branches while the difference it writes is positive (R292). -/
theorem exec_subbr_result {s : State} (mk : Bool) {a b : Reg} (off : BitVec 15) (hb : s.thr.inBody = false) (ha : a ≠ 31)
    (h : s.OperandsReady [a, b] [a]) :
    let x := s.rs a - s.rs b
    (0 < x.toInt → Jumps s mk a x (s.thr.pc + 4 * off.signExtend 64) (exec (.subbr mk a b off) s)) ∧
    (x.toInt ≤ 0 → Completes s mk a x 0 [] (exec (.subbr mk a b off) s)) := by
  simp only [exec, execSubbr, State.notInBody_outside hb, if_neg ha, State.guarded_ready h, targetB_eq]
  constructor
  · intro hx
    rw [if_pos hx]
    exact jumps_ws s mk a _ _
  · intro hx
    rw [if_neg (Int.not_lt.2 hx)]
    exact completes_ws s mk a _

/-- A field a of 31 refuses SUBBR (R292). -/
theorem exec_subbr_31 {s : State} (mk : Bool) (b : Reg) (off : BitVec 15) (hb : s.thr.inBody = false) :
    exec (.subbr mk 31 b off) s = .next (s.illegal (encode (.subbr mk 31 b off))) := by
  simp only [exec, execSubbr, State.notInBody_outside hb]
  rfl

/-- Settles O5: each conditional branch is `State.branch` with the condition of R290, and JAL, JALR and SUBBR have a
lemma each. -/
theorem branchesAndJumps : Obligations.BranchesAndJumps := by
  constructor
  · intro s mk a b o hb h
    exact ⟨branch_result hb h decide_eq_true_iff, branch_result hb h decide_eq_true_iff,
      branch_result hb h decide_eq_true_iff, branch_result hb h decide_eq_true_iff,
      branch_result hb h decide_eq_true_iff, branch_result hb h decide_eq_true_iff⟩
  · intro s mk d a b o imm off hb
    exact ⟨exec_jal_result mk o hb, exec_jalr_result mk imm hb, exec_subbr_result mk off hb, exec_subbr_31 mk b off hb⟩

/-! ### The mode of a trap (R235, R303)

A trap first withdraws the waits of its slot, which stand outside the threads' records. -/

/-- `t` is `s` but for cells, replay queues and the task units' lists of waiting threads. -/
def State.SameButWaits (s t : State) : Prop := ∃ c r p, t = { s with cells := c, replays := r, pops := p }

theorem State.SameButWaits.trans {s t u : State} (h : s.SameButWaits t) (h' : t.SameButWaits u) : s.SameButWaits u := by
  obtain ⟨_, _, _, rfl⟩ := h
  obtain ⟨c, r, p, rfl⟩ := h'
  exact ⟨c, r, p, rfl⟩

theorem State.withdrawWait_sameButWaits (s : State) (k : Nat) : s.SameButWaits (s.withdrawWait k) := by
  unfold State.withdrawWait
  split <;> exact ⟨_, _, _, rfl⟩

theorem State.withdrawReplay_sameButWaits (s : State) (k : Nat) : s.SameButWaits (s.withdrawReplay k) := by
  simp only [State.withdrawReplay, State.leaveReplay]
  split <;> exact ⟨_, _, _, rfl⟩

theorem State.withdrawLanes_sameButWaits (s : State) (k : Nat) : s.SameButWaits (s.withdrawLanes k) := by
  unfold State.withdrawLanes
  split
  · split <;> exact ⟨_, _, _, rfl⟩
  · exact ⟨_, _, _, rfl⟩

theorem State.withdrawRsb_sameButWaits (s : State) (k : Nat) : s.SameButWaits (s.withdrawRsb k) := by
  unfold State.withdrawRsb
  split <;> exact ⟨_, _, _, rfl⟩

theorem State.withdrawRendez_sameButWaits (s : State) (k : Nat) : s.SameButWaits (s.withdrawRendez k) := by
  unfold State.withdrawRendez
  split <;> exact ⟨_, _, _, rfl⟩

theorem State.withdrawUnit_sameButWaits (s : State) (k : Nat) : s.SameButWaits (s.withdrawUnit k) := by
  unfold State.withdrawUnit
  split <;> exact ⟨_, _, _, rfl⟩

theorem State.withdraw_sameButWaits (s : State) (k : Nat) : s.SameButWaits (s.withdraw k) :=
  (s.withdrawWait_sameButWaits k).trans <| (State.withdrawReplay_sameButWaits _ k).trans <|
    (State.withdrawLanes_sameButWaits _ k).trans <| (State.withdrawRsb_sameButWaits _ k).trans <|
      (State.withdrawRendez_sameButWaits _ k).trans (State.withdrawUnit_sameButWaits _ k)

/-- The record of the executing thread after its trap. -/
theorem State.thr_trapAt (s : State) (i : TrapInfo) (epc sepc : Word) :
    (s.trapAt s.cur i epc sepc).thr =
      ((s.thr.hazSettle s.cycle).trapKeep (s.inUnit s.cur) i epc sepc).detach false := by
  obtain ⟨c, r, p, h⟩ := s.withdraw_sameButWaits s.cur
  rw [State.trapAt, h]
  exact State.thread_setThread_self ..

@[simp] theorem Thread.detach_mode (t : Thread) (o : Bool) : (t.detach o).mode = t.mode := by
  unfold Thread.detach
  split <;> rfl

/-- The entry takes the mode of the cause, whether or not a matrix instruction stays in the unit. -/
@[simp] theorem Thread.trapKeep_mode (t : Thread) (keep : List QEntry) (i : TrapInfo) (epc sepc : Word) :
    (t.trapKeep keep i epc sepc).mode = t.trapMode i := by
  unfold Thread.trapKeep
  split <;> rfl

@[simp] theorem Thread.hazSettle_mode (t : Thread) (now : Nat) : (t.hazSettle now).mode = t.mode := by
  unfold Thread.hazSettle
  split <;> rfl

theorem Thread.hazSettle_csrGet (t : Thread) (now : Nat) {n : Nat} (h : n ≠ csrISSUESTAT) :
    (t.hazSettle now).csrGet n = t.csrGet n := by
  unfold Thread.hazSettle
  split
  · exact t.csrGet_csrSet_ne h _
  · rfl

theorem Thread.trapMode_hazSettle (t : Thread) (now : Nat) (i : TrapInfo) : (t.hazSettle now).trapMode i = t.trapMode i := by
  simp [Thread.trapMode, t.hazSettle_csrGet now (show csrDELEG ≠ csrISSUESTAT by decide)]

/-- The mode after a trap is the one that its cause selects (R235). -/
theorem State.mode_trapAt (s : State) (i : TrapInfo) (epc sepc : Word) :
    (s.trapAt s.cur i epc sepc).thr.mode = s.thr.trapMode i := by
  rw [State.thr_trapAt, Thread.detach_mode, Thread.trapKeep_mode, Thread.trapMode_hazSettle]

theorem bits_one_eq_one_iff (w : Word) (k : Nat) : bits w k 1 = 1 ↔ w.getLsbD k = true := by
  simp [bits, BitVec.getLsbD, Nat.testBit_eq_decide_div_mod_eq]

/-- The mode of a synchronous trap: M from M or by the bit of DELEG, and S otherwise. -/
theorem Thread.trapMode_sync (t : Thread) {i : TrapInfo} (hi : i.int = false) (hc : i.code < 32) :
    t.trapMode i = if t.mode = .machine ∨ (t.csrGet csrDELEG).getLsbD i.code then .machine else .supervisor := by
  have hk : (if i.int then 32 else 0) + i.code % 32 = i.code := by simp [hi, Nat.mod_eq_of_lt hc]
  rw [Thread.trapMode, hk, ite_or]
  simp only [bits_one_eq_one_iff]

/-! ### System operations (R302, R303) -/

/-- Outside a loop body, an operation without a privilege goes on to its effect. -/
theorem State.sysOp_unprivileged {s : State} (hb : s.thr.inBody = false) (mk : Bool) (op : BitVec 12) (d a : Reg)
    (f : State → State) : s.sysOp mk false op d a f = f s := by
  simp [State.sysOp, State.notInBody_outside hb]

/-- R302: in U mode a privileged operation is an illegal instruction. -/
theorem State.sysOp_user {s : State} (hb : s.thr.inBody = false) (hm : s.thr.mode = .user) (mk : Bool) (op : BitVec 12)
    (d a : Reg) (f : State → State) : s.sysOp mk true op d a f = s.illegal (wordC mk d a op 7) := by
  simp [State.sysOp, State.notInBody_outside hb, State.privileged, hm]

theorem exec_trap_outside {s : State} (mk : Bool) (a : Reg) (hb : s.thr.inBody = false) (h : s.OperandsReady [a] []) :
    exec (.trap mk a) s = .next (s.trapAt s.cur { code := 0x15, tval := s.rs a } s.thr.pc (s.thr.pc + 4)) := by
  simp only [exec, execTrap, State.sysOp_unprivileged hb, State.guarded_ready h]

theorem exec_bkpt_outside {s : State} (mk : Bool) (hb : s.thr.inBody = false) :
    exec (.bkpt mk) s = .next (s.trapAt s.cur { code := 0x16, tval := 0 } s.thr.pc s.thr.pc) := by
  simp only [exec, execBkpt, State.sysOp_unprivileged hb]
  rfl

/-- The operation's number and its 7 are the low fifteen bits of the word (R257). -/
theorem wordC_append (mk : Bool) (d a : Reg) (op : BitVec 12) :
    wordC mk d a op 7 = BitVec.ofBool mk ++ 0x38#6 ++ d ++ a ++ (op ++ 7#3) :=
  BitVec.append_assoc

/-- As `wordC_append`, for an operation without operands, whose number stands in the low 25 bits. -/
theorem wordC_noOperands (mk : Bool) (op : BitVec 12) :
    wordC mk 0 0 op 7 = BitVec.ofBool mk ++ 0x38#6 ++ (0#5 ++ (0#5 ++ (op ++ 7#3))) := by
  rw [wordC_append]
  exact BitVec.append_assoc.trans BitVec.append_assoc

/-- A privileged system operation in U mode takes the illegal-instruction trap with its word (R302). -/
theorem exec_user_illegal {s : State} (hb : s.thr.inBody = false) (hm : s.thr.mode = .user) {i : Instr} {mk : Bool}
    {op : BitVec 12} {d a : Reg} {f : State → State} (he : exec i s = .next (s.sysOp mk true op d a f))
    (hw : wordC mk d a op 7 = encode i) : exec i s = .next (s.trap { code := 0x01, tval := (encode i).setWidth 64 }) := by
  rw [he, State.sysOp_user hb hm, hw, State.illegal]

theorem exec_privileged_user {s : State} (mk : Bool) (d a b : Reg) (hb : s.thr.inBody = false) (hm : s.thr.mode = .user) :
    ∀ i ∈ [Instr.tret mk, .idle mk, .tfence mk b a, .csave mk b a, .crestore mk b a, .gstop mk d a, .gresume mk d a],
      exec i s = .next (s.trap { code := 0x01, tval := (encode i).setWidth 64 }) := by
  simp only [List.forall_mem_cons]
  exact ⟨exec_user_illegal hb hm rfl (wordC_noOperands mk 1), exec_user_illegal hb hm rfl (wordC_noOperands mk 2),
    exec_user_illegal hb hm rfl (wordC_append mk b a 3), exec_user_illegal hb hm rfl (wordC_append mk b a 5),
    exec_user_illegal hb hm rfl (wordC_append mk b a 6), exec_user_illegal hb hm rfl (wordC_append mk d a 7),
    exec_user_illegal hb hm rfl (wordC_append mk d a 8), List.forall_mem_nil _⟩

/-- R216: a control register above the mode traps before any of the four accesses. -/
theorem State.csrCheck_privilege {s : State} {c : BitVec 12} {p : Mode} {fs : List Field} (hc : csrInfo c.toNat = some (p, fs))
    (hp : s.thr.mode.code < p.code) (word : BitVec 32) (wr : Bool) (f : State → List Field → State) :
    s.csrCheck word c wr f = s.trap { code := 0x04, tval := c.setWidth 64 } := by
  have hm : s.mode.atLeast p = false := decide_eq_false (Nat.not_le.2 hp)
  simp [State.csrCheck, hc, hm, BitVec.ofNat_toNat]

theorem exec_csr_privilege {s : State} (mk : Bool) (d a : Reg) {c : BitVec 12} {p : Mode} {fs : List Field}
    (hc : csrInfo c.toNat = some (p, fs)) (hp : s.thr.mode.code < p.code) :
    ∀ i ∈ [Instr.crd mk d c, .cwr mk a c, .cset mk d a c, .cclr mk d a c],
      exec i s = .next (s.trap { code := 0x04, tval := c.setWidth 64 }) := by
  have refused (word : BitVec 32) (wr : Bool) (f : State → List Field → State) :
      (.next (s.csrCheck word c wr f) : Outcome State Fault Refusal) = .next (s.trap { code := 0x04, tval := c.setWidth 64 }) :=
    congrArg _ (State.csrCheck_privilege hc hp word wr f)
  simp only [List.forall_mem_cons]
  exact ⟨refused _ _ _, refused _ _ _, refused _ _ _, refused _ _ _, List.forall_mem_nil _⟩

/-- Settles O12: TRAP and BKPT outside a loop body, the mode that their trap takes, and the refusals of the operations
and of the control registers that need more privilege. -/
theorem softwareTrapsAndPrivilege : Obligations.SoftwareTrapsAndPrivilege := by
  constructor
  · intro s mk a hb
    refine ⟨exec_trap_outside mk a hb, exec_bkpt_outside mk hb, fun c hc v p q => ?_⟩
    have h32 : c < 32 := by revert c; decide
    rw [State.mode_trapAt, Thread.trapMode_sync _ rfl h32]
  · intro s mk d a b c
    exact ⟨exec_privileged_user mk d a b, fun p fs => exec_csr_privilege mk d a⟩

end Sys2Proof.Machine
end

section
/-! Barriers of a cell and of a gang, mailboxes, messages, YIELD and GINFO (R82, R147, R379 to R386). -/

namespace Sys2Proof.Machine

open Host (Outcome)

/-! ### States that hold the same threads -/

/-- The threads of `t` are those of `s`, and the same one executes. -/
def State.SameThreads (s t : State) : Prop := t.threads = s.threads ∧ t.cur = s.cur

section
variable {s t u : State}

theorem State.SameThreads.refl (s : State) : s.SameThreads s := ⟨rfl, rfl⟩

theorem State.SameThreads.trans (h : s.SameThreads t) (h' : t.SameThreads u) : s.SameThreads u :=
  ⟨h'.1.trans h.1, h'.2.trans h.2⟩

theorem State.SameThreads.thread (h : s.SameThreads u) (k : Nat) : u.thread k = s.thread k := by
  rw [State.thread, State.thread, h.1]

theorem State.SameThreads.thr (h : s.SameThreads u) : u.thr = s.thr := by
  rw [State.thr, State.thr, h.2, h.thread]

theorem State.SameThreads.cc (h : s.SameThreads u) : u.cc = s.cc := congrArg cellOf h.2

theorem State.SameThreads.rs (h : s.SameThreads u) (r : Reg) : u.rs r = s.rs r := by
  rw [State.rs, State.rs, h.thr]

/-- An update of the executing thread's record alone leaves the other threads and memory. -/
theorem State.SameThreads.othersKept (h : s.SameThreads u) (hm : u.mem = s.mem) (ho : u.OnlyThread t) : s.OthersKept t := by
  obtain ⟨-, hk, hb⟩ := ho
  refine ⟨fun k hc => (hk k (h.2 ▸ hc)).trans (h.thread k), fun a => (hb a).trans ?_⟩
  rw [State.memByte, State.memByte, hm]

/-- What completed after `u` completed after `s`. -/
theorem State.SameThreads.completed (h : s.SameThreads u) {mk : Bool} {d : Reg} {v : Word} {fl : Flags} {ps : List Pend}
    (hc : Completes u mk d v fl ps (.next t)) : u.OnlyThread t ∧ Completed s t mk d v fl ps := by
  obtain ⟨_, ⟨⟩, ho, hw⟩ := hc
  simp only [Completed, h.thr] at hw
  exact ⟨ho, hw⟩

theorem State.SameThreads.updCell (h : s.SameThreads u) (f : Cell → Cell) : s.SameThreads (u.updCell f) := h
theorem State.sameThreads_setBar (s : State) (id : Nat) (b : NBar) : s.SameThreads (s.setBar id b) := ⟨rfl, rfl⟩

/-- What an update of the thread's record alone leaves of the rest. -/
theorem State.OnlyThread.rest (h : s.OnlyThread t) : t.cells = s.cells ∧ t.gbars = s.gbars ∧ t.flits = s.flits := by
  rw [← h.1]
  exact ⟨rfl, rfl, rfl⟩

theorem State.OnlyThread.cell (h : s.OnlyThread t) (c : Nat) : t.cell c = s.cell c := by
  rw [State.cell, State.cell, h.rest.1]

theorem State.OnlyThread.flitsAt (h : s.OnlyThread t) (r : Nat) : t.flitsAt r = s.flitsAt r := by
  rw [State.flitsAt, State.flitsAt, h.rest.2.2]

theorem State.OnlyThread.cl (h : s.OnlyThread t) : t.cl = s.cl := by
  rw [State.cl, State.cl, h.cur, h.cell]

end

/-! ### Registers of a thread that goes on or parks -/

theorem Thread.sameRegisters_of_eq {t u : Thread} (hv : u.v = t.v) (hm : u.m = t.m) (hb : u.mb = t.mb)
    (hp : u.poison = t.poison) : t.SameRegisters u := by
  simp [Thread.SameRegisters, Thread.vreg, Thread.readM, Thread.readMb, hv, hm, hb, hp]

theorem Thread.SameRegisters.refl (t : Thread) : t.SameRegisters t := Thread.sameRegisters_of_eq rfl rfl rfl rfl

theorem Thread.sameRegisters_goOn (t : Thread) (mk : Bool) : t.SameRegisters (t.stepPc.mark mk) :=
  Thread.sameRegisters_of_eq (by simp) (by simp) (by simp) (by simp)

theorem Thread.goOn_pc {t : Thread} (h : t.loop = none) (mk : Bool) : (t.stepPc.mark mk).pc = t.pc + 4 := by
  rw [Thread.mark_pc, Thread.stepPc_noLoop h]

/-- An instruction without a destination leaves the registers. -/
theorem Thread.Went.sameRegisters {t u : Thread} {mk : Bool} {v : Word} {fl : Flags} {ps : List Pend}
    (h : t.Went u mk 31 v fl ps) : t.SameRegisters u := by
  obtain ⟨⟨-, -, hv, -, hp⟩, -, -, -, hrest⟩ := h
  refine ⟨fun i => hv i (.inr rfl), fun i => ?_, fun i => ?_, fun k => hp k (.inr rfl)⟩ <;>
  · rw [← hrest]
    rfl

/-- All registers of the module are as before when the executing thread's are. -/
theorem State.SameThreads.sameRegisters {s t u : State} (h : s.SameThreads u) (ho : u.OnlyThread t)
    (ht : s.thr.SameRegisters t.thr) (k : Nat) : (s.thread k).SameRegisters (t.thread k) := by
  by_cases hk : k = s.cur
  · rw [State.thr, State.thr, ho.cur, h.2] at ht
    rwa [hk]
  · rw [ho.2.1 k (h.2 ▸ hk), h.thread]
    exact .refl _

/-- A wait that changes nothing but the thread's park state. -/
theorem parks_parkAs (s : State) (p : Park) : s.OnlyThread (s.parkAs p) ∧ s.thr.SameRegisters (s.parkAs p).thr ∧
    (s.parkAs p).thr.pc = s.thr.pc ∧ (s.parkAs p).thr.park = p := by
  have ht : (s.parkAs p).thr = { s.thr with park := p } := s.thr_upd _
  rw [ht]
  exact ⟨s.onlyThread_upd _, .refl _, rfl, rfl⟩

/-- The executing thread parks, with its record changed by `f` before. -/
theorem State.SameThreads.parks {s u : State} (h : s.SameThreads u) {f : Thread → Thread}
    (hf : s.thr.SameRegisters (f s.thr)) (hpc : (f s.thr).pc = s.thr.pc) (p : Park) :
    u.OnlyThread ((u.upd f).parkAs p) ∧ s.thr.SameRegisters ((u.upd f).parkAs p).thr ∧
      ((u.upd f).parkAs p).thr.pc = s.thr.pc ∧ ((u.upd f).parkAs p).thr.park = p ∧
      ((u.upd f).parkAs p).thr.tokens = (f s.thr).tokens := by
  have ht : ((u.upd f).parkAs p).thr = { f s.thr with park := p } := by simp [State.parkAs, h.thr]
  rw [ht]
  exact ⟨(u.onlyThread_upd f).trans (State.onlyThread_upd _ _), hf, hpc, rfl, rfl⟩

/-! ### Releases and acquires (R145)

The drain of a release moves bytes and packets only: it leaves the threads and the gang barriers. -/

/-- `t` has the threads and the gang barriers of `s`. -/
def State.DrainFrame (s t : State) : Prop := s.SameThreads t ∧ t.gbars = s.gbars

section
variable {t u : State}

theorem State.DrainFrame.refl (s : State) : s.DrainFrame s := ⟨.refl s, rfl⟩

theorem State.DrainFrame.trans {s : State} (h : s.DrainFrame t) (h' : t.DrainFrame u) : s.DrainFrame u :=
  ⟨h.1.trans h'.1, h'.2.trans h.2⟩

theorem State.DrainFrame.foldl {α : Type} {f : State → α → State} (hf : ∀ (s : State) a, s.DrainFrame (f s a)) :
    ∀ (l : List α) (s : State), s.DrainFrame (l.foldl f s)
  | [], s => .refl s
  | a :: l, s => (hf s a).trans (State.DrainFrame.foldl hf l _)

variable (s : State)

theorem State.drainFrame_sendPkt (p : Pkt) : s.DrainFrame (s.sendPkt p) := by
  unfold State.sendPkt
  dsimp only
  split <;> exact ⟨⟨rfl, rfl⟩, rfl⟩

theorem State.drainFrame_sendCoh (op : CohOp) (line comb req : Nat) (pois : Bool) :
    s.DrainFrame (s.sendCoh op line comb req pois) := s.drainFrame_sendPkt _

theorem State.drainFrame_sendNc (comb : Nat) (op : CohOp) (line : Nat) (pois : Bool) (o : NcOp) :
    s.DrainFrame (s.sendNc comb op line pois o) :=
  State.drainFrame_sendPkt { s with nextTag := s.nextTag + 1 } _

theorem State.drainFrame_setSlice (comb line : Nat) (l : SliceLine) : s.DrainFrame (s.setSlice comb line l) :=
  ⟨⟨rfl, rfl⟩, rfl⟩

/-- A slice line takes a state, and the slice tells the home. -/
theorem State.drainFrame_setSlice_sendCoh (comb line : Nat) (l : SliceLine) (op : CohOp) (req : Nat) (pois : Bool) :
    s.DrainFrame ((s.setSlice comb line l).sendCoh op line comb req pois) :=
  (s.drainFrame_setSlice comb line l).trans (State.drainFrame_sendCoh ..)

theorem State.drainFrame_evictSlice (comb line : Nat) : s.DrainFrame (s.evictSlice comb line) := by
  unfold State.evictSlice
  dsimp only
  split
  · exact s.drainFrame_setSlice ..
  · exact s.drainFrame_setSlice ..
  · exact s.drainFrame_setSlice_sendCoh ..
  · exact s.drainFrame_setSlice_sendCoh ..
  · exact .refl s

theorem State.drainFrame_sliceRoom (comb line : Nat) : s.DrainFrame (s.sliceRoom comb line).1 := by
  unfold State.sliceRoom
  dsimp only
  split
  · exact .refl s
  · split
    · exact s.drainFrame_evictSlice ..
    · exact .refl s

theorem State.drainFrame_allocLine (comb line : Nat) (op : CohOp) (st : Moesi) : s.DrainFrame (s.allocLine comb line op st) := by
  unfold State.allocLine
  dsimp only
  split
  · exact .refl s
  · split
    · exact (s.drainFrame_sliceRoom comb line).trans (State.drainFrame_setSlice_sendCoh ..)
    · exact s.drainFrame_sliceRoom comb line

theorem State.drainFrame_localWrite (comb line : Nat) : s.DrainFrame (s.localWrite comb line) := by
  have upgrade (st : Moesi) : s.DrainFrame (if s.mayAsk comb then
      (s.setSlice comb line { s.slice comb line with st := st }).sendCoh .upg line comb comb false else s) := by
    split
    · exact s.drainFrame_setSlice_sendCoh ..
    · exact .refl s
  unfold State.localWrite
  dsimp only
  split
  · exact s.drainFrame_allocLine ..
  · exact upgrade _
  · exact upgrade _
  · exact s.drainFrame_setSlice ..
  · exact .refl s

theorem State.drainFrame_accept (a : Accepted) : s.DrainFrame (s.accept a) := by
  unfold State.accept
  split
  · exact ⟨⟨rfl, rfl⟩, rfl⟩
  · exact State.drainFrame_localWrite { s with accepted := s.accepted ++ [a] } _ _

theorem State.drainFrame_hostDrain (w : Wcb) : s.DrainFrame (s.hostDrain w) := by
  unfold State.hostDrain
  dsimp only
  split
  · exact .refl s
  · refine State.DrainFrame.foldl (fun s i => ?_) _ s
    split
    · exact ⟨⟨rfl, rfl⟩, rfl⟩
    · exact .refl s

theorem State.drainFrame_drainEntry (c : Nat) (w : Wcb) : s.DrainFrame (State.drainEntry c s w) := by
  unfold State.drainEntry
  split
  · exact s.drainFrame_accept _
  · split
    · exact s.drainFrame_hostDrain w
    · exact s.drainFrame_sendNc ..

theorem State.drainFrame_drainAll (c : Nat) : s.DrainFrame (s.drainAll c) :=
  State.DrainFrame.foldl (fun s w => s.drainFrame_drainEntry c w) _ (s.updCellAt c _)

theorem State.drainFrame_relDrain (k : Nat) (p : BitVec 5) (c : Scope) : s.DrainFrame (s.relDrain k p c) := by
  unfold State.relDrain
  split
  · exact s.drainFrame_drainAll _
  · exact .refl s

end

theorem State.DrainFrame.gbar {s u : State} (h : s.DrainFrame u) (g id : Nat) : u.gbar g id = s.gbar g id := by
  rw [State.gbar, State.gbar, h.2]

/-- A release that has nothing to wait for drains, and the instruction goes on. -/
theorem State.released_ready {s : State} {p : BitVec 5} {c : Scope} (h : s.Released p c) (f : State → State) :
    s.released p c f = f (s.relDrain s.cur p c) := by
  simp [State.released, h.1, h.2]

/-- At cell scope a release drains nothing. -/
@[simp] theorem State.relDrain_cell (s : State) (k : Nat) (p : BitVec 5) : s.relDrain k p .cell = s := by
  simp [State.relDrain]

/-- At cell scope an acquire invalidates nothing. -/
@[simp] theorem State.acquire_cell (s : State) (k : Nat) (p : BitVec 5) : s.acquire k p .cell = s := by
  simp [State.acquire]

@[simp] theorem State.cell_updCellAt_self (s : State) (c : Nat) (f : Cell → Cell) : (s.updCellAt c f).cell c = f (s.cell c) := by
  simp [State.updCellAt, State.setCell, State.cell]

@[simp] theorem State.cl_updCell (s : State) (f : Cell → Cell) : (s.updCell f).cl = f s.cl :=
  s.cell_updCellAt_self (cellOf s.cur) f

/-- An acquire empties the L1 at most (R145): it leaves the threads, memory and the cell's barriers and counters. -/
theorem State.acquire_frame (s : State) (p : BitVec 5) (c : Scope) :
    s.SameThreads (s.acquire s.cur p c) ∧ (s.acquire s.cur p c).mem = s.mem ∧
      (s.acquire s.cur p c).cl.bars = s.cl.bars ∧ (s.acquire s.cur p c).cl.mc = s.cl.mc := by
  unfold State.acquire
  split
  · simp [State.SameThreads, State.cl, State.l1Invalidate]
  · exact ⟨.refl s, rfl, rfl, rfl⟩

/-- A result on its way, or none for index 31, and on to the next instruction. -/
theorem completes_deliver (s : State) (mk : Bool) (d : Reg) (v : Word) :
    Completes s mk 31 0 0 (if d = 31 then [] else underWay d v) (.next ((s.deliver d v false).advance mk)) := by
  unfold State.deliver
  split
  · exact completes_advance s mk
  · simpa [Thread.raise] using completes_pend s mk d v 0

/-! ### Cell barriers (R379, R380) -/

theorem State.setBar_bar (s : State) (id : Nat) (b : NBar) :
    (s.setBar id b).cl.bar id = b ∧ ∀ j, j ≠ id → (s.setBar id b).cl.bar j = s.cl.bar j := by
  simp +contextual [State.setBar, Cell.bar]

/-- The executing thread's barrier after an instruction that set it and completed. -/
theorem completed_setBar {s t : State} {id : Nat} {b : NBar} {mk : Bool} {ps : List Pend}
    (hc : Completes (s.setBar id b) mk 31 0 0 ps (.next t)) :
    s.OthersKept t ∧ Completed s t mk 31 0 0 ps ∧ t.cl.bar id = b ∧ ∀ j, j ≠ id → t.cl.bar j = s.cl.bar j := by
  have h := s.sameThreads_setBar id b
  obtain ⟨ho, hw⟩ := h.completed hc
  rw [ho.cl]
  exact ⟨h.othersKept rfl ho, hw, s.setBar_bar id b⟩

section
variable {s : State} {mk : Bool} {d a b : Reg}

theorem exec_binit_result (h : s.OperandsReady [a, b] []) (hid : (s.rs a).toNat < 512) (h0 : 0 < (s.rs b).toNat)
    (hn : (s.rs b).toNat ≤ 65535) (hg : (s.cl.bar (s.rs a).toNat).bind ≠ .gang)
    (hc : (s.cl.bar (s.rs a).toNat).bind = .cell → (s.cl.bar (s.rs a).toNat).arr = 0) :
    Answers (exec (.binit mk a b) s) fun t => s.OthersKept t ∧ Completed s t mk 31 0 0 [] ∧
      t.cl.bar (s.rs a).toNat = { s.cl.bar (s.rs a).toNat with bind := .cell, exp := (s.rs b).toNat, arr := 0, owner := s.ct } ∧
      ∀ j, j ≠ (s.rs a).toNat → t.cl.bar j = s.cl.bar j := by
  have hbind : ¬((s.cl.bar (s.rs a).toNat).bind = .gang ∨
      ((s.cl.bar (s.rs a).toNat).bind = .cell ∧ (s.cl.bar (s.rs a).toNat).arr ≠ 0)) := by tauto
  simp only [exec, execBinit, State.guarded_ready h]
  rw [if_neg (by omega), if_neg (by omega), if_neg hbind]
  exact ⟨_, rfl, completed_setBar (completes_advance _ mk)⟩

/-- An id that names a cell-bound barrier lets the operation go on. -/
theorem State.cellBar_bound (hid : (s.rs a).toNat < 512) (hb : (s.cl.bar (s.rs a).toNat).bind = .cell)
    (f : State → Nat → NBar → State) : s.cellBar a f = f s (s.rs a).toNat (s.cl.bar (s.rs a).toNat) := by
  simp [State.cellBar, hid, hb]

theorem exec_barrive_refused (h : s.OperandsReady [a] [d]) (hb : 512 ≤ (s.rs a).toNat ∨ (s.cl.bar (s.rs a).toNat).bind ≠ .cell) :
    exec (.barrive mk d a) s = .next (s.trap { code := 0x02, tval := s.rs a }) := by
  simp only [exec, execBarrive, State.guarded_ready h, State.cellBar, if_pos hb, State.badOperand]

theorem exec_barrive_result (hid : (s.rs a).toNat < 512) (hb : (s.cl.bar (s.rs a).toNat).bind = .cell)
    (h : s.OperandsReady [a] [d]) (hr : s.Released psBar .cell) :
    Answers (exec (.barrive mk d a) s) fun t => s.OthersKept t ∧
      Completed s t mk 31 0 0 (if d = 31 then [] else underWay d (BitVec.ofNat 64 (s.cl.bar (s.rs a).toNat).gen)) ∧
      t.cl.bar (s.rs a).toNat = (s.cl.bar (s.rs a).toNat).arrive ∧ ∀ j, j ≠ (s.rs a).toNat → t.cl.bar j = s.cl.bar j := by
  simp only [exec, execBarrive, State.guarded_ready h, State.cellBar_bound hid hb, State.released_ready hr, State.relDrain_cell]
  exact ⟨_, rfl, completed_setBar (completes_deliver _ mk d _)⟩

/-- BWAIT waits while the generation named is the present one. -/
theorem exec_bwait_result (hid : (s.rs a).toNat < 512) (hb : (s.cl.bar (s.rs a).toNat).bind = .cell)
    (h : s.OperandsReady [a, b] []) :
    ((s.rs b).toNat = (s.cl.bar (s.rs a).toNat).gen → Answers (exec (.bwait mk a b) s) fun t => s.OthersKept t ∧
      s.thr.SameRegisters t.thr ∧ t.thr.pc = s.thr.pc ∧ t.thr.park = .bwait (s.rs a).toNat (s.cl.bar (s.rs a).toNat).gen) ∧
    ((s.rs b).toNat ≠ (s.cl.bar (s.rs a).toNat).gen → Completes s mk 31 0 0 [] (exec (.bwait mk a b) s)) := by
  simp only [exec, execBwait, State.guarded_ready h, State.cellBar_bound hid hb, State.acquire_cell]
  constructor
  · intro hg
    rw [if_pos hg]
    obtain ⟨ho, hrest⟩ := parks_parkAs s (.bwait (s.rs a).toNat (s.cl.bar (s.rs a).toNat).gen)
    exact ⟨_, rfl, ho.2, hrest⟩
  · intro hg
    rw [if_neg hg]
    exact completes_advance s mk

theorem Thread.arrived_eq_none {t : Thread} {id : Nat} (h : ∀ w ∈ t.tokens, ¬(w.pc = t.pc ∧ w.id = id)) : t.arrived id = none :=
  List.find?_eq_none.2 fun w hw => by simpa using h w hw

theorem Thread.not_mem_useToken (t : Thread) (id : Nat) : ∀ w ∈ (t.useToken id).tokens, ¬(w.pc = t.pc ∧ w.id = id) :=
  fun _ hw => of_decide_eq_true (List.mem_filter.1 hw).2

/-- The thread uses up its arrival, acquires and goes on. -/
theorem goesOn_useToken (s : State) (mk : Bool) (id : Nat) (p : BitVec 5) (c : Scope) :
    let t := ((s.upd (·.useToken id)).acquire s.cur p c).advance mk
    s.OthersKept t ∧ s.thr.SameRegisters t.thr ∧ (s.thr.loop = none → t.thr.pc = s.thr.pc + 4) ∧ t.cl.bars = s.cl.bars ∧
      ∀ v ∈ t.thr.tokens, ¬(v.pc = s.thr.pc ∧ v.id = id) := by
  intro t
  obtain ⟨hs, hm, hbars, -⟩ := (s.upd (·.useToken id)).acquire_frame p c
  have ht : t.thr = (s.thr.useToken id).stepPc.mark mk := by
    simp only [t, State.thr_advance]
    rw [← s.upd_cur (·.useToken id), hs.thr, State.thr_upd]
  have ho : ((s.upd (·.useToken id)).acquire s.cur p c).OnlyThread t := State.onlyThread_advance _ mk
  refine ⟨?_, ?_, ?_, ?_, ?_⟩
  · have hk := hs.othersKept hm ho
    exact ⟨fun k hc => (hk.1 k hc).trans (s.thread_upd_ne _ hc), hk.2⟩
  · rw [ht]
    exact Thread.sameRegisters_goOn (s.thr.useToken id) mk
  · intro hl
    rw [ht]
    exact Thread.goOn_pc (t := s.thr.useToken id) hl mk
  · rw [ho.cl]
    exact hbars
  · rw [ht, Thread.mark_tokens, Thread.stepPc_tokens]
    exact s.thr.not_mem_useToken id

/-- An arrival changes the generation exactly when it is the last. -/
theorem NBar.arrive_gen_eq_iff {x : NBar} (_ : x.gen < 65536) : x.arrive.gen = x.gen ↔ ¬x.arr + 1 = x.exp := by
  unfold NBar.arrive
  split
  next hl =>
    have hne : (x.gen + 1) % 65536 ≠ x.gen := by omega
    simp [hl, hne]
  next hl => simp [hl]

/-- The first run of BSYNC: its arrival ends the generation, or it waits for the end. -/
theorem exec_bsync_first (hid : (s.rs a).toNat < 512) (hb : (s.cl.bar (s.rs a).toNat).bind = .cell)
    (h : s.OperandsReady [a] []) (hw : ∀ w ∈ s.thr.tokens, ¬(w.pc = s.thr.pc ∧ w.id = (s.rs a).toNat))
    (hr : s.Released psBar .cell) (hg : (s.cl.bar (s.rs a).toNat).gen < 65536) :
    let id := (s.rs a).toNat
    let x := s.cl.bar id
    let arrived (t : State) : Prop := t.cl.bar id = x.arrive ∧ ∀ j, j ≠ id → t.cl.bar j = s.cl.bar j
    (x.arr + 1 = x.exp → Answers (exec (.bsync mk a) s) fun t => s.OthersKept t ∧ Completed s t mk 31 0 0 [] ∧ arrived t) ∧
    (¬x.arr + 1 = x.exp → Answers (exec (.bsync mk a) s) fun t => s.OthersKept t ∧ s.thr.SameRegisters t.thr ∧ arrived t ∧
      t.thr.pc = s.thr.pc ∧ t.thr.park = .bwait id x.gen ∧ t.thr.tokens = s.thr.tokens ++ [⟨s.thr.pc, id, x.gen⟩]) := by
  simp only [exec, execBsync, State.guarded_ready h, State.cellBar_bound hid hb, Thread.arrived_eq_none hw,
    State.released_ready hr, State.relDrain_cell, State.acquire_cell, NBar.arrive_gen_eq_iff hg]
  constructor
  · intro hl
    rw [if_neg (not_not.2 hl)]
    exact ⟨_, rfl, completed_setBar (completes_advance _ mk)⟩
  · intro hl
    rw [if_pos hl]
    have hs := s.sameThreads_setBar (s.rs a).toNat (s.cl.bar (s.rs a).toNat).arrive
    obtain ⟨ho, hregs, hpc, hpark, htok⟩ := hs.parks
      (f := fun th => { th with tokens := th.tokens ++ [⟨th.pc, (s.rs a).toNat, (s.cl.bar (s.rs a).toNat).gen⟩] })
      (.refl _) rfl (.bwait (s.rs a).toNat (s.cl.bar (s.rs a).toNat).gen)
    exact ⟨_, rfl, hs.othersKept rfl ho, hregs, ho.cl ▸ s.setBar_bar _ _, hpc, hpark, htok⟩

/-- BSYNC run again after its generation has ended. -/
theorem exec_bsync_again (hid : (s.rs a).toNat < 512) (hb : (s.cl.bar (s.rs a).toNat).bind = .cell)
    (h : s.OperandsReady [a] []) {w : WaitToken} (hw : s.thr.arrived (s.rs a).toNat = some w)
    (hg : (s.cl.bar (s.rs a).toNat).gen ≠ w.gen) :
    Answers (exec (.bsync mk a) s) fun t => s.OthersKept t ∧ s.thr.SameRegisters t.thr ∧
      (s.thr.loop = none → t.thr.pc = s.thr.pc + 4) ∧ t.cl.bar (s.rs a).toNat = s.cl.bar (s.rs a).toNat ∧
      ∀ v ∈ t.thr.tokens, ¬(v.pc = s.thr.pc ∧ v.id = (s.rs a).toNat) := by
  simp only [exec, execBsync, State.guarded_ready h, State.cellBar_bound hid hb, hw, if_neg hg]
  obtain ⟨ho, hregs, hpc, hbars, htok⟩ := goesOn_useToken s mk (s.rs a).toNat psBar .cell
  exact ⟨_, rfl, ho, hregs, hpc, by rw [Cell.bar, hbars, Cell.bar], htok⟩

/-! ### Gang barriers (R82, R384) -/

/-- A member's operation on a bound id goes on with the barrier that its cell holds. -/
theorem State.gangBar_bound {g : Gang} (hg : s.gangOf s.cur = some g) (hid : (s.rs a).toNat < 512)
    (hb : (s.cl.bar (s.rs a).toNat).bind = .gang) (f : State → Nat → NBar → Gang → State) :
    s.gangBar a f = f s (s.rs a).toNat (s.cl.bar (s.rs a).toNat) g := by
  obtain ⟨k, hk⟩ : ∃ k, s.thr.gang = some k := by
    unfold State.gangOf at hg
    split at hg
    · exact ⟨_, ‹_›⟩
    · cases hg
  simp [State.gangBar, hk, hg, hid, hb]

/-- In `t`, the executing thread of `s` has arrived at gang barrier `id`: its comb's router holds one arrival more of the
generation that arrivals count for (R82, R147). The class of the arrival is the thread's (log 128). -/
def State.Counted (s t : State) (id : Nat) (rejoin : Bool) : Prop :=
  let x := s.cl.bar id
  let y := s.gbar x.gid id
  let c := genAt y.genNow (combOf s.cc)
  let z := t.gbar x.gid id
  z.exp = y.exp ∧ z.gen = y.gen ∧ z.came = y.came ++ [s.thr.rank] ∧ z.down = y.down ∧
    Sparse.getD z.below c 0 = Sparse.getD y.below c 0 + 1 ∧
    (∀ k, k ≠ c → Sparse.getD z.below k 0 = Sparse.getD y.below k 0) ∧ z.tc = bits (s.thr.csrGet csrNETCTL) 2 2 ∧
    (rejoin = false → z.joins = y.joins) ∧
    (rejoin = true → Sparse.find? s.thr.rank z.joins = some (y.genNow * 2 ^ 64 + s.thr.pc.toNat))

theorem State.counted_gangArrive {s u : State} (h : s.DrainFrame u) (id : Nat) (rejoin : Bool) :
    s.Counted (u.gangArrive id (s.cl.bar id) rejoin) id rejoin := by
  simp only [State.Counted, State.gangArrive, State.setGbar, State.gbar, h.2, h.1.thr, h.1.cc, Sparse.getD_set_self]
  refine ⟨trivial, trivial, trivial, trivial, trivial, fun k hk => Sparse.getD_set_ne hk _ _ _, trivial, ?_, ?_⟩ <;>
  · rintro rfl
    simp

theorem State.Counted.congr {s t t' : State} {id : Nat} {rejoin : Bool} (h : s.Counted t id rejoin)
    (ht : t'.gbars = t.gbars) : s.Counted t' id rejoin := by
  simpa only [State.Counted, State.gbar, ht] using h

theorem exec_garrive_result {g : Gang} (hg : s.gangOf s.cur = some g) (hid : (s.rs a).toNat < 512)
    (hb : (s.cl.bar (s.rs a).toNat).bind = .gang) (h : s.OperandsReady [a] [d])
    (hr : s.Released psBar (levelScope g.desc.level)) :
    Answers (exec (.garrive mk d a) s) fun t => (∀ k, (s.thread k).SameRegisters (t.thread k)) ∧
      (s.thr.loop = none → t.thr.pc = s.thr.pc + 4) ∧ s.Counted t (s.rs a).toNat false ∧
      t.thr.pend = s.thr.pend ++ if d = 31 then [] else
        underWay d (BitVec.ofNat 64 (s.gbar (s.cl.bar (s.rs a).toNat).gid (s.rs a).toNat).genNow) := by
  have hu := s.drainFrame_relDrain s.cur psBar (levelScope g.desc.level)
  have hs : s.SameThreads (State.gangArrive _ (s.rs a).toNat (s.cl.bar (s.rs a).toNat) false) := hu.1
  obtain ⟨ho, hw, hpc⟩ := hs.completed (completes_deliver _ mk d _)
  simp only [exec, execGarrive, State.guarded_ready h, State.gangBar_bound hg hid hb, State.released_ready hr]
  rw [← hu.gbar]
  exact ⟨_, rfl, hs.sameRegisters ho hw.sameRegisters, hpc, (State.counted_gangArrive hu _ _).congr ho.rest.2.1, hw.2.2.1⟩

theorem exec_gwaitb_result {g : Gang} (hg : s.gangOf s.cur = some g) (hid : (s.rs a).toNat < 512)
    (hb : (s.cl.bar (s.rs a).toNat).bind = .gang) (h : s.OperandsReady [a, b] []) :
    let n := (s.rs b).toNat
    (s.gangPassed (s.rs a).toNat (s.cl.bar (s.rs a).toNat) n = true → Answers (exec (.gwaitb mk a b) s) fun t =>
      s.OthersKept t ∧ Completed s t mk 31 0 0 []) ∧
    (s.gangPassed (s.rs a).toNat (s.cl.bar (s.rs a).toNat) n = false → Answers (exec (.gwaitb mk a b) s) fun t =>
      s.OnlyThread t ∧ s.thr.SameRegisters t.thr ∧ t.thr.pc = s.thr.pc ∧ t.thr.park = .gwait (s.rs a).toNat n) := by
  simp only [exec, execGwaitb, State.guarded_ready h, State.gangBar_bound hg hid hb]
  constructor
  · intro hp
    rw [if_pos hp]
    obtain ⟨hs, hm, -⟩ := s.acquire_frame psBar (levelScope g.desc.level)
    obtain ⟨ho, hw⟩ := hs.completed (completes_advance _ mk)
    exact ⟨_, rfl, hs.othersKept hm ho, hw⟩
  · intro hp
    rw [if_neg (Bool.eq_false_iff.1 hp)]
    exact ⟨_, rfl, parks_parkAs s _⟩

/-- The first run of GBAR or GBARJ: one arrival is counted, and the thread waits for its generation. -/
theorem exec_gangSync_first {g : Gang} {i : Instr} {rejoin : Bool} (he : exec i s = .next (s.gangSync mk rejoin a))
    (hg : s.gangOf s.cur = some g) (hid : (s.rs a).toNat < 512) (hb : (s.cl.bar (s.rs a).toNat).bind = .gang)
    (h : s.OperandsReady [a] []) (hw : s.thr.arrived (s.rs a).toNat = none) (hr : s.Released psBar (levelScope g.desc.level)) :
    let now := (s.gbar (s.cl.bar (s.rs a).toNat).gid (s.rs a).toNat).genNow
    Answers (exec i s) fun t => (∀ k, (s.thread k).SameRegisters (t.thread k)) ∧ s.Counted t (s.rs a).toNat rejoin ∧
      t.thr.pc = s.thr.pc ∧ t.thr.park = .gwait (s.rs a).toNat now ∧
      t.thr.tokens = s.thr.tokens ++ [⟨s.thr.pc, (s.rs a).toNat, now⟩] := by
  intro now
  have hu := s.drainFrame_relDrain s.cur psBar (levelScope g.desc.level)
  simp only [he, State.gangSync, State.guarded_ready h, State.gangBar_bound hg hid hb, hw, State.released_ready hr, hu.gbar]
  have hs : s.SameThreads (State.gangArrive _ (s.rs a).toNat (s.cl.bar (s.rs a).toNat) rejoin) := hu.1
  obtain ⟨ho, hregs, hpc, hpark, htok⟩ := hs.parks
    (f := fun th => { th with tokens := th.tokens ++ [⟨th.pc, (s.rs a).toNat, now⟩] }) (.refl _) rfl (.gwait (s.rs a).toNat now)
  exact ⟨_, rfl, hs.sameRegisters ho hregs, (State.counted_gangArrive hu _ _).congr ho.rest.2.1, hpc, hpark, htok⟩

/-- GBAR or GBARJ run again after the completion of its generation has reached the cell. -/
theorem exec_gangSync_again {g : Gang} {i : Instr} {rejoin : Bool} (he : exec i s = .next (s.gangSync mk rejoin a))
    (hg : s.gangOf s.cur = some g) (hid : (s.rs a).toNat < 512) (hb : (s.cl.bar (s.rs a).toNat).bind = .gang)
    (h : s.OperandsReady [a] []) {w : WaitToken} (hw : s.thr.arrived (s.rs a).toNat = some w)
    (hp : s.gangPassed (s.rs a).toNat (s.cl.bar (s.rs a).toNat) w.gen = true) :
    Answers (exec i s) fun t => s.OthersKept t ∧ s.thr.SameRegisters t.thr ∧ (s.thr.loop = none → t.thr.pc = s.thr.pc + 4) ∧
      ∀ v ∈ t.thr.tokens, ¬(v.pc = s.thr.pc ∧ v.id = (s.rs a).toNat) := by
  simp only [he, State.gangSync, State.guarded_ready h, State.gangBar_bound hg hid hb, hw, if_pos hp]
  obtain ⟨ho, hregs, hpc, -, htok⟩ := goesOn_useToken s mk (s.rs a).toNat psBar (levelScope g.desc.level)
  exact ⟨_, rfl, ho, hregs, hpc, htok⟩

/-! ### Mailboxes and messages (R381 to R383) -/

/-- A change of the cell that leaves its counters. -/
theorem State.mcAt_updCell (s : State) {f : Cell → Cell} (hf : (f s.cl).mc = s.cl.mc) (j : Nat) :
    (s.updCell f).mcAt s.cc j = s.mcAt s.cc j := by
  have hc : (s.updCell f).cell s.cc = f s.cl := s.cl_updCell f
  rw [State.mcAt, hc, hf]
  rfl

/-- MWAIT takes its count in `u`, which has the threads, memory and counters of `s`. -/
theorem mwait_takes {u : State} (hs : s.SameThreads u) (hm : u.mem = s.mem) (hmc : u.cl.mc = s.cl.mc) (mk : Bool) (d : Reg)
    (mc v : Nat) (w : Word) (c : Scope) :
    let u1 := u.updCell fun c => { c with mc := Sparse.set mc v c.mc }
    let t := ((u1.acquire u1.cur psAll c).ws d w).advance mk
    s.OthersKept t ∧ s.thr.Wrote t.thr d w ∧ (s.thr.loop = none → t.thr.pc = s.thr.pc + 4) ∧
      t.mcAt s.cc mc = v ∧ ∀ j, j ≠ mc → t.mcAt s.cc j = s.mcAt s.cc j := by
  intro u1 t
  obtain ⟨ha, ham, -, hamc⟩ := u1.acquire_frame psAll c
  have hs1 : s.SameThreads u1 := hs
  have hs2 := hs1.trans ha
  obtain ⟨ho, ⟨hw, -⟩, hpc⟩ := hs2.completed (completes_ws _ mk d w)
  have hmc' : (t.cell s.cc).mc = Sparse.set mc v s.cl.mc := by
    rw [ho.cell, ← hs2.cc]
    exact hamc.trans (by simp [u1, hmc])
  refine ⟨hs2.othersKept (ham.trans hm) ho, hw, hpc, ?_, fun j hj => ?_⟩
  · rw [State.mcAt, hmc', Sparse.getD_set_self]
  · rw [State.mcAt, hmc', Sparse.getD_set_ne hj]
    rfl

theorem bits_32_32_eq_zero {w : Word} (h : w.toNat < 2 ^ 32) : bits w 32 32 = 0 := by
  rw [bits, Nat.div_eq_of_lt h, Nat.zero_mod]

theorem exec_mwait_result {m : BitVec 6} (h : s.OperandsReady [a] [d]) (hn : (s.rs a).toNat < 2 ^ 32) :
    let need := (s.rs a).toNat
    let v := s.mcAt s.cc m.toNat
    let waiting := Sparse.getD s.cl.waiters m.toNat []
    ((need = 0 ∨ (waiting = [] ∧ need ≤ v)) → Answers (exec (.mwait mk d a m) s) fun t =>
      s.OthersKept t ∧ s.thr.Wrote t.thr d (BitVec.ofNat 64 v) ∧ (s.thr.loop = none → t.thr.pc = s.thr.pc + 4) ∧
        t.mcAt s.cc m.toNat = v - need ∧ ∀ j, j ≠ m.toNat → t.mcAt s.cc j = s.mcAt s.cc j) ∧
    (0 < need → waiting = [] → v < need → Answers (exec (.mwait mk d a m) s) fun t => s.OthersKept t ∧
      s.thr.SameRegisters t.thr ∧ t.thr.pc = s.thr.pc ∧ t.thr.park = .mwait m.toNat need ∧
      Sparse.getD t.cl.waiters m.toNat [] = [s.ct] ∧ t.mcAt s.cc m.toNat = v) := by
  intro need v waiting
  simp only [exec, execMwait, State.guarded_ready h]
  rw [if_neg (not_not.2 (bits_32_32_eq_zero hn))]
  by_cases h0 : need = 0
  · rw [if_pos h0]
    exact ⟨fun _ => ⟨_, rfl, mwait_takes (.refl s) rfl rfl mk d _ _ _ _⟩, fun hp => absurd h0 hp.ne'⟩
  rw [if_neg h0]
  constructor
  · rintro (hz | ⟨hq, hv⟩)
    · exact absurd hz h0
    have hq : Sparse.getD s.cl.waiters m.toNat [] = [] := hq
    have hfirst : [s.ct].head? = some s.ct ∧ (s.rs a).toNat ≤ s.mcAt s.cc m.toNat := ⟨rfl, hv⟩
    simp only [hq, List.elem_nil, Bool.false_eq_true, if_false, List.nil_append, if_pos hfirst]
    exact ⟨_, rfl, mwait_takes ((State.SameThreads.refl s).updCell _) rfl (by simp) mk d _ _ _ _⟩
  · intro _ hq hv
    have hq : Sparse.getD s.cl.waiters m.toNat [] = [] := hq
    have hlast : ¬([s.ct].head? = some s.ct ∧ (s.rs a).toNat ≤ s.mcAt s.cc m.toNat) := fun hp => absurd hp.2 (by omega)
    simp only [hq, List.elem_nil, Bool.false_eq_true, if_false, List.nil_append, if_neg hlast]
    obtain ⟨ho, hregs, hpc, hpark⟩ := parks_parkAs
      (s.updCell fun c => { c with waiters := Sparse.set m.toNat [s.ct] c.waiters }) (.mwait m.toNat (s.rs a).toNat)
    have hs : s.SameThreads (s.updCell fun c => { c with waiters := Sparse.set m.toNat [s.ct] c.waiters }) := ⟨rfl, rfl⟩
    rw [hs.thr] at hregs hpc
    refine ⟨_, rfl, hs.othersKept rfl ho, hregs, hpc, hpark, ?_, ?_⟩
    · rw [ho.cl, State.cl_updCell, Sparse.getD_set_self]
    · rw [State.mcAt, ho.cell]
      exact s.mcAt_updCell rfl m.toNat

theorem State.getLast?_flitsAt_inject (s : State) (r src dst ep tc : Nat) (l : Load) :
    ((s.inject r src dst ep tc l).flitsAt r).getLast? =
      some { Flit.of r src src tc dst ep l with uid := s.nextFlit, since := s.cycle } := by
  simp [State.inject, State.newFlit, State.stamp, State.addFlit, State.flitsAt]

theorem exec_msend_result {g : Gang} {dest : Nat} (h : s.OperandsReady [a, b] []) (hg : s.gangOf s.cur = some g)
    (hd : g.slots.getD (bits (s.rs b) 0 19) 0 = dest) (hr : s.Released (psLS ||| psMS) (scopeOf s.cc (cellOf dest)))
    (hz : bits (s.rs b) 28 36 = 0) (hn : bits (s.rs b) 0 19 < g.desc.n * g.desc.k) :
    Answers (exec (.msend mk a b) s) fun t => (∀ k, (s.thread k).SameRegisters (t.thread k)) ∧
      (s.thr.loop = none → t.thr.pc = s.thr.pc + 4) ∧ ∃ l : Flit, (t.flitsAt (combOf s.cc)).getLast? = some l ∧
        l.dst = combOf (cellOf dest) ∧ l.ep = physOf (cellOf dest) ∧ l.tc = bits (s.thr.csrGet csrNETCTL) 2 2 ∧
        l.load = .msg ⟨s.cur, dest, s.rs a, bits (s.rs b) 19 2, bits (s.rs b) 21 6, (s.rs b).getLsbD 27⟩ := by
  have hok : ¬(bits (s.rs b) 28 36 ≠ 0 ∨ g.desc.n * g.desc.k ≤ bits (s.rs b) 0 19) := by omega
  have hu := (s.drainFrame_relDrain s.cur (psLS ||| psMS) (scopeOf s.cc (cellOf dest))).1
  simp only [exec, execMsend, State.guarded_ready h, hg, if_neg hok, hd, State.released_ready hr, hu.cc, hu.thr, hu.rs, hu.2]
  have hs : s.SameThreads (State.inject _ (combOf s.cc) (physOf s.cc) (combOf (cellOf dest)) (physOf (cellOf dest))
      (bits (s.thr.csrGet csrNETCTL) 2 2)
      (.msg ⟨s.cur, dest, s.rs a, bits (s.rs b) 19 2, bits (s.rs b) 21 6, (s.rs b).getLsbD 27⟩)) := hu
  obtain ⟨ho, hw, hpc⟩ := hs.completed (completes_advance _ mk)
  exact ⟨_, rfl, hs.sameRegisters ho hw.sameRegisters, hpc, _,
    (congrArg List.getLast? (ho.flitsAt _)).trans (State.getLast?_flitsAt_inject ..), rfl, rfl, rfl, rfl⟩

theorem exec_mrd_result (q : BitVec 2) (h : s.OperandsReady [] [d]) :
    Completes s mk d (s.thr.readMb q.toNat) 0 [] (exec (.mrd mk d q) s) := by
  simp only [exec, execMrd, State.guarded_ready h]
  exact completes_ws s mk d _

theorem exec_mwr_result (q : BitVec 2) (h : s.OperandsReady [a] []) :
    Answers (exec (.mwr mk a q) s) fun t => s.OnlyThread t ∧ (s.thr.loop = none → t.thr.pc = s.thr.pc + 4) ∧
      t.thr.readMb q.toNat = s.rs a ∧ (∀ j, j ≠ q.toNat → t.thr.readMb j = s.thr.readMb j) ∧
      (∀ i, t.thr.vreg i = s.thr.vreg i) ∧ ∀ i, t.thr.readM i = s.thr.readM i := by
  simp only [exec, execMwr, State.guarded_ready h]
  refine ⟨_, rfl, (s.onlyThread_upd _).trans (State.onlyThread_advance _ mk), fun hl => ?_, ?_, fun j hj => ?_, fun i => ?_, fun i => ?_⟩
  · rw [State.thr_advance, State.thr_upd]
    refine Thread.goOn_pc ?_ mk
    exact hl
  · simp [Thread.readMb, State.rs]
  · simp [Thread.readMb, hj]
  · simp [Thread.vreg]
  · simp [Thread.readM]

theorem exec_yield_result (h : s.OperandsReady [a] []) :
    (s.rs a = 0 → Completes s mk 31 0 0 [] (exec (.yield mk a) s)) ∧
    (s.rs a ≠ 0 → bits (s.rs a) 16 48 = 0 → Answers (exec (.yield mk a) s) fun t => s.OthersKept t ∧
      s.thr.SameRegisters t.thr ∧ t.thr.pc = s.thr.pc ∧ t.thr.park = .yield (s.cycle + (s.rs a).toNat) mk) ∧
    (bits (s.rs a) 16 48 ≠ 0 → exec (.yield mk a) s = .next (s.trap { code := 0x02, tval := s.rs a })) := by
  simp only [exec, execYield, State.guarded_ready h]
  refine ⟨fun h0 => ?_, fun h0 hb => ?_, fun hb => ?_⟩
  · have hb : bits (s.rs a) 16 48 = 0 := by rw [h0]; rfl
    rw [if_neg (not_not.2 hb), if_pos h0]
    exact completes_advance s mk
  · rw [if_neg (not_not.2 hb), if_neg h0]
    obtain ⟨ho, hrest⟩ := parks_parkAs s (.yield (s.cycle + (s.rs a).toNat) mk)
    exact ⟨_, rfl, ho.2, hrest⟩
  · rw [if_pos hb, State.badOperand]

/-! ### GINFO (R386) -/

/-- The fields 0, 0 and 4 behind d in GINFO's word are the fourteen bits 4 of its encoding. -/
theorem wordA_ginfo (mk : Bool) (d : Reg) (m : BitVec 6) : wordA mk 0x35 d 0 0 (4#4 ++ m) = encode (.ginfo mk d m) := by
  have hz (x : BitVec 12) : x ++ 0#5 ++ 0#5 ++ 4#4 = x ++ 0x4#14 := BitVec.append_assoc.trans BitVec.append_assoc
  have hs : BitVec.ofBool mk ++ 0x35#6 ++ d ++ 0#5 ++ 0#5 ++ (4#4 ++ m) =
      BitVec.ofBool mk ++ 0x35#6 ++ d ++ 0#5 ++ 0#5 ++ 4#4 ++ m := BitVec.append_assoc'
  exact hs.trans (congrArg (· ++ m) (hz _))

theorem exec_ginfo_illegal {m : BitVec 6} (hm : 10 ≤ m.toNat) :
    exec (.ginfo mk d m) s = .next (s.illegal (encode (.ginfo mk d m))) := by
  simp only [exec, execGinfo, if_pos hm, wordA_ginfo]

/-- What GINFO tells the member of rank `r` (R386). -/
def Gang.info (g : Gang) (r : Nat) (m : BitVec 6) : Nat :=
  if m = 0 then r
  else if m = 1 then g.desc.n * g.desc.k
  else if m = 2 then g.desc.n
  else if m = 3 then g.desc.k
  else if m = 4 then g.desc.level
  else if m = 5 then r / g.desc.k
  else if m = 6 then g.w * 65536 + g.h
  else if m = 7 then (if g.desc.level ≤ 2 then 0 else r / g.desc.k / 16)
  else if m = 8 then g.desc.ctx
  else if g.desc.fwd then 1 else 0

/-- GINFO outside a gang and in one. -/
theorem exec_ginfo_result {m : BitVec 6} (hm : m.toNat < 10) (h : s.OperandsReady [] [d]) :
    (s.gangOf s.cur = none → Completes s mk d (BitVec.ofNat 64 0) 0 [] (exec (.ginfo mk d m) s)) ∧
    ∀ g, s.gangOf s.cur = some g →
      Completes s mk d (BitVec.ofNat 64 (g.info s.thr.rank m)) 0 [] (exec (.ginfo mk d m) s) := by
  simp only [exec, execGinfo, if_neg (Nat.not_le.2 hm), State.guarded_ready h]
  constructor
  · intro hg
    rw [hg]
    exact completes_ws s mk d _
  · intro g hg
    rw [hg]
    exact completes_ws s mk d _

end

/-- Settles O45: each instruction has its lemma above; the first part is about a cell's barriers, messages, YIELD and
GINFO, the second about a gang's barriers. -/
theorem barriersAndMessages : Obligations.BarriersAndMessages := by
  constructor
  · intro s mk d a b m q
    refine ⟨exec_binit_result, exec_barrive_refused, fun hid hb => ⟨exec_barrive_result hid hb, exec_bwait_result hid hb,
        exec_bsync_first hid hb, fun h w => exec_bsync_again hid hb h⟩,
      exec_mwait_result, fun g h hg => exec_msend_result h hg rfl, exec_mrd_result q, exec_mwr_result q, exec_yield_result,
      exec_ginfo_illegal, fun hm h => ⟨(exec_ginfo_result hm h).1, fun g hg => ?_⟩⟩
    have gives := (exec_ginfo_result (mk := mk) hm h).2 g hg
    refine ⟨?_, ?_, ?_, ?_, ?_, ?_, ?_, ?_, ?_, ?_⟩ <;>
    · rintro rfl
      exact gives
  · intro s mk d a b g id x y now c goesOn hg hid hb
    refine ⟨exec_garrive_result hg hid hb, exec_gwaitb_result hg hid hb, fun h => ?_⟩
    exact List.forall_mem_cons.2 ⟨
      ⟨exec_gangSync_first rfl hg hid hb h, fun w => exec_gangSync_again rfl hg hid hb h⟩,
      List.forall_mem_singleton.2
        ⟨exec_gangSync_first rfl hg hid hb h, fun w => exec_gangSync_again rfl hg hid hb h⟩⟩

end Sys2Proof.Machine
end
